-- ==== Sys2Proof/Word.lean ====
section
/-! DEFINITION. The words the manual computes with and the one sparse container the model stores things in. -/

namespace Sys2Proof

/-- A register or memory word of 64 bits (R8's registers, R102's scalar registers). -/
abbrev Word := BitVec 64

/-- One byte. -/
abbrev Byte := BitVec 8

/-- A sparse table from numbers to values, in ONE canonical form: keys strictly rising, no entry equal
to the value an unlisted key has. -/
abbrev FMap (β : Type) := List (Nat × β)

/-- The value at a key; `d n` is what the unlisted key `n` has. -/
def FMap.get {β : Type} (d : Nat → β) : FMap β → Nat → β
  | [], n => d n
  | (k, v) :: m, n => if n = k then v else FMap.get d m n

/-- Store a value at a key, keeping the canonical form: storing what an unlisted key has removes the entry. -/
def FMap.set {β : Type} [DecidableEq β] (d : Nat → β) : FMap β → Nat → β → FMap β
  | [], n, v => if v = d n then [] else [(n, v)]
  | (k, w) :: m, n, v =>
    if n < k then (if v = d n then (k, w) :: m else (n, v) :: (k, w) :: m)
    else if n = k then (if v = d n then m else (n, v) :: m)
    else (k, w) :: FMap.set d m n v

/-- Drop every entry whose key does not satisfy `p`: those keys are unlisted afterwards. -/
def FMap.keep {β : Type} (p : Nat → Bool) : FMap β → FMap β
  | [] => []
  | (k, v) :: m => if p k then (k, v) :: FMap.keep p m else FMap.keep p m

/-- Every key is above `lo` and the keys rise, and no entry holds what its key has unlisted. -/
def FMap.wfAbove {β : Type} [DecidableEq β] (d : Nat → β) : Nat → FMap β → Bool
  | _, [] => true
  | lo, (k, v) :: m => decide (lo ≤ k) && decide (v ≠ d k) && FMap.wfAbove d (k + 1) m

/-- The canonical form. -/
def FMap.wf {β : Type} [DecidableEq β] (d : Nat → β) (m : FMap β) : Bool := FMap.wfAbove d 0 m

end Sys2Proof
end

