-- ==== Sys2Proof/Syntax.lean ====
section
/-! DEFINITION. The commands: one constructor of `Instr` per row of the table of operations and events, with the
operands the manual gives the step. A command's operands that stand for what the outside does (a packet, a
reading, a physical outcome) are named by the rule that lets them differ. -/

namespace Sys2Proof

/-- The two scalar slots of a sentence (R96). -/
inductive ScalarUnit where | a | b
  deriving DecidableEq, Repr

/-- The two vector slots of a sentence (R96). -/
inductive VecUnit where | a | b
  deriving DecidableEq, Repr

/-- The fields of a scalar slot beside OP (R102). -/
structure ScalarF where
  rd : BitVec 6
  rs1 : BitVec 6
  rs2 : BitVec 6
  pred : BitVec 3
  pneg : Bool
  immsel : Bool
  imm : BitVec 32
  deriving DecidableEq, Repr

/-- The fields of an address/move slot beside OP (R105). -/
structure AddrF where
  ad : BitVec 5
  reg : BitVec 6
  pred : BitVec 3
  pneg : Bool
  size : BitVec 2
  scope : BitVec 3
  postinc : Bool
  vol : Bool
  offset : BitVec 32
  deriving DecidableEq, Repr

/-- The fields of a vector slot beside OP (R108). -/
structure VecF where
  vd : BitVec 6
  vs1 : BitVec 6
  vs2 : BitVec 6
  vs3 : BitVec 6
  pred : BitVec 3
  pneg : Bool
  fmt : BitVec 8
  immsel : Bool
  imm : BitVec 32
  deriving DecidableEq, Repr

/-- The fields of a matrix slot beside OP (R112). -/
structure MatF where
  bank : Bool
  row : BitVec 7
  vreg : BitVec 6
  fmt : BitVec 8
  pass : BitVec 2
  rows : BitVec 7
  cols : BitVec 8
  acc : Bool
  ad : BitVec 5
  count : BitVec 8
  deriving DecidableEq, Repr

/-- The fields of a sync/branch slot beside OP (R113). -/
structure SyncF where
  pred : BitVec 3
  pneg : Bool
  rs : BitVec 6
  scope : BitVec 3
  id : BitVec 11
  imm : BitVec 32
  deriving DecidableEq, Repr

/-- A fabric packet (R364, R365): header fields, data and trailer side word. -/
structure Packet where
  typ : BitVec 8
  flags : BitVec 8
  len : BitVec 16
  src : BitVec 14
  dst : BitVec 14
  inc : BitVec 16
  job : BitVec 16
  tag : BitVec 16
  status : BitVec 4
  vl : BitVec 2
  aux : BitVec 8
  addr : BitVec 64
  tense : BitVec 32
  serial : BitVec 32
  data : List Byte
  trailer : Option (BitVec 64)
  deriving DecidableEq, Repr

/-- A release tag kept with a word (R323). -/
structure RelTag where
  chip : BitVec 14
  core : Nat
  clause : Nat
  ctxId : BitVec 16
  scope : BitVec 3
  deriving DecidableEq, Repr

/-- A packet with the release tags that come beside it, for which a header has no field (R323, R365): of the word a context's store writes, of
the words a response answers for. -/
structure Tagged where
  packet : Packet
  rels : List RelTag
  deriving DecidableEq, Repr

/-- What a read of host memory comes to (R464): 0 success, 1 a completion timeout, 2 Unsupported Request or Completer Abort, 3 poisoned
data; and the bytes on success. -/
structure HostRead where
  outcome : BitVec 2
  bytes : List Byte
  deriving DecidableEq, Repr

/-- What the device accesses of one stored block did (R286, R287): units reported by the on-die code, units whose
read CRC failed on that many successive attempts, corrections the on-die code reported, units whose write burst the device reported
as failed. -/
structure BlockFaults where
  onDie : BitVec 17
  crcFails : List (Nat × Nat)
  inner : Nat
  writeFails : List Nat
  deriving DecidableEq, Repr

/-- Where the bytes of a signed command, dictation or order come from. -/
inductive CmdSource where
  /-- the block's source and length registers (R426, R508) -/
  | registers
  /-- the management port: the bytes of the message (R534) -/
  | management (bytes : List Byte)
  /-- a host queue: queue number, CID, the payload (R468) -/
  | queue (q : Nat) (cid : BitVec 16) (bytes : List Byte)
  deriving DecidableEq, Repr

/-- Who orders a reset: the module itself (a hang, a retirement, the heartbeat monitor, a failed unit, an escalation), a write of
RST_CTRL (R450), or a RESET command of the management port (R534). -/
inductive ResetBy where
  | own
  | register
  | management
  deriving DecidableEq, Repr

/-- Who issues a register or window access (R11, R196, R225, R438). -/
inductive Agent where
  | host
  | firmware
  | management
  | peer (chip : BitVec 14)
  | core (l : Nat)
  /-- the DMA channel of a core -/
  | dma (l ch : Nat)
  deriving DecidableEq, Repr

/-- The transport of an SPDM request (R477, R521). -/
inductive Transport where | doe | mctp
  deriving DecidableEq, Repr

/-- The received symbols a flit's bits lie in (R356): one or two successive groups of 2,176 symbols, the bit offset of
the flit in the first group's data bits, and whether each group's symbols are still to be counted. -/
structure FlitRx where
  group0 : List (BitVec 10)
  group1 : List (BitVec 10)
  offset : Nat
  count0 : Bool
  count1 : Bool
  deriving DecidableEq, Repr

/-- The far end's identity record at LINK_INIT (R359, R370, R380). -/
structure Identity where
  chip : BitVec 14
  port : BitVec 4
  inc : BitVec 16
  role : BitVec 2
  isSwitch : Bool
  lastSeq : BitVec 12
  /-- SEQ of the control flit that brings it (R359) -/
  seq : BitVec 12
  deriving DecidableEq, Repr

/-- What the readings of R493 sample: input, rails, rates, temperatures. -/
structure Samples where
  vin : BitVec 16
  iin : BitVec 16
  pin : BitVec 16
  v5 : BitVec 16
  /-- per die: slowest rate in M steps/s -/
  rate : List (BitVec 16)
  /-- per field: core rail in mV -/
  rail : List (BitVec 16)
  /-- per field: highest of its nine sensors, 0.1 °C two's complement -/
  temp : List (BitVec 16)
  deriving DecidableEq, Repr

/-- The commands the manual's table lists. -/
inductive Instr where
  -- Sentences and the scalar slots
  | nop (core slot : Nat)
  | sentenceIssue (core : Nat)
  | contextSwitch (core : Nat)
  | contextDone (core : Nat)
  | add (core : Nat) (u : ScalarUnit) (f : ScalarF)
  | sub (core : Nat) (u : ScalarUnit) (f : ScalarF)
  | mul (core : Nat) (u : ScalarUnit) (f : ScalarF)
  | mulhs (core : Nat) (u : ScalarUnit) (f : ScalarF)
  | mulhu (core : Nat) (u : ScalarUnit) (f : ScalarF)
  | divs (core : Nat) (u : ScalarUnit) (f : ScalarF)
  | divu (core : Nat) (u : ScalarUnit) (f : ScalarF)
  | rems (core : Nat) (u : ScalarUnit) (f : ScalarF)
  | remu (core : Nat) (u : ScalarUnit) (f : ScalarF)
  | andOp (core : Nat) (u : ScalarUnit) (f : ScalarF)
  | orOp (core : Nat) (u : ScalarUnit) (f : ScalarF)
  | xorOp (core : Nat) (u : ScalarUnit) (f : ScalarF)
  | shl (core : Nat) (u : ScalarUnit) (f : ScalarF)
  | shr (core : Nat) (u : ScalarUnit) (f : ScalarF)
  | sar (core : Nat) (u : ScalarUnit) (f : ScalarF)
  | rotl (core : Nat) (u : ScalarUnit) (f : ScalarF)
  | mins (core : Nat) (u : ScalarUnit) (f : ScalarF)
  | maxs (core : Nat) (u : ScalarUnit) (f : ScalarF)
  | minu (core : Nat) (u : ScalarUnit) (f : ScalarF)
  | maxu (core : Nat) (u : ScalarUnit) (f : ScalarF)
  | clz (core : Nat) (u : ScalarUnit) (f : ScalarF)
  | popc (core : Nat) (u : ScalarUnit) (f : ScalarF)
  | sel (core : Nat) (u : ScalarUnit) (f : ScalarF)
  | li (core : Nat) (u : ScalarUnit) (f : ScalarF)
  | lih (core : Nat) (u : ScalarUnit) (f : ScalarF)
  | cmpeq (core : Nat) (u : ScalarUnit) (f : ScalarF)
  | cmpne (core : Nat) (u : ScalarUnit) (f : ScalarF)
  | cmplts (core : Nat) (u : ScalarUnit) (f : ScalarF)
  | cmpltu (core : Nat) (u : ScalarUnit) (f : ScalarF)
  | cmples (core : Nat) (u : ScalarUnit) (f : ScalarF)
  | cmpleu (core : Nat) (u : ScalarUnit) (f : ScalarF)
  | fadd (core : Nat) (u : ScalarUnit) (f : ScalarF)
  | fsub (core : Nat) (u : ScalarUnit) (f : ScalarF)
  | fmul (core : Nat) (u : ScalarUnit) (f : ScalarF)
  | fmin (core : Nat) (u : ScalarUnit) (f : ScalarF)
  | fmax (core : Nat) (u : ScalarUnit) (f : ScalarF)
  | fcmplt (core : Nat) (u : ScalarUnit) (f : ScalarF)
  | fcmpeq (core : Nat) (u : ScalarUnit) (f : ScalarF)
  | fcvti (core : Nat) (u : ScalarUnit) (f : ScalarF)
  | fcvtf (core : Nat) (u : ScalarUnit) (f : ScalarF)
  | rdspec (core : Nat) (u : ScalarUnit) (f : ScalarF)
  -- Address/move slots
  | ld (core : Nat) (f : AddrF)
  | lds (core : Nat) (f : AddrF)
  | st (core : Nat) (f : AddrF)
  | ldv (core : Nat) (f : AddrF)
  | stv (core : Nat) (f : AddrF)
  | ldvr (core : Nat) (f : AddrF)
  | ldvc (core : Nat) (f : AddrF)
  | lda (core : Nat) (f : AddrF)
  | sta (core : Nat) (f : AddrF)
  | aadd (core : Nat) (f : AddrF)
  | afroms (core : Nat) (f : AddrF)
  | atos (core : Nat) (f : AddrF)
  | atAdd (core : Nat) (f : AddrF)
  | atSwap (core : Nat) (f : AddrF)
  | atCas (core : Nat) (f : AddrF)
  | atMins (core : Nat) (f : AddrF)
  | atMaxs (core : Nat) (f : AddrF)
  | atMinu (core : Nat) (f : AddrF)
  | atMaxu (core : Nat) (f : AddrF)
  | dma (core : Nat) (f : AddrF)
  | dmaTransferComplete (core ch : Nat)
  -- Vector slots
  | vaddi (core : Nat) (u : VecUnit) (f : VecF)
  | vsubi (core : Nat) (u : VecUnit) (f : VecF)
  | vmuli (core : Nat) (u : VecUnit) (f : VecF)
  | vand (core : Nat) (u : VecUnit) (f : VecF)
  | vor (core : Nat) (u : VecUnit) (f : VecF)
  | vxor (core : Nat) (u : VecUnit) (f : VecF)
  | vshl (core : Nat) (u : VecUnit) (f : VecF)
  | vshr (core : Nat) (u : VecUnit) (f : VecF)
  | vsar (core : Nat) (u : VecUnit) (f : VecF)
  | vmini (core : Nat) (u : VecUnit) (f : VecF)
  | vmaxi (core : Nat) (u : VecUnit) (f : VecF)
  | vaddf (core : Nat) (u : VecUnit) (f : VecF)
  | vsubf (core : Nat) (u : VecUnit) (f : VecF)
  | vmulf (core : Nat) (u : VecUnit) (f : VecF)
  | vfma (core : Nat) (u : VecUnit) (f : VecF)
  | vminf (core : Nat) (u : VecUnit) (f : VecF)
  | vmaxf (core : Nat) (u : VecUnit) (f : VecF)
  | vcmpeqi (core : Nat) (u : VecUnit) (f : VecF)
  | vcmplti (core : Nat) (u : VecUnit) (f : VecF)
  | vcmplei (core : Nat) (u : VecUnit) (f : VecF)
  | vcmpeqf (core : Nat) (u : VecUnit) (f : VecF)
  | vcmpltf (core : Nat) (u : VecUnit) (f : VecF)
  | vcmplef (core : Nat) (u : VecUnit) (f : VecF)
  | vsel (core : Nat) (u : VecUnit) (f : VecF)
  | vbcast (core : Nat) (u : VecUnit) (f : VecF)
  | vperm (core : Nat) (u : VecUnit) (f : VecF)
  | vredaddf (core : Nat) (u : VecUnit) (f : VecF)
  | vredaddi (core : Nat) (u : VecUnit) (f : VecF)
  | vredmaxf (core : Nat) (u : VecUnit) (f : VecF)
  | vexp (core : Nat) (u : VecUnit) (f : VecF)
  | vrcp (core : Nat) (u : VecUnit) (f : VecF)
  | vrsqrt (core : Nat) (u : VecUnit) (f : VecF)
  | vlog2 (core : Nat) (u : VecUnit) (f : VecF)
  | vcvt (core : Nat) (u : VecUnit) (f : VecF)
  | vext (core : Nat) (u : VecUnit) (f : VecF)
  | vins (core : Nat) (u : VecUnit) (f : VecF)
  -- Matrix slots
  | mldr (core : Nat) (f : MatF)
  | mldsp (core : Nat) (f : MatF)
  | mswap (core : Nat) (f : MatF)
  | mstr (core : Nat) (f : MatF)
  | mstrsp (core : Nat) (f : MatF)
  | mdrn (core : Nat) (f : MatF)
  | mdrnsp (core : Nat) (f : MatF)
  | mew (core : Nat) (f : MatF)
  | joinReduce (core : Nat)
  | rampDown (core : Nat)
  -- Sync/branch slots
  | br (core : Nat) (f : SyncF)
  | bri (core : Nat) (f : SyncF)
  | call (core : Nat) (f : SyncF)
  | loopOp (core : Nat) (f : SyncF)
  | fenceRel (core : Nat) (f : SyncF)
  | fenceAcq (core : Nat) (f : SyncF)
  | fenceAr (core : Nat) (f : SyncF)
  | bar (core : Nat) (f : SyncF)
  | cjwait (core : Nat) (f : SyncF)
  | dmawait (core : Nat) (f : SyncF)
  | yieldOp (core : Nat) (f : SyncF)
  | trap (core : Nat) (f : SyncF)
  -- Proof-reading: the two output records as compared (R417), of the record at the head of the field's queue
  | proofCompare (field : Nat) (original checker : List Byte)
  | proofLate (field : Nat)
  -- Attention engine
  | attCmdWrite (core : Nat) (by' : Agent) (k : Nat) (v : Word)
  | forwardPass (core : Nat)
  | backwardPass (core : Nat)
  | attentionComplete (core : Nat)
  -- KV engine
  | kvCmdWrite (core : Nat) (by' : Agent) (k : Nat) (v : Word)
  | openSeq (cmd : BitVec 512)
  | grow (cmd : BitVec 512)
  | exclude (cmd : BitVec 512)
  | closeSeq (cmd : BitVec 512)
  | tenseOpen (j : Nat)
  /-- a spill write of a row ended with a status (R237, R464); the free slot it used was chosen at its start -/
  | spillComplete (seq row : Nat) (outcome : BitVec 2)
  /-- a fetch ended with a status, the row's bytes page by page when OK (R238) -/
  | fetchComplete (seq row : Nat) (outcome : BitVec 2) (pages : List (List Byte))
  | fetchRetry (seq row : Nat)
  | tenseRelease (j : Nat)
  -- Agreement
  | memberVote (j : Nat)
  | stepHoldTimeout (j : Nat)
  | tentativeBoundExpiry (j : Nat) (serial : BitVec 32)
  | vote (lane : Nat) (p : Packet)
  | decideMsg (lane : Nat) (p : Packet)
  | mapup (lane : Nat) (p : Packet)
  | mapdown (lane : Nat) (p : Packet)
  | arrive (lane : Nat) (p : Packet)
  | release (lane : Nat) (p : Packet)
  | joinMsg (lane : Nat) (p : Packet)
  | start (lane : Nat) (p : Packet)
  | holdMsg (lane : Nat) (p : Packet)
  | peerReset (lane : Nat) (p : Packet)
  | reformOrder (src : CmdSource)
  | standDownOrder (src : CmdSource)
  -- The Aqkai stream: the load that was started (R81); a host source's bytes are an operand
  | fullLoad (host : HostRead)
  | partialLoad (host : HostRead)
  | loadComplete
  -- Scratchpad
  | spCorrectionWriteBack (core word : Nat)
  | spPatrolVisit (core : Nat)
  /-- a requester of groups 3 to 7 (R264), named by its group, has waited that many steps -/
  | arbitrationPromotion (core group waited : Nat)
  | spInjectArm (core : Nat) (v : Word)
  -- GDDR7
  | blockRead (k block : Nat) (f : BlockFaults)
  /-- a requester's write of bytes at an offset of a block; per unit, failed write bursts reported -/
  | blockWrite (k block off : Nat) (bytes : List Byte) (f : BlockFaults)
  | gdCorrectionWriteBack (k block : Nat)
  | writeCrcReplay (k block unit : Nat) (accepted : Bool)
  | channelRetrain (k block unit : Nat) (replaysFail : Bool)
  | gdPatrolVisit (k : Nat) (f : BlockFaults)
  | gdTemperatureRead (k : Nat) (t0 t1 : Byte)
  | refresh (k : Nat)
  | remapWrite (k i : Nat) (v : Word)
  | remapCopyComplete (k i : Nat)
  | gdInjectArm (k : Nat) (v : Word)
  -- Compression
  | rangeEnable (i : Nat) (v : Word)
  | rangeReady (i : Nat)
  | rangeDisable (i : Nat) (v : Word)
  | blockDecode (k block : Nat)
  | blockEncode (k block : Nat) (bytes : List Byte)
  | tableLoad (v : Word)
  | tableInstall
  | tableLoadTimeout
  -- Lanes
  | fullTraining (lane : Nat) (rxinv : Bool)
  | fastRetrain (lane : Nat) (rxinv : Bool)
  | trainingStepTimeout (lane : Nat)
  | identity (lane : Nat) (id : Identity)
  | flitReceive (lane : Nat) (rx : FlitRx)
  | nakRepeat (lane : Nat)
  | ackTimer (lane : Nat)
  | recovery (lane lost : Nat) (lastSeq : BitVec 12)
  | laneLossTimeout (lane : Nat)
  | resetNotice (lane : Nat) (chip : BitVec 14) (inc : BitVec 16)
  | fecrateCheck (lane : Nat)
  -- Packets
  | packetForward (lane : Nat) (p : Packet)
  | rd (lane : Nat) (p : Packet)
  | wr (lane : Nat) (p : Packet)
  /-- with the release tag that a context's store carries, where it carries one (R323) -/
  | pwr (lane : Nat) (p : Tagged)
  | atReq (lane : Nat) (p : Packet)
  | seg (lane : Nat) (p : Packet)
  | conf (lane : Nat) (p : Packet)
  | retr (lane : Nat) (p : Packet)
  /-- with the release tags of the words it answers for (R323) -/
  | rdr (lane : Nat) (p : Tagged)
  | ack (lane : Nat) (p : Packet)
  /-- with the release tag of the word before the operation (R323) -/
  | atr (lane : Nat) (p : Tagged)
  | sweepSend (j : Nat) (chip : BitVec 14)
  | transactionTimeout (tag : BitVec 16)
  | retrainWrite (lane : Nat)
  | reviveWrite (lane : Nat)
  | coordinates (bytes : List Byte)
  -- Integrity
  | faultInterrupt
  | dRingEnable (v : Word)
  | dictationLoad (src : CmdSource)
  | cancel (v : Word)
  /-- a pass or portion of the test on the unit ended; what kinds 2 and 3 saw (failing and corrected items) -/
  | dictationPass (slot test unit : Nat) (failing corrected : Nat)
  | dictationAbandon (slot test unit : Nat)
  | mxInjectArm (v : Word)
  -- Resets
  | coreReset (core : Nat) (source : ResetBy)
  | clauseReset (clause : Nat) (source : ResetBy)
  | controlComplexReset (source : ResetBy)
  /-- of the module itself with the cause of R451 -/
  | baseDieIoReset (unit : Nat) (source : ResetBy) (cause : Nat)
  | computeDieReset (die : Nat) (source : ResetBy)
  | warmModuleReset (source : ResetBy)
  | powerOnReset
  | resetComplete (domain target : Nat)
  | heartbeat (by' : Agent) (v : Word)
  | heartbeatPeriod
  | firstHeartbeatTimeout
  | coreHangCheck (core : Nat)
  | coreRetirement (pcore : Nat)
  | firmwareStart (host : HostRead)
  /-- the accepted image runs: the positions that passed the test, field by field, and the controllers that trained -/
  | firmwareAccepted (usable : List (BitVec 19)) (trained : BitVec 32)
  -- Host interface
  | sqDoorbell (q : Nat) (v : Word)
  | cqDoorbell (q : Nat) (v : Word)
  | commandTake (payload : HostRead)
  | jobOrder (q : Nat) (cid : BitVec 16) (payload : List Byte)
  | advance (q : Nat) (cid job : BitVec 16) (arg : BitVec 32)
  | endJob (q : Nat) (cid job : BitVec 16)
  | hostBar2Read (off size : Nat)
  | hostBar2Write (off : Nat) (bytes : List Byte)
  | registerWrite (by' : Agent) (off size : Nat) (v : Word)
  | linkTraining (lanesOk : BitVec 8) (speed : BitVec 4)
  | perst
  | functionLevelReset
  | hotReset
  | linkDisable
  | surpriseLinkDown
  | doeObject (bytes : List Byte)
  -- Power
  | warningEntered (vin : BitVec 16)
  | warningCleared (durationUs : BitVec 32)
  | inputBelowReset
  | railOutOfRegulation (mv : BitVec 16)
  | cappingTick (power vin : BitVec 16)
  | fastCurrentLimit
  /-- per sensor (nine for each field) in 0.1 °C two's complement -/
  | thermalTick (temps : List (BitVec 16))
  | thermtrip
  | sensorSample (x : Samples)
  | toP0
  | toP2
  | toP3
  | vreqWrite (f : Nat) (v : Word)
  -- Signed commands
  | repairUnlock (src : CmdSource)
  | repairLock (src : CmdSource)
  | installerKey (src : CmdSource)
  | certificate (src : CmdSource)
  | operatorKey (src : CmdSource)
  | powerCap (src : CmdSource)
  | site (src : CmdSource)
  | seal (src : CmdSource)
  | unseal (src : CmdSource)
  | debug (src : CmdSource)
  | grant (src : CmdSource)
  | grantEnd
  | halt (core : Nat) (v : Word)
  | haltStep (core : Nat)
  | logCopy (v : Word)
  | logRetry (flashOk : Bool)
  -- SPDM
  | getVersion (t : Transport) (req : List Byte)
  | getCapabilities (t : Transport) (req : List Byte)
  | negotiateAlgorithms (t : Transport) (req : List Byte)
  | getDigests (t : Transport) (req : List Byte)
  | getCertificate (t : Transport) (req : List Byte)
  | challenge (t : Transport) (req : List Byte)
  | getMeasurements (t : Transport) (req : List Byte)
  -- Management port and pins
  | entdaa (daddr : BitVec 7)
  | setdasa (static daddr : BitVec 7)
  | targetReset
  | mctpControl (cmd : Byte) (arg : List Byte)
  | pldmRequest (typ : Byte) (arg : List Byte)
  | memWrite (off : Nat) (bytes : List Byte)
  | memRead (off len : Nat)
  | timeSet (t : Word)
  | timeSetExpiry
  | status
  | ppsEdge
  /-- PWRGD rises: the input voltage, and the raw start-up pattern of the identity SRAM (R519) -/
  | pwrgdAssert (vin : BitVec 16) (pattern : List Byte)
  | pwrgdDeassert
  | registerRead (by' : Agent) (off size : Nat)
  | queueEnable (off : Nat) (v : Word)
  | msixTableWrite (off size : Nat) (v : Word)
  | configurationWrite (item value : Nat)
  | perstRelease
  | vinReaches39v (pattern : List Byte)
  deriving DecidableEq, Repr

end Sys2Proof
end

