-- ==== Sys2Proof/Decode.lean ====
section
/-! DEFINITION. The command a table word spells: the table gives no row any bits, so no word spells one (log entry 1). -/

namespace Sys2Proof

/-- No row of the table of operations has bits. -/
def decodeTableWord (_nbits _w : Nat) : Option Instr := none

end Sys2Proof
end

