-- ==== Sys2Proof/Config.lean ====
section
/-! DEFINITION. What an implementation fixes and the manual does not state: constants with no body, so that
no proof sees a value of them. -/

namespace Sys2Proof

/-- The corrected start-up pattern that the helper data gives for a raw pattern, and whether the correction
succeeded (R519 step 2); the code is not in the manual. Log entry 4. -/
opaque Config.fuzzyCorrect : List Byte → List Byte → Option (List Byte)

/-- The identity public key certified by the leaf of an X.509 DER chain (R507 CERTIFICATE, R520). Log entry 3. -/
opaque Config.leafKey : List Byte → Option (BitVec 256)

/-- The digest of the boot ROM, measurement index 1 (R522), and its version (R516 kind 1). Log entry 4. -/
opaque Config.bootRomDigest : BitVec 512
opaque Config.bootRomVersion : BitVec 64

/-- The maker public keys held in the boot ROM, slots 0 to 3 (R504). Log entry 4. -/
opaque Config.makerKey : Nat → BitVec 256

/-- The bytes of a PCI Express, SPDM, MCTP or PLDM message whose form a published standard fixes and the
manual does not (R477, R521, R532, R533): the standard's name, the state it reports, the request. Log entry 3. -/
opaque Config.standardReply : Nat → List Byte → List Byte → List Byte

/-- The 15 bits of the maker's MIPI manufacturer ID (R531). Log entry 4. -/
opaque Config.mipiId : BitVec 15

/-- Block buffers a module has (R372); the manual gives no number. One is always there (log entry 22). -/
opaque Config.blockBuffers : Nat

/-- A fresh value each time: the model's counter of free values applied to it (log entry 5). -/
opaque Config.freeValue : Nat → BitVec 64

/-- Reads of addresses whose read-cache replacement is not defined (R324): whether the line is still held,
by the counter of free values. Log entry 5. -/
opaque Config.freeChoice : Nat → Bool

end Sys2Proof
end

