-- ==== Sys2Proof/Machine/Regs.lean ====
section
/-! DEFINITION. The registers of BAR0 as the manual's register tables give them (R8 to R13, R542): for each register
its offset, its fields, their types, reset values and the values a field takes. Generated from the register tables
of spec/ (chapters 01 to 20), one entry a register. -/

namespace Sys2Proof.Machine

/-- The types of R8. -/
inductive RegTy where | ro | rw | w1c | wo | rc
  deriving DecidableEq, Repr

/-- The values a field's Meaning states that it takes (R542). -/
inductive Legal where
  | any
  | range (lo hi : Nat)
  | zeroOr (lo hi : Nat)
  | fiveStep (lo hi : Nat)
  | lowZero (n : Nat)
  deriving DecidableEq, Repr

/-- A field of a register: its place, type, reset value and the values it takes. -/
structure FieldDef where
  lo : Nat
  width : Nat
  ty : RegTy
  reset : Nat
  legal : Legal
  deriving DecidableEq, Repr

/-- A register or an array of registers: base offset, two strides and counts, and its fields. -/
structure RegDef where
  name : String
  base : Nat
  s1 : Nat
  n1 : Nat
  s2 : Nat
  n2 : Nat
  fields : List FieldDef
  deriving DecidableEq, Repr

/-- A named field: where the register lies (for index i, j) and which bits it has. -/
structure Fld where
  base : Nat
  s1 : Nat
  s2 : Nat
  lo : Nat
  width : Nat
  deriving DecidableEq, Repr

/-- The offset of the register a named field lies in. -/
def Fld.addr (f : Fld) (i j : Nat) : Nat := f.base + f.s1 * i + f.s2 * j

/-- Bits [lo + width − 1 : lo] of a word, as a number (R3). -/
def bitsOf (w : Word) (lo width : Nat) : Nat := w.toNat / 2 ^ lo % 2 ^ width

/-- A word with those bits replaced by a number's low bits. -/
def withBits (w : Word) (lo width v : Nat) : Word :=
  BitVec.ofNat 64 (w.toNat - bitsOf w lo width * 2 ^ lo + v % 2 ^ width * 2 ^ lo)

/-- Whether a value is among those the field takes (R542). -/
def Legal.holds : Legal → Nat → Bool
  | .any, _ => true
  | .range lo hi, v => decide (lo ≤ v) && decide (v ≤ hi)
  | .zeroOr lo hi, v => decide (v = 0) || (decide (lo ≤ v) && decide (v ≤ hi))
  | .fiveStep lo hi, v => decide (lo ≤ v) && decide (v ≤ hi) && decide (v % 5 = 0)
  | .lowZero n, v => decide (v % 2 ^ n = 0)

/-- The Dev block. -/
def regsDev : List RegDef := [
  ⟨"DEV_ID", 0x0, 0x0, 1, 0x0, 1, [⟨0, 8, .ro, 1, .any⟩, ⟨8, 8, .ro, 1, .any⟩, ⟨16, 16, .ro, 9, .any⟩, ⟨32, 8, .ro, 144, .any⟩, ⟨40, 8, .ro, 64, .any⟩]⟩,
  ⟨"DEV_FIELD_MAP", 0x100, 0x8, 8, 0x0, 1, [⟨0, 19, .ro, 524287, .any⟩, ⟨24, 5, .ro, 18, .any⟩, ⟨32, 5, .ro, 0, .any⟩, ⟨37, 1, .ro, 0, .any⟩]⟩,
  ⟨"DEV_STEP_RATE", 0x180, 0x8, 2, 0x0, 1, [⟨0, 16, .ro, 0, .any⟩, ⟨16, 16, .ro, 0, .any⟩, ⟨32, 16, .ro, 0, .any⟩]⟩,
  ⟨"DEV_MOOD", 0x200, 0x0, 1, 0x0, 1, [⟨0, 2, .ro, 1, .any⟩, ⟨2, 2, .ro, 0, .any⟩, ⟨4, 3, .ro, 0, .any⟩, ⟨7, 6, .ro, 15, .any⟩, ⟨13, 1, .ro, 0, .any⟩, ⟨14, 1, .ro, 0, .any⟩, ⟨15, 1, .ro, 0, .any⟩]⟩]

/-- The Aq block. -/
def regsAq : List RegDef := [
  ⟨"AQ_SRC", 0x100000, 0x0, 1, 0x0, 1, [⟨0, 62, .rw, 0, .any⟩]⟩,
  ⟨"AQ_LEN", 0x100008, 0x0, 1, 0x0, 1, [⟨0, 25, .rw, 0, .any⟩]⟩,
  ⟨"AQ_CTRL", 0x100010, 0x0, 1, 0x0, 1, [⟨0, 1, .wo, 0, .any⟩, ⟨1, 1, .rw, 0, .any⟩]⟩,
  ⟨"AQ_STATUS", 0x100018, 0x0, 1, 0x0, 1, [⟨0, 2, .ro, 0, .any⟩, ⟨2, 1, .ro, 0, .any⟩, ⟨3, 1, .w1c, 0, .any⟩, ⟨8, 8, .ro, 0, .any⟩, ⟨16, 8, .ro, 0, .any⟩, ⟨32, 24, .ro, 0, .any⟩]⟩,
  ⟨"AQ_COUNT", 0x100020, 0x0, 1, 0x0, 1, [⟨0, 32, .ro, 0, .any⟩, ⟨32, 32, .ro, 0, .any⟩]⟩,
  ⟨"AQ_RSV", 0x100028, 0x0, 1, 0x0, 1, [⟨0, 48, .ro, 257672871936, .any⟩, ⟨48, 8, .ro, 0, .any⟩]⟩,
  ⟨"AQ_DIGEST", 0x100040, 0x8, 8, 0x0, 1, [⟨0, 64, .ro, 0, .any⟩]⟩]

/-- The Core block. -/
def regsCore : List RegDef := [
  ⟨"CORE_STATUS", 0x200000, 0x10000, 144, 0x0, 1, [⟨0, 2, .ro, 0, .any⟩, ⟨2, 4, .ro, 0, .any⟩, ⟨6, 1, .ro, 0, .any⟩, ⟨7, 1, .ro, 0, .any⟩, ⟨8, 8, .ro, 0, .any⟩, ⟨16, 8, .ro, 0, .any⟩, ⟨24, 8, .ro, 0, .any⟩]⟩,
  ⟨"CORE_RETIRED", 0x200008, 0x10000, 144, 0x0, 1, [⟨0, 64, .ro, 0, .any⟩]⟩,
  ⟨"CORE_TRAP0", 0x200010, 0x10000, 144, 0x0, 1, [⟨0, 16, .ro, 0, .any⟩, ⟨16, 8, .ro, 0, .any⟩, ⟨24, 4, .ro, 0, .any⟩, ⟨28, 8, .ro, 0, .any⟩, ⟨36, 1, .w1c, 0, .any⟩, ⟨37, 1, .w1c, 0, .any⟩, ⟨38, 4, .ro, 0, .any⟩]⟩,
  ⟨"CORE_TRAP1", 0x200018, 0x10000, 144, 0x0, 1, [⟨0, 48, .ro, 0, .any⟩]⟩,
  ⟨"CORE_TRAP2", 0x200020, 0x10000, 144, 0x0, 1, [⟨0, 64, .ro, 0, .any⟩]⟩,
  ⟨"CORE_SWITCHES", 0x200030, 0x10000, 144, 0x0, 1, [⟨0, 32, .ro, 0, .any⟩]⟩,
  ⟨"CORE_CTX", 0x200040, 0x10000, 144, 0x8, 16, [⟨0, 26, .ro, 0, .any⟩, ⟨26, 2, .ro, 0, .any⟩, ⟨28, 1, .w1c, 0, .any⟩, ⟨29, 1, .w1c, 0, .any⟩]⟩]

/-- The Sp block. -/
def regsSp : List RegDef := [
  ⟨"SP_CNT", 0xC00000, 0x100, 144, 0x0, 1, [⟨0, 32, .rc, 0, .any⟩, ⟨32, 16, .rc, 0, .any⟩, ⟨48, 16, .rc, 0, .any⟩]⟩,
  ⟨"SP_ERR", 0xC00008, 0x100, 144, 0x0, 1, [⟨0, 24, .ro, 0, .any⟩, ⟨24, 8, .ro, 0, .any⟩, ⟨32, 1, .ro, 0, .any⟩, ⟨33, 1, .ro, 0, .any⟩, ⟨34, 1, .ro, 0, .any⟩, ⟨35, 1, .ro, 0, .any⟩, ⟨36, 1, .w1c, 0, .any⟩]⟩,
  ⟨"SP_FLIPD", 0xC00010, 0x100, 144, 0x0, 1, [⟨0, 64, .rw, 0, .any⟩]⟩,
  ⟨"SP_FLIPC", 0xC00018, 0x100, 144, 0x0, 1, [⟨0, 8, .rw, 0, .any⟩, ⟨8, 1, .wo, 0, .any⟩, ⟨9, 1, .ro, 0, .any⟩, ⟨10, 1, .rw, 0, .any⟩, ⟨32, 24, .rw, 0, .any⟩]⟩,
  ⟨"SP_SCRUB", 0xC0F000, 0x0, 1, 0x0, 1, [⟨0, 16, .rw, 64, .any⟩, ⟨32, 32, .ro, 0, .any⟩]⟩]

/-- The Mx block. -/
def regsMx : List RegDef := [
  ⟨"MX_LIMIT", 0xD00000, 0x0, 1, 0x0, 1, [⟨0, 5, .ro, 16, .any⟩]⟩,
  ⟨"MX_INJECT", 0xD00008, 0x0, 1, 0x0, 1, [⟨0, 8, .wo, 0, .any⟩, ⟨8, 1, .wo, 0, .any⟩]⟩,
  ⟨"MX_CNT", 0xD01000, 0x10, 144, 0x0, 1, [⟨0, 32, .ro, 0, .any⟩, ⟨32, 16, .rc, 0, .any⟩, ⟨48, 16, .rc, 0, .any⟩]⟩,
  ⟨"MX_STAT", 0xD01008, 0x10, 144, 0x0, 1, [⟨0, 5, .ro, 0, .any⟩, ⟨5, 1, .ro, 0, .any⟩, ⟨6, 1, .ro, 0, .any⟩, ⟨7, 1, .ro, 0, .any⟩, ⟨8, 1, .ro, 0, .any⟩]⟩]

/-- The Att block. -/
def regsAtt : List RegDef := [
  ⟨"ATT_CMD", 0xE00000, 0x1000, 144, 0x8, 24, [⟨0, 64, .wo, 0, .any⟩]⟩,
  ⟨"ATT_STAT", 0xE00100, 0x1000, 144, 0x0, 1, [⟨0, 1, .ro, 0, .any⟩, ⟨1, 3, .ro, 0, .any⟩, ⟨4, 2, .ro, 0, .any⟩, ⟨8, 8, .ro, 0, .any⟩, ⟨16, 16, .ro, 0, .any⟩, ⟨32, 1, .w1c, 0, .any⟩]⟩,
  ⟨"ATT_CNT", 0xE00108, 0x1000, 144, 0x0, 1, [⟨0, 32, .ro, 0, .any⟩, ⟨32, 16, .rc, 0, .any⟩, ⟨48, 16, .rc, 0, .any⟩]⟩,
  ⟨"ATT_ROWS", 0xE00110, 0x1000, 144, 0x0, 1, [⟨0, 32, .rc, 0, .any⟩, ⟨32, 16, .rc, 0, .any⟩, ⟨48, 16, .rc, 0, .any⟩]⟩]

/-- The Kv block. -/
def regsKv : List RegDef := [
  ⟨"KV_POOL", 0xF00000, 0x0, 1, 0x0, 1, [⟨0, 22, .rw, 0, .any⟩, ⟨22, 22, .rw, 0, .any⟩, ⟨44, 8, .rw, 0, .range 4 255⟩]⟩,
  ⟨"KV_SEQTAB", 0xF00008, 0x0, 1, 0x0, 1, [⟨0, 48, .ro, 0, .any⟩]⟩,
  ⟨"KV_PFX", 0xF00010, 0x0, 1, 0x0, 1, [⟨0, 22, .rw, 0, .any⟩, ⟨22, 5, .rw, 0, .zeroOr 10 24⟩]⟩,
  ⟨"KV_SPILLH", 0xF00018, 0x0, 1, 0x0, 1, [⟨16, 48, .rw, 0, .any⟩]⟩,
  ⟨"KV_SPILLH_SIZE", 0xF00020, 0x0, 1, 0x0, 1, [⟨0, 32, .rw, 0, .any⟩]⟩,
  ⟨"KV_SPILLP", 0xF00028, 0x0, 1, 0x0, 1, [⟨0, 22, .rw, 0, .any⟩, ⟨22, 22, .rw, 0, .any⟩]⟩,
  ⟨"KV_STATUS", 0xF00030, 0x0, 1, 0x0, 1, [⟨0, 15, .ro, 0, .any⟩, ⟨15, 22, .ro, 0, .any⟩, ⟨37, 22, .ro, 0, .any⟩]⟩,
  ⟨"KV_OPENS", 0xF00038, 0x0, 1, 0x0, 1, [⟨0, 32, .ro, 0, .any⟩]⟩,
  ⟨"KV_CNT0", 0xF00040, 0x0, 1, 0x0, 1, [⟨0, 32, .ro, 0, .any⟩, ⟨32, 32, .ro, 0, .any⟩]⟩,
  ⟨"KV_CNT1", 0xF00048, 0x0, 1, 0x0, 1, [⟨0, 32, .ro, 0, .any⟩, ⟨32, 16, .rc, 0, .any⟩, ⟨48, 16, .rc, 0, .any⟩]⟩,
  ⟨"KV_CNT2", 0xF00050, 0x0, 1, 0x0, 1, [⟨0, 32, .ro, 0, .any⟩, ⟨32, 16, .rc, 0, .any⟩, ⟨48, 16, .rc, 0, .any⟩]⟩,
  ⟨"KV_EVENT", 0xF00058, 0x0, 1, 0x0, 1, [⟨0, 14, .ro, 0, .any⟩, ⟨16, 16, .ro, 0, .any⟩, ⟨32, 16, .ro, 0, .any⟩, ⟨48, 16, .ro, 0, .any⟩]⟩,
  ⟨"KV_CMD", 0xF01000, 0x40, 144, 0x8, 8, [⟨0, 64, .wo, 0, .any⟩]⟩]

/-- The Gd block. -/
def regsGd : List RegDef := [
  ⟨"GD_STATUS", 0x1000000, 0x40000, 32, 0x0, 1, [⟨0, 2, .ro, 0, .any⟩, ⟨2, 2, .ro, 2, .any⟩, ⟨4, 8, .ro, 0, .any⟩, ⟨12, 8, .ro, 0, .any⟩, ⟨20, 16, .ro, 0, .any⟩]⟩,
  ⟨"GD_CNT0", 0x1000008, 0x40000, 32, 0x0, 1, [⟨0, 32, .rc, 0, .any⟩, ⟨32, 16, .rc, 0, .any⟩, ⟨48, 16, .rc, 0, .any⟩]⟩,
  ⟨"GD_CNT1", 0x1000010, 0x40000, 32, 0x0, 1, [⟨0, 16, .rc, 0, .any⟩, ⟨16, 16, .rc, 0, .any⟩, ⟨32, 16, .rc, 0, .any⟩]⟩,
  ⟨"GD_ERR", 0x1000018, 0x40000, 32, 0x0, 1, [⟨0, 25, .ro, 0, .any⟩, ⟨25, 17, .ro, 0, .any⟩, ⟨42, 4, .ro, 0, .any⟩, ⟨46, 4, .ro, 0, .any⟩, ⟨50, 1, .ro, 0, .any⟩, ⟨51, 1, .ro, 0, .any⟩, ⟨52, 1, .ro, 0, .any⟩, ⟨53, 1, .ro, 0, .any⟩, ⟨54, 1, .w1c, 0, .any⟩]⟩,
  ⟨"GD_SCRUB", 0x1000020, 0x40000, 32, 0x0, 1, [⟨0, 8, .rw, 24, .any⟩, ⟨32, 32, .ro, 0, .any⟩]⟩,
  ⟨"GD_FLIPD0", 0x1000180, 0x40000, 32, 0x0, 1, [⟨0, 64, .rw, 0, .any⟩]⟩,
  ⟨"GD_FLIPD1", 0x1000188, 0x40000, 32, 0x0, 1, [⟨0, 64, .rw, 0, .any⟩]⟩,
  ⟨"GD_FLIPC", 0x1000190, 0x40000, 32, 0x0, 1, [⟨0, 5, .rw, 0, .range 0 16⟩, ⟨5, 1, .rw, 0, .any⟩, ⟨6, 1, .rw, 0, .any⟩, ⟨7, 1, .wo, 0, .any⟩, ⟨8, 1, .ro, 0, .any⟩, ⟨9, 1, .rw, 0, .any⟩, ⟨10, 25, .rw, 0, .any⟩]⟩,
  ⟨"GD_REMAP", 0x1000100, 0x40000, 32, 0x8, 16, [⟨0, 25, .rw, 0, .any⟩, ⟨25, 14, .rw, 0, .any⟩, ⟨39, 1, .rw, 0, .any⟩, ⟨40, 1, .ro, 0, .any⟩, ⟨41, 1, .ro, 0, .any⟩, ⟨42, 1, .ro, 0, .any⟩]⟩]

/-- The Cx block. -/
def regsCx : List RegDef := [
  ⟨"CX_CTRL", 0x1800000, 0x0, 1, 0x0, 1, [⟨0, 8, .rw, 0, .any⟩]⟩,
  ⟨"CX_TBL_SRC", 0x1800008, 0x0, 1, 0x0, 1, [⟨0, 62, .rw, 0, .lowZero 6⟩]⟩,
  ⟨"CX_TBL_CMD", 0x1800010, 0x0, 1, 0x0, 1, [⟨0, 8, .rw, 0, .any⟩, ⟨8, 1, .wo, 0, .any⟩]⟩,
  ⟨"CX_TBL_STAT", 0x1800018, 0x0, 1, 0x0, 1, [⟨0, 1, .ro, 0, .any⟩, ⟨1, 1, .w1c, 0, .any⟩, ⟨4, 4, .ro, 0, .any⟩]⟩,
  ⟨"CX_SLOTS", 0x1800020, 0x0, 1, 0x0, 1, [⟨0, 32, .ro, 0, .any⟩, ⟨32, 4, .ro, 0, .any⟩]⟩,
  ⟨"CX_RANGE_A", 0x1800100, 0x10, 16, 0x0, 1, [⟨0, 5, .rw, 0, .any⟩, ⟨5, 1, .rw, 0, .any⟩, ⟨6, 3, .rw, 0, .any⟩, ⟨9, 1, .ro, 0, .any⟩, ⟨10, 1, .ro, 0, .any⟩, ⟨12, 21, .rw, 0, .any⟩, ⟨33, 21, .rw, 0, .any⟩]⟩,
  ⟨"CX_RANGE_B", 0x1800108, 0x10, 16, 0x0, 1, [⟨0, 48, .rw, 0, .lowZero 3⟩]⟩,
  ⟨"CX_CNT", 0x1800200, 0x8, 8, 0x0, 1, [⟨0, 16, .rc, 0, .any⟩, ⟨16, 12, .rc, 0, .any⟩, ⟨28, 12, .rc, 0, .any⟩, ⟨40, 12, .rc, 0, .any⟩, ⟨52, 7, .ro, 0, .any⟩]⟩,
  ⟨"CX_ERR", 0x1800240, 0x8, 8, 0x0, 1, [⟨0, 21, .ro, 0, .any⟩, ⟨21, 2, .ro, 0, .any⟩, ⟨23, 3, .ro, 0, .any⟩, ⟨26, 1, .w1c, 0, .any⟩]⟩]

/-- The Fab block. -/
def regsFab : List RegDef := [
  ⟨"FAB_LSTAT", 0x1900000, 0x40, 48, 0x0, 1, [⟨0, 4, .ro, 0, .any⟩, ⟨4, 2, .ro, 0, .any⟩, ⟨6, 1, .ro, 0, .any⟩, ⟨7, 1, .w1c, 0, .any⟩, ⟨8, 4, .ro, 0, .any⟩]⟩,
  ⟨"FAB_LPEER", 0x1900008, 0x40, 48, 0x0, 1, [⟨0, 14, .ro, 0, .any⟩, ⟨14, 4, .ro, 0, .any⟩, ⟨18, 16, .ro, 0, .any⟩]⟩,
  ⟨"FAB_LCTRL", 0x1900010, 0x40, 48, 0x0, 1, [⟨0, 1, .wo, 0, .any⟩, ⟨1, 1, .wo, 0, .any⟩]⟩,
  ⟨"FAB_LCNT0", 0x1900018, 0x40, 48, 0x0, 1, [⟨0, 32, .rc, 0, .any⟩, ⟨32, 16, .rc, 0, .any⟩, ⟨48, 16, .rc, 0, .any⟩]⟩,
  ⟨"FAB_LCNT1", 0x1900020, 0x40, 48, 0x0, 1, [⟨0, 16, .rc, 0, .any⟩, ⟨16, 16, .ro, 0, .any⟩, ⟨32, 16, .ro, 0, .any⟩, ⟨48, 16, .rc, 0, .any⟩]⟩,
  ⟨"FAB_ID", 0x1901000, 0x0, 1, 0x0, 1, [⟨0, 14, .ro, 0, .any⟩, ⟨16, 16, .ro, 0, .any⟩]⟩,
  ⟨"FAB_TIMEOUT", 0x1901008, 0x0, 1, 0x0, 1, [⟨0, 17, .rw, 1000, .range 100 100000⟩]⟩,
  ⟨"FAB_FECLIM", 0x1901010, 0x0, 1, 0x0, 1, [⟨0, 32, .rw, 16384, .range 1 4294967295⟩]⟩,
  ⟨"FAB_STALE", 0x1901018, 0x0, 1, 0x0, 1, [⟨0, 32, .rc, 0, .any⟩, ⟨32, 14, .ro, 0, .any⟩, ⟨48, 16, .ro, 0, .any⟩]⟩,
  ⟨"FAB_TENT", 0x1901020, 0x0, 1, 0x0, 1, [⟨0, 17, .ro, 0, .any⟩, ⟨32, 16, .rc, 0, .any⟩, ⟨48, 16, .rc, 0, .any⟩]⟩,
  ⟨"FAB_STAT", 0x1901100, 0x8, 10, 0x0, 1, [⟨0, 32, .rc, 0, .any⟩, ⟨32, 14, .ro, 0, .any⟩]⟩]

/-- The Cj block. -/
def regsCj : List RegDef := [
  ⟨"CJ_COORD", 0x1C00000, 0x0, 1, 0x0, 1, [⟨0, 8, .ro, 0, .any⟩, ⟨8, 6, .ro, 0, .any⟩, ⟨14, 1, .ro, 0, .any⟩, ⟨16, 16, .ro, 0, .any⟩, ⟨32, 16, .ro, 0, .any⟩, ⟨48, 16, .rc, 0, .any⟩]⟩,
  ⟨"CJ_MMAP", 0x1C00008, 0x0, 1, 0x0, 1, [⟨0, 48, .rw, 0, .lowZero 6⟩, ⟨48, 1, .rw, 0, .any⟩]⟩,
  ⟨"CJ_JOBA", 0x1C00100, 0x10, 16, 0x0, 1, [⟨0, 16, .ro, 0, .any⟩, ⟨16, 16, .ro, 0, .any⟩, ⟨32, 9, .ro, 0, .any⟩, ⟨41, 3, .ro, 0, .any⟩]⟩,
  ⟨"CJ_JOBB", 0x1C00108, 0x10, 16, 0x0, 1, [⟨0, 32, .ro, 0, .any⟩, ⟨32, 4, .ro, 0, .any⟩, ⟨36, 4, .ro, 0, .any⟩, ⟨40, 14, .ro, 0, .any⟩]⟩,
  ⟨"CJ_CNT", 0x1C00200, 0x0, 1, 0x0, 1, [⟨0, 16, .rc, 0, .any⟩, ⟨16, 16, .rc, 0, .any⟩, ⟨32, 12, .rc, 0, .any⟩, ⟨44, 12, .rc, 0, .any⟩, ⟨56, 8, .rc, 0, .any⟩]⟩]

/-- The Int block. -/
def regsInt : List RegDef := [
  ⟨"INT_LOGD", 0x1D00000, 0x0, 1, 0x0, 1, [⟨0, 48, .rw, 0, .lowZero 12⟩, ⟨48, 5, .rw, 0, .range 6 20⟩, ⟨53, 1, .rw, 0, .any⟩]⟩,
  ⟨"INT_LOGD_PTR", 0x1D00008, 0x0, 1, 0x0, 1, [⟨0, 32, .ro, 0, .any⟩, ⟨32, 32, .rw, 0, .any⟩]⟩,
  ⟨"INT_LOGC", 0x1D00010, 0x0, 1, 0x0, 1, [⟨0, 48, .rw, 0, .lowZero 12⟩, ⟨48, 5, .rw, 0, .range 6 20⟩, ⟨53, 1, .rw, 0, .any⟩]⟩,
  ⟨"INT_LOGC_PTR", 0x1D00018, 0x0, 1, 0x0, 1, [⟨0, 32, .ro, 0, .any⟩, ⟨32, 32, .rw, 0, .any⟩]⟩,
  ⟨"INT_LOST", 0x1D00020, 0x0, 1, 0x0, 1, [⟨0, 16, .rc, 0, .any⟩, ⟨16, 32, .rc, 0, .any⟩]⟩,
  ⟨"INT_CLIM", 0x1D00028, 0x0, 1, 0x0, 1, [⟨0, 16, .rw, 1000, .range 1 60000⟩]⟩,
  ⟨"INT_TIME", 0x1D00030, 0x0, 1, 0x0, 1, [⟨0, 64, .ro, 0, .any⟩]⟩,
  ⟨"INT_PROOF", 0x1D00038, 0x0, 1, 0x0, 1, [⟨0, 32, .ro, 0, .any⟩, ⟨32, 12, .rc, 0, .any⟩, ⟨44, 12, .rc, 0, .any⟩, ⟨56, 8, .rc, 0, .any⟩]⟩,
  ⟨"INT_AGREE", 0x1D00040, 0x0, 1, 0x0, 1, [⟨0, 32, .ro, 0, .any⟩, ⟨32, 16, .rc, 0, .any⟩]⟩,
  ⟨"INT_DICT", 0x1D00048, 0x0, 1, 0x0, 1, [⟨0, 48, .rw, 0, .lowZero 16⟩, ⟨48, 8, .rw, 0, .zeroOr 16 255⟩]⟩,
  ⟨"INT_DSRC", 0x1D00050, 0x0, 1, 0x0, 1, [⟨0, 62, .rw, 0, .lowZero 6⟩]⟩,
  ⟨"INT_DCMD", 0x1D00058, 0x0, 1, 0x0, 1, [⟨0, 1, .wo, 0, .any⟩, ⟨1, 1, .wo, 0, .any⟩, ⟨2, 2, .rw, 0, .any⟩]⟩,
  ⟨"INT_DSTAT", 0x1D00060, 0x0, 1, 0x0, 1, [⟨0, 4, .ro, 0, .any⟩, ⟨4, 4, .w1c, 0, .any⟩, ⟨8, 8, .ro, 0, .any⟩, ⟨16, 1, .w1c, 0, .any⟩]⟩,
  ⟨"INT_SCOPE", 0x1D01000, 0x8, 144, 0x0, 1, [⟨0, 16, .rc, 0, .any⟩]⟩]

/-- The Rst block. -/
def regsRst : List RegDef := [
  ⟨"RST_CTRL", 0x1E00000, 0x0, 1, 0x0, 1, [⟨0, 3, .wo, 0, .any⟩, ⟨3, 8, .wo, 0, .any⟩, ⟨11, 1, .wo, 0, .any⟩]⟩,
  ⟨"RST_STATUS", 0x1E00008, 0x0, 1, 0x0, 1, [⟨0, 3, .ro, 0, .any⟩, ⟨3, 3, .ro, 7, .any⟩, ⟨6, 1, .ro, 0, .any⟩, ⟨7, 1, .w1c, 0, .any⟩, ⟨8, 8, .ro, 0, .any⟩]⟩,
  ⟨"RST_HEART", 0x1E00010, 0x0, 1, 0x0, 1, [⟨0, 32, .rw, 0, .any⟩]⟩,
  ⟨"RST_MON", 0x1E00018, 0x0, 1, 0x0, 1, [⟨0, 1, .ro, 0, .any⟩, ⟨1, 3, .ro, 0, .any⟩, ⟨4, 4, .ro, 0, .any⟩, ⟨8, 16, .rc, 0, .any⟩, ⟨24, 16, .rc, 0, .any⟩]⟩,
  ⟨"RST_HANGCFG", 0x1E00020, 0x0, 1, 0x0, 1, [⟨0, 8, .rw, 2, .any⟩, ⟨16, 16, .rw, 3600, .range 1 65535⟩, ⟨32, 16, .rc, 0, .any⟩]⟩,
  ⟨"RST_CNT", 0x1E00028, 0x0, 1, 0x0, 1, [⟨0, 48, .rc, 0, .any⟩, ⟨48, 8, .rc, 0, .any⟩]⟩,
  ⟨"RST_FW_SRC", 0x1E00100, 0x0, 1, 0x0, 1, [⟨0, 64, .rw, 0, .lowZero 6⟩]⟩,
  ⟨"RST_FW_LEN", 0x1E00108, 0x0, 1, 0x0, 1, [⟨0, 23, .rw, 0, .any⟩]⟩,
  ⟨"RST_FW_CMD", 0x1E00110, 0x0, 1, 0x0, 1, [⟨0, 1, .wo, 0, .any⟩]⟩,
  ⟨"RST_FW_STAT", 0x1E00118, 0x0, 1, 0x0, 1, [⟨0, 1, .ro, 0, .any⟩, ⟨1, 1, .w1c, 0, .any⟩, ⟨4, 4, .ro, 0, .any⟩, ⟨16, 32, .ro, 0, .any⟩]⟩]

/-- The Pwr block. -/
def regsPwr : List RegDef := [
  ⟨"PWR_STATE", 0x1F00000, 0x0, 1, 0x0, 1, [⟨0, 3, .ro, 0, .any⟩, ⟨3, 1, .ro, 0, .any⟩, ⟨4, 4, .ro, 0, .any⟩]⟩,
  ⟨"PWR_CTRL", 0x1F00008, 0x0, 1, 0x0, 1, [⟨0, 3, .wo, 0, .any⟩, ⟨3, 1, .wo, 0, .any⟩]⟩,
  ⟨"PWR_INPUT", 0x1F00010, 0x0, 1, 0x0, 1, [⟨0, 16, .ro, 0, .any⟩, ⟨16, 16, .ro, 0, .any⟩, ⟨32, 16, .ro, 0, .any⟩, ⟨48, 16, .ro, 0, .any⟩]⟩,
  ⟨"PWR_CAP", 0x1F00018, 0x0, 1, 0x0, 1, [⟨0, 16, .ro, 2600, .any⟩, ⟨16, 16, .rw, 0, .zeroOr 500 2600⟩, ⟨32, 16, .ro, 2600, .any⟩]⟩,
  ⟨"PWR_ALERT", 0x1F00020, 0x0, 1, 0x0, 1, [⟨0, 1, .ro, 0, .any⟩, ⟨1, 1, .w1c, 0, .any⟩, ⟨2, 1, .w1c, 0, .any⟩, ⟨3, 1, .w1c, 0, .any⟩]⟩,
  ⟨"PWR_ALERT_EN", 0x1F00028, 0x0, 1, 0x0, 1, [⟨0, 4, .rw, 3, .any⟩]⟩,
  ⟨"PWR_CNT", 0x1F00030, 0x0, 1, 0x0, 1, [⟨0, 16, .rc, 0, .any⟩, ⟨16, 32, .rc, 0, .any⟩, ⟨48, 16, .rc, 0, .any⟩]⟩,
  ⟨"PWR_VREQ", 0x1F00100, 0x8, 8, 0x0, 1, [⟨0, 16, .rw, 720, .fiveStep 650 850⟩, ⟨16, 16, .ro, 0, .any⟩, ⟨32, 16, .ro, 0, .any⟩, ⟨48, 1, .ro, 0, .any⟩, ⟨49, 1, .ro, 0, .any⟩, ⟨50, 1, .ro, 0, .any⟩]⟩,
  ⟨"PWR_VEVENT", 0x1F00200, 0x8, 16, 0x0, 1, [⟨0, 32, .ro, 0, .any⟩, ⟨32, 16, .rc, 0, .any⟩, ⟨48, 1, .w1c, 0, .any⟩]⟩]

/-- The Sec block. -/
def regsSec : List RegDef := [
  ⟨"SEC_CSRC", 0x2000000, 0x0, 1, 0x0, 1, [⟨0, 62, .rw, 0, .lowZero 6⟩]⟩,
  ⟨"SEC_CLEN", 0x2000008, 0x0, 1, 0x0, 1, [⟨0, 13, .rw, 0, .any⟩]⟩,
  ⟨"SEC_CCMD", 0x2000010, 0x0, 1, 0x0, 1, [⟨0, 1, .wo, 0, .any⟩]⟩,
  ⟨"SEC_CSTAT", 0x2000018, 0x0, 1, 0x0, 1, [⟨0, 1, .ro, 0, .any⟩, ⟨1, 1, .w1c, 0, .any⟩, ⟨8, 8, .ro, 0, .any⟩, ⟨16, 8, .ro, 0, .any⟩]⟩,
  ⟨"SEC_FPRINT", 0x2000060, 0x0, 1, 0x0, 1, [⟨0, 64, .ro, 0, .any⟩]⟩,
  ⟨"SEC_LOG", 0x20000C0, 0x0, 1, 0x0, 1, [⟨0, 48, .ro, 0, .any⟩, ⟨48, 1, .w1c, 0, .any⟩, ⟨49, 5, .ro, 0, .any⟩]⟩,
  ⟨"SEC_LOGRD_IDX", 0x20000C8, 0x0, 1, 0x0, 1, [⟨0, 48, .rw, 0, .any⟩, ⟨48, 16, .rw, 0, .range 1 65535⟩]⟩,
  ⟨"SEC_LOGRD_DST", 0x20000D0, 0x0, 1, 0x0, 1, [⟨0, 48, .rw, 0, .lowZero 8⟩, ⟨48, 1, .wo, 0, .any⟩, ⟨49, 1, .ro, 0, .any⟩, ⟨50, 1, .ro, 0, .any⟩]⟩,
  ⟨"SEC_KEYS", 0x2000118, 0x0, 1, 0x0, 1, [⟨0, 4, .ro, 1, .any⟩, ⟨16, 16, .ro, 0, .any⟩]⟩,
  ⟨"SEC_GRANT", 0x2000120, 0x0, 1, 0x0, 1, [⟨0, 64, .ro, 0, .any⟩]⟩,
  ⟨"SEC_ID", 0x2000040, 0x8, 4, 0x0, 1, [⟨0, 64, .ro, 0, .any⟩]⟩,
  ⟨"SEC_HEAD", 0x2000080, 0x8, 8, 0x0, 1, [⟨0, 64, .ro, 0, .any⟩]⟩,
  ⟨"SEC_SEQ", 0x2000100, 0x8, 3, 0x0, 1, [⟨0, 64, .ro, 0, .any⟩]⟩,
  ⟨"SEC_HALT", 0x2001000, 0x8, 144, 0x0, 1, [⟨0, 1, .rw, 0, .any⟩, ⟨1, 1, .wo, 0, .any⟩, ⟨2, 1, .ro, 0, .any⟩]⟩]

/-- The Host block. -/
def regsHost : List RegDef := [
  ⟨"HOST_LINK", 0x2100000, 0x0, 1, 0x0, 1, [⟨0, 4, .ro, 0, .any⟩, ⟨4, 4, .ro, 0, .any⟩, ⟨8, 1, .ro, 0, .any⟩, ⟨9, 1, .w1c, 0, .any⟩, ⟨10, 16, .ro, 0, .any⟩]⟩,
  ⟨"HOST_WIN", 0x2100008, 0x0, 1, 0x0, 1, [⟨0, 62, .rw, 0, .any⟩]⟩,
  ⟨"HOST_ERR", 0x2100010, 0x0, 1, 0x0, 1, [⟨0, 4, .ro, 0, .any⟩, ⟨4, 1, .ro, 0, .any⟩, ⟨5, 1, .w1c, 0, .any⟩, ⟨8, 56, .ro, 0, .any⟩]⟩,
  ⟨"HOST_CNT", 0x2100018, 0x0, 1, 0x0, 1, [⟨0, 16, .rc, 0, .any⟩, ⟨16, 16, .rc, 0, .any⟩, ⟨32, 16, .rc, 0, .any⟩, ⟨48, 16, .rc, 0, .any⟩]⟩,
  ⟨"HOST_SQA", 0x2101000, 0x10, 64, 0x0, 1, [⟨0, 48, .rw, 0, .lowZero 12⟩, ⟨48, 4, .rw, 0, .range 4 15⟩, ⟨52, 1, .rw, 0, .any⟩, ⟨53, 1, .rw, 0, .any⟩, ⟨54, 6, .rw, 0, .any⟩, ⟨60, 2, .ro, 0, .any⟩]⟩,
  ⟨"HOST_SQB", 0x2101008, 0x10, 64, 0x0, 1, [⟨0, 16, .ro, 0, .any⟩, ⟨16, 16, .ro, 0, .any⟩, ⟨32, 8, .ro, 0, .any⟩]⟩,
  ⟨"HOST_CQA", 0x2101400, 0x10, 64, 0x0, 1, [⟨12, 52, .rw, 0, .any⟩]⟩,
  ⟨"HOST_CQB", 0x2101408, 0x10, 64, 0x0, 1, [⟨0, 4, .rw, 0, .range 4 15⟩, ⟨4, 1, .rw, 0, .any⟩, ⟨5, 6, .rw, 8, .range 8 63⟩, ⟨11, 1, .ro, 1, .any⟩, ⟨12, 16, .ro, 0, .any⟩, ⟨28, 16, .ro, 0, .any⟩]⟩]

/-- The Mgt block. -/
def regsMgt : List RegDef := [
  ⟨"MGT_STATUS", 0x2200000, 0x0, 1, 0x0, 1, [⟨0, 7, .ro, 0, .any⟩, ⟨8, 8, .ro, 0, .any⟩, ⟨16, 1, .ro, 0, .any⟩, ⟨17, 1, .ro, 0, .any⟩, ⟨18, 1, .ro, 0, .any⟩, ⟨19, 1, .ro, 0, .any⟩]⟩,
  ⟨"MGT_TIME", 0x2200008, 0x0, 1, 0x0, 1, [⟨0, 1, .ro, 0, .any⟩, ⟨1, 1, .ro, 0, .any⟩, ⟨2, 1, .w1c, 0, .any⟩, ⟨16, 16, .rc, 0, .any⟩, ⟨32, 32, .ro, 0, .any⟩]⟩,
  ⟨"MGT_CNT", 0x2200010, 0x0, 1, 0x0, 1, [⟨0, 32, .ro, 0, .any⟩, ⟨32, 16, .rc, 0, .any⟩, ⟨48, 16, .rc, 0, .any⟩]⟩]

/-- Every register of BAR0 the manual defines. -/
def regTable : List RegDef :=
  regsDev ++ regsAq ++ regsCore ++ regsSp ++ regsMx ++ regsAtt ++ regsKv ++ regsGd ++ regsCx ++ regsFab ++ regsCj ++ regsInt ++ regsRst ++ regsPwr ++ regsSec ++ regsHost ++ regsMgt

/-- The block of BAR0 an offset lies in (R462), so that a search reads one chapter's registers. -/
def regsOfBlock (off : Nat) : List RegDef :=
  if off < 0x100000 then regsDev
  else if off < 0x200000 then regsAq
  else if off < 0xC00000 then regsCore
  else if off < 0xD00000 then regsSp
  else if off < 0xE00000 then regsMx
  else if off < 0xF00000 then regsAtt
  else if off < 0x1000000 then regsKv
  else if off < 0x1800000 then regsGd
  else if off < 0x1900000 then regsCx
  else if off < 0x1C00000 then regsFab
  else if off < 0x1D00000 then regsCj
  else if off < 0x1E00000 then regsInt
  else if off < 0x1F00000 then regsRst
  else if off < 0x2000000 then regsPwr
  else if off < 0x2100000 then regsSec
  else if off < 0x2200000 then regsHost
  else regsMgt

/-- The indices at which an offset is a register of the entry. -/
def RegDef.index (r : RegDef) (off : Nat) : Option (Nat × Nat) :=
  if off < r.base then none
  else
    let d := off - r.base
    let i := if r.s1 = 0 then 0 else d / r.s1
    let e := d - r.s1 * i
    let j := if r.s2 = 0 then 0 else e / r.s2
    if i < r.n1 ∧ j < r.n2 ∧ r.s1 * i + r.s2 * j = d then some (i, j) else none

/-- The first entry of a list that an offset is a register of. -/
def findRegIn : List RegDef → Nat → Option (RegDef × Nat × Nat)
  | [], _ => none
  | r :: rs, off =>
    match r.index off with
    | some (i, j) => some (r, i, j)
    | none => findRegIn rs off

/-- The register at an aligned offset of BAR0. -/
def findReg (off : Nat) : Option (RegDef × Nat × Nat) := findRegIn (regsOfBlock off) off

/-- A register word made of its fields' reset values. -/
def packReset (fs : List FieldDef) : Nat := (fs.map (fun f => f.reset * 2 ^ f.lo)).sum

/-- The value every register has after a power-on reset (R9): the tables' Reset column; where it says 'per part'
or 'per chain', the values of log entry 6. CORE_STATUS names L and the physical core R20 binds to it. -/
def resetValue (off : Nat) : Word :=
  match findReg off with
  | none => 0
  | some (r, i, _) =>
    if r.base = 0x200000 then
      BitVec.ofNat 64 (packReset r.fields + i * 2 ^ 16 + (19 * (i / 18) + i % 18) * 2 ^ 24)
    else if r.base = 0x1901100 ∧ i = 0 then 0
    else BitVec.ofNat 64 (packReset r.fields)

/-! The named fields. -/

-- 01_device_at_a_glance.md R27
def R.DEV_ID_ORDER : Fld := ⟨0x0, 0x0, 0x0, 0, 8⟩
def R.DEV_ID_STEPPING : Fld := ⟨0x0, 0x0, 0x0, 8, 8⟩
def R.DEV_ID_PRODUCT : Fld := ⟨0x0, 0x0, 0x0, 16, 16⟩
def R.DEV_ID_CORES_ENABLED : Fld := ⟨0x0, 0x0, 0x0, 32, 8⟩
def R.DEV_ID_GDDR_DEVICES : Fld := ⟨0x0, 0x0, 0x0, 40, 8⟩
-- 01_device_at_a_glance.md R28
def R.DEV_FIELD_MAP_USABLE : Fld := ⟨0x100, 0x8, 0x0, 0, 19⟩
def R.DEV_FIELD_MAP_SPARE_POS : Fld := ⟨0x100, 0x8, 0x0, 24, 5⟩
def R.DEV_FIELD_MAP_RETIRED : Fld := ⟨0x100, 0x8, 0x0, 32, 5⟩
def R.DEV_FIELD_MAP_PENDING : Fld := ⟨0x100, 0x8, 0x0, 37, 1⟩
-- 01_device_at_a_glance.md R29
def R.DEV_STEP_RATE_RATE : Fld := ⟨0x180, 0x8, 0x0, 0, 16⟩
def R.DEV_STEP_RATE_VCORE : Fld := ⟨0x180, 0x8, 0x0, 16, 16⟩
def R.DEV_STEP_RATE_TJ : Fld := ⟨0x180, 0x8, 0x0, 32, 16⟩
-- 19_roles_moods_attestation.md R524
def R.DEV_MOOD_SEC : Fld := ⟨0x200, 0x0, 0x0, 0, 2⟩
def R.DEV_MOOD_DEBUG : Fld := ⟨0x200, 0x0, 0x0, 2, 2⟩
def R.DEV_MOOD_POWER : Fld := ⟨0x200, 0x0, 0x0, 4, 3⟩
def R.DEV_MOOD_MOOD : Fld := ⟨0x200, 0x0, 0x0, 7, 6⟩
def R.DEV_MOOD_TAINT : Fld := ⟨0x200, 0x0, 0x0, 13, 1⟩
def R.DEV_MOOD_IDFAIL : Fld := ⟨0x200, 0x0, 0x0, 14, 1⟩
def R.DEV_MOOD_SITE : Fld := ⟨0x200, 0x0, 0x0, 15, 1⟩
-- 03_aqkai_stream.md R89
def R.AQ_SRC_ADDR : Fld := ⟨0x100000, 0x0, 0x0, 0, 62⟩
-- 03_aqkai_stream.md R89
def R.AQ_LEN_LENGTH : Fld := ⟨0x100008, 0x0, 0x0, 0, 25⟩
-- 03_aqkai_stream.md R89
def R.AQ_CTRL_START : Fld := ⟨0x100010, 0x0, 0x0, 0, 1⟩
def R.AQ_CTRL_KIND : Fld := ⟨0x100010, 0x0, 0x0, 1, 1⟩
-- 03_aqkai_stream.md R89
def R.AQ_STATUS_STATE : Fld := ⟨0x100018, 0x0, 0x0, 0, 2⟩
def R.AQ_STATUS_DEGRADED : Fld := ⟨0x100018, 0x0, 0x0, 2, 1⟩
def R.AQ_STATUS_DONE : Fld := ⟨0x100018, 0x0, 0x0, 3, 1⟩
def R.AQ_STATUS_ERR : Fld := ⟨0x100018, 0x0, 0x0, 8, 8⟩
def R.AQ_STATUS_SECTION : Fld := ⟨0x100018, 0x0, 0x0, 16, 8⟩
def R.AQ_STATUS_OFFSET : Fld := ⟨0x100018, 0x0, 0x0, 32, 24⟩
-- 03_aqkai_stream.md R89
def R.AQ_COUNT_ACCEPTED : Fld := ⟨0x100020, 0x0, 0x0, 0, 32⟩
def R.AQ_COUNT_REJECTED : Fld := ⟨0x100020, 0x0, 0x0, 32, 32⟩
-- 03_aqkai_stream.md R89
def R.AQ_RSV_BASE : Fld := ⟨0x100028, 0x0, 0x0, 0, 48⟩
def R.AQ_RSV_PARTIALS : Fld := ⟨0x100028, 0x0, 0x0, 48, 8⟩
-- 03_aqkai_stream.md R89
def R.AQ_DIGEST_DIGEST : Fld := ⟨0x100040, 0x8, 0x0, 0, 64⟩
-- 04_cores_sentences_scheduling.md R128
def R.CORE_STATUS_RUN : Fld := ⟨0x200000, 0x10000, 0x0, 0, 2⟩
def R.CORE_STATUS_SLOT : Fld := ⟨0x200000, 0x10000, 0x0, 2, 4⟩
def R.CORE_STATUS_WAITING : Fld := ⟨0x200000, 0x10000, 0x0, 6, 1⟩
def R.CORE_STATUS_WAIT_CJ : Fld := ⟨0x200000, 0x10000, 0x0, 7, 1⟩
def R.CORE_STATUS_CLAUSE : Fld := ⟨0x200000, 0x10000, 0x0, 8, 8⟩
def R.CORE_STATUS_LCORE : Fld := ⟨0x200000, 0x10000, 0x0, 16, 8⟩
def R.CORE_STATUS_PCORE : Fld := ⟨0x200000, 0x10000, 0x0, 24, 8⟩
-- 04_cores_sentences_scheduling.md R128
def R.CORE_RETIRED_COUNT : Fld := ⟨0x200008, 0x10000, 0x0, 0, 64⟩
-- 04_cores_sentences_scheduling.md R128
def R.CORE_TRAP0_CTX_ID : Fld := ⟨0x200010, 0x10000, 0x0, 0, 16⟩
def R.CORE_TRAP0_LCORE : Fld := ⟨0x200010, 0x10000, 0x0, 16, 8⟩
def R.CORE_TRAP0_SLOT : Fld := ⟨0x200010, 0x10000, 0x0, 24, 4⟩
def R.CORE_TRAP0_CAUSE : Fld := ⟨0x200010, 0x10000, 0x0, 28, 8⟩
def R.CORE_TRAP0_VALID : Fld := ⟨0x200010, 0x10000, 0x0, 36, 1⟩
def R.CORE_TRAP0_OVERFLOW : Fld := ⟨0x200010, 0x10000, 0x0, 37, 1⟩
def R.CORE_TRAP0_STATUS : Fld := ⟨0x200010, 0x10000, 0x0, 38, 4⟩
-- 04_cores_sentences_scheduling.md R128
def R.CORE_TRAP1_SADDR : Fld := ⟨0x200018, 0x10000, 0x0, 0, 48⟩
-- 04_cores_sentences_scheduling.md R128
def R.CORE_TRAP2_DETAIL : Fld := ⟨0x200020, 0x10000, 0x0, 0, 64⟩
-- 04_cores_sentences_scheduling.md R128
def R.CORE_SWITCHES_SWITCHES : Fld := ⟨0x200030, 0x10000, 0x0, 0, 32⟩
-- 04_cores_sentences_scheduling.md R128
def R.CORE_CTX_QUOTA_LEFT : Fld := ⟨0x200040, 0x10000, 0x8, 0, 26⟩
def R.CORE_CTX_CSTATE : Fld := ⟨0x200040, 0x10000, 0x8, 26, 2⟩
def R.CORE_CTX_DIVZ : Fld := ⟨0x200040, 0x10000, 0x8, 28, 1⟩
def R.CORE_CTX_SAT : Fld := ⟨0x200040, 0x10000, 0x8, 29, 1⟩
-- 09_scratchpad.md R278
def R.SP_CNT_CORRECTED : Fld := ⟨0xC00000, 0x100, 0x0, 0, 32⟩
def R.SP_CNT_UNCORR : Fld := ⟨0xC00000, 0x100, 0x0, 32, 16⟩
def R.SP_CNT_PARITY : Fld := ⟨0xC00000, 0x100, 0x0, 48, 16⟩
-- 09_scratchpad.md R278
def R.SP_ERR_ADDR : Fld := ⟨0xC00008, 0x100, 0x0, 0, 24⟩
def R.SP_ERR_SYNDROME : Fld := ⟨0xC00008, 0x100, 0x0, 24, 8⟩
def R.SP_ERR_MODE : Fld := ⟨0xC00008, 0x100, 0x0, 32, 1⟩
def R.SP_ERR_UE : Fld := ⟨0xC00008, 0x100, 0x0, 33, 1⟩
def R.SP_ERR_SCRUB : Fld := ⟨0xC00008, 0x100, 0x0, 34, 1⟩
def R.SP_ERR_INJECTED : Fld := ⟨0xC00008, 0x100, 0x0, 35, 1⟩
def R.SP_ERR_VALID : Fld := ⟨0xC00008, 0x100, 0x0, 36, 1⟩
-- 09_scratchpad.md R278
def R.SP_FLIPD_DATA : Fld := ⟨0xC00010, 0x100, 0x0, 0, 64⟩
-- 09_scratchpad.md R278
def R.SP_FLIPC_CHECK : Fld := ⟨0xC00018, 0x100, 0x0, 0, 8⟩
def R.SP_FLIPC_ARM : Fld := ⟨0xC00018, 0x100, 0x0, 8, 1⟩
def R.SP_FLIPC_ARMED : Fld := ⟨0xC00018, 0x100, 0x0, 9, 1⟩
def R.SP_FLIPC_MATCH : Fld := ⟨0xC00018, 0x100, 0x0, 10, 1⟩
def R.SP_FLIPC_ADDR : Fld := ⟨0xC00018, 0x100, 0x0, 32, 24⟩
-- 09_scratchpad.md R280
def R.SP_SCRUB_INTERVAL : Fld := ⟨0xC0F000, 0x0, 0x0, 0, 16⟩
def R.SP_SCRUB_PASSES : Fld := ⟨0xC0F000, 0x0, 0x0, 32, 32⟩
-- 05_matrix_array.md R162
def R.MX_LIMIT_LIMIT : Fld := ⟨0xD00000, 0x0, 0x0, 0, 5⟩
-- 05_matrix_array.md R163
def R.MX_INJECT_CORE : Fld := ⟨0xD00008, 0x0, 0x0, 0, 8⟩
def R.MX_INJECT_ARM : Fld := ⟨0xD00008, 0x0, 0x0, 8, 1⟩
-- 05_matrix_array.md R164
def R.MX_CNT_COMPARED : Fld := ⟨0xD01000, 0x10, 0x0, 0, 32⟩
def R.MX_CNT_FAILED : Fld := ⟨0xD01000, 0x10, 0x0, 32, 16⟩
def R.MX_CNT_SKIPPED : Fld := ⟨0xD01000, 0x10, 0x0, 48, 16⟩
-- 05_matrix_array.md R165
def R.MX_STAT_ENABLED : Fld := ⟨0xD01008, 0x10, 0x0, 0, 5⟩
def R.MX_STAT_LD7 : Fld := ⟨0xD01008, 0x10, 0x0, 5, 1⟩
def R.MX_STAT_RAMPDOWN : Fld := ⟨0xD01008, 0x10, 0x0, 6, 1⟩
def R.MX_STAT_BUSY : Fld := ⟨0xD01008, 0x10, 0x0, 7, 1⟩
def R.MX_STAT_ACTIVE : Fld := ⟨0xD01008, 0x10, 0x0, 8, 1⟩
-- 07_attention_engine.md R217
def R.ATT_CMD_DESC : Fld := ⟨0xE00000, 0x1000, 0x8, 0, 64⟩
-- 07_attention_engine.md R218
def R.ATT_STAT_BUSY : Fld := ⟨0xE00100, 0x1000, 0x0, 0, 1⟩
def R.ATT_STAT_CHANNEL : Fld := ⟨0xE00100, 0x1000, 0x0, 1, 3⟩
def R.ATT_STAT_OP : Fld := ⟨0xE00100, 0x1000, 0x0, 4, 2⟩
def R.ATT_STAT_CAUSE : Fld := ⟨0xE00100, 0x1000, 0x0, 8, 8⟩
def R.ATT_STAT_CTX_ID : Fld := ⟨0xE00100, 0x1000, 0x0, 16, 16⟩
def R.ATT_STAT_REJECTED : Fld := ⟨0xE00100, 0x1000, 0x0, 32, 1⟩
-- 07_attention_engine.md R219
def R.ATT_CNT_DONE : Fld := ⟨0xE00108, 0x1000, 0x0, 0, 32⟩
def R.ATT_CNT_REJECTS : Fld := ⟨0xE00108, 0x1000, 0x0, 32, 16⟩
def R.ATT_CNT_DISCARDED : Fld := ⟨0xE00108, 0x1000, 0x0, 48, 16⟩
-- 07_attention_engine.md R220
def R.ATT_ROWS_EMPTY : Fld := ⟨0xE00110, 0x1000, 0x0, 0, 32⟩
def R.ATT_ROWS_BADSTAT : Fld := ⟨0xE00110, 0x1000, 0x0, 32, 16⟩
def R.ATT_ROWS_VOIDROWS : Fld := ⟨0xE00110, 0x1000, 0x0, 48, 16⟩
-- 08_kv_cache_and_prefixes.md R247
def R.KV_POOL_BASE : Fld := ⟨0xF00000, 0x0, 0x0, 0, 22⟩
def R.KV_POOL_PAGES : Fld := ⟨0xF00000, 0x0, 0x0, 22, 22⟩
def R.KV_POOL_AREA : Fld := ⟨0xF00000, 0x0, 0x0, 44, 8⟩
-- 08_kv_cache_and_prefixes.md R248
def R.KV_SEQTAB_ADDR : Fld := ⟨0xF00008, 0x0, 0x0, 0, 48⟩
-- 08_kv_cache_and_prefixes.md R249
def R.KV_PFX_BASE : Fld := ⟨0xF00010, 0x0, 0x0, 0, 22⟩
def R.KV_PFX_BBITS : Fld := ⟨0xF00010, 0x0, 0x0, 22, 5⟩
-- 08_kv_cache_and_prefixes.md R250
def R.KV_SPILLH_BASE : Fld := ⟨0xF00018, 0x0, 0x0, 16, 48⟩
-- 08_kv_cache_and_prefixes.md R250
def R.KV_SPILLH_SIZE_SLOTS : Fld := ⟨0xF00020, 0x0, 0x0, 0, 32⟩
-- 08_kv_cache_and_prefixes.md R250
def R.KV_SPILLP_BASE : Fld := ⟨0xF00028, 0x0, 0x0, 0, 22⟩
def R.KV_SPILLP_SLOTS : Fld := ⟨0xF00028, 0x0, 0x0, 22, 22⟩
-- 08_kv_cache_and_prefixes.md R251
def R.KV_STATUS_SEQS : Fld := ⟨0xF00030, 0x0, 0x0, 0, 15⟩
def R.KV_STATUS_FREE : Fld := ⟨0xF00030, 0x0, 0x0, 15, 22⟩
def R.KV_STATUS_CACHED : Fld := ⟨0xF00030, 0x0, 0x0, 37, 22⟩
-- 08_kv_cache_and_prefixes.md R251
def R.KV_OPENS_OPENS : Fld := ⟨0xF00038, 0x0, 0x0, 0, 32⟩
-- 08_kv_cache_and_prefixes.md R252
def R.KV_CNT0_SPILLS : Fld := ⟨0xF00040, 0x0, 0x0, 0, 32⟩
def R.KV_CNT0_FETCHES : Fld := ⟨0xF00040, 0x0, 0x0, 32, 32⟩
-- 08_kv_cache_and_prefixes.md R252
def R.KV_CNT1_DROPS : Fld := ⟨0xF00048, 0x0, 0x0, 0, 32⟩
def R.KV_CNT1_STARVE : Fld := ⟨0xF00048, 0x0, 0x0, 32, 16⟩
def R.KV_CNT1_DISCARDED : Fld := ⟨0xF00048, 0x0, 0x0, 48, 16⟩
-- 08_kv_cache_and_prefixes.md R252
def R.KV_CNT2_HITS : Fld := ⟨0xF00050, 0x0, 0x0, 0, 32⟩
def R.KV_CNT2_COLLIDE : Fld := ⟨0xF00050, 0x0, 0x0, 32, 16⟩
def R.KV_CNT2_FULL : Fld := ⟨0xF00050, 0x0, 0x0, 48, 16⟩
-- 08_kv_cache_and_prefixes.md R252
def R.KV_EVENT_SEQ : Fld := ⟨0xF00058, 0x0, 0x0, 0, 14⟩
def R.KV_EVENT_JOB : Fld := ⟨0xF00058, 0x0, 0x0, 16, 16⟩
def R.KV_EVENT_SHORT : Fld := ⟨0xF00058, 0x0, 0x0, 32, 16⟩
def R.KV_EVENT_OPEN : Fld := ⟨0xF00058, 0x0, 0x0, 48, 16⟩
-- 08_kv_cache_and_prefixes.md R253
def R.KV_CMD_CMD : Fld := ⟨0xF01000, 0x40, 0x8, 0, 64⟩
-- 10_gddr7_memory.md R300
def R.GD_STATUS_STATE : Fld := ⟨0x1000000, 0x40000, 0x0, 0, 2⟩
def R.GD_STATUS_DEVICES : Fld := ⟨0x1000000, 0x40000, 0x0, 2, 2⟩
def R.GD_STATUS_TEMP0 : Fld := ⟨0x1000000, 0x40000, 0x0, 4, 8⟩
def R.GD_STATUS_TEMP1 : Fld := ⟨0x1000000, 0x40000, 0x0, 12, 8⟩
def R.GD_STATUS_RETRAINS : Fld := ⟨0x1000000, 0x40000, 0x0, 20, 16⟩
-- 10_gddr7_memory.md R301
def R.GD_CNT0_INNER : Fld := ⟨0x1000008, 0x40000, 0x0, 0, 32⟩
def R.GD_CNT0_OUTER : Fld := ⟨0x1000008, 0x40000, 0x0, 32, 16⟩
def R.GD_CNT0_UE : Fld := ⟨0x1000008, 0x40000, 0x0, 48, 16⟩
-- 10_gddr7_memory.md R301
def R.GD_CNT1_RETRY : Fld := ⟨0x1000010, 0x40000, 0x0, 0, 16⟩
def R.GD_CNT1_ERASED : Fld := ⟨0x1000010, 0x40000, 0x0, 16, 16⟩
def R.GD_CNT1_REMAPFULL : Fld := ⟨0x1000010, 0x40000, 0x0, 32, 16⟩
-- 10_gddr7_memory.md R302
def R.GD_ERR_BLOCK : Fld := ⟨0x1000018, 0x40000, 0x0, 0, 25⟩
def R.GD_ERR_UNITS : Fld := ⟨0x1000018, 0x40000, 0x0, 25, 17⟩
def R.GD_ERR_E0 : Fld := ⟨0x1000018, 0x40000, 0x0, 42, 4⟩
def R.GD_ERR_E1 : Fld := ⟨0x1000018, 0x40000, 0x0, 46, 4⟩
def R.GD_ERR_UE : Fld := ⟨0x1000018, 0x40000, 0x0, 50, 1⟩
def R.GD_ERR_POISON : Fld := ⟨0x1000018, 0x40000, 0x0, 51, 1⟩
def R.GD_ERR_SCRUB : Fld := ⟨0x1000018, 0x40000, 0x0, 52, 1⟩
def R.GD_ERR_INJECTED : Fld := ⟨0x1000018, 0x40000, 0x0, 53, 1⟩
def R.GD_ERR_VALID : Fld := ⟨0x1000018, 0x40000, 0x0, 54, 1⟩
-- 10_gddr7_memory.md R303
def R.GD_SCRUB_HOURS : Fld := ⟨0x1000020, 0x40000, 0x0, 0, 8⟩
def R.GD_SCRUB_PASSES : Fld := ⟨0x1000020, 0x40000, 0x0, 32, 32⟩
-- 10_gddr7_memory.md R305
def R.GD_FLIPD0_MASK_LO : Fld := ⟨0x1000180, 0x40000, 0x0, 0, 64⟩
-- 10_gddr7_memory.md R305
def R.GD_FLIPD1_MASK_HI : Fld := ⟨0x1000188, 0x40000, 0x0, 0, 64⟩
-- 10_gddr7_memory.md R305
def R.GD_FLIPC_UNIT : Fld := ⟨0x1000190, 0x40000, 0x0, 0, 5⟩
def R.GD_FLIPC_HINT : Fld := ⟨0x1000190, 0x40000, 0x0, 5, 1⟩
def R.GD_FLIPC_CRC : Fld := ⟨0x1000190, 0x40000, 0x0, 6, 1⟩
def R.GD_FLIPC_ARM : Fld := ⟨0x1000190, 0x40000, 0x0, 7, 1⟩
def R.GD_FLIPC_ARMED : Fld := ⟨0x1000190, 0x40000, 0x0, 8, 1⟩
def R.GD_FLIPC_MATCH : Fld := ⟨0x1000190, 0x40000, 0x0, 9, 1⟩
def R.GD_FLIPC_BLOCK : Fld := ⟨0x1000190, 0x40000, 0x0, 10, 25⟩
-- 10_gddr7_memory.md R304
def R.GD_REMAP_BLOCK : Fld := ⟨0x1000100, 0x40000, 0x8, 0, 25⟩
def R.GD_REMAP_SPARE : Fld := ⟨0x1000100, 0x40000, 0x8, 25, 14⟩
def R.GD_REMAP_VALID : Fld := ⟨0x1000100, 0x40000, 0x8, 39, 1⟩
def R.GD_REMAP_BUSY : Fld := ⟨0x1000100, 0x40000, 0x8, 40, 1⟩
def R.GD_REMAP_AUTO : Fld := ⟨0x1000100, 0x40000, 0x8, 41, 1⟩
def R.GD_REMAP_POISONED : Fld := ⟨0x1000100, 0x40000, 0x8, 42, 1⟩
-- 12_compression.md R351
def R.CX_CTRL_ENCGEN : Fld := ⟨0x1800000, 0x0, 0x0, 0, 8⟩
-- 12_compression.md R352
def R.CX_TBL_SRC_ADDR : Fld := ⟨0x1800008, 0x0, 0x0, 0, 62⟩
-- 12_compression.md R352
def R.CX_TBL_CMD_GEN : Fld := ⟨0x1800010, 0x0, 0x0, 0, 8⟩
def R.CX_TBL_CMD_START : Fld := ⟨0x1800010, 0x0, 0x0, 8, 1⟩
-- 12_compression.md R352
def R.CX_TBL_STAT_BUSY : Fld := ⟨0x1800018, 0x0, 0x0, 0, 1⟩
def R.CX_TBL_STAT_DONE : Fld := ⟨0x1800018, 0x0, 0x0, 1, 1⟩
def R.CX_TBL_STAT_ERR : Fld := ⟨0x1800018, 0x0, 0x0, 4, 4⟩
-- 12_compression.md R352
def R.CX_SLOTS_GENS : Fld := ⟨0x1800020, 0x0, 0x0, 0, 32⟩
def R.CX_SLOTS_VALID : Fld := ⟨0x1800020, 0x0, 0x0, 32, 4⟩
-- 12_compression.md R353
def R.CX_RANGE_A_CTRL : Fld := ⟨0x1800100, 0x10, 0x0, 0, 5⟩
def R.CX_RANGE_A_EN : Fld := ⟨0x1800100, 0x10, 0x0, 5, 1⟩
def R.CX_RANGE_A_ECLASS : Fld := ⟨0x1800100, 0x10, 0x0, 6, 3⟩
def R.CX_RANGE_A_READY : Fld := ⟨0x1800100, 0x10, 0x0, 9, 1⟩
def R.CX_RANGE_A_REJECT : Fld := ⟨0x1800100, 0x10, 0x0, 10, 1⟩
def R.CX_RANGE_A_BASE : Fld := ⟨0x1800100, 0x10, 0x0, 12, 21⟩
def R.CX_RANGE_A_SIZE : Fld := ⟨0x1800100, 0x10, 0x0, 33, 21⟩
-- 12_compression.md R353
def R.CX_RANGE_B_SIDE : Fld := ⟨0x1800108, 0x10, 0x0, 0, 48⟩
-- 12_compression.md R354
def R.CX_CNT_RAW : Fld := ⟨0x1800200, 0x8, 0x0, 0, 16⟩
def R.CX_CNT_MISMATCH : Fld := ⟨0x1800200, 0x8, 0x0, 16, 12⟩
def R.CX_CNT_GENMISS : Fld := ⟨0x1800200, 0x8, 0x0, 28, 12⟩
def R.CX_CNT_CHECK : Fld := ⟨0x1800200, 0x8, 0x0, 40, 12⟩
def R.CX_CNT_QUEUE : Fld := ⟨0x1800200, 0x8, 0x0, 52, 7⟩
-- 12_compression.md R354
def R.CX_ERR_BLOCK : Fld := ⟨0x1800240, 0x8, 0x0, 0, 21⟩
def R.CX_ERR_CTRL : Fld := ⟨0x1800240, 0x8, 0x0, 21, 2⟩
def R.CX_ERR_CAUSE : Fld := ⟨0x1800240, 0x8, 0x0, 23, 3⟩
def R.CX_ERR_VALID : Fld := ⟨0x1800240, 0x8, 0x0, 26, 1⟩
-- 13_fabric_links.md R376
def R.FAB_LSTAT_STATE : Fld := ⟨0x1900000, 0x40, 0x0, 0, 4⟩
def R.FAB_LSTAT_ROLE : Fld := ⟨0x1900000, 0x40, 0x0, 4, 2⟩
def R.FAB_LSTAT_RXINV : Fld := ⟨0x1900000, 0x40, 0x0, 6, 1⟩
def R.FAB_LSTAT_INVMISMATCH : Fld := ⟨0x1900000, 0x40, 0x0, 7, 1⟩
def R.FAB_LSTAT_CAUSE : Fld := ⟨0x1900000, 0x40, 0x0, 8, 4⟩
-- 13_fabric_links.md R376
def R.FAB_LPEER_CHIP : Fld := ⟨0x1900008, 0x40, 0x0, 0, 14⟩
def R.FAB_LPEER_PORT : Fld := ⟨0x1900008, 0x40, 0x0, 14, 4⟩
def R.FAB_LPEER_INC : Fld := ⟨0x1900008, 0x40, 0x0, 18, 16⟩
-- 13_fabric_links.md R376
def R.FAB_LCTRL_RETRAIN : Fld := ⟨0x1900010, 0x40, 0x0, 0, 1⟩
def R.FAB_LCTRL_REVIVE : Fld := ⟨0x1900010, 0x40, 0x0, 1, 1⟩
-- 13_fabric_links.md R377
def R.FAB_LCNT0_FECSYM : Fld := ⟨0x1900018, 0x40, 0x0, 0, 32⟩
def R.FAB_LCNT0_FECUE : Fld := ⟨0x1900018, 0x40, 0x0, 32, 16⟩
def R.FAB_LCNT0_CRCERR : Fld := ⟨0x1900018, 0x40, 0x0, 48, 16⟩
-- 13_fabric_links.md R377
def R.FAB_LCNT1_REPLAY : Fld := ⟨0x1900020, 0x40, 0x0, 0, 16⟩
def R.FAB_LCNT1_RETRAINS : Fld := ⟨0x1900020, 0x40, 0x0, 16, 16⟩
def R.FAB_LCNT1_TRAININGS : Fld := ⟨0x1900020, 0x40, 0x0, 32, 16⟩
def R.FAB_LCNT1_DOWNS : Fld := ⟨0x1900020, 0x40, 0x0, 48, 16⟩
-- 13_fabric_links.md R378
def R.FAB_ID_CHIP : Fld := ⟨0x1901000, 0x0, 0x0, 0, 14⟩
def R.FAB_ID_INC : Fld := ⟨0x1901000, 0x0, 0x0, 16, 16⟩
-- 13_fabric_links.md R378
def R.FAB_TIMEOUT_USEC : Fld := ⟨0x1901008, 0x0, 0x0, 0, 17⟩
-- 13_fabric_links.md R378
def R.FAB_FECLIM_SYMS : Fld := ⟨0x1901010, 0x0, 0x0, 0, 32⟩
-- 13_fabric_links.md R378
def R.FAB_STALE_DROPPED : Fld := ⟨0x1901018, 0x0, 0x0, 0, 32⟩
def R.FAB_STALE_CHIP : Fld := ⟨0x1901018, 0x0, 0x0, 32, 14⟩
def R.FAB_STALE_INC : Fld := ⟨0x1901018, 0x0, 0x0, 48, 16⟩
-- 13_fabric_links.md R378
def R.FAB_TENT_OPEN : Fld := ⟨0x1901020, 0x0, 0x0, 0, 17⟩
def R.FAB_TENT_LATE : Fld := ⟨0x1901020, 0x0, 0x0, 32, 16⟩
def R.FAB_TENT_UNKNOWN : Fld := ⟨0x1901020, 0x0, 0x0, 48, 16⟩
-- 13_fabric_links.md R378
def R.FAB_STAT_COUNT : Fld := ⟨0x1901100, 0x8, 0x0, 0, 32⟩
def R.FAB_STAT_CHIP : Fld := ⟨0x1901100, 0x8, 0x0, 32, 14⟩
-- 14_fabric_topology_and_collectives.md R405
def R.CJ_COORD_GROUP : Fld := ⟨0x1C00000, 0x0, 0x0, 0, 8⟩
def R.CJ_COORD_SLOT : Fld := ⟨0x1C00000, 0x0, 0x0, 8, 6⟩
def R.CJ_COORD_SET : Fld := ⟨0x1C00000, 0x0, 0x0, 14, 1⟩
def R.CJ_COORD_PREVINC : Fld := ⟨0x1C00000, 0x0, 0x0, 16, 16⟩
def R.CJ_COORD_ORDERS : Fld := ⟨0x1C00000, 0x0, 0x0, 32, 16⟩
def R.CJ_COORD_REJECTS : Fld := ⟨0x1C00000, 0x0, 0x0, 48, 16⟩
-- 14_fabric_topology_and_collectives.md R406
def R.CJ_MMAP_ADDR : Fld := ⟨0x1C00008, 0x0, 0x0, 0, 48⟩
def R.CJ_MMAP_VALID : Fld := ⟨0x1C00008, 0x0, 0x0, 48, 1⟩
-- 14_fabric_topology_and_collectives.md R407
def R.CJ_JOBA_JOB : Fld := ⟨0x1C00100, 0x10, 0x0, 0, 16⟩
def R.CJ_JOBA_TREE : Fld := ⟨0x1C00100, 0x10, 0x0, 16, 16⟩
def R.CJ_JOBA_NODE : Fld := ⟨0x1C00100, 0x10, 0x0, 32, 9⟩
def R.CJ_JOBA_STATE : Fld := ⟨0x1C00100, 0x10, 0x0, 41, 3⟩
-- 14_fabric_topology_and_collectives.md R407
def R.CJ_JOBB_TENSE : Fld := ⟨0x1C00108, 0x10, 0x0, 0, 32⟩
def R.CJ_JOBB_RERUNS : Fld := ⟨0x1C00108, 0x10, 0x0, 32, 4⟩
def R.CJ_JOBB_CAUSE : Fld := ⟨0x1C00108, 0x10, 0x0, 36, 4⟩
def R.CJ_JOBB_FROM : Fld := ⟨0x1C00108, 0x10, 0x0, 40, 14⟩
-- 14_fabric_topology_and_collectives.md R408
def R.CJ_CNT_HOLDS : Fld := ⟨0x1C00200, 0x0, 0x0, 0, 16⟩
def R.CJ_CNT_RESETS : Fld := ⟨0x1C00200, 0x0, 0x0, 16, 16⟩
def R.CJ_CNT_LATE : Fld := ⟨0x1C00200, 0x0, 0x0, 32, 12⟩
def R.CJ_CNT_ODD : Fld := ⟨0x1C00200, 0x0, 0x0, 44, 12⟩
def R.CJ_CNT_ADDERR : Fld := ⟨0x1C00200, 0x0, 0x0, 56, 8⟩
-- 15_integrity_and_silent_errors.md R430
def R.INT_LOGD_BASE : Fld := ⟨0x1D00000, 0x0, 0x0, 0, 48⟩
def R.INT_LOGD_SIZE : Fld := ⟨0x1D00000, 0x0, 0x0, 48, 5⟩
def R.INT_LOGD_EN : Fld := ⟨0x1D00000, 0x0, 0x0, 53, 1⟩
-- 15_integrity_and_silent_errors.md R430
def R.INT_LOGD_PTR_HEAD : Fld := ⟨0x1D00008, 0x0, 0x0, 0, 32⟩
def R.INT_LOGD_PTR_TAIL : Fld := ⟨0x1D00008, 0x0, 0x0, 32, 32⟩
-- 15_integrity_and_silent_errors.md R430
def R.INT_LOGC_BASE : Fld := ⟨0x1D00010, 0x0, 0x0, 0, 48⟩
def R.INT_LOGC_SIZE : Fld := ⟨0x1D00010, 0x0, 0x0, 48, 5⟩
def R.INT_LOGC_EN : Fld := ⟨0x1D00010, 0x0, 0x0, 53, 1⟩
-- 15_integrity_and_silent_errors.md R430
def R.INT_LOGC_PTR_HEAD : Fld := ⟨0x1D00018, 0x0, 0x0, 0, 32⟩
def R.INT_LOGC_PTR_TAIL : Fld := ⟨0x1D00018, 0x0, 0x0, 32, 32⟩
-- 15_integrity_and_silent_errors.md R430
def R.INT_LOST_LOSTD : Fld := ⟨0x1D00020, 0x0, 0x0, 0, 16⟩
def R.INT_LOST_LOSTC : Fld := ⟨0x1D00020, 0x0, 0x0, 16, 32⟩
-- 15_integrity_and_silent_errors.md R430
def R.INT_CLIM_MS : Fld := ⟨0x1D00028, 0x0, 0x0, 0, 16⟩
-- 15_integrity_and_silent_errors.md R430
def R.INT_TIME_NS : Fld := ⟨0x1D00030, 0x0, 0x0, 0, 64⟩
-- 15_integrity_and_silent_errors.md R431
def R.INT_PROOF_SAMPLED : Fld := ⟨0x1D00038, 0x0, 0x0, 0, 32⟩
def R.INT_PROOF_MISMATCH : Fld := ⟨0x1D00038, 0x0, 0x0, 32, 12⟩
def R.INT_PROOF_SKIPPED : Fld := ⟨0x1D00038, 0x0, 0x0, 44, 12⟩
def R.INT_PROOF_LATE : Fld := ⟨0x1D00038, 0x0, 0x0, 56, 8⟩
-- 15_integrity_and_silent_errors.md R431
def R.INT_AGREE_CHECKED : Fld := ⟨0x1D00040, 0x0, 0x0, 0, 32⟩
def R.INT_AGREE_FAILED : Fld := ⟨0x1D00040, 0x0, 0x0, 32, 16⟩
-- 15_integrity_and_silent_errors.md R432
def R.INT_DICT_BASE : Fld := ⟨0x1D00048, 0x0, 0x0, 0, 48⟩
def R.INT_DICT_MIB : Fld := ⟨0x1D00048, 0x0, 0x0, 48, 8⟩
-- 15_integrity_and_silent_errors.md R432
def R.INT_DSRC_ADDR : Fld := ⟨0x1D00050, 0x0, 0x0, 0, 62⟩
-- 15_integrity_and_silent_errors.md R432
def R.INT_DCMD_LOAD : Fld := ⟨0x1D00058, 0x0, 0x0, 0, 1⟩
def R.INT_DCMD_CANCEL : Fld := ⟨0x1D00058, 0x0, 0x0, 1, 1⟩
def R.INT_DCMD_SLOT : Fld := ⟨0x1D00058, 0x0, 0x0, 2, 2⟩
-- 15_integrity_and_silent_errors.md R432
def R.INT_DSTAT_USED : Fld := ⟨0x1D00060, 0x0, 0x0, 0, 4⟩
def R.INT_DSTAT_DONE : Fld := ⟨0x1D00060, 0x0, 0x0, 4, 4⟩
def R.INT_DSTAT_ERR : Fld := ⟨0x1D00060, 0x0, 0x0, 8, 8⟩
def R.INT_DSTAT_LOADED : Fld := ⟨0x1D00060, 0x0, 0x0, 16, 1⟩
-- 15_integrity_and_silent_errors.md R431
def R.INT_SCOPE_MISMATCH : Fld := ⟨0x1D01000, 0x8, 0x0, 0, 16⟩
-- 16_reset_hang_recovery.md R450
def R.RST_CTRL_DOMAIN : Fld := ⟨0x1E00000, 0x0, 0x0, 0, 3⟩
def R.RST_CTRL_TARGET : Fld := ⟨0x1E00000, 0x0, 0x0, 3, 8⟩
def R.RST_CTRL_GO : Fld := ⟨0x1E00000, 0x0, 0x0, 11, 1⟩
-- 16_reset_hang_recovery.md R451
def R.RST_STATUS_PHASE : Fld := ⟨0x1E00008, 0x0, 0x0, 0, 3⟩
def R.RST_STATUS_LAST : Fld := ⟨0x1E00008, 0x0, 0x0, 3, 3⟩
def R.RST_STATUS_BUSY : Fld := ⟨0x1E00008, 0x0, 0x0, 6, 1⟩
def R.RST_STATUS_BADORDER : Fld := ⟨0x1E00008, 0x0, 0x0, 7, 1⟩
def R.RST_STATUS_CAUSE : Fld := ⟨0x1E00008, 0x0, 0x0, 8, 8⟩
-- 16_reset_hang_recovery.md R452
def R.RST_HEART_BEAT : Fld := ⟨0x1E00010, 0x0, 0x0, 0, 32⟩
-- 16_reset_hang_recovery.md R452
def R.RST_MON_ARMED : Fld := ⟨0x1E00018, 0x0, 0x0, 0, 1⟩
def R.RST_MON_MISSED : Fld := ⟨0x1E00018, 0x0, 0x0, 1, 3⟩
def R.RST_MON_RECENT : Fld := ⟨0x1E00018, 0x0, 0x0, 4, 4⟩
def R.RST_MON_CCRESETS : Fld := ⟨0x1E00018, 0x0, 0x0, 8, 16⟩
def R.RST_MON_FOREIGN : Fld := ⟨0x1E00018, 0x0, 0x0, 24, 16⟩
-- 16_reset_hang_recovery.md R453
def R.RST_HANGCFG_LIMIT : Fld := ⟨0x1E00020, 0x0, 0x0, 0, 8⟩
def R.RST_HANGCFG_WINDOW : Fld := ⟨0x1E00020, 0x0, 0x0, 16, 16⟩
def R.RST_HANGCFG_HANGS : Fld := ⟨0x1E00020, 0x0, 0x0, 32, 16⟩
-- 16_reset_hang_recovery.md R453
def R.RST_CNT_DOMAINS : Fld := ⟨0x1E00028, 0x0, 0x0, 0, 48⟩
def R.RST_CNT_ABSORBED : Fld := ⟨0x1E00028, 0x0, 0x0, 48, 8⟩
-- 16_reset_hang_recovery.md R454
def R.RST_FW_SRC_ADDR : Fld := ⟨0x1E00100, 0x0, 0x0, 0, 64⟩
-- 16_reset_hang_recovery.md R454
def R.RST_FW_LEN_LENGTH : Fld := ⟨0x1E00108, 0x0, 0x0, 0, 23⟩
-- 16_reset_hang_recovery.md R454
def R.RST_FW_CMD_START : Fld := ⟨0x1E00110, 0x0, 0x0, 0, 1⟩
-- 16_reset_hang_recovery.md R454
def R.RST_FW_STAT_BUSY : Fld := ⟨0x1E00118, 0x0, 0x0, 0, 1⟩
def R.RST_FW_STAT_DONE : Fld := ⟨0x1E00118, 0x0, 0x0, 1, 1⟩
def R.RST_FW_STAT_ERR : Fld := ⟨0x1E00118, 0x0, 0x0, 4, 4⟩
def R.RST_FW_STAT_FWVER : Fld := ⟨0x1E00118, 0x0, 0x0, 16, 32⟩
-- 18_power_and_thermal.md R499
def R.PWR_STATE_STATE : Fld := ⟨0x1F00000, 0x0, 0x0, 0, 3⟩
def R.PWR_STATE_BUSY : Fld := ⟨0x1F00000, 0x0, 0x0, 3, 1⟩
def R.PWR_STATE_ERR : Fld := ⟨0x1F00000, 0x0, 0x0, 4, 4⟩
-- 18_power_and_thermal.md R499
def R.PWR_CTRL_TARGET : Fld := ⟨0x1F00008, 0x0, 0x0, 0, 3⟩
def R.PWR_CTRL_GO : Fld := ⟨0x1F00008, 0x0, 0x0, 3, 1⟩
-- 18_power_and_thermal.md R499
def R.PWR_INPUT_VIN : Fld := ⟨0x1F00010, 0x0, 0x0, 0, 16⟩
def R.PWR_INPUT_IIN : Fld := ⟨0x1F00010, 0x0, 0x0, 16, 16⟩
def R.PWR_INPUT_PIN : Fld := ⟨0x1F00010, 0x0, 0x0, 32, 16⟩
def R.PWR_INPUT_V5 : Fld := ⟨0x1F00010, 0x0, 0x0, 48, 16⟩
-- 18_power_and_thermal.md R500
def R.PWR_CAP_INSTALLED : Fld := ⟨0x1F00018, 0x0, 0x0, 0, 16⟩
def R.PWR_CAP_SOFT : Fld := ⟨0x1F00018, 0x0, 0x0, 16, 16⟩
def R.PWR_CAP_EFFECTIVE : Fld := ⟨0x1F00018, 0x0, 0x0, 32, 16⟩
-- 18_power_and_thermal.md R501
def R.PWR_ALERT_WARN : Fld := ⟨0x1F00020, 0x0, 0x0, 0, 1⟩
def R.PWR_ALERT_THERM : Fld := ⟨0x1F00020, 0x0, 0x0, 1, 1⟩
def R.PWR_ALERT_CAPPED : Fld := ⟨0x1F00020, 0x0, 0x0, 2, 1⟩
def R.PWR_ALERT_CURRENT : Fld := ⟨0x1F00020, 0x0, 0x0, 3, 1⟩
-- 18_power_and_thermal.md R501
def R.PWR_ALERT_EN_EN : Fld := ⟨0x1F00028, 0x0, 0x0, 0, 4⟩
-- 18_power_and_thermal.md R501
def R.PWR_CNT_WARNINGS : Fld := ⟨0x1F00030, 0x0, 0x0, 0, 16⟩
def R.PWR_CNT_CAPPED_MS : Fld := ⟨0x1F00030, 0x0, 0x0, 16, 32⟩
def R.PWR_CNT_THERMAL : Fld := ⟨0x1F00030, 0x0, 0x0, 48, 16⟩
-- 18_power_and_thermal.md R502
def R.PWR_VREQ_REQUEST : Fld := ⟨0x1F00100, 0x8, 0x0, 0, 16⟩
def R.PWR_VREQ_GRANT : Fld := ⟨0x1F00100, 0x8, 0x0, 16, 16⟩
def R.PWR_VREQ_TJ : Fld := ⟨0x1F00100, 0x8, 0x0, 32, 16⟩
def R.PWR_VREQ_BY_CAP : Fld := ⟨0x1F00100, 0x8, 0x0, 48, 1⟩
def R.PWR_VREQ_BY_THERMAL : Fld := ⟨0x1F00100, 0x8, 0x0, 49, 1⟩
def R.PWR_VREQ_BY_WARN : Fld := ⟨0x1F00100, 0x8, 0x0, 50, 1⟩
-- 18_power_and_thermal.md R503
def R.PWR_VEVENT_TENSE : Fld := ⟨0x1F00200, 0x8, 0x0, 0, 32⟩
def R.PWR_VEVENT_COUNT : Fld := ⟨0x1F00200, 0x8, 0x0, 32, 16⟩
def R.PWR_VEVENT_VALID : Fld := ⟨0x1F00200, 0x8, 0x0, 48, 1⟩
-- 19_roles_moods_attestation.md R525
def R.SEC_CSRC_ADDR : Fld := ⟨0x2000000, 0x0, 0x0, 0, 62⟩
-- 19_roles_moods_attestation.md R525
def R.SEC_CLEN_LENGTH : Fld := ⟨0x2000008, 0x0, 0x0, 0, 13⟩
-- 19_roles_moods_attestation.md R525
def R.SEC_CCMD_START : Fld := ⟨0x2000010, 0x0, 0x0, 0, 1⟩
-- 19_roles_moods_attestation.md R525
def R.SEC_CSTAT_BUSY : Fld := ⟨0x2000018, 0x0, 0x0, 0, 1⟩
def R.SEC_CSTAT_DONE : Fld := ⟨0x2000018, 0x0, 0x0, 1, 1⟩
def R.SEC_CSTAT_ERR : Fld := ⟨0x2000018, 0x0, 0x0, 8, 8⟩
def R.SEC_CSTAT_OP : Fld := ⟨0x2000018, 0x0, 0x0, 16, 8⟩
-- 19_roles_moods_attestation.md R525
def R.SEC_FPRINT_FPRINT : Fld := ⟨0x2000060, 0x0, 0x0, 0, 64⟩
-- 19_roles_moods_attestation.md R525
def R.SEC_LOG_INDEX : Fld := ⟨0x20000C0, 0x0, 0x0, 0, 48⟩
def R.SEC_LOG_FAULT : Fld := ⟨0x20000C0, 0x0, 0x0, 48, 1⟩
def R.SEC_LOG_PENDING : Fld := ⟨0x20000C0, 0x0, 0x0, 49, 5⟩
-- 19_roles_moods_attestation.md R525
def R.SEC_LOGRD_IDX_INDEX : Fld := ⟨0x20000C8, 0x0, 0x0, 0, 48⟩
def R.SEC_LOGRD_IDX_COUNT : Fld := ⟨0x20000C8, 0x0, 0x0, 48, 16⟩
-- 19_roles_moods_attestation.md R525
def R.SEC_LOGRD_DST_ADDR : Fld := ⟨0x20000D0, 0x0, 0x0, 0, 48⟩
def R.SEC_LOGRD_DST_GO : Fld := ⟨0x20000D0, 0x0, 0x0, 48, 1⟩
def R.SEC_LOGRD_DST_BUSY : Fld := ⟨0x20000D0, 0x0, 0x0, 49, 1⟩
def R.SEC_LOGRD_DST_MISSING : Fld := ⟨0x20000D0, 0x0, 0x0, 50, 1⟩
-- 19_roles_moods_attestation.md R525
def R.SEC_KEYS_INSTALLERS : Fld := ⟨0x2000118, 0x0, 0x0, 0, 4⟩
def R.SEC_KEYS_OPERATORS : Fld := ⟨0x2000118, 0x0, 0x0, 16, 16⟩
-- 19_roles_moods_attestation.md R525
def R.SEC_GRANT_NOT_AFTER : Fld := ⟨0x2000120, 0x0, 0x0, 0, 64⟩
-- 19_roles_moods_attestation.md R525
def R.SEC_ID_KEY : Fld := ⟨0x2000040, 0x8, 0x0, 0, 64⟩
-- 19_roles_moods_attestation.md R525
def R.SEC_HEAD_HEAD : Fld := ⟨0x2000080, 0x8, 0x0, 0, 64⟩
-- 19_roles_moods_attestation.md R525
def R.SEC_SEQ_SEQ : Fld := ⟨0x2000100, 0x8, 0x0, 0, 64⟩
-- 19_roles_moods_attestation.md R525
def R.SEC_HALT_HALT : Fld := ⟨0x2001000, 0x8, 0x0, 0, 1⟩
def R.SEC_HALT_STEP : Fld := ⟨0x2001000, 0x8, 0x0, 1, 1⟩
def R.SEC_HALT_HALTED : Fld := ⟨0x2001000, 0x8, 0x0, 2, 1⟩
-- 17_host_interface.md R480
def R.HOST_LINK_WIDTH : Fld := ⟨0x2100000, 0x0, 0x0, 0, 4⟩
def R.HOST_LINK_SPEED : Fld := ⟨0x2100000, 0x0, 0x0, 4, 4⟩
def R.HOST_LINK_UP : Fld := ⟨0x2100000, 0x0, 0x0, 8, 1⟩
def R.HOST_LINK_DEGRADED : Fld := ⟨0x2100000, 0x0, 0x0, 9, 1⟩
def R.HOST_LINK_DOWNS : Fld := ⟨0x2100000, 0x0, 0x0, 10, 16⟩
-- 17_host_interface.md R480
def R.HOST_WIN_BASE : Fld := ⟨0x2100008, 0x0, 0x0, 0, 62⟩
-- 17_host_interface.md R480
def R.HOST_ERR_STATUS : Fld := ⟨0x2100010, 0x0, 0x0, 0, 4⟩
def R.HOST_ERR_WRITE : Fld := ⟨0x2100010, 0x0, 0x0, 4, 1⟩
def R.HOST_ERR_VALID : Fld := ⟨0x2100010, 0x0, 0x0, 5, 1⟩
def R.HOST_ERR_ADDR : Fld := ⟨0x2100010, 0x0, 0x0, 8, 56⟩
-- 17_host_interface.md R480
def R.HOST_CNT_CQFULL : Fld := ⟨0x2100018, 0x0, 0x0, 0, 16⟩
def R.HOST_CNT_LOST : Fld := ⟨0x2100018, 0x0, 0x0, 16, 16⟩
def R.HOST_CNT_FAILED : Fld := ⟨0x2100018, 0x0, 0x0, 32, 16⟩
def R.HOST_CNT_DISCARDED : Fld := ⟨0x2100018, 0x0, 0x0, 48, 16⟩
-- 17_host_interface.md R481
def R.HOST_SQA_BASE : Fld := ⟨0x2101000, 0x10, 0x0, 0, 48⟩
def R.HOST_SQA_SIZE : Fld := ⟨0x2101000, 0x10, 0x0, 48, 4⟩
def R.HOST_SQA_KIND : Fld := ⟨0x2101000, 0x10, 0x0, 52, 1⟩
def R.HOST_SQA_EN : Fld := ⟨0x2101000, 0x10, 0x0, 53, 1⟩
def R.HOST_SQA_CQ : Fld := ⟨0x2101000, 0x10, 0x0, 54, 6⟩
def R.HOST_SQA_STATE : Fld := ⟨0x2101000, 0x10, 0x0, 60, 2⟩
-- 17_host_interface.md R481
def R.HOST_SQB_HEAD : Fld := ⟨0x2101008, 0x10, 0x0, 0, 16⟩
def R.HOST_SQB_TAIL : Fld := ⟨0x2101008, 0x10, 0x0, 16, 16⟩
def R.HOST_SQB_ERR : Fld := ⟨0x2101008, 0x10, 0x0, 32, 8⟩
-- 17_host_interface.md R482
def R.HOST_CQA_BASE : Fld := ⟨0x2101400, 0x10, 0x0, 12, 52⟩
-- 17_host_interface.md R482
def R.HOST_CQB_SIZE : Fld := ⟨0x2101408, 0x10, 0x0, 0, 4⟩
def R.HOST_CQB_EN : Fld := ⟨0x2101408, 0x10, 0x0, 4, 1⟩
def R.HOST_CQB_VECTOR : Fld := ⟨0x2101408, 0x10, 0x0, 5, 6⟩
def R.HOST_CQB_PHASE : Fld := ⟨0x2101408, 0x10, 0x0, 11, 1⟩
def R.HOST_CQB_TAIL : Fld := ⟨0x2101408, 0x10, 0x0, 12, 16⟩
def R.HOST_CQB_HEAD : Fld := ⟨0x2101408, 0x10, 0x0, 28, 16⟩
-- 20_pins_management_mechanical.md R541
def R.MGT_STATUS_DADDR : Fld := ⟨0x2200000, 0x0, 0x0, 0, 7⟩
def R.MGT_STATUS_EID : Fld := ⟨0x2200000, 0x0, 0x0, 8, 8⟩
def R.MGT_STATUS_PWRGD : Fld := ⟨0x2200000, 0x0, 0x0, 16, 1⟩
def R.MGT_STATUS_PERST : Fld := ⟨0x2200000, 0x0, 0x0, 17, 1⟩
def R.MGT_STATUS_ALERT : Fld := ⟨0x2200000, 0x0, 0x0, 18, 1⟩
def R.MGT_STATUS_PPS : Fld := ⟨0x2200000, 0x0, 0x0, 19, 1⟩
-- 20_pins_management_mechanical.md R541
def R.MGT_TIME_SET : Fld := ⟨0x2200008, 0x0, 0x0, 0, 1⟩
def R.MGT_TIME_ARMED : Fld := ⟨0x2200008, 0x0, 0x0, 1, 1⟩
def R.MGT_TIME_EXPIRED : Fld := ⟨0x2200008, 0x0, 0x0, 2, 1⟩
def R.MGT_TIME_BADPPS : Fld := ⟨0x2200008, 0x0, 0x0, 16, 16⟩
def R.MGT_TIME_LASTD : Fld := ⟨0x2200008, 0x0, 0x0, 32, 32⟩
-- 20_pins_management_mechanical.md R541
def R.MGT_CNT_MESSAGES : Fld := ⟨0x2200010, 0x0, 0x0, 0, 32⟩
def R.MGT_CNT_ERRORS : Fld := ⟨0x2200010, 0x0, 0x0, 32, 16⟩
def R.MGT_CNT_RESETS : Fld := ⟨0x2200010, 0x0, 0x0, 48, 16⟩

end Sys2Proof.Machine
end

