-- ==== Sys2Proof/Machine/State.lean ====
section
/-! DEFINITION. Everything the manual gives the module to hold, as plain data; the state after reset; and the
elementary changes (`Eff`) that commands are made of. Registers of BAR0 are held once, in `regs`; a structure below
holds what no register shows. -/

namespace Sys2Proof.Machine

open Sys2Proof

/-- Why the machine stops. No meaning raises it: the manual leaves no command without an effect. Safe. -/
inductive Fault where
  | unreachable
  deriving DecidableEq, Repr

/-- Why a command has no meaning. Raised only by an arm of `exec` that is still to be written. Safe. -/
inductive Refusal where
  | notModelled (mnemonic : String)
  deriving DecidableEq, Repr

/-- What the module sends: interrupts, host writes, answers, flits, packets. Oldest first in `State.out`. -/
inductive Out where
  /-- an MSI-X message on a vector (R475) -/
  | msix (vector : Nat)
  /-- a write to host memory (R464, R472) -/
  | hostWrite (addr : Nat) (bytes : List Byte)
  /-- a read of host memory, or a zero-length read (R464) -/
  | hostRead (addr len : Nat)
  /-- the answer to a BAR read: 0 data, 1 data with the poisoned bit, 2 Completer Abort (R460) -/
  | barReply (kind : Nat) (bytes : List Byte)
  /-- the answer to a register read by an agent (R8, R11) -/
  | regReply (agent : Agent) (value : Word)
  /-- a sequenced flit (R359) -/
  | flit (lane seq : Nat) (bytes : List Byte)
  /-- an idle flit: its ACK and NAK, and its bytes (R359, R360) -/
  | idle (lane ack : Nat) (nak : Bool) (bytes : List Byte)
  /-- a packet handed to a lane (R387) -/
  | packet (lane : Nat) (p : Packet)
  /-- the release tags that go with a packet to a chip, named by its tag (R323) -/
  | relTags (chip : BitVec 14) (tag : Nat) (rels : List RelTag)
  /-- what LINK_INIT exchanges: the lane, chip, port, incarnation and role of this end, the last SEQ it has received in order and
  the credits it grants (R358, R359, R380) -/
  | identity (lane chip port inc role lastSeq : Nat) (credits : List Nat)
  /-- a control record on a lane that is UP: 1 recovery, 2 reset notice (R359) -/
  | control (lane kind : Nat) (a b : Nat)
  /-- a vendor response on the management port: code, completion, refusal code, data (R534) -/
  | mgmt (code completion refusal : Nat) (data : List Byte)
  /-- an SPDM answer (R521) or one of a management protocol (R532, R533) -/
  | message (t : Transport) (data : List Byte)
  /-- the provisioned ID the port answers an address assignment with (R531) -/
  | provisioned (id : Nat)
  /-- the DOE Busy bit (R477) -/
  | doeBusy
  deriving DecidableEq, Repr

/-- The descriptor of a stationary row (R150, R161): format code, the E8 scales, wide-pair parts, poison (R136). -/
structure RowDesc where
  fmt : BitVec 8 := 0
  scales : BitVec 64 := 0
  low : Bool := false
  high : Bool := false
  poison : Bool := false
  deriving DecidableEq, Repr

/-- What an accumulator row holds beside its accumulators (R136, R140, R155). -/
structure AccRow where
  g : BitVec 48 := 0
  inexact : Bool := false
  poison : Bool := false
  deriving DecidableEq, Repr

/-- Tensor-flag updates of one format entry gathered by a core and not yet merged (R189, R190). -/
structure FlagUpd where
  vanish : Nat := 0
  sat : Bool := false
  void : Bool := false
  voidLost : Bool := false
  deriving DecidableEq, Repr

/-- What a context waits for before its sentence goes on (R107, R113, R116, R158). -/
inductive Wait where
  | none
  /-- a response to the request with this tag (R364) -/
  | response (tag : Nat)
  /-- a DMA channel that is busy or halted (R107) -/
  | channel (ch : Nat)
  /-- the last transfer of this context on a channel (R113) -/
  | dmaWait (ch : Nat)
  | barrier (id : Nat)
  | conjunction (id inst : Nat)
  /-- the partial sums of a joined array (R158) -/
  | join
  deriving DecidableEq, Repr

/-- A sentence whose slots have not all taken effect: its bits, its address, the next slot to run, the address that
follows (R113 to R116). -/
structure Sentence where
  raw : BitVec 512
  addr : BitVec 48
  slot : Nat
  next : BitVec 48
  /-- a single slot commanded alone, not a fetched sentence -/
  lone : Bool
  /-- selected for proof-reading (R414) -/
  proof : Bool
  deriving DecidableEq, Repr

/-- A context on one core beside its registers (R92, R93, R119, R123). QUOTA_LEFT, CSTATE, DIVZ and SAT are fields of
CORE_CTXk. -/
structure Ctx where
  job : Option Nat := .none
  entry : BitVec 48 := 0
  tag : BitVec 8 := 0
  saddr : BitVec 48 := 0
  bankB : Bool := false
  sentence : Option Sentence := .none
  wait : Wait := .none
  /-- END reached, done not yet reported (R100) -/
  ended : Bool := false
  /-- stopped at a barrier or conjunction by another core's trap (R125), or by an abandoned conjunction (R399) -/
  stopped : Bool := false
  /-- DIVZ, SAT to clear when next switched in (R129) -/
  clear : BitVec 2 := 0
  /-- scope that later plain stores carry (R323) -/
  span : BitVec 3 := 0
  /-- CJWAITs issued, by ID, in this attempt (R398) -/
  cjs : List (Nat × Nat) := []
  /-- an image of the context lies in its save area, to be read when it is switched in (R121) -/
  saved : Bool := false
  /-- the save area it was last written to (R86) -/
  savedAt : Nat := 0
  /-- its last sentence held YIELD (R120) -/
  yielded : Bool := false
  /-- channels on which this context has started a transfer, with the number of its last one (R113) -/
  lastDma : List (Nat × Nat) := []
  /-- what its outstanding load or atomic was answered: a status of R367 and the bytes -/
  answer : Option (Nat × List Byte) := .none
  /-- tags of the words its plain loads have read since its last acquiring fence (R320, R323) -/
  seen : List RelTag := []
  /-- tags of the words that its outstanding load or atomic was answered for (R323) -/
  answerTags : List RelTag := []
  /-- a word read ahead of its load: its global address, its bytes and its tags (R322, R332) -/
  early : Option (Nat × List Byte × List RelTag) := .none
  /-- tags that came with such a word's answer -/
  earlyTags : List RelTag := []
  /-- sentences issued in this attempt (R418) -/
  issued : Nat := 0
  deriving DecidableEq, Repr

/-- One entry of the gather buffer: a line of 1,024 B, its dirty and failing words (R266, R273). -/
structure GatherEntry where
  line : Nat
  bytes : List Byte
  dirty : BitVec 128
  bad : BitVec 128
  deriving DecidableEq, Repr

/-- An attention operation started on a channel and not completed (R192). -/
structure AttOp where
  ch : Nat
  slot : Nat
  desc : List Byte
  /-- its pass has been run -/
  done : Bool
  /-- empty rows it met, to be added on completion -/
  empty : Nat
  /-- an array pass of it has run (R145) -/
  ran : Bool
  /-- the operation that started it, for records (R419) -/
  op : Nat
  deriving DecidableEq, Repr

/-- A logical core beside its registers (R92, R122, R414). -/
structure CoreSt where
  /-- resident private regions: context slot, region number (R122) -/
  resident : List (Nat × Nat) := []
  /-- private regions that have been resident since the load, with the offset each was last saved at (R86) -/
  touched : List (Nat × Nat × Nat) := []
  /-- most recently used first -/
  gather : List GatherEntry := []
  att : List AttOp := []
  /-- the next compared row fails (R163) -/
  inject : Bool := false
  /-- eligible sentences issued since power-on (R414) -/
  eligible : Nat := 0
  /-- CORE_RETIRED.COUNT at the last hang check (R440) -/
  watched : Option Nat := .none
  /-- transfers started so far -/
  transfers : Nat := 0
  /-- one sentence is to be issued while halted (R514) -/
  stepping : Bool := false
  /-- steps of the matrix array's ramp-up done (R145) -/
  ramp : Nat := 0
  /-- pieces of 32 B in the instruction cache, by address, oldest first (R23, R101) -/
  icache : List (Nat × List Byte) := []
  /-- what the QUOTA section gives by context slot, as the core's last switch took it (R86, R119) -/
  quotas : List (Nat × Option Nat) := []
  deriving DecidableEq, Repr

/-- A DMA channel (R124): its state, its owner, the transfer and what is still outstanding of it. -/
structure Dma where
  /-- 0 free, 1 busy, 2 halted -/
  state : Nat := 0
  slot : Nat := 0
  number : Nat := 0
  src : Nat := 0
  dst : Nat := 0
  len : Nat := 0
  /-- 0 memory, 1 attention command, 2 KV command -/
  kind : Nat := 0
  /-- its requests have been sent -/
  sent : Bool := false
  /-- the operation that started it, for records (R419) -/
  op : Nat := 0xFFFFFFFFFFFFFFFF
  /-- sentences its context had issued when it started, that one included (R418) -/
  issue : Nat := 0
  /-- bytes of it moved or asked for so far -/
  pos : Nat := 0
  /-- packets sent and not answered -/
  outstanding : Nat := 0
  /-- the address that failed -/
  failed : Option Nat := .none
  deriving DecidableEq, Repr

/-- A KV sequence (R229) with its spill tier and peer, fixed at its first spill (R238). -/
structure Seq where
  isOpen : Bool := false
  publish : Bool := false
  job : Nat := 0
  batch : Nat := 0
  policy : Nat := 0
  tshift : Nat := 0
  planes : Nat := 0
  active : Bool := false
  held : Bool := false
  restoring : Bool := false
  excluded : Bool := false
  lost : Bool := false
  maxlen : Nat := 0
  clen : Nat := 0
  pclen : Nat := 0
  steps : Nat := 0
  psteps : Nat := 0
  grow : Nat := 0
  ngrow : Nat := 0
  dlow : Nat := 0
  dhigh : Nat := 0
  lastuse : Nat := 0
  pblk : Nat := 0
  tokens : Nat := 0
  pkey : Word := 0
  /-- tier 1 peer, the peer's chip number -/
  tier : Option (Nat × Nat) := .none
  deriving DecidableEq, Repr

/-- The four states of a page row (R223). -/
inductive RowState where | unbacked | resident | spilled | dropped
  deriving DecidableEq, Repr

/-- A page row of a sequence: its state, its frames, its spill slots, and what is under way (R238, R241, R245). -/
structure Row where
  st : RowState := .unbacked
  frames : List Nat := []
  slots : List Nat := []
  /-- the shared frames that a copy on write replaced, kept until the next opening (R233) -/
  old : List Nat := []
  /-- frames reserved by the present opening (R230) -/
  reserved : List Nat := []
  /-- 0 nothing, 1 a spill, 2 a fetch, 3 a fetch to be retried, 4 fetched for the present opening -/
  flight : Nat := 0
  /-- a dropped row that the open attempt restores (R233) -/
  restored : Bool := false
  deriving DecidableEq, Repr

/-- A node of the prefix table (R243). -/
structure Node where
  key : Word := 0
  parent : Word := 0
  tshift : Nat := 0
  planes : Nat := 0
  children : Nat := 0
  lasthit : Nat := 0
  block : Nat := 0
  ids : List (BitVec 32) := []
  frames : List Nat := []
  deriving DecidableEq, Repr

/-- Who gets the completion of a KV command: nobody beside its completion word, a KV queue's entry, or a core's channel (R225). -/
inductive KvReply where
  | word
  | queue (q cid : Nat)
  | channel (l ch : Nat)
  /-- of a host queue that a reset of the link has taken away since: its entry is lost (R478) -/
  | lost
  deriving DecidableEq, Repr

/-- What waits for the KV engine (R225): the opening of a job slot's next attempt, the commit of one, or a command of 64 bytes. -/
inductive KvItem where
  | opening (j : Nat)
  | commit (j : Nat)
  | command (bytes : List Byte) (reply : KvReply)
  deriving DecidableEq, Repr

/-- Work of the KV engine that waits for token ids from another module: the lookup of an OPEN, or the publishing of a commit (R244). -/
structure KvWork where
  seq : Nat
  /-- blocks an OPEN looks up at most; none for publishing -/
  limit : Option Nat
  /-- sequences whose publishing follows -/
  rest : List Nat := []
  /-- address of the completion word -/
  done : Nat := 0
  reply : KvReply := .word
  deriving DecidableEq, Repr

/-- What the KV engine, which runs one thing at a time, is at (R225, R237, R241). -/
structure KvEngine where
  /-- rows got so far for the sequence that an opening serves (R237) -/
  got : Nat := 0
  /-- the row whose spill the opening waits for -/
  awaited : Option (Nat × Nat) := none
  work : Option KvWork := none
  /-- the sequence whose rows an opening is obtaining, while it waits for a spill or for a spill slot -/
  serving : Option Nat := none
  /-- what waits, in the order in which it came -/
  queue : List KvItem := []
  deriving DecidableEq, Repr

/-- A context entry of a job order (R469). -/
structure JobCtx where
  clause : Nat
  slot : Nat
  tag : BitVec 8
  entry : BitVec 48
  deriving DecidableEq, Repr

/-- A job slot beside CJ_JOBA and CJ_JOBB (R35, R389, R392 to R394, R469, R471). Tenses are numbers below 2³². -/
structure Job where
  ctxs : List JobCtx := []
  commit : Nat := 0
  flagtab : Nat := 0
  optab : Nat := 0
  map : List (BitVec 14 × BitVec 16) := []
  /-- submission queue that carried the JOB order: job events go to its completion queue (R472) -/
  sq : Option Nat := .none
  release : Nat := 0
  /-- the fields of the commit word (R35) -/
  committed : Nat := 0
  parity : Bool := false
  pending : Bool := false
  word : Nat := 0
  /-- last tense opened -/
  opened : Nat := 0
  /-- an attempt of the tense is open -/
  isOpen : Bool := false
  /-- how far the opening is (R230): 0 not begun, 1 obtaining rows, 2 own batch map ready, 3 rows mapped -/
  phase : Nat := 0
  /-- the open attempt has been released to the clauses -/
  released : Bool := false
  /-- the next attempt is a rerun, or the open one is -/
  rerun : Bool := false
  /-- the member waits for an order of the tree: a START, the union of the maps or a DECIDE (R43, R231, R392) -/
  waits : Bool := false
  /-- own vote: 0 agree, 1 disagree, 2 hold -/
  voted : Option Nat := .none
  /-- own vote combined with the children's and sent, or decided on -/
  sentUp : Bool := false
  /-- a class D fault of the attempt -/
  faultD : Bool := false
  /-- the contexts whose own checks have failed in the attempt, core and slot: what they send is retracted (R157) -/
  failed : List (Nat × Nat) := []
  /-- an input of the attempt has been retracted (R46) -/
  badInput : Bool := false
  /-- a class H fault of the attempt, with its hold cause (R403) -/
  faultH : Option Nat := .none
  tainted : Bool := false
  touched : Bool := false
  /-- next SERIAL of the job and tense (R371) -/
  serial : Nat := 0
  joined : Bool := false
  /-- the tenses it held, whose messages it ignores until they open again (R395) -/
  heldTenses : List Nat := []
  /-- JOIN messages held: node, tense -/
  joins : List (Nat × Nat) := []
  /-- VOTE messages held: node, tense, verdict, members -/
  votes : List (Nat × Nat × Nat × Nat) := []
  /-- MAPUP parts held: node, tense, part, bits -/
  maps : List (Nat × Nat × Nat × BitVec 1024) := []
  /-- parts of the combined map sent up, or answered down at the root -/
  mapsSent : List Nat := []
  /-- parts of the union received: part, bits -/
  union : List (Nat × BitVec 1024) := []
  /-- a retraction of a tense not yet open here (R46) -/
  earlyBad : Option Nat := .none
  /-- the load number whose KV policies the job takes (R86) -/
  policies : Nat := 0
  /-- held by a reset of the control complex: the clauses finish the open attempt to END (R433 domain 3) -/
  finishing : Bool := false
  deriving DecidableEq, Repr

/-- An entry of the tentative table (R372). -/
structure TentEntry where
  src : BitVec 14
  job : BitVec 16
  tense : BitVec 32
  serial : BitVec 32
  isBlock : Bool
  deriving DecidableEq, Repr

/-- A tentative block or write sent (R371, R373, R374): the segments not answered, the worst status answered, the status once all
are answered, and whether it has been confirmed, retracted or covered. -/
structure SentEntry where
  j : Nat
  tense : BitVec 32
  serial : Nat
  dst : BitVec 14
  addr : Nat
  isBlock : Bool
  segments : Nat
  core : Nat
  slot : Nat
  worst : Nat
  status : Option Nat
  settled : Bool
  /-- the tentative inputs the job had when it was sent: what it may have been computed from (R44, R46) -/
  inputs : List TentEntry
  /-- one of them has been retracted, or an input of the attempt had been before -/
  bad : Bool
  /-- how many sentences its context had issued when it was sent, that one included (R418) -/
  issue : Nat
  deriving DecidableEq, Repr

/-- What an outstanding request was sent for. -/
inductive Purpose where
  /-- a load or atomic of a context: core, slot, bytes of the words to skip and to keep, the tag of its first packet -/
  | load (l k skip len first : Nat)
  /-- a word of a context read ahead of its load -/
  | early (l k : Nat)
  /-- a posted store of a context; the serial of its tentative entry; whether it is a release (R319); its operation (R419) -/
  | store (l k : Nat) (serial : Option Nat) (release : Bool) (op : Nat)
  /-- the packets of a piece of a DMA read: channel, destination address, bytes to skip and to keep -/
  | dmaRead (l ch dst skip len : Nat)
  /-- one packet of a DMA write, with the serial of its tentative entry -/
  | dmaWrite (l ch : Nat) (serial : Option Nat)
  /-- a host read of another module: bytes to skip and to keep, the tag of its first packet -/
  | hostRead (skip len first : Nat)
  /-- a read of a signed command (0) or of a dictation bundle (1): bytes to skip and to keep, the tag of its first packet -/
  | fetch (which skip len first : Nat)
  /-- a host write of another module -/
  | hostWrite
  /-- a KV spill or fetch of a row on a peer: sequence, row -/
  | kv (seq row : Nat)
  /-- token ids of a block for the KV engine: bytes to skip and to keep, the tag of its first packet -/
  | kvIds (skip len first : Nat)
  | segment (j : Nat)
  /-- a conjunction message of a job slot -/
  | message (j : Nat)
  /-- a confirmation or retraction of a job slot -/
  | confirm (j : Nat)
  /-- a write of a module agent that waits for nothing -/
  | agent
  deriving DecidableEq, Repr

/-- An outstanding request (R364, R367). -/
structure Req where
  tag : Nat
  chip : BitVec 14
  typ : Nat
  purpose : Purpose
  addr : Nat
  /-- lane it left on -/
  lane : Nat
  /-- data received so far, for a read sent as several packets -/
  got : List (Nat × List Byte)
  deriving DecidableEq, Repr

/-- One instance of a collective operation (R397, R398). -/
structure Coll where
  j : Nat
  id : Nat
  inst : Nat
  /-- contributions on this member: rank, core, context slot, elements -/
  own : List (Nat × Nat × Nat × List (BitVec 32))
  /-- segments received from children: node, segment, elements -/
  child : List (Nat × Nat × List (BitVec 32))
  /-- barrier arrivals of children: nodes -/
  arrived : List Nat
  /-- segments sent up (0 for a barrier's ARRIVE) -/
  sent : List Nat
  /-- segments of the result -/
  result : List (Nat × List (BitVec 32))
  finished : Bool
  deriving DecidableEq, Repr

/-- A flit in a replay buffer (R360): its SEQ and KIND, how often it was sent, the credits it returns, its body and FIRST
field, and the packets it carries a part of. -/
structure ReplayFlit where
  seq : Nat
  kind : Nat
  sends : Nat
  credit : Nat
  body : List Byte
  first : Nat
  packets : List Packet
  deriving DecidableEq, Repr

/-- A lane beside FAB_LSTAT, FAB_LPEER and its counters (R358 to R362, R368, R377). -/
structure Lane where
  txInv : Bool := false
  rxInv : Bool := false
  peerPort : Nat := 0
  /-- a full training runs, the other training is a fast retrain -/
  full : Bool := false
  attempts : Nat := 0
  txSeq : Nat := 4095
  rxSeq : Nat := 4095
  replay : List ReplayFlit := []
  queue : List Packet := []
  /-- credits held per virtual lane -/
  credits : List Nat := [0, 0, 0, 0]
  /-- units freed per virtual lane since the last flit sent -/
  freed : List Nat := [0, 0, 0, 0]
  nak : Bool := false
  owed : Nat := 0
  /-- units of a packet not yet whole -/
  units : List Byte := []
  /-- whole packets in the receive buffer -/
  received : List Packet := []
  fecMs : Nat := 0
  /-- packets sent in a row while a request was ready (R362) -/
  streak : Nat := 0
  /-- the lane has lost its far end and waits for a recovery flit -/
  lost : Bool := false
  /-- a new role or polarity waits until the replay buffer is empty (R86, R375) -/
  draining : Bool := false
  /-- a reset notice has been acted on since the lane was last trained: the second one of a reset is not (R369) -/
  noticed : Bool := false
  /-- control records that wait for room in the replay buffer: kind and operands (R360) -/
  controls : List (Nat × Nat × Nat) := []
  /-- the lane is lost and its far end has not been told on the partner which SEQ was the last accepted (R368) -/
  tell : Bool := false
  deriving DecidableEq, Repr

/-- Segments of a block held until its trailer comes (R372). -/
structure BlockBuf where
  src : BitVec 14
  job : BitVec 16
  tense : BitVec 32
  serial : BitVec 32
  addr : Nat
  cmp : Bool
  segs : List (Nat × List Byte)
  tags : List (BitVec 16)
  deriving DecidableEq, Repr

/-- A block in a core's read cache (R324). -/
structure CacheLine where
  core : Nat
  /-- point of coherence: controller and local block -/
  k : Nat
  block : Nat
  bytes : List Byte
  /-- the status its fill gave -/
  status : Nat
  /-- context slots that have read a word of it at the point of coherence since, and the word (R314) -/
  passed : List (Nat × Nat) := []
  deriving DecidableEq, Repr

/-- A write whose bursts the device has not all accepted (R287). -/
structure StuckWrite where
  block : Nat
  off : Nat
  bytes : List Byte
  /-- unit, replays made -/
  units : List (Nat × Nat)
  /-- what the device reports on the read of a partial write -/
  faults : BlockFaults
  deriving DecidableEq, Repr

/-- A GDDR7 controller beside its registers (R291, R294, R295, R297, R299). -/
structure GdCtl where
  /-- stored blocks with a correction write-back pending, and the corrected bytes -/
  writeBack : List (Nat × List Byte) := []
  patrol : Nat := 0
  /-- stored blocks written under injection, with the 272 bytes they should hold (R299) -/
  injected : List (Nat × List Byte) := []
  /-- block and unit whose next read reports an on-die failure (HINT) -/
  hint : List (Nat × Nat) := []
  stuck : List StuckWrite := []
  /-- automatic remap copies under way: entry, and the corrected block (R295) -/
  copies : List (Nat × List Byte) := []
  refreshes : Nat := 0
  deriving DecidableEq, Repr

/-- A scratchpad beside its registers (R264, R272, R274, R279). -/
structure SpCtl where
  /-- words with a correction write-back pending, with the corrected word -/
  writeBack : List (Nat × Word) := []
  injected : List Nat := []
  patrol : Nat := 0
  passes : Nat := 0
  /-- promoted requester groups, oldest first -/
  promoted : List Nat := []
  deriving DecidableEq, Repr

/-- A declension table (R342). -/
structure DeclTable where
  lengths : List Nat
  transform : Nat
  deriving DecidableEq, Repr

/-- A block in the queue of an engine (R346): controller, 4 KiB block, and its bytes where it is to be encoded. -/
structure CxWork where
  k : Nat
  block : Nat
  bytes : Option (List Byte)
  deriving DecidableEq, Repr

/-- The compression engines beside CX registers (R335, R338, R344 to R346). -/
structure Cx where
  slots : List (Option DeclTable) := [.none, .none, .none, .none]
  /-- the running table load: generation and table -/
  load : Option (Nat × DeclTable) := .none
  /-- blocks held at the queue's entrance while the load waits (R345 step 4): controller, 4 KiB block -/
  held : List (Nat × Nat) := []
  /-- blocks queued and not yet served, oldest first -/
  queue : List CxWork := []
  /-- blocks that were queued when the load started and name its slot's generation (R345 step 3) -/
  snap : List (Nat × Nat) := []
  /-- side words in the engines' caches, most recently used first: controller, block, word -/
  side : List (Nat × Nat × Nat) := []
  /-- ranges whose disable waits for queued blocks -/
  disabling : List Nat := []
  deriving DecidableEq, Repr

/-- A clause record (R67). -/
structure Clause where
  num : Nat
  ld7 : Bool
  contexts : Nat
  cores : List Nat
  deriving DecidableEq, Repr

/-- A join record (R70). -/
structure JoinRec where
  num : Nat
  clause : Nat
  rows : Nat
  cols : Nat
  first : Nat
  tree : Bool
  deriving DecidableEq, Repr

/-- A region record (R71). -/
structure Region where
  clause : Nat
  num : Nat
  activation : Bool
  twoDim : Bool
  base : Nat
  size : Nat
  cols : Nat
  contexts : Nat
  deriving DecidableEq, Repr

/-- A lane record (R75). -/
structure LaneRec where
  role : Nat
  txInv : Bool
  rxInv : Bool
  port : Nat
  deriving DecidableEq, Repr

/-- An entry of the route table (R384). -/
structure RouteEntry where
  slot : Nat
  pair : Nat
  valid : Bool
  aslot : Nat
  apair : Nat
  avalid : Bool
  deriving DecidableEq, Repr

/-- A format entry (R76). -/
structure FmtEntry where
  format : Nat
  round : Nat
  seed : Nat
  deriving DecidableEq, Repr

/-- An FMT block (R76). -/
structure FmtBlock where
  clause : Nat
  seeds : List Word
  entries : List FmtEntry
  deriving DecidableEq, Repr

/-- A KV policy (R77). -/
structure Policy where
  num : Nat
  drop : Bool
  priority : Nat
  prefetch : Nat
  peerTier : Bool
  peer : Nat
  reclaim : Nat
  deriving DecidableEq, Repr

/-- A conjunction tree (R78): nodes with chip number and parent index. -/
structure Tree where
  num : Nat
  rerun : Nat
  fanin : Nat
  holdMs : Nat
  nodes : List (Nat × Option Nat)
  deriving DecidableEq, Repr

/-- A quota record (R79). -/
structure Quota where
  clause : Nat
  context : Nat
  quota : Nat
  save : Nat
  deriving DecidableEq, Repr

/-- The structure a stream gives the module (R65 to R80). -/
structure Stream where
  proofShift : Nat
  quotaDefault : Nat
  clauses : List Clause
  joins : List JoinRec
  regions : List Region
  lanes : List LaneRec
  routes : List RouteEntry
  fmts : List FmtBlock
  policies : List Policy
  /-- policies of earlier loads by load number, for jobs whose next tense has not opened since (R86) -/
  oldPolicies : List (Nat × List Policy)
  policyLoad : Nat
  trees : List Tree
  quotas : List Quota
  /-- default save areas as the last full load laid them out: clause, context, offset (R85) -/
  defaults : List (Nat × Nat × Nat)
  deriving DecidableEq, Repr

/-- Where a load's bytes come from (R81). -/
inductive LoadFrom where
  | registers (src len : Nat)
  /-- submission queue, CID, source, length, host source -/
  | queue (q : Nat) (cid : BitVec 16) (src len : Nat) (host : Bool)
  /-- a queue's command whose entries are lost with a reset of unit 112 (R478) -/
  | unanswered (src len : Nat) (host : Bool)
  deriving DecidableEq, Repr

/-- A load that runs (R81 to R83): its source, kind, and its result once it has ended. -/
structure Load where
  source : LoadFrom
  partialKind : Bool
  /-- error, section, offset -/
  result : Option (Nat × Nat × Nat)
  deriving DecidableEq, Repr

/-- A proof record waiting for its checker (R415, R416). -/
structure ProofRec where
  field : Nat
  core : Nat
  slot : Nat
  job : Nat
  tense : BitVec 32
  addr : BitVec 48
  checker : Nat
  /-- which sentence of its context in the attempt it was (R418) -/
  issue : Nat
  deriving DecidableEq, Repr

/-- A test of a dictation (R425). -/
structure DictTest where
  kind : Nat
  action : Nat
  poff : Nat
  units : Nat
  plen : Nat
  steps : Nat
  seed : Word
  expect : BitVec 32
  deriving DecidableEq, Repr

/-- A result entry of a test on a unit (R429). -/
structure DictRes where
  test : Nat
  unit : Nat
  verdict : Nat
  passes : Nat
  fails : Nat
  observed : Nat
  abandoned : Nat
  corrected : Nat
  /-- when its last pass started, by the 1 ms clock (R424 PERIOD) -/
  started : Option Nat
  /-- fabric time, TJ, VCORE and RATE at the end of its last pass (R429) -/
  stamp : Option (Nat × Nat × Nat × Nat)
  deriving DecidableEq, Repr

/-- A dictation slot (R426 to R429). -/
structure DictSlot where
  used : Bool := false
  signer : Nat := 0
  serial : Word := 0
  notAfter : Word := 0
  repeat' : Nat := 0
  /-- least time between the starts of passes, in s (R424) -/
  period : Nat := 0
  length : Nat := 0
  tests : List DictTest := []
  bytes : List Byte := []
  results : List DictRes := []
  deriving DecidableEq, Repr

/-- The interval state of a class C source and unit (R422): last record's time, suppressed since. -/
structure ClassC where
  source : Nat
  unit : Nat
  /-- the ms of its last record, of any class, if one was written -/
  lastMs : Option Nat
  suppressed : Nat
  deriving DecidableEq, Repr

/-- A signed command or a dictation bundle that is being read from another module (R426, R508). -/
structure Fetch where
  /-- 0 a signed command, 1 a bundle -/
  which : Nat
  addr : Nat
  /-- the length that a message of the management port gave with a bundle (R534) -/
  given : Option Nat
  /-- the header of a bundle is being read, for its LENGTH -/
  header : Bool
  /-- what the read has come to: the bytes, or none where it failed -/
  result : Option (Option (List Byte)) := .none
  deriving DecidableEq, Repr

/-- Reset, hang and firmware state beside the RST registers (R433 to R443). -/
structure Rst where
  /-- resets that run: domain, target -/
  running : List (Nat × Nat) := []
  /-- times in ms of control-complex resets in the last second -/
  recent : List Nat := []
  /-- the restarted firmware has not beaten yet (R439) -/
  awaiting : Bool := false
  /-- a heartbeat came in the present 1 ms period -/
  beat : Bool := false
  /-- physical core and time in ms of hangs (R441) -/
  hangs : List (Nat × Nat) := []
  /-- physical cores retired at run time, fenced at their ports (R22) -/
  fenced : List Nat := []
  /-- accesses dropped at the ports of fenced cores (R22) -/
  dropped : Nat := 0
  /-- the retained image: digest and bytes checked by it -/
  image : Option (List Byte) := .none
  imageDigest : BitVec 512 := 0
  /-- the accepted image waits for its FIRMWARE_ACCEPTED step -/
  accepted : Bool := false
  /-- jobs to roll back when a core or clause reset ends: job slot, domain, target (R437) -/
  affected : List (Nat × Nat × Nat) := []
  /-- what the control complex reads from another module (R426, R508) -/
  reads : List Fetch := []
  deriving DecidableEq, Repr

/-- An MSI-X vector (R458, R476). -/
structure MsixEntry where
  addr : Word := 0
  data : BitVec 32 := 0
  mask : Bool := true
  pend : Bool := false
  deriving DecidableEq, Repr

/-- A host access through BAR2 that has arrived and is not yet performed (R327): global address, bytes, and the data of a
write. -/
structure HostOp where
  addr : Nat
  size : Nat
  data : Option (List Byte)
  /-- its completion is lost with a reset of unit 112 (R478) -/
  lost : Bool := false
  deriving DecidableEq, Repr

/-- PCI Express configuration and the queues' turn (R455, R474, R479). -/
structure Pcie where
  /-- log₂ of the BAR2 size -/
  bar2 : Nat := 36
  memEnable : Bool := false
  control2 : Nat := 0
  d3hot : Bool := false
  /-- the code of the Max_Payload_Size that the host has set: 0 to 2 for 128 B to 512 B (R455) -/
  maxPayload : Nat := 0
  /-- MSI-X Enable and Function Mask (R455) -/
  msixEnable : Bool := false
  msixMask : Bool := false
  /-- Uncorrectable Error Status of Advanced Error Reporting (R455) -/
  aer : BitVec 32 := 0
  doeBusy : Bool := false
  turn : Nat := 0
  /-- completion entries that wait for room: completion queue and the 16 bytes but for PHASE (R473) -/
  waiting : List (Nat × List Byte) := []
  /-- BAR2 accesses that wait for their turn, oldest first -/
  host : List HostOp := []
  /-- the link's lanes have trained since unit 112 was reset -/
  ready : Bool := false
  /-- the reset-complete message waits for the link (R445 step 7) -/
  resetDue : Bool := false
  deriving DecidableEq, Repr

/-- The power controller beside PWR registers (R486 to R492). -/
structure Pwr where
  capGrant : List Nat := [850, 850, 850, 850, 850, 850, 850, 850]
  thermGrant : List Nat := [850, 850, 850, 850, 850, 850, 850, 850]
  /-- 100 µs periods below 97 percent of the cap -/
  below : Nat := 0
  /-- 100 µs periods with every field below 100 °C -/
  cool : Nat := 0
  /-- the lowest input voltage of the warning, and of the capping that goes on (R497) -/
  lowest : Nat := 0
  capLow : Nat := 0
  /-- whether the cap keeps the module in P1 (R497, R501) -/
  capping : Bool := false
  /-- whether the capping loop, and heat, have lowered the ramp's ceiling since it was last at its maximum (R491, R492) -/
  limCap : Bool := false
  limHeat : Bool := false
  hot : List Nat := []
  conversion : Bool := false
  rail5 : Bool := false
  /-- core rail of each field in mV as last sampled -/
  rail : List Nat := []
  deriving DecidableEq, Repr

/-- The pins (R526, R528). PERST# is asserted and nothing is powered before power-up. -/
structure Pins where
  pwrgd : Bool := false
  perst : Bool := true
  alert : Bool := false
  thermtrip : Bool := false
  vin : Nat := 0
  deriving DecidableEq, Repr

/-- Keys, site and identity (R504 to R519). -/
structure Sec where
  installer : List (BitVec 256) := []
  operator : List (BitVec 256) := []
  site : Option (List Byte) := .none
  helper : List Byte := []
  chain : List Byte := []
  priv : BitVec 256 := 0
  /-- the raw start-up pattern of the last power-on (R519) -/
  pattern : List Byte := []
  /-- operator key slot that signed the grant in force -/
  grantKey : Option Nat := .none
  /-- writes of the flash fail, as the last attempt showed (R518, log entry 21) -/
  flashBad : Bool := false
  /-- entries the flash has not taken (R518) -/
  unwritten : List (List Byte) := []
  /-- INDEX of the first entry the two segments still hold (R517) -/
  firstHeld : Nat := 0
  deriving DecidableEq, Repr

/-- Fabric time and the management port beside MGT registers (R531 to R536). -/
structure Mgt where
  /-- fabric time in units of 1/781,250 ns -/
  time : Nat := 0
  armed : Option Word := .none
  /-- slew left: reference cycles, and nanoseconds over 1 ms -/
  slewCycles : Nat := 0
  slewNs : Int := 0
  /-- 1 ms period of the last PPS edge -/
  edgeMs : Nat := 0
  deriving DecidableEq, Repr

/-- A partial sum row of a joined array on its way to member (0, j) (R158). -/
structure Partial where
  core : Nat
  slot : Nat
  join : Nat
  row : Nat
  accs : List (BitVec 48)
  g : BitVec 48
  inexact : Bool
  poison : Bool
  deriving DecidableEq, Repr

/-- The whole module, and the queue of commands that wait (`pending`), first in first out. -/
structure State where
  /-- BAR0 registers by offset; unlisted: the reset value -/
  regs : FMap Word
  /-- GDDR7: controller, stored block and byte of 272 in one key; unlisted: zero (log entry 7) -/
  gddr : List Host.Cell
  /-- scratchpads: logical core, word and byte of 9 (8 data, 1 check) in one key; unlisted: zero (R277) -/
  spad : List Host.Cell
  sregs : FMap Word
  aregs : FMap Word
  pregs : FMap (BitVec 256)
  vregs : FMap (BitVec 32)
  banks : FMap (BitVec 32)
  rowDescs : FMap RowDesc
  accs : FMap (BitVec 48)
  accRows : FMap AccRow
  ctxs : FMap Ctx
  cores : FMap CoreSt
  dmas : FMap Dma
  flagUpds : FMap FlagUpd
  partials : List Partial
  seqs : FMap Seq
  rows : FMap Row
  /-- reference count of each frame of the pool (R245) -/
  frames : FMap Nat
  nodes : FMap Node
  /-- spill slots in use: slot number, and that plus 2³² for the peer area -/
  spillSlots : FMap Bool
  kv : KvEngine
  /-- the model's own: what a fault of the conjunction unit's second adder puts into each of its sums; zero in a sound unit (R398, log
  entry 12) -/
  adderFault : BitVec 32
  jobs : FMap Job
  tent : List TentEntry
  /-- the CONFs and RETRs of open tenses that have covered an entry (R47) -/
  tentDone : List TentEntry
  sent : List SentEntry
  colls : List Coll
  reqs : List Req
  nextTag : Nat
  /-- responses that came after their request had ended, dropped (R367) -/
  lateDrops : Nat
  lanes : FMap Lane
  blockBufs : List BlockBuf
  relTags : FMap (Option RelTag)
  /-- writes of the module itself that wait at a controller's port, oldest first: offset and bytes (R297, R298, R334) -/
  held : List (Nat × List Byte)
  cache : List CacheLine
  gdctls : FMap GdCtl
  spctls : FMap SpCtl
  cx : Cx
  stream : Option Stream
  load : Option Load
  /-- records kept while the D ring is not enabled (R421) -/
  store : List (List Byte)
  recSerial : Nat
  /-- D-ring records whose fault interrupt is still to be sent (R421) -/
  faultsDue : Nat
  classC : List ClassC
  proofKey : Word
  proofs : List ProofRec
  dicts : FMap DictSlot
  rst : Rst
  msix : FMap MsixEntry
  pcie : Pcie
  pwr : Pwr
  pins : Pins
  sec : Sec
  /-- the register of changes since manufacture, oldest first (R515) -/
  log : List (List Byte)
  /-- SPDM connection state per transport: the last request answered (R521) -/
  spdm : List Nat
  mgt : Mgt
  /-- 1 ms periods since power-on (log entry 8) -/
  ms : Nat
  /-- the model's counter of free values (log entry 5) -/
  fresh : Nat
  /-- what the module has sent, oldest first -/
  out : List Out
  /-- commands that wait, first in first out -/
  pending : List Instr
  deriving DecidableEq, Repr

/-- The registers of an LD9-H128 that differ after a power-on reset from those of an LD9-H256, which `resetValue` gives (R1, R9): DEV_ID,
AQ_RSV.BASE, and GD_STATUS of every controller. -/
def h128Regs : FMap Word :=
  (0, resetValue 0 + 1 - 0x200000000000) :: (0x100028, 0x1DFE800000) ::
    (List.range 32).map (fun k => (0x1000000 + 0x40000 * k, resetValue 0x1000000 - 4))

/-- Whether registers are those of an LD9-H128 (R27). -/
def isH128 (regs : FMap Word) : Bool := (FMap.get resetValue regs 0).toNat % 256 == 2

/-- The module right after a power-on reset, unpowered until PWRGD: every register at its reset value, every memory
zero, no stream, no job, security state Installer with one installer key slot enrolled (R509; log entry 6). -/
def State.reset : State where
  regs := []
  gddr := []
  spad := []
  sregs := []
  aregs := []
  pregs := []
  vregs := []
  banks := []
  rowDescs := []
  accs := []
  accRows := []
  ctxs := []
  cores := []
  dmas := []
  flagUpds := []
  partials := []
  seqs := []
  rows := []
  frames := []
  nodes := []
  spillSlots := []
  kv := {}
  adderFault := 0
  jobs := []
  tent := []
  tentDone := []
  sent := []
  colls := []
  reqs := []
  nextTag := 0
  lateDrops := 0
  lanes := []
  blockBufs := []
  relTags := []
  held := []
  cache := []
  gdctls := []
  spctls := []
  cx := {}
  stream := .none
  load := .none
  store := []
  recSerial := 0
  faultsDue := 0
  classC := []
  proofKey := 0
  proofs := []
  dicts := []
  rst := {}
  msix := []
  pcie := {}
  pwr := {}
  pins := {}
  sec := { installer := [1] }
  log := []
  spdm := [0, 0]
  mgt := {}
  ms := 0
  fresh := 0
  out := []
  pending := []

/-- An LD9-H128 right after a power-on reset (R1). -/
def State.resetH128 : State := { State.reset with regs := h128Regs }

/-- The elementary changes of the module. Every command's effect is made of these and of nothing else; none touches
the queue, so a command cannot. -/
inductive Eff where
  | reg (off : Nat) (v : Word)
  | gddr (key : Nat) (v : Byte)
  | spad (key : Nat) (v : Byte)
  | sreg (key : Nat) (v : Word)
  | areg (key : Nat) (v : Word)
  | preg (key : Nat) (v : BitVec 256)
  | vreg (key : Nat) (v : BitVec 32)
  | bank (key : Nat) (v : BitVec 32)
  | rowDesc (key : Nat) (v : RowDesc)
  | acc (key : Nat) (v : BitVec 48)
  | accRow (key : Nat) (v : AccRow)
  | ctx (key : Nat) (v : Ctx)
  | core (l : Nat) (v : CoreSt)
  | dma (key : Nat) (v : Dma)
  | flagUpd (key : Nat) (v : FlagUpd)
  | partials (v : List Partial)
  | seq (n : Nat) (v : Seq)
  | row (key : Nat) (v : Row)
  | frame (n : Nat) (v : Nat)
  | node (n : Nat) (v : Node)
  | spillSlot (n : Nat) (v : Bool)
  | job (j : Nat) (v : Job)
  | tent (v : List TentEntry)
  | tentDone (v : List TentEntry)
  | sent (v : List SentEntry)
  | colls (v : List Coll)
  | reqs (v : List Req)
  | nextTag (v : Nat)
  | lateDrops (v : Nat)
  | kv (v : KvEngine)
  | lane (i : Nat) (v : Lane)
  | blockBufs (v : List BlockBuf)
  | relTag (key : Nat) (v : Option RelTag)
  | held (v : List (Nat × List Byte))
  | cache (v : List CacheLine)
  | gdctl (k : Nat) (v : GdCtl)
  | spctl (l : Nat) (v : SpCtl)
  | cx (v : Cx)
  | stream (v : Option Stream)
  | load (v : Option Load)
  | store (v : List (List Byte))
  | recSerial (v : Nat)
  | faultsDue (v : Nat)
  | classC (v : List ClassC)
  | proofKey (v : Word)
  | proofs (v : List ProofRec)
  | dict (s : Nat) (v : DictSlot)
  | rst (v : Rst)
  | msix (n : Nat) (v : MsixEntry)
  | pcie (v : Pcie)
  | pwr (v : Pwr)
  | pins (v : Pins)
  | sec (v : Sec)
  /-- append an entry to the register of changes: there is no other change of it -/
  | log (entry : List Byte)
  | spdm (v : List Nat)
  | mgt (v : Mgt)
  | ms
  | fresh
  | out (o : Out)
  /-- forget the registers and memories of a context (R93) -/
  | clearCtx (key : Nat)
  /-- forget a scratchpad: zero with right check bits (R74, R277) -/
  | clearSpad (l : Nat)
  /-- forget all of GDDR7 (R297) -/
  | clearGddr
  /-- forget the blocks of one controller, whose training failed (R296) -/
  | clearGd (k : Nat)
  /-- forget the registers at offsets lo to hi − 1: reset values (R433) -/
  | clearRegs (lo hi : Nat)
  /-- everything a power-on reset loses (R433 domain 7): all but the register of changes, keys and certificate in
  flash, pins, what was sent and the waiting queue -/
  | powerOn
  deriving DecidableEq, Repr

end Sys2Proof.Machine
end

