-- ==== Sys2Proof/Machine/Ops.lean ====
section
/-! DEFINITION. The named operations every meaning is made of: what an elementary change does, the states a meaning can
reach by them, the form of a meaning, and access to registers, counters and the sparse tables. -/

namespace Sys2Proof.Machine

open Sys2Proof

/-! The values of unlisted keys. -/

def zeroByte (_ : Nat) : Byte := 0
def zeroWord (_ : Nat) : Word := 0
def zeroPred (_ : Nat) : BitVec 256 := 0
def zeroLane (_ : Nat) : BitVec 32 := 0
def zeroAcc (_ : Nat) : BitVec 48 := 0
def zeroNat (_ : Nat) : Nat := 0
def noSlot (_ : Nat) : Bool := false
def noTag (_ : Nat) : Option RelTag := .none
def rowDesc0 (_ : Nat) : RowDesc := {}
def accRow0 (_ : Nat) : AccRow := {}
def ctx0 (_ : Nat) : Ctx := {}
def core0 (_ : Nat) : CoreSt := {}
def dma0 (_ : Nat) : Dma := {}
def flagUpd0 (_ : Nat) : FlagUpd := {}
def seq0 (_ : Nat) : Seq := {}
def row0 (_ : Nat) : Row := {}
def node0 (_ : Nat) : Node := {}
def job0 (_ : Nat) : Job := {}
def lane0 (_ : Nat) : Lane := {}
def gdctl0 (_ : Nat) : GdCtl := {}
def spctl0 (_ : Nat) : SpCtl := {}
def dict0 (_ : Nat) : DictSlot := {}
def msix0 (_ : Nat) : MsixEntry := {}

/-! Where the parts of a core's context lie in the flat tables. -/

/-- The key of context slot `k` of logical core `l`. -/
def ctxKey (l k : Nat) : Nat := l * 16 + k
/-- The context key a flat key of `n` entries a context belongs to. -/
def inCtx (key n x : Nat) : Bool := x / n == key

/-- The registers kept across a power-on reset: those that show what flash holds (R509, R515 to R519). -/
def keptOffset (off : Nat) : Bool :=
  off == R.DEV_MOOD_SEC.base || off == R.PWR_CAP_INSTALLED.base || off == R.SEC_LOG_INDEX.base || off == R.SEC_FPRINT_FPRINT.base ||
  off == R.SEC_KEYS_INSTALLERS.base || (R.SEC_HEAD_HEAD.base ≤ off && off < R.SEC_HEAD_HEAD.base + 64) ||
  (R.SEC_SEQ_SEQ.base ≤ off && off < R.SEC_SEQ_SEQ.base + 24) || (R.SEC_ID_KEY.base ≤ off && off < R.SEC_ID_KEY.base + 32)

/-- What an elementary change does to the state. -/
def Eff.apply : Eff → State → State
  | .reg off v, s => { s with regs := FMap.set resetValue s.regs off v }
  | .gddr key v, s => { s with gddr := FMap.set zeroByte s.gddr key v }
  | .spad key v, s => { s with spad := FMap.set zeroByte s.spad key v }
  | .sreg key v, s => { s with sregs := FMap.set zeroWord s.sregs key v }
  | .areg key v, s => { s with aregs := FMap.set zeroWord s.aregs key v }
  | .preg key v, s => { s with pregs := FMap.set zeroPred s.pregs key v }
  | .vreg key v, s => { s with vregs := FMap.set zeroLane s.vregs key v }
  | .bank key v, s => { s with banks := FMap.set zeroLane s.banks key v }
  | .rowDesc key v, s => { s with rowDescs := FMap.set rowDesc0 s.rowDescs key v }
  | .acc key v, s => { s with accs := FMap.set zeroAcc s.accs key v }
  | .accRow key v, s => { s with accRows := FMap.set accRow0 s.accRows key v }
  | .ctx key v, s => { s with ctxs := FMap.set ctx0 s.ctxs key v }
  | .core l v, s => { s with cores := FMap.set core0 s.cores l v }
  | .dma key v, s => { s with dmas := FMap.set dma0 s.dmas key v }
  | .flagUpd key v, s => { s with flagUpds := FMap.set flagUpd0 s.flagUpds key v }
  | .partials v, s => { s with partials := v }
  | .seq n v, s => { s with seqs := FMap.set seq0 s.seqs n v }
  | .row key v, s => { s with rows := FMap.set row0 s.rows key v }
  | .frame n v, s => { s with frames := FMap.set zeroNat s.frames n v }
  | .node n v, s => { s with nodes := FMap.set node0 s.nodes n v }
  | .spillSlot n v, s => { s with spillSlots := FMap.set noSlot s.spillSlots n v }
  | .job j v, s => { s with jobs := FMap.set job0 s.jobs j v }
  | .tent v, s => { s with tent := v }
  | .tentDone v, s => { s with tentDone := v }
  | .sent v, s => { s with sent := v }
  | .colls v, s => { s with colls := v }
  | .reqs v, s => { s with reqs := v }
  | .nextTag v, s => { s with nextTag := v }
  | .lateDrops v, s => { s with lateDrops := v }
  | .kv v, s => { s with kv := v }
  | .lane i v, s => { s with lanes := FMap.set lane0 s.lanes i v }
  | .blockBufs v, s => { s with blockBufs := v }
  | .relTag key v, s => { s with relTags := FMap.set noTag s.relTags key v }
  | .held v, s => { s with held := v }
  | .cache v, s => { s with cache := v }
  | .gdctl k v, s => { s with gdctls := FMap.set gdctl0 s.gdctls k v }
  | .spctl l v, s => { s with spctls := FMap.set spctl0 s.spctls l v }
  | .cx v, s => { s with cx := v }
  | .stream v, s => { s with stream := v }
  | .load v, s => { s with load := v }
  | .store v, s => { s with store := v }
  | .recSerial v, s => { s with recSerial := v }
  | .faultsDue v, s => { s with faultsDue := v }
  | .classC v, s => { s with classC := v }
  | .proofKey v, s => { s with proofKey := v }
  | .proofs v, s => { s with proofs := v }
  | .dict k v, s => { s with dicts := FMap.set dict0 s.dicts k v }
  | .rst v, s => { s with rst := v }
  | .msix n v, s => { s with msix := FMap.set msix0 s.msix n v }
  | .pcie v, s => { s with pcie := v }
  | .pwr v, s => { s with pwr := v }
  | .pins v, s => { s with pins := v }
  | .sec v, s => { s with sec := v }
  | .log entry, s => { s with log := s.log ++ [entry] }
  | .spdm v, s => { s with spdm := v }
  | .mgt v, s => { s with mgt := v }
  | .ms, s => { s with ms := s.ms + 1 }
  | .fresh, s => { s with fresh := s.fresh + 1 }
  | .out o, s => { s with out := s.out ++ [o] }
  | .clearCtx key, s =>
    { s with
      sregs := FMap.keep (fun x => !inCtx key 64 x) s.sregs
      aregs := FMap.keep (fun x => !inCtx key 32 x) s.aregs
      pregs := FMap.keep (fun x => !inCtx key 8 x) s.pregs
      vregs := FMap.keep (fun x => !inCtx key 16384 x) s.vregs
      banks := FMap.keep (fun x => !inCtx key 65536 x) s.banks
      rowDescs := FMap.keep (fun x => !inCtx key 256 x) s.rowDescs
      accs := FMap.keep (fun x => !inCtx key 32896 x) s.accs
      accRows := FMap.keep (fun x => !inCtx key 128 x) s.accRows
      flagUpds := FMap.keep (fun x => !inCtx key 256 x) s.flagUpds }
  | .clearSpad l, s => { s with spad := FMap.keep (fun x => !(x / 18874368 == l)) s.spad }
  | .clearGddr, s => { s with gddr := [], relTags := [], held := [] }
  | .clearGd k, s => { s with gddr := FMap.keep (fun x => !(x / 272 / 2 ^ 25 == k)) s.gddr }
  | .clearRegs lo hi, s => { s with regs := FMap.keep (fun x => !(decide (lo ≤ x) && decide (x < hi))) s.regs }
  | .powerOn, s =>
    { State.reset with
      regs := (if isH128 s.regs then h128Regs else []).foldl (fun m p => FMap.set resetValue m p.1 p.2) (FMap.keep keptOffset s.regs)
      log := s.log, sec := s.sec, pins := s.pins, adderFault := s.adderFault, out := s.out, fresh := s.fresh, pending := s.pending }

/-- The states that elementary changes lead to from `s0`. -/
inductive Reach (s0 : State) : State → Prop
  | refl : Reach s0 s0
  | upd {t : State} (h : Reach s0 t) (e : Eff) : Reach s0 (e.apply t)

/-- A state reached from `s0` by elementary changes. -/
abbrev Good (s0 : State) := { t : State // Reach s0 t }

/-- Why a meaning ends before its last line; what it has done stays done. -/
inductive Stop where
  /-- the command is turned away with an error code of its rule -/
  | code (n : Nat)
  /-- a trap: cause of R126, the status CORE_TRAP0 shows, the detail -/
  | trap (cause status : Nat) (detail : Nat)
  /-- the slot waits: its sentence goes on later -/
  | wait
  /-- a status of R367 -/
  | status (s : Nat)
  /-- nothing more happens -/
  | done
  /-- the command waits, and has done nothing yet: an access of it waits at a port (R297, R298, R334, R345) -/
  | later
  deriving DecidableEq, Repr

/-- The form of every meaning: it reads the state, changes it by elementary changes only, and may end early. -/
abbrev M (s0 : State) := ExceptT Stop (StateM (Good s0))

variable {s0 : State}

/-- The one way to change the state. -/
def eff (e : Eff) : M s0 Unit := modify fun g => ⟨e.apply g.val, g.property.upd e⟩

/-- The state as it stands. -/
def st : M s0 State := do return (← get).val

/-- The state a meaning leaves; a command that waits leaves the state as it was, to be given again. -/
def run (s : State) (m : M s Unit) : State :=
  match m ⟨s, .refl⟩ with
  | (.error .later, _) => s
  | (_, g) => g.val

/-- A meaning's early end caught: its value or why it ended. That the command waits is not caught. -/
def attempt {α : Type} (m : M s0 α) : M s0 (Except Stop α) := fun g =>
  match m g with
  | (.error .later, g') => (.error .later, g')
  | (r, g') => (.ok r, g')

/-- Run a meaning now, or not at all where it waits: whether it has run. -/
def ifReady (m : M s0 Unit) : M s0 Bool := fun g =>
  match m g with
  | (.error .later, _) => (.ok false, g)
  | (.error x, g') => (.error x, g')
  | (.ok _, g') => (.ok true, g')

/-- End here unless the condition holds. -/
def need (b : Bool) (x : Stop := .done) : M s0 Unit := if b then pure () else throw x

/-- The value of an option, or end here. -/
def need? {α : Type} (o : Option α) (x : Stop := .done) : M s0 α :=
  match o with
  | some a => pure a
  | none => throw x

/-- What a meaning would give now, with the state left as it is. -/
def peek {α : Type} (m : M s0 α) : M s0 (Option α) := fun g =>
  match m g with
  | (.ok a, _) => (.ok (some a), g)
  | (.error _, _) => (.ok none, g)

/-- Run a meaning whose early end has no further effect. -/
def quiet (m : M s0 Unit) : M s0 Unit := do
  let _ ← attempt m
  return ()

/-! Registers. -/

/-- A register word. -/
def rdReg (off : Nat) : M s0 Word := do return FMap.get resetValue (← st).regs off

/-- Set a register word. -/
def wrReg (off : Nat) (v : Word) : M s0 Unit := eff (.reg off v)

/-- A field of a register in a state. -/
def fieldIn (s : State) (f : Fld) (i j : Nat) : Nat :=
  bitsOf (FMap.get resetValue s.regs (f.addr i j)) f.lo f.width

/-- A named field, of register `i` (and `j`) of its array. -/
def getF (f : Fld) (i : Nat := 0) (j : Nat := 0) : M s0 Nat := do return fieldIn (← st) f i j

/-- Set a named field to a number's low bits. -/
def setF (f : Fld) (v : Nat) (i : Nat := 0) (j : Nat := 0) : M s0 Unit := do
  let w ← rdReg (f.addr i j)
  wrReg (f.addr i j) (withBits w f.lo f.width v)

/-- Whether a one-bit field is 1. -/
def isF (f : Fld) (i : Nat := 0) (j : Nat := 0) : M s0 Bool := do return (← getF f i j) == 1

/-- Add to a counter that stops at its greatest value. -/
def countSat (f : Fld) (i : Nat := 0) (by' : Nat := 1) : M s0 Unit := do
  let v ← getF f i
  setF f (min (v + by') (2 ^ f.width - 1)) i

/-- Add to a counter that wraps. -/
def countWrap (f : Fld) (i : Nat := 0) (by' : Nat := 1) : M s0 Unit := do
  let v ← getF f i
  setF f (v + by') i

/-- Raise a field to a value if that is greater. -/
def raiseF (f : Fld) (v : Nat) (i : Nat := 0) : M s0 Unit := do
  if (← getF f i) < v then setF f v i

/-! Bytes (R4: little-endian). -/

/-- The number a list of bytes spells, least significant first. -/
def leNat : List Byte → Nat
  | [] => 0
  | b :: bs => b.toNat + 256 * leNat bs

/-- The `n` low bytes of a number, least significant first. -/
def leBytes : Nat → Nat → List Byte
  | 0, _ => []
  | n + 1, v => BitVec.ofNat 8 v :: leBytes n (v / 256)

/-- `n` bytes of a list from an offset; past its end they are 0. -/
def slice (bs : List Byte) (off n : Nat) : List Byte :=
  let t := (bs.drop off).take n
  t ++ List.replicate (n - t.length) 0

/-- The number in `n` bytes of a list at an offset. -/
def fieldAt (bs : List Byte) (off n : Nat) : Nat := leNat (slice bs off n)

/-- Bits [lo + w − 1 : lo] of a number. -/
def bitsN (v lo w : Nat) : Nat := v / 2 ^ lo % 2 ^ w

/-- Bit `i` of a number, as a truth value. -/
def bitN (v i : Nat) : Bool := v / 2 ^ i % 2 == 1

/-- The number as a two's complement integer of `w` bits. -/
def signedN (v w : Nat) : Int := if bitN v (w - 1) then (v % 2 ^ w : Nat) - (2 ^ w : Nat) else (v % 2 ^ w : Nat)

/-- The `w` low bits of an integer in two's complement. -/
def wrapN (v : Int) (w : Nat) : Nat := (v % (2 ^ w : Nat)).toNat

/-- A list with the bytes at an offset replaced. -/
def patch (bs : List Byte) (off : Nat) (new : List Byte) : List Byte :=
  bs.take off ++ new ++ bs.drop (off + new.length)

/-- The element at an index, or a default. -/
def at? {α : Type} (l : List α) (i : Nat) (d : α) : α := l.getD i d

/-- The members of a list in pieces of `n` (the last may be shorter); `fuel` bounds the pieces. -/
def chunks {α : Type} (n : Nat) : Nat → List α → List (List α)
  | 0, _ => []
  | _, [] => []
  | fuel + 1, l => l.take n :: chunks n fuel (l.drop n)

/-! Free values. -/

/-- A value nothing constrains: the model's counter read and advanced (log entry 5). -/
def freeWord : M s0 Word := do
  let n := (← st).fresh
  eff .fresh
  return Config.freeValue n

/-- A choice nothing constrains. -/
def freeBool : M s0 Bool := do
  let n := (← st).fresh
  eff .fresh
  return Config.freeChoice n

/-- Send something out of the module. -/
def emit (o : Out) : M s0 Unit := eff (.out o)

/-! The tables of the state. -/

def getCtx (l k : Nat) : M s0 Ctx := do return FMap.get ctx0 (← st).ctxs (ctxKey l k)
def setCtx (l k : Nat) (c : Ctx) : M s0 Unit := eff (.ctx (ctxKey l k) c)
def modCtx (l k : Nat) (f : Ctx → Ctx) : M s0 Unit := do setCtx l k (f (← getCtx l k))
def getCore (l : Nat) : M s0 CoreSt := do return FMap.get core0 (← st).cores l
def setCore (l : Nat) (c : CoreSt) : M s0 Unit := eff (.core l c)
def modCore (l : Nat) (f : CoreSt → CoreSt) : M s0 Unit := do setCore l (f (← getCore l))
def getDma (l ch : Nat) : M s0 Dma := do return FMap.get dma0 (← st).dmas (l * 8 + ch)
def setDma (l ch : Nat) (d : Dma) : M s0 Unit := eff (.dma (l * 8 + ch) d)
def getJob (j : Nat) : M s0 Job := do return FMap.get job0 (← st).jobs j
def setJob (j : Nat) (v : Job) : M s0 Unit := eff (.job j v)
def modJob (j : Nat) (f : Job → Job) : M s0 Unit := do setJob j (f (← getJob j))
def getLane (i : Nat) : M s0 Lane := do return FMap.get lane0 (← st).lanes i
def setLane (i : Nat) (v : Lane) : M s0 Unit := eff (.lane i v)
def modLane (i : Nat) (f : Lane → Lane) : M s0 Unit := do setLane i (f (← getLane i))
def getSeq (n : Nat) : M s0 Seq := do return FMap.get seq0 (← st).seqs n
def getRow (seq r : Nat) : M s0 Row := do return FMap.get row0 (← st).rows (seq * 65536 + r)
def setRow (seq r : Nat) (v : Row) : M s0 Unit := eff (.row (seq * 65536 + r) v)
def getGd (k : Nat) : M s0 GdCtl := do return FMap.get gdctl0 (← st).gdctls k
def setGd (k : Nat) (v : GdCtl) : M s0 Unit := eff (.gdctl k v)
def getSp (l : Nat) : M s0 SpCtl := do return FMap.get spctl0 (← st).spctls l
def setSp (l : Nat) (v : SpCtl) : M s0 Unit := eff (.spctl l v)
def getDict (k : Nat) : M s0 DictSlot := do return FMap.get dict0 (← st).dicts k

/-- The mood number in force, security state, power state (R499, R500). -/
def secState : M s0 Nat := getF R.DEV_MOOD_SEC

end Sys2Proof.Machine
end

