-- ==== Sys2Proof/Machine/Codes.lean ====
section
/-! DEFINITION. The codes that protect stored and carried data: the agreement word (R409), CRC-32C (R359), the outer code
of GDDR7 (R285 to R288), the lane code (R356), the scrambler (R356), and the SEC-DED and parity codes of the
scratchpad (R269, R270). -/

namespace Sys2Proof.Machine

open Sys2Proof

/-! The agreement word (R409). -/

/-- `n` shifts of the agreement register. -/
def agreeShift : Nat → BitVec 32 → BitVec 32
  | 0, c => c
  | n + 1, c => agreeShift n (if c.msb then (c <<< 1) ^^^ 0x2D3A6B97#32 else c <<< 1)

/-- One byte into the agreement register. -/
def agreeByte (c : BitVec 32) (b : Byte) : BitVec 32 := agreeShift 8 (c ^^^ (b.zeroExtend 32 <<< 24))

/-- The agreement word of bytes in ascending address order. -/
def agree (bs : List Byte) : BitVec 32 := bs.foldl agreeByte 0

/-! CRC-32C, reflected (R359). -/

def crcShift : Nat → BitVec 32 → BitVec 32
  | 0, c => c
  | n + 1, c => crcShift n (if c.getLsbD 0 then (c >>> 1) ^^^ 0x82F63B78#32 else c >>> 1)

/-- CRC-32C of bytes: initial value all ones, final XOR all ones. -/
def crc32c (bs : List Byte) : BitVec 32 :=
  (bs.foldl (fun c b => crcShift 8 (c ^^^ b.zeroExtend 32)) 0xFFFFFFFF#32) ^^^ 0xFFFFFFFF#32

/-! Fields GF(2^m), elements as numbers. -/

/-- a × b by shifting a through the bits of b, reduced by the field polynomial at each shift. -/
def gfMulGo (m poly : Nat) : Nat → Nat → Nat → Nat
  | 0, _, _ => 0
  | n + 1, a, b =>
    let r := gfMulGo m poly n (if a * 2 < 2 ^ m then a * 2 else (a * 2) ^^^ poly) (b / 2)
    if b % 2 = 1 then r ^^^ a else r

/-- A field: its degree and its polynomial. -/
structure GF where
  m : Nat
  poly : Nat

/-- GF(2⁸) of R285 and GF(2¹⁰) of R356. -/
def gf8 : GF := ⟨8, 0x11D⟩
def gf10 : GF := ⟨10, 0x481⟩

def GF.mul (f : GF) (a b : Nat) : Nat := if a = 0 ∨ b = 0 then 0 else gfMulGo f.m f.poly f.m a b

/-- The k-th power. -/
def GF.pow (f : GF) (a : Nat) : Nat → Nat
  | 0 => 1
  | k + 1 => f.mul a (f.pow a k)

/-- The inverse of a nonzero element: a^(2^m − 2) by squaring. -/
def GF.invGo (f : GF) : Nat → Nat → Nat → Nat
  | 0, _, r => r
  | n + 1, a, r => let s := f.mul a a; f.invGo n s (f.mul r s)
def GF.inv (f : GF) (a : Nat) : Nat := f.invGo (f.m - 1) a 1

/-- Polynomials are lists, lowest power first. -/
def GF.eval (f : GF) (p : List Nat) (x : Nat) : Nat := p.foldr (fun c acc => c ^^^ f.mul acc x) 0

def xorPoly : List Nat → List Nat → List Nat
  | [], q => q
  | p, [] => p
  | a :: p, b :: q => (a ^^^ b) :: xorPoly p q

def GF.scalePoly (f : GF) (c : Nat) (p : List Nat) : List Nat := p.map (f.mul c)

def GF.mulPoly (f : GF) : List Nat → List Nat → List Nat
  | [], _ => []
  | a :: p, q => xorPoly (f.scalePoly a q) (0 :: f.mulPoly p q)

/-- The formal derivative. -/
def derivOdd : List Nat → List Nat
  | [] => []
  | [a] => [a]
  | a :: _ :: p => a :: 0 :: derivOdd p
def deriv (p : List Nat) : List Nat := derivOdd p.tail

/-! Reed-Solomon codes with generator (x + α⁰) … (x + α^(r−1)), symbols of a codeword highest power first. -/

/-- The generator polynomial, lowest power first. -/
def GF.gen (f : GF) : Nat → List Nat
  | 0 => [1]
  | r + 1 => f.mulPoly [f.pow 2 r, 1] (f.gen r)

/-- The remainder register after one more message symbol, highest power first. -/
def GF.rsFeed (f : GF) (g : List Nat) (reg : List Nat) (s : Nat) : List Nat :=
  let fb := reg.headD 0 ^^^ s
  (reg.tail ++ [0]).zipWith (fun a b => a ^^^ f.mul fb b) g

/-- The check symbols of a message, highest power first. -/
def GF.rsCheck (f : GF) (r : Nat) (msg : List Nat) : List Nat :=
  let g := ((f.gen r).take r).reverse
  msg.foldl (f.rsFeed g) (List.replicate r 0)

/-- The syndrome at α^j: the codeword's value there. -/
def GF.syndrome (f : GF) (cw : List Nat) (x : Nat) : Nat := cw.foldl (fun acc c => f.mul acc x ^^^ c) 0

def GF.syndromes (f : GF) (r : Nat) (cw : List Nat) : List Nat := (List.range r).map (fun j => f.syndrome cw (f.pow 2 j))

/-- The state of the search for the error locator: locator, last correction, its length. -/
structure BM where
  lam : List Nat
  b : List Nat
  len : Nat

/-- One step of the search with f0 erasures, at syndrome number r (from 1). -/
def GF.bmStep (f : GF) (syn : List Nat) (f0 : Nat) (x : BM) (r : Nat) : BM :=
  let d := (List.range (x.len + 1)).foldl (fun acc i => acc ^^^ (if r < i + 1 then 0 else f.mul (x.lam.getD i 0) (syn.getD (r - 1 - i) 0))) 0
  let xb := 0 :: x.b
  if d = 0 then { x with b := xb }
  else
    let t := xorPoly x.lam (f.scalePoly d xb)
    if 2 * x.len + 1 ≤ r + f0 then ⟨t, f.scalePoly (f.inv d) x.lam, r + f0 - x.len⟩
    else ⟨t, xb, x.len⟩

/-- What decoding a codeword answers. -/
inductive Decoded where
  /-- the codeword, and the unmarked symbol errors corrected -/
  | ok (cw : List Nat) (errors : Nat)
  | bad
  deriving DecidableEq, Repr

/-- Bounded-distance decoding with erasures: the codeword with 2e + f ≤ r, if there is one (R288, R356). -/
def GF.rsDecode (f : GF) (r : Nat) (cw : List Nat) (erased : List Nat) : Decoded :=
  let n := cw.length
  let f0 := erased.length
  if r < f0 then .bad
  else
    let syn := f.syndromes r cw
    if syn.all (· == 0) then .ok cw 0
    else
      let loc (i : Nat) : Nat := f.pow 2 (n - 1 - i)
      let gam := erased.foldl (fun p i => f.mulPoly [1, loc i] p) [1]
      let x := ((List.range r).filter (fun k => f0 ≤ k)).foldl (fun x k => f.bmStep syn f0 x (k + 1)) ⟨gam, gam, f0⟩
      let roots := (List.range n).filter (fun i => f.eval x.lam (f.inv (loc i)) == 0)
      if x.len < f0 ∨ r < 2 * (x.len - f0) + f0 ∨ roots.length ≠ x.len then .bad
      else
        let om := (f.mulPoly syn x.lam).take r
        let dl := deriv x.lam
        let fix (i : Nat) (c : Nat) : Nat :=
          if roots.contains i then
            let xi := f.inv (loc i)
            c ^^^ f.mul (loc i) (f.mul (f.eval om xi) (f.inv (f.eval dl xi)))
          else c
        let out := cw.mapIdx fix
        if (f.syndromes r out).all (· == 0) then .ok out ((roots.filter (fun i => !erased.contains i)).length)
        else .bad

/-! The outer code of a stored block (R285): 272 bytes, two codewords. -/

/-- The symbols of codeword c of a stored block. -/
def cwOf (c : Nat) (raw : List Byte) : List Nat :=
  (List.range 136).map (fun k => (raw.getD (2 * k + c) 0).toNat)

/-- A stored block of the data bytes. -/
def storeBlock (data : List Byte) : List Byte :=
  let c0 := gf8.rsCheck 8 ((List.range 128).map (fun k => (data.getD (2 * k) 0).toNat))
  let c1 := gf8.rsCheck 8 ((List.range 128).map (fun k => (data.getD (2 * k + 1) 0).toNat))
  slice data 0 256 ++ (List.range 16).map (fun i => BitVec.ofNat 8 (if i % 2 = 0 then c0.getD (i / 2) 0 else c1.getD (i / 2) 0))

/-- Stored poison (R289). -/
def poisonBlock : List Byte := List.replicate 256 0 ++ List.replicate 16 0xFF#8

/-- The syndromes of both codewords. -/
def pairSyn (raw : List Byte) : List Nat := gf8.syndromes 8 (cwOf 0 raw) ++ gf8.syndromes 8 (cwOf 1 raw)

/-- The pair of syndromes of stored poison. -/
def poisonSyn : List Nat := pairSyn poisonBlock

/-- The symbols of a codeword that the marked units hold (R286). -/
def erasedSyms (units : BitVec 17) : List Nat := (List.range 136).filter (fun k => units.getLsbD (k / 8))

/-- What reading a stored block finds (R288, R289). -/
inductive BlockOut where
  | poison
  | bad (e0 e1 : Nat)
  | good (data : List Byte) (e0 e1 : Nat)
  deriving DecidableEq, Repr

/-- Read a stored block whose marked units are erasures. -/
def decodeBlock (raw : List Byte) (units : BitVec 17) : BlockOut :=
  if raw.all (· == 0) ∧ units = 0 then .good (List.replicate 256 0) 0 0
  else if pairSyn raw = poisonSyn then .poison
  else
    let er := erasedSyms units
    match gf8.rsDecode 8 (cwOf 0 raw) er, gf8.rsDecode 8 (cwOf 1 raw) er with
    | .ok a e0, .ok b e1 =>
      .good ((List.range 256).map (fun i => BitVec.ofNat 8 (if i % 2 = 0 then a.getD (i / 2) 0 else b.getD (i / 2) 0))) e0 e1
    | .ok _ e0, .bad => .bad e0 15
    | .bad, .ok _ e1 => .bad 15 e1
    | .bad, .bad => .bad 15 15

/-! The lane code and the scrambler (R356). -/

/-- The next bits of PRBS31 from a register of the last 31 (bit 30 the oldest), oldest bit out first. -/
def prbsBits : Nat → BitVec 31 → List Bool
  | 0, _ => []
  | n + 1, s => s.getLsbD 30 :: prbsBits n ((s <<< 1) ||| (BitVec.ofBool (s.getLsbD 30 ^^ s.getLsbD 27)).zeroExtend 31)

/-- The scrambler's bits for the 20,560 data bits of a group. -/
def prbsGroup : List Bool := prbsBits 20560 (BitVec.allOnes 31)

/-- Bits of a symbol, high bit first. -/
def symBits (s : BitVec 10) : List Bool := (List.range 10).map (fun i => s.getLsbD (9 - i))

/-- The number a list of bits spells, first bit highest. -/
def bitsNum (bs : List Bool) : Nat := bs.foldl (fun n b => 2 * n + (if b then 1 else 0)) 0

/-- The four decoded codewords of a received group: each its outcome. -/
def decodeGroup (syms : List (BitVec 10)) : List Decoded :=
  (List.range 4).map (fun c => gf10.rsDecode 30 ((List.range 544).map (fun k => (syms.getD (4 * k + c) 0).toNat)) [])

/-- The flit-stream bits of a decoded group, and for each bit whether its codeword failed. -/
def groupBits (syms : List (BitVec 10)) : List (Bool × Bool) :=
  let ds := decodeGroup syms
  let data := (List.range 2056).flatMap (fun j =>
    match ds.getD (j % 4) .bad with
    | .ok cw _ => (symBits (BitVec.ofNat 10 (cw.getD (j / 4) 0))).map (fun b => (b, false))
    | .bad => (symBits (syms.getD j 0)).map (fun b => (b, true)))
  data.zipWith (fun d p => (d.1 ^^ p, d.2)) prbsGroup

/-- Bytes of a bit stream, bit i of the stream bit i mod 8 of byte i div 8. -/
def bitsBytes : Nat → List Bool → List Byte
  | 0, _ => []
  | n + 1, bs => BitVec.ofNat 8 (bitsNum (bs.take 8).reverse) :: bitsBytes n (bs.drop 8)

/-- The symbols a transmitter makes of a group's 20,560 stream bits. -/
def encodeGroup (stream : List Bool) : List (BitVec 10) :=
  let bits := stream.zipWith (fun a b => a ^^ b) prbsGroup
  let data := (chunks 10 2056 bits).map (fun c => bitsNum c)
  let cws := (List.range 4).map (fun c =>
    let msg := (List.range 514).map (fun k => data.getD (4 * k + c) 0)
    msg ++ gf10.rsCheck 30 msg)
  (List.range 2176).map (fun j => BitVec.ofNat 10 ((cws.getD (j % 4) []).getD (j / 4) 0))

/-! The scratchpad's codes. -/

/-- Columns of data bits 0 to 63 (R269). -/
def secdedColumns : List (BitVec 8) :=
  (((List.range 256).filter (fun n => ((List.range 8).filter (fun i => bitN n i)).length == 3)).map (BitVec.ofNat 8)) ++
  [0x1F, 0x2F, 0x37, 0x3B, 0x3D, 0x3E, 0x4F, 0x57]

/-- The SEC-DED check bits of a word: the XOR of the columns of its set bits. -/
def secdedCheck (w : Word) : BitVec 8 :=
  (List.range 64).foldl (fun acc i => if w.getLsbD i then acc ^^^ secdedColumns.getD i 0 else acc) 0

/-- The parity groups of a word (R270): check bit j covers data bits i with i mod 8 = j. -/
def parityCheck (w : Word) : BitVec 8 :=
  (List.range 8).foldl (fun acc g => acc ^^^ (w >>> (8 * g)).truncate 8) 0

/-- What reading a scratchpad word finds: the word; whether corrected; or a failure; with the syndrome. -/
inductive WordOut where
  | good (w : Word)
  | fixed (w : Word) (syn : BitVec 8)
  | bad (syn : BitVec 8)
  deriving DecidableEq, Repr

/-- Read a word with its check bits, in a weight-mode region or outside every region (R269) or in activation mode (R270). -/
def decodeWord (activation : Bool) (w : Word) (c : BitVec 8) : WordOut :=
  if activation then
    let d := parityCheck w ^^^ c
    if d = 0 then .good w else .bad d
  else
    let s := secdedCheck w ^^^ c
    if s = 0 then .good w
    else
      match secdedColumns.findIdx? (· == s) with
      | some i => .fixed (w ^^^ (1#64 <<< i)) s
      | none => if (List.range 8).any (fun j => s == 1#8 <<< j) then .fixed w s else .bad s

end Sys2Proof.Machine
end

