-- ==== Sys2Proof/Machine/Sign.lean ====
section
/-! DEFINITION. The digest and the signatures the manual names by their standards (R64, R242, R504, R519): SHA-512, and Ed25519 in the pure
form of RFC 8032. The round constants are computed as the standard defines them (log entry 3). -/

namespace Sys2Proof.Machine

open Sys2Proof

/-! SHA-512. -/

/-- The primes below 410: the first 80. -/
def shaPrimes : List Nat :=
  (List.range 410).filter (fun n => decide (2 ≤ n) && (List.range 19).all (fun d => n % (d + 2) != 0 || decide (n ≤ d + 2)))

/-- The greatest number above `x` by less than 2^b whose `r`th power does not exceed a bound, bit by bit. -/
def rootBits (r bound : Nat) : Nat → Nat → Nat
  | 0, x => x
  | b + 1, x => rootBits r bound b (if (x + 2 ^ b) ^ r ≤ bound then x + 2 ^ b else x)

/-- The first 64 bits of the fractional part of the `r`th root of a number below 512. -/
def rootFraction (r n : Nat) : Nat := rootBits r (n * 2 ^ (64 * r)) 69 0 % 2 ^ 64

/-- The constant of each round: from the cube roots of the first 80 primes. -/
def shaK : List Nat := shaPrimes.map (rootFraction 3)

/-- The last four values of a and of e, the newest first, between two blocks and within one: what the standard calls a to d and e to h. -/
structure ShaState where
  a : List Nat
  e : List Nat

/-- The state before the first block: from the square roots of the first eight primes. -/
def shaStart : ShaState := ⟨(shaPrimes.take 4).map (rootFraction 2), ((shaPrimes.drop 4).take 4).map (rootFraction 2)⟩

/-- The number a list of bytes spells, most significant first. -/
def beNat (bs : List Byte) : Nat := leNat bs.reverse

/-- The exclusive or of a word rotated right by each of some numbers of bits. -/
def rotXor (ns : List Nat) (x : Nat) : Nat := ns.foldl (fun y n => y ^^^ (x / 2 ^ n + x * 2 ^ (64 - n) % 2 ^ 64)) 0

/-- The message schedule, the newest word first: `n` more words. -/
def shaExtend : Nat → List Nat → List Nat
  | 0, w => w
  | n + 1, w =>
    let old := w.getD 14 0
    let new := w.getD 1 0
    shaExtend n ((w.getD 15 0 + (rotXor [1, 8] old ^^^ old / 2 ^ 7) + w.getD 6 0 + (rotXor [19, 61] new ^^^ new / 2 ^ 6)) % 2 ^ 64 :: w)

/-- One round with the sum of its constant and schedule word. -/
def shaRound (v : ShaState) (kw : Nat) : ShaState :=
  let a (i : Nat) : Nat := v.a.getD i 0
  let e (i : Nat) : Nat := v.e.getD i 0
  let chosen := e 2 ^^^ (e 0 &&& (e 1 ^^^ e 2))
  let common := (a 0 &&& a 1) ||| (a 2 &&& (a 0 ||| a 1))
  let x := e 3 + rotXor [14, 18, 41] (e 0) + chosen + kw
  ⟨(x + rotXor [28, 34, 39] (a 0) + common) % 2 ^ 64 :: v.a.take 3, (a 3 + x) % 2 ^ 64 :: v.e.take 3⟩

/-- The state after a block of 128 bytes: what the rounds leave, added word by word to what they began with. -/
def shaBlock (v : ShaState) (block : List Byte) : ShaState :=
  let w := (shaExtend 64 ((chunks 8 16 block).map beNat).reverse).reverse
  let u := (List.zipWith (· + ·) shaK w).foldl shaRound v
  let add (x y : List Nat) : List Nat := List.zipWith (fun m n => (m + n) % 2 ^ 64) x y
  ⟨add v.a u.a, add v.e u.e⟩

/-- The message padded to whole blocks. -/
def shaPadded (bs : List Byte) : List Byte :=
  bs ++ 0x80 :: List.replicate ((239 - bs.length % 128) % 128) 0 ++ (leBytes 16 (8 * bs.length)).reverse

/-- The SHA-512 digest of bytes: its first byte is the least significant here. -/
def sha512 (bs : List Byte) : BitVec 512 :=
  let m := shaPadded bs
  let v := (chunks 128 (m.length / 128) m).foldl shaBlock shaStart
  BitVec.ofNat 512 (leNat ((v.a ++ v.e).flatMap (fun x => (leBytes 8 x).reverse)))

/-! Ed25519: the field of 2^255 − 19 elements, the curve −x² + y² = 1 + d x² y², points in extended coordinates. -/

/-- The order of the field. -/
def edP : Nat := 2 ^ 255 - 19
/-- The order of the base point. -/
def edL : Nat := 2 ^ 252 + 27742317777372353535851937790883648493
/-- The curve's d, the square root of −1, and the base point's coordinates. -/
def edD : Nat := 0x52036cee2b6ffe738cc740797779e89800700a4d4141d8ab75eb4dca135978a3
def edI : Nat := 0x2b8324804fc1df0b2b4d00993dfbd7a72f431806ad2fe478c4ee1b274a0ea0b0
def edX : Nat := 0x216936d3cd6e53fec0a4e231fdd6dc5c692cc7609525a7b2c9562d608f25d51a
def edY : Nat := 0x6666666666666666666666666666666666666666666666666666666666666658

/-- The difference of two field elements. -/
def edSub (a b : Nat) : Nat := (a + edP - b) % edP

/-- A power of a field element, by squaring through the `n` low bits of the exponent. -/
def edPow : Nat → Nat → Nat → Nat
  | 0, _, _ => 1
  | n + 1, b, e => (if e % 2 = 1 then b else 1) * edPow n (b * b % edP) (e / 2) % edP

/-- The inverse of a field element. -/
def edInv (a : Nat) : Nat := edPow 255 a (edP - 2)

/-- A point: X, Y, Z and T = XY/Z. -/
structure EdPoint where
  x : Nat
  y : Nat
  z : Nat
  t : Nat
  deriving DecidableEq, Repr

/-- The neutral point and the base point. -/
def edZero : EdPoint := ⟨0, 1, 1, 0⟩
def edBase : EdPoint := ⟨edX, edY, 1, edX * edY % edP⟩

/-- The sum of two points. -/
def edAdd (p q : EdPoint) : EdPoint :=
  let a := edSub p.y p.x * edSub q.y q.x % edP
  let b := (p.y + p.x) * (q.y + q.x) % edP
  let c := p.t * 2 * edD % edP * q.t % edP
  let d := p.z * 2 * q.z % edP
  let e := edSub b a
  let f := edSub d c
  let g := (d + c) % edP
  let h := (b + a) % edP
  ⟨e * f % edP, g * h % edP, f * g % edP, e * h % edP⟩

/-- A multiple of a point, through the `n` low bits of the number. -/
def edMul : Nat → Nat → EdPoint → EdPoint
  | 0, _, _ => edZero
  | n + 1, k, p =>
    let q := edMul n (k / 2) (edAdd p p)
    if k % 2 = 1 then edAdd q p else q

/-- Two points are the same. -/
def edSame (p q : EdPoint) : Bool := p.x * q.z % edP == q.x * p.z % edP && p.y * q.z % edP == q.y * p.z % edP

/-- The x of a y on the curve, with its sign. -/
def edFindX (y sign : Nat) : Option Nat :=
  let x2 := edSub (y * y % edP) 1 * edInv ((edD * (y * y % edP) + 1) % edP) % edP
  if x2 = 0 then (if sign = 1 then none else some 0)
  else
    let a := edPow 252 x2 ((edP + 3) / 8)
    let x := if a * a % edP = x2 then a else a * edI % edP
    if x * x % edP ≠ x2 then none else some (if x % 2 = sign then x else edP - x)

/-- The point 32 bytes stand for. -/
def edDecode (v : Nat) : Option EdPoint :=
  let y := v % 2 ^ 255
  if edP ≤ y then none else (edFindX y (v / 2 ^ 255 % 2)).map (fun x => ⟨x, y, 1, x * y % edP⟩)

/-- The 32 bytes that stand for a point. -/
def edEncode (p : EdPoint) : Nat :=
  let i := edInv p.z
  p.y * i % edP + p.x * i % edP % 2 * 2 ^ 255

/-- The secret scalar and the prefix of a private key. -/
def edSecret (k : BitVec 256) : Nat × List Byte :=
  let h := (sha512 (leBytes 32 k.toNat)).toNat
  (h % 2 ^ 254 / 8 * 8 + 2 ^ 254, leBytes 32 (h / 2 ^ 256))

/-- The public key of a private key. -/
def ed25519Public (k : BitVec 256) : BitVec 256 := BitVec.ofNat 256 (edEncode (edMul 255 (edSecret k).1 edBase))

/-- The signature of a message. -/
def ed25519Sign (k : BitVec 256) (m : List Byte) : List Byte :=
  let (a, salt) := edSecret k
  let r := (sha512 (salt ++ m)).toNat % edL
  let rs := leBytes 32 (edEncode (edMul 253 r edBase))
  let h := (sha512 (rs ++ leBytes 32 (ed25519Public k).toNat ++ m)).toNat % edL
  rs ++ leBytes 32 ((r + h * a) % edL)

/-- Whether a signature of a message is one of a public key: [8][S]B = [8]R + [8][k]A. -/
def ed25519Verify (key : BitVec 256) (m : List Byte) (sig : BitVec 512) : Bool :=
  let rv := sig.toNat % 2 ^ 256
  let sv := sig.toNat / 2 ^ 256
  if edL ≤ sv then false
  else
    match edDecode key.toNat, edDecode rv with
    | some a, some r =>
      let h := (sha512 (leBytes 32 rv ++ leBytes 32 key.toNat ++ m)).toNat % edL
      edSame (edMul 4 8 (edMul 253 sv edBase)) (edMul 4 8 (edAdd r (edMul 253 h a)))
    | _, _ => false

end Sys2Proof.Machine
end

