-- ==== Sys2Proof/Machine/Gddr.lean ====
section
/-! DEFINITION. The GDDR7 controllers: stored blocks, the outer code, reads, writes and atomics of a block, poison,
write-back of corrections, the remap table and injection (R281 to R305). An operation here answers the error records
that it owes; `Records` writes them. -/

namespace Sys2Proof.Machine

open Sys2Proof

variable {s0 : State}

/-- An error record to be written (R419); what does not apply holds all ones. `unit` names the unit for the class C
limit (R422). -/
structure Rec where
  cls : Nat
  source : Nat
  unit : Nat
  cause : Nat := 0xFFFF
  job : Option Nat := .none
  ctxId : Nat := 0xFFFF
  lcore : Nat := 0xFF
  pcore : Nat := 0xFF
  field : Nat := 0xFF
  slot : Nat := 0xFF
  ctrl : Nat := 0xFF
  device : Nat := 0xFF
  lane : Nat := 0xFF
  flags : Nat := 0
  op : Nat := 0xFFFFFFFFFFFFFFFF
  addr : Nat := 0xFFFFFFFFFFFFFFFF
  syn : List Byte := []
  detail : List Byte := []
  deriving DecidableEq, Repr

/-- Records of what work for a job met name the job (R419, R512). -/
def ofJob (j : Option Nat) (evs : List Rec) : List Rec := evs.map (fun r => { r with job := r.job.orElse (fun _ => j) })

/-- Reading a list of cells: `n` bytes from a key. -/
def readCells (m : List Host.Cell) (lo n : Nat) : List Byte :=
  let c := m.filter (fun x => decide (lo ≤ x.1) && decide (x.1 < lo + n))
  (List.range n).map (fun i => FMap.get zeroByte c (lo + i))

/-- Statuses of R367. -/
def Status.ok : Nat := 0
def Status.held : Nat := 1
def Status.poison : Nat := 2
def Status.peerReset : Nat := 3
def Status.stale : Nat := 4
def Status.noRoute : Nat := 5
def Status.checkFail : Nat := 6
def Status.sizeMismatch : Nat := 7
def Status.genMissing : Nat := 8
def Status.timeout : Nat := 9

/-- Whether a status makes its fault class D, and not H (R126, R317). -/
def statusClassD (s : Nat) : Bool := s == 2 || s == 6 || s == 7 || s == 8

/-- Addressable blocks of each controller (R282). -/
def gdBlocksIn (s : State) : Nat := if fieldIn s R.DEV_ID_ORDER 0 0 = 2 then 15728640 else 31457280
def gdBlocks : M s0 Nat := do return gdBlocksIn (← st)

/-- The addressable capacity of the module in bytes (R283). -/
def gdCapacity : M s0 Nat := do return (← gdBlocks) * 8192

/-- The stored block a local block lies in: itself, or the spare a valid remap entry names (R295). -/
def gdPhysIn (s : State) (k block : Nat) : Nat :=
  match (List.range 16).find? (fun i =>
      fieldIn s R.GD_REMAP_VALID k i == 1 && fieldIn s R.GD_REMAP_BUSY k i == 0 && fieldIn s R.GD_REMAP_BLOCK k i == block) with
  | some i => gdBlocksIn s + fieldIn s R.GD_REMAP_SPARE k i
  | none => block

/-- The key of a stored block's first byte. -/
def gdKey (k phys : Nat) : Nat := (k * 2 ^ 25 + phys) * 272

/-- The 272 bytes of a stored block. -/
def gdRaw (k phys : Nat) : M s0 (List Byte) := do return readCells (← st).gddr (gdKey k phys) 272

/-- Store bytes at consecutive keys of GDDR7. -/
def gdPut (key : Nat) (bs : List Byte) : M s0 Unit := do
  for p in bs.zipIdx do
    eff (.gddr (key + p.2) p.1)

/-- The entry whose copy of a local block is under way (R295). -/
def gdCopyingIn (s : State) (k block : Nat) : Option Nat :=
  (List.range 16).find? (fun i => fieldIn s R.GD_REMAP_BUSY k i == 1 && fieldIn s R.GD_REMAP_BLOCK k i == block)

/-- Whether an access to a local block waits at the controller's port: its devices are in self-refresh (R297), a write of the block has
a burst to be replayed (R287), or the block is being copied to a spare (R295, R298). A controller in the failed state answers at once
(R296). -/
def gdWaitsIn (s : State) (k block : Nat) : Bool :=
  fieldIn s R.GD_STATUS_STATE k 0 != 3 &&
  (fieldIn s R.GD_STATUS_STATE k 0 == 2 || (FMap.get gdctl0 s.gdctls k).stuck.any (fun w => w.block == block) ||
    (gdCopyingIn s k block).isSome)

/-- Whether a visit of a stored block waits: as an access does, or for a write, stuck or of a copy, of the block a spare stands for (R298). -/
def gdVisitWaitsIn (s : State) (k phys : Nat) : Bool :=
  gdWaitsIn s k phys ||
  (fieldIn s R.GD_STATUS_STATE k 0 != 3 &&
    ((FMap.get gdctl0 s.gdctls k).stuck.any (fun w => gdPhysIn s k w.block == phys) ||
      (List.range 16).any (fun i => fieldIn s R.GD_REMAP_BUSY k i == 1 && gdBlocksIn s + fieldIn s R.GD_REMAP_SPARE k i == phys)))

/-- Forget what the controller holds about a stored block: its injection, a pending write-back and the bytes kept for a copy of it
(R291, R298). -/
def gdTouch (k phys : Nat) : M s0 Unit := do
  let g ← getGd k
  let copying := gdCopyingIn (← st) k phys
  setGd k { g with
    writeBack := g.writeBack.filter (fun p => p.1 != phys)
    injected := g.injected.filter (fun p => p.1 != phys)
    copies := g.copies.filter (fun p => some p.1 != copying) }

/-- Store a block's 272 bytes. -/
def gdPutBlock (k phys : Nat) (raw : List Byte) : M s0 Unit := do
  gdPut (gdKey k phys) raw
  gdTouch k phys

/-- Symbols of a codeword outside the erased ones in which two stored blocks differ. -/
def unmarkedErrors (c : Nat) (a b : List Byte) (units : BitVec 17) : Nat :=
  ((List.range 136).filter (fun k => !units.getLsbD (k / 8) && (a.getD (2 * k + c) 0 != b.getD (2 * k + c) 0))).length

/-- Decode a stored block. Where injected faults exceed R288's bound, the decoder reports the block uncorrectable or,
where its bounded search finds another codeword, may deliver that one: a free choice (log entry 9). -/
def gdDecode (k phys : Nat) (raw : List Byte) (units : BitVec 17) : M s0 BlockOut := do
  let g ← getGd k
  let out := decodeBlock raw units
  match g.injected.find? (fun p => p.1 == phys) with
  | none => return out
  | some (_, clean) =>
    let f := (erasedSyms units).length
    let b0 := decide (8 < 2 * unmarkedErrors 0 raw clean units + f)
    let b1 := decide (8 < 2 * unmarkedErrors 1 raw clean units + f)
    match out with
    | .good _ e0 e1 =>
      if b0 || b1 then
        if ← freeBool then return out
        else return .bad (if b0 then 15 else e0) (if b1 then 15 else e1)
      else return out
    | _ => return out

/-- The record of an event of controller k: SYNDROME is GD_ERR, DETAIL is GD_STATUS (R420). -/
def gdRec (k cls block : Nat) (units : BitVec 17) (flags : Nat) : M s0 Rec := do
  let err ← rdReg (R.GD_ERR_BLOCK.addr k 0)
  let sta ← rdReg (R.GD_STATUS_STATE.addr k 0)
  let u := (List.range 17).find? (fun i => units.getLsbD i)
  let dev := match u with
    | some i => if bitsOf sta 2 2 = 2 then i % 2 else 0
    | none => 0xFF
  return { cls, source := 0x05, unit := k, ctrl := k, field := k / 4, device := dev, flags, addr := block,
           syn := slice (leBytes 8 err.toNat) 0 32, detail := slice (leBytes 8 sta.toNat) 0 24 }

/-- Set GD_ERR (R302). -/
def gdSetErr (k block : Nat) (units : BitVec 17) (e0 e1 : Nat) (ue poison scrub injected : Bool) : M s0 Unit := do
  let b (x : Bool) (i : Nat) : Nat := if x then 2 ^ i else 0
  wrReg (R.GD_ERR_BLOCK.addr k 0) (BitVec.ofNat 64 (block % 2 ^ 25 + units.toNat * 2 ^ 25 + e0 % 16 * 2 ^ 42 + e1 % 16 * 2 ^ 46
    + b ue 50 + b poison 51 + b scrub 52 + b injected 53 + 2 ^ 54))

/-- Claim an entry for an automatic remap of a block that was corrected (R295), its copy to be completed later. -/
def gdAutoRemap (k block : Nat) (data : List Byte) : M s0 Unit := do
  let s ← st
  let blocks ← gdBlocks
  let held := (List.range 16).any (fun i =>
    (fieldIn s R.GD_REMAP_VALID k i == 1 || fieldIn s R.GD_REMAP_BUSY k i == 1) && fieldIn s R.GD_REMAP_BLOCK k i == block)
  if held || decide (blocks ≤ block) then return ()
  match (List.range 16).find? (fun i => fieldIn s R.GD_REMAP_VALID k i == 0 && fieldIn s R.GD_REMAP_BUSY k i == 0) with
  | none => countSat R.GD_CNT1_REMAPFULL k
  | some i =>
    let used := ((List.range 16).filter (fun i =>
      fieldIn s R.GD_REMAP_VALID k i == 1 || fieldIn s R.GD_REMAP_BUSY k i == 1)).map (fun i => fieldIn s R.GD_REMAP_SPARE k i)
    let spare := ((List.range 17).find? (fun n => !used.contains n)).getD 0
    wrReg (R.GD_REMAP_BLOCK.addr k i)
      (BitVec.ofNat 64 (block % 2 ^ 25 + spare * 2 ^ 25 + 2 ^ 40 + 2 ^ 41))
    let g ← getGd k
    setGd k { g with copies := g.copies.filter (fun p => p.1 != i) ++ [(i, data)] }

/-- Read one stored block at the place it lies: the data, or none for POISON, and the records owed (R290 to R294). -/
def gdReadAt (k block phys : Nat) (f : BlockFaults) (scrub : Bool) : M s0 (Option (List Byte) × List Rec) := do
  let raw ← gdRaw k phys
  let g ← getGd k
  let hinted := g.hint.filter (fun p => p.1 == phys)
  setGd k { g with hint := g.hint.filter (fun p => p.1 != phys) }
  let inj := g.injected.any (fun p => p.1 == phys)
  let lost := (f.crcFails.filter (fun p => decide (4 ≤ p.2))).map (·.1)
  let retries := (f.crcFails.map (fun p => min p.2 3)).sum
  countSat R.GD_CNT1_RETRY k retries
  countSat R.GD_CNT0_INNER k f.inner
  let marks := (lost ++ hinted.map (·.2)).foldl (fun (m : BitVec 17) u => m ||| (1#17 <<< u)) f.onDie
  let fl := (if inj then 1 else 0) + (if scrub then 2 else 0)
  let mut evs : List Rec := []
  if 0 < retries then evs := evs ++ List.replicate retries (← gdRec k 0 block marks fl)
  match ← gdDecode k phys raw marks with
  | .poison =>
    countSat R.GD_CNT0_UE k
    gdSetErr k block marks 0 0 false true scrub inj
    return (none, evs)
  | .bad e0 e1 =>
    countSat R.GD_CNT0_UE k
    gdSetErr k block marks e0 e1 true false scrub inj
    let r ← gdRec k 1 block marks fl
    gdPutBlock k phys poisonBlock
    return (none, evs ++ [r])
  | .good data e0 e1 =>
    if marks = 0 ∧ e0 = 0 ∧ e1 = 0 then return (some data, evs)
    countSat R.GD_CNT0_OUTER k
    if marks ≠ 0 then countSat R.GD_CNT1_ERASED k
    gdSetErr k block marks e0 e1 false false scrub inj
    let r ← gdRec k 0 block marks fl
    let g ← getGd k
    setGd k { g with writeBack := g.writeBack.filter (fun p => p.1 != phys) ++ [(phys, data)] }
    if marks ≠ 0 ∨ 3 ≤ e0 ∨ 3 ≤ e1 then gdAutoRemap k block data
    return (some data, evs ++ [r])

/-- No faults of the device or its link. -/
def noFaults : BlockFaults := ⟨0, [], 0, []⟩

/-- Read a local block for a requester: a controller in the failed state answers POISON (R296). -/
def gdRead (k block : Nat) (f : BlockFaults := noFaults) : M s0 (Option (List Byte) × List Rec) := do
  if (← getF R.GD_STATUS_STATE k) = 3 then return (none, [])
  gdReadAt k block (gdPhysIn (← st) k block) f false

/-- Store a requester's block, with the armed injection when it qualifies (R299). -/
def gdStore (k block : Nat) (data : List Byte) : M s0 (List Rec) := do
  let phys := gdPhysIn (← st) k block
  let clean := storeBlock data
  let armed ← isF R.GD_FLIPC_ARMED k
  let matched ← isF R.GD_FLIPC_MATCH k
  let target ← getF R.GD_FLIPC_BLOCK k
  if armed && (!matched || target == block) then
    let u ← getF R.GD_FLIPC_UNIT k
    let mask := leBytes 8 (← getF R.GD_FLIPD0_MASK_LO k) ++ leBytes 8 (← getF R.GD_FLIPD1_MASK_HI k)
    let raw := clean.mapIdx (fun i b => if i / 16 = u then b ^^^ mask.getD (i % 16) 0 else b)
    gdPutBlock k phys raw
    setF R.GD_FLIPC_ARMED 0 k
    let hint ← isF R.GD_FLIPC_HINT k
    let crc ← isF R.GD_FLIPC_CRC k
    let g ← getGd k
    setGd k { g with
      injected := g.injected ++ [(phys, clean)]
      hint := if hint then g.hint ++ [(phys, u)] else g.hint }
    if crc then
      countSat R.GD_CNT1_RETRY k
      return [← gdRec k 0 block 0 1]
    return []
  else
    gdPutBlock k phys clean
    return []

/-- Store poison in a local block (R289). -/
def gdStorePoison (k block : Nat) : M s0 Unit := do
  gdPutBlock k (gdPhysIn (← st) k block) poisonBlock

/-- Write bytes at an offset of a local block: whole, or merged after a read (R290). -/
def gdWrite (k block off : Nat) (bytes : List Byte) : M s0 (Nat × List Rec) := do
  if (← getF R.GD_STATUS_STATE k) = 3 then return (Status.poison, [])
  if off = 0 ∧ bytes.length = 256 then
    return (Status.ok, ← gdStore k block bytes)
  match ← gdRead k block with
  | (none, evs) =>
    gdStorePoison k block
    return (Status.poison, evs)
  | (some data, evs) =>
    let more ← gdStore k block (patch data off bytes)
    return (Status.ok, evs ++ more)

/-- An 8-byte atomic in a local block: the old word, or none for POISON (R290). -/
def gdAtomic (k block off : Nat) (f : Word → Option Word) : M s0 (Option Word × List Rec) := do
  if (← getF R.GD_STATUS_STATE k) = 3 then return (none, [])
  match ← gdRead k block with
  | (none, evs) =>
    gdStorePoison k block
    return (none, evs)
  | (some data, evs) =>
    let old := BitVec.ofNat 64 (fieldAt data off 8)
    match f old with
    | none => return (some old, evs)
    | some new =>
      let more ← gdStore k block (patch data off (leBytes 8 new.toNat))
      return (some old, evs ++ more)

/-- Controller and local block of an offset in the interleaved range (R284). -/
def interleave (o : Nat) : Nat × Nat :=
  let b := o / 256
  let k := (b ^^^ (b / 2 ^ 5) ^^^ (b / 2 ^ 10) ^^^ (b / 2 ^ 15) ^^^ (b / 2 ^ 20) ^^^ (b / 2 ^ 25)) % 32
  (k, b / 32)

/-- Controller and local block of an offset in the GDDR7 part of the window, or none (R283). -/
def gddrAt (blocks o : Nat) : Option (Nat × Nat) :=
  if o < blocks * 8192 then some (interleave o)
  else if 0x100000000000 ≤ o ∧ o < 0x100000000000 + 32 * 0x200000000 then
    let d := o - 0x100000000000
    if d % 0x200000000 < blocks * 256 then some (d / 0x200000000, d % 0x200000000 / 256) else none
  else none

end Sys2Proof.Machine
end

