-- ==== Sys2Proof/Machine/Spad.lean ====
section
/-! DEFINITION. The scratchpads: words and their check modes, stored poison, the gather buffer, atomics and injection
(R254 to R279), and where a region's words lie in the banks (R257, R258). -/

namespace Sys2Proof.Machine

open Sys2Proof

variable {s0 : State}

/-! Placement (R257, R258). -/

/-- Bank and bank line of the word at a scratchpad address in a linear region, or outside every region (R257). -/
def placeLinear (a : Nat) : Nat × Nat := (a / 8 % 128, a / 8 / 128)

/-- Bank and bank line of logical word `i` of a two-dimensional region (R258). -/
def placeTwoDim (base cols i : Nat) : Nat × Nat :=
  let r := i / cols
  let c := i % cols
  ((r + c) % 128, base * 64 + r * (cols / 128) + c / 128)

/-- The steps a request takes for the words at these places: the most that lie in one bank (R256). -/
def requestSteps (places : List (Nat × Nat)) : Nat :=
  (List.range 128).foldl (fun m b => max m ((places.filter (fun p => p.1 == b)).length)) 0

/-- Rows of a two-dimensional region (R258). -/
def regionRows (r : Region) : Nat := r.size * 8192 / r.cols

/-! The regions of a core. -/

/-- The clause of the active stream that holds a logical core. -/
def clauseOfIn (s : State) (l : Nat) : Option Clause :=
  match s.stream with
  | none => none
  | some x => x.clauses.find? (fun c => c.cores.contains l)

/-- The regions of the core's clause. -/
def regionsIn (s : State) (l : Nat) : List Region :=
  match s.stream, clauseOfIn s l with
  | some x, some c => x.regions.filter (fun r => r.clause == c.num)
  | _, _ => []

/-- Whether an address lies in a region. -/
def inRegion (r : Region) (a : Nat) : Bool := decide (r.base * 65536 ≤ a) && decide (a < (r.base + r.size) * 65536)

/-- Whether an address lies in an activation-mode region (R260, R270). -/
def activationIn (s : State) (l a : Nat) : Bool := (regionsIn s l).any (fun r => inRegion r a && r.activation)

/-- Whether a logical core is bound: its number is below what its field can hold (R20, R21). -/
def boundIn (s : State) (l : Nat) : Bool :=
  decide (l < 144) &&
  decide (l % 18 < ((List.range 19).filter (fun p => bitN (fieldIn s R.DEV_FIELD_MAP_USABLE (l / 18) 0) p)).length)

/-- The patrol passes that every bound core has completed are shown (R280). -/
def showPasses : M s0 Unit := do
  let s ← st
  match ((List.range 144).filter (boundIn s)).map (fun l => (FMap.get spctl0 s.spctls l).passes) with
  | [] => return ()
  | n :: ns => setF R.SP_SCRUB_PASSES (ns.foldl min n)

/-- The groups whose promoted requester still waits at a core's banks, in the order in which they are served (R264): one that has gone
(an attention operation that has completed, a save while a sentence is under way, a channel that is not busy, a patrol that is off) waits no
more. -/
def promotedIn (s : State) (l : Nat) : List Nat :=
  (FMap.get spctl0 s.spctls l).promoted.filter (fun g =>
    if g = 3 then !(FMap.get core0 s.cores l).att.isEmpty
    else if g = 4 then (FMap.get ctx0 s.ctxs (ctxKey l (fieldIn s R.CORE_STATUS_SLOT l 0))).sentence.isNone
    else if g = 5 then (List.range 8).any (fun ch => (FMap.get dma0 s.dmas (l * 8 + ch)).state == 1)
    else if g = 7 then fieldIn s R.SP_SCRUB_INTERVAL 0 0 != 0 else true)

/-- Whether a requester of a group is served now: while promoted ones wait, the first of them is served ahead of all others (R264). -/
def spTurnIn (s : State) (l group : Nat) : Bool :=
  match promotedIn s l with
  | [] => true
  | g :: _ => g == group

/-- A requester of a group is served at a core's banks, or its command waits; it is promoted no longer (R264). A command whose turn it was when
it began keeps it for all its accesses. -/
def spServed (l group : Nat) : M s0 Unit := do
  need (spTurnIn s0 l group || spTurnIn (← st) l group) .later
  let p ← getSp l
  if p.promoted.contains group then setSp l { p with promoted := p.promoted.filter (· != group) }

/-- The key of a word's first byte. -/
def spKey (l w : Nat) : Nat := (l * 2 ^ 21 + w) * 9

/-- Store a word and its check bits. -/
def spPutRaw (l w : Nat) (v : Word) (c : Byte) : M s0 Unit := do
  for p in (leBytes 8 v.toNat).zipIdx do
    eff (.spad (spKey l w + p.2) p.1)
  eff (.spad (spKey l w + 8) c)

/-- Forget a pending write-back of a word and its mark of injection (R272). -/
def spTouch (l w : Nat) : M s0 Unit := do
  let p ← getSp l
  setSp l { p with writeBack := p.writeBack.filter (fun x => x.1 != w), injected := p.injected.filter (· != w) }

/-- The check bits of the mode that holds at an address (R269, R270). -/
def checkFor (act : Bool) (v : Word) : Byte := if act then parityCheck v else secdedCheck v

/-- Store a whole word with fresh check bits, as a requester's write: the armed injection qualifies (R271, R279). -/
def spStoreWord (l w : Nat) (v : Word) : M s0 Unit := do
  let act := activationIn (← st) l (w * 8)
  let c := checkFor act v
  let armed ← isF R.SP_FLIPC_ARMED l
  let matched ← isF R.SP_FLIPC_MATCH l
  let target ← getF R.SP_FLIPC_ADDR l
  spTouch l w
  if armed && (!matched || target / 8 == w) then
    spPutRaw l w (v ^^^ BitVec.ofNat 64 (← getF R.SP_FLIPD_DATA l)) (c ^^^ BitVec.ofNat 8 (← getF R.SP_FLIPC_CHECK l))
    setF R.SP_FLIPC_ARMED 0 l
    let p ← getSp l
    setSp l { p with injected := p.injected ++ [w] }
  else spPutRaw l w v c

/-- Stored poison (R271). -/
def spPoisonWord (l w : Nat) : M s0 Unit := do
  spTouch l w
  spPutRaw l w 0 0xFF

/-- The record of a scratchpad event (R419, R420): SYNDROME is SP_ERR, ADDRESS the word's global address. -/
def spRec (l cls w : Nat) (flags : Nat) : M s0 Rec := do
  let err ← rdReg (R.SP_ERR_ADDR.addr l 0)
  return { cls, source := 0x04, unit := l, lcore := l, pcore := ← getF R.CORE_STATUS_PCORE l, field := l / 18, flags,
           addr := (← getF R.FAB_ID_CHIP) * 2 ^ 48 + 0x400000000000 + l * 0x1000000 + w * 8,
           syn := slice (leBytes 8 err.toNat) 0 32 }

/-- Set SP_ERR (R278). -/
def spSetErr (l w : Nat) (syn : Byte) (act ue scrub inj : Bool) : M s0 Unit := do
  let b (x : Bool) (i : Nat) : Nat := if x then 2 ^ i else 0
  wrReg (R.SP_ERR_ADDR.addr l 0) (BitVec.ofNat 64 (w * 8 + syn.toNat * 2 ^ 24 + b act 32 + b ue 33 + b scrub 34 + b inj 35 + 2 ^ 36))

/-- Read one word at the banks: the word, or none for a failing one, and the records owed (R269 to R273). -/
def spReadWord (l w : Nat) (scrub : Bool := false) : M s0 (Option Word × List Rec) := do
  let s ← st
  let raw := readCells s.spad (spKey l w) 9
  let v := BitVec.ofNat 64 (leNat (raw.take 8))
  let c := raw.getD 8 0
  let act := activationIn s l (w * 8)
  let p ← getSp l
  let inj := p.injected.contains w
  let fl := (if inj then 1 else 0) + (if scrub then 2 else 0)
  match decodeWord act v c with
  | .good x => return (some x, [])
  | .fixed x syn =>
    countSat R.SP_CNT_CORRECTED l
    spSetErr l w syn act false scrub inj
    setSp l { p with writeBack := p.writeBack.filter (fun y => y.1 != w) ++ [(w, x)] }
    return (some x, [← spRec l 0 w fl])
  | .bad syn =>
    if act then countSat R.SP_CNT_PARITY l else countSat R.SP_CNT_UNCORR l
    spSetErr l w syn act true scrub inj
    if scrub then return (none, [← spRec l 0 w fl]) else return (none, [])

/-! The gather buffer (R266 to R268). -/

/-- Byte `b` of word `i` of a line. -/
def lineWord (bs : List Byte) (i : Nat) : Word := BitVec.ofNat 64 (fieldAt bs (8 * i) 8)

/-- Write back the dirty words of an entry, in ascending order. -/
def gbFlushEntry (l : Nat) (e : GatherEntry) : M s0 GatherEntry := do
  for i in List.range 128 do
    if e.dirty.getLsbD i then
      if e.bad.getLsbD i then spPoisonWord l (e.line * 128 + i)
      else spStoreWord l (e.line * 128 + i) (lineWord e.bytes i)
  return { e with dirty := 0 }

/-- Replace the gather buffer of a core. -/
def setGather (l : Nat) (g : List GatherEntry) : M s0 Unit := modCore l (fun c => { c with gather := g })

/-- Write back the dirty words of the entry that holds a line, if one does. -/
def gbFlushLine (l line : Nat) : M s0 Unit := do
  let c ← getCore l
  match c.gather.find? (fun e => e.line == line) with
  | none => return ()
  | some e =>
    let e' ← gbFlushEntry l e
    let c ← getCore l
    setGather l (c.gather.map (fun x => if x.line = line then e' else x))

/-- Write back every dirty entry. -/
def gbFlushAll (l : Nat) : M s0 Unit := do
  let c ← getCore l
  for e in c.gather do
    gbFlushLine l e.line

/-- Fill a line from the banks: failing words are marked (R273). -/
def gbFill (l line : Nat) : M s0 (GatherEntry × List Rec) := do
  let mut bytes : List Byte := []
  let mut bad : BitVec 128 := 0
  let mut evs : List Rec := []
  for i in List.range 128 do
    let (v, ev) ← spReadWord l (line * 128 + i)
    evs := evs ++ ev
    match v with
    | some x => bytes := bytes ++ leBytes 8 x.toNat
    | none =>
      bytes := bytes ++ leBytes 8 0
      bad := bad ||| (1#128 <<< i)
  return (⟨line, bytes, 0, bad⟩, evs)

/-- The entry that holds a line, as the most recently used: found, or filled with the least recently used evicted. -/
def gbEntry (l line : Nat) : M s0 (GatherEntry × List Rec) := do
  let c ← getCore l
  match c.gather.find? (fun e => e.line == line) with
  | some e =>
    setGather l (e :: c.gather.filter (fun x => x.line != line))
    return (e, [])
  | none =>
    if 8 ≤ c.gather.length then
      match c.gather.getLast? with
      | some old =>
        let _ ← gbFlushEntry l old
        setGather l c.gather.dropLast
      | none => pure ()
    let (e, evs) ← gbFill l line
    let c ← getCore l
    setGather l (e :: c.gather)
    return (e, evs)

/-- The pieces of a byte span that lie in aligned blocks of `unit` bytes: address and length of each. -/
def spanPieces (unit : Nat) : Nat → Nat → Nat → List (Nat × Nat)
  | 0, _, _ => []
  | fuel + 1, a, n =>
    if n = 0 then []
    else
      let m := min n (unit - a % unit)
      (a, m) :: spanPieces unit fuel (a + m) (n - m)

/-- The words a span of bytes touches. -/
def spanWords (a n : Nat) : List Nat := (List.range ((a % 8 + n + 7) / 8)).map (fun i => a / 8 + i)

/-- A load of the running context through the buffer: the bytes, or none for POISON. -/
def gbLoad (l a n : Nat) : M s0 (Option (List Byte) × List Rec) := do
  let mut out : List Byte := []
  let mut ok := true
  let mut evs : List Rec := []
  for p in spanPieces 1024 3 a n do
    let (e, ev) ← gbEntry l (p.1 / 1024)
    evs := evs ++ ev
    if (spanWords p.1 p.2).any (fun w => e.bad.getLsbD (w % 128)) then ok := false
    out := out ++ slice e.bytes (p.1 % 1024) p.2
  return (if ok then some out else none, evs)

/-- The words of a line that a span covers whole. -/
def wholeWords (a n : Nat) : List Nat := (spanWords a n).filter (fun w => decide (a ≤ w * 8) && decide (w * 8 + 8 ≤ a + n))

/-- An entry with bytes merged and their words dirty; a word written whole is no longer bad. -/
def gbMerge (e : GatherEntry) (a : Nat) (bs : List Byte) : GatherEntry :=
  { e with
    bytes := patch e.bytes (a % 1024) bs
    dirty := (spanWords a bs.length).foldl (fun m w => m ||| (1#128 <<< (w % 128))) e.dirty
    bad := (wholeWords a bs.length).foldl (fun m w => m &&& ~~~(1#128 <<< (w % 128))) e.bad }

/-- A store of the running context through the buffer. -/
def gbStore (l a : Nat) (bs : List Byte) : M s0 (List Rec) := do
  let mut evs : List Rec := []
  for p in spanPieces 1024 3 a bs.length do
    let (e, ev) ← gbEntry l (p.1 / 1024)
    evs := evs ++ ev
    let e' := gbMerge e p.1 (slice bs (p.1 - a) p.2)
    let c ← getCore l
    setGather l (e' :: c.gather.filter (fun x => x.line != p.1 / 1024))
  return evs

/-! Every other requester (R265, R267). -/

/-- Read bytes at the banks, dirty words of their lines written back first; none when a word they touch fails. -/
def spRead (l a n : Nat) : M s0 (Option (List Byte) × List Rec) := do
  for p in spanPieces 1024 (n / 1024 + 2) a n do
    gbFlushLine l (p.1 / 1024)
  let mut bytes : List Byte := []
  let mut ok := true
  let mut evs : List Rec := []
  for w in spanWords a n do
    let (v, ev) ← spReadWord l w
    evs := evs ++ ev
    match v with
    | some x => bytes := bytes ++ leBytes 8 x.toNat
    | none =>
      ok := false
      bytes := bytes ++ leBytes 8 0
  return (if ok then some (slice bytes (a % 8) n) else none, evs)

/-- The entry that holds a word takes its new value and is clean there. -/
def gbUpdate (l w : Nat) (v : Option Word) : M s0 Unit := do
  let c ← getCore l
  if c.gather.any (fun e => e.line == w / 128) then
    setGather l (c.gather.map (fun e =>
      if e.line = w / 128 then
        { e with
          bytes := patch e.bytes (w % 128 * 8) (leBytes 8 (match v with | some x => x.toNat | none => 0))
          dirty := e.dirty &&& ~~~(1#128 <<< (w % 128))
          bad := (match v with
            | some _ => e.bad &&& ~~~(1#128 <<< (w % 128))
            | none => e.bad ||| (1#128 <<< (w % 128))) }
      else e))

/-- Write bytes of one word: whole, or merged after a read (R271), before which the dirty words of its line are written back (R267).
Whether the merge met no failing word. -/
def spWriteIn (l w off : Nat) (bs : List Byte) : M s0 (Bool × List Rec) := do
  if bs.length = 8 then
    let v := BitVec.ofNat 64 (leNat bs)
    spStoreWord l w v
    gbUpdate l w (some v)
    return (true, [])
  else
    gbFlushLine l (w / 128)
    let (v, evs) ← spReadWord l w
    match v with
    | some x =>
      let v := BitVec.ofNat 64 (leNat (patch (leBytes 8 x.toNat) off bs))
      spStoreWord l w v
      gbUpdate l w (some v)
      return (true, evs)
    | none =>
      spPoisonWord l w
      gbUpdate l w none
      return (false, evs)

/-- Write bytes at the banks, and in the entry that holds them (R267): the status and the records owed. -/
def spWrite (l a : Nat) (bs : List Byte) : M s0 (Nat × List Rec) := do
  let mut status := Status.ok
  let mut evs : List Rec := []
  for p in spanPieces 8 (bs.length / 8 + 2) a bs.length do
    let (ok, ev) ← spWriteIn l (p.1 / 8) (p.1 % 8) (slice bs (p.1 - a) p.2)
    evs := evs ++ ev
    if !ok then status := Status.poison
  return (status, evs)

/-- An 8-byte atomic at the banks (R266, R271): the old word, or none for POISON. -/
def spAtomic (l a : Nat) (f : Word → Option Word) : M s0 (Option Word × List Rec) := do
  gbFlushLine l (a / 1024)
  let (v, evs) ← spReadWord l (a / 8)
  match v with
  | none =>
    spPoisonWord l (a / 8)
    gbUpdate l (a / 8) none
    return (none, evs)
  | some old =>
    match f old with
    | none => return (some old, evs)
    | some new =>
      spStoreWord l (a / 8) new
      gbUpdate l (a / 8) (some new)
      return (some old, evs)

end Sys2Proof.Machine
end

