-- ==== Sys2Proof/Machine/Compress.lean ====
section
/-! DEFINITION. Block compression (R333 to R349): side words, declension tables, the coding and its inverse, and the paths
of accesses to blocks of enabled ranges; and reads, writes and atomics anywhere in the module's GDDR7. -/

namespace Sys2Proof.Machine

open Sys2Proof

variable {s0 : State}

/-! Tables (R342, R343). -/

/-- The fields of a 64-byte table. -/
def parseTable (bs : List Byte) : DeclTable :=
  ⟨(List.range 49).map (fun s => let b := (bs.getD (s / 2) 0).toNat; if s % 2 = 0 then b % 16 else b / 16),
   (bs.getD 25 0).toNat⟩

/-- Whether the table is valid: a complete prefix code, END present, TRANSFORM 0 to 2, reserved bits zero. -/
def tableValid (bs : List Byte) : Bool :=
  let t := parseTable bs
  let kraft := (t.lengths.map (fun n => if n = 0 then 0 else 2 ^ (15 - n))).sum
  kraft == 2 ^ 15 && t.lengths.getD 48 0 != 0 && decide (t.transform ≤ 2) &&
  (bs.getD 24 0).toNat / 16 == 0 && (slice bs 26 38).all (· == 0)

/-- Canonical codes (R343): symbol, length, code, in ascending length and symbol. -/
def codesGo (t : DeclTable) : Nat → Nat → Nat → List (Nat × Nat × Nat)
  | 0, _, _ => []
  | n + 1, len, first =>
    let syms := (List.range 49).filter (fun s => t.lengths.getD s 0 == len)
    syms.zipIdx.map (fun p => (p.1, len, first + p.2)) ++ codesGo t n (len + 1) ((first + syms.length) * 2)
def canonical (t : DeclTable) : List (Nat × Nat × Nat) := codesGo t 15 1 0

/-! Elements (R337, R339). -/

/-- Element width of an ECLASS. -/
def eWidth (c : Nat) : Nat := 2 ^ (c + 1)
/-- Element count of an ECLASS. -/
def eCount (c : Nat) : Nat := 32768 / eWidth c

/-- transform of R339. -/
def transform (v w t : Nat) : Nat :=
  if t = 0 then v * 2 % 2 ^ w + v / 2 ^ (w - 1)
  else if t = 1 then (v * 2 % 2 ^ w) ^^^ (if v / 2 ^ (w - 1) = 1 then 2 ^ w - 1 else 0)
  else v

/-- Its inverse. -/
def untransform (x w t : Nat) : Nat :=
  if t = 0 then x / 2 + x % 2 * 2 ^ (w - 1)
  else if t = 1 then (x / 2) ^^^ (if x % 2 = 1 then 2 ^ w - 1 else 0)
  else x

/-- The elements of a block, ascending. -/
def elements (c : Nat) (bs : List Byte) : List Nat :=
  let w := eWidth c
  if w ≤ 8 then bs.flatMap (fun b => (List.range (8 / w)).map (fun i => bitsN b.toNat (w * i) w))
  else (chunks (w / 8) (eCount c) bs).map leNat

/-- The bytes of elements. -/
def unelements (c : Nat) (es : List Nat) : List Byte :=
  let w := eWidth c
  if w ≤ 8 then
    (chunks (8 / w) 4096 es).map (fun g => BitVec.ofNat 8 ((g.zipIdx.map (fun p => p.1 * 2 ^ (w * p.2))).sum))
  else es.flatMap (fun e => leBytes (w / 8) e)

/-! Coding (R340, R341). -/

/-- `n` bits of a number, most significant first. -/
def msbBits (n v : Nat) : List Bool := (List.range n).map (fun i => bitN v (n - 1 - i))
/-- `n` bits of a number, least significant first. -/
def lsbBits (n v : Nat) : List Bool := (List.range n).map (fun i => bitN v i)

/-- A symbol with its extra bits: symbol, count, value. -/
abbrev Sym := Nat × Nat × Nat

/-- The symbol of a run of `n` zeros. -/
def zrun (n : Nat) : Sym := let r := Nat.log2 n; (32 + r, r, n - 2 ^ r)

/-- The symbols of elements: `z` zeros are pending. -/
def symbolsGo (w t : Nat) : Nat → List Nat → List Sym
  | z, [] => if z = 0 then [] else [zrun z]
  | z, e :: es =>
    if e = 0 then symbolsGo w t (z + 1) es
    else
      let x := transform e w t
      let c := Nat.log2 x + 1
      (if z = 0 then [] else [zrun z]) ++ (c - 1, c - 1, x - 2 ^ (c - 1)) :: symbolsGo w t 0 es

/-- The coded bits of a block, or none where a symbol has no code. -/
def encodeBits (t : DeclTable) (c : Nat) (bs : List Byte) : Option (List Bool) :=
  let codes := canonical t
  let syms := symbolsGo (eWidth c) t.transform 0 (elements c bs) ++ [(48, 0, 0)]
  (syms.mapM (fun y => (codes.find? (fun q => q.1 == y.1)).map (fun q => msbBits q.2.1 q.2.2 ++ lsbBits y.2.1 y.2.2))).map List.flatten

/-- The bits of bytes, bit i of the stream bit i mod 8 of byte i div 8. -/
def byteBits (bs : List Byte) : List Bool := bs.flatMap (fun b => lsbBits 8 b.toNat)

/-- The next code of the stream: the symbol and the rest. -/
def nextCode (codes : List (Nat × Nat × Nat)) : Nat → Nat → Nat → List Bool → Option (Nat × List Bool)
  | 0, _, _, _ => none
  | _, _, _, [] => none
  | n + 1, len, acc, b :: bs =>
    let acc := 2 * acc + (if b then 1 else 0)
    match codes.find? (fun q => q.2.1 == len + 1 && q.2.2 == acc) with
    | some q => some (q.1, bs)
    | none => nextCode codes n (len + 1) acc bs

/-- The next `n` bits, least significant first. -/
def takeBits (n : Nat) (bs : List Bool) : Option (Nat × List Bool) :=
  if bs.length < n then none else some (bitsNum (bs.take n).reverse, bs.drop n)

/-- The decoding loop of R341 with `n` elements emitted so far (in reverse): the elements, or none on any failure. -/
def decodeGo (codes : List (Nat × Nat × Nat)) (w cnt t : Nat) : Nat → Nat → List Nat → List Bool → Option (List Nat)
  | 0, _, _, _ => none
  | fuel + 1, n, out, bits =>
    match nextCode codes 15 0 0 bits with
    | none => none
    | some (sym, rest) =>
      if sym = 48 then (if n = cnt then some out.reverse else none)
      else if sym < 32 then
        if w < sym + 1 then none
        else
          match takeBits sym rest with
          | none => none
          | some (x, rest) =>
            if cnt < n + 1 then none
            else decodeGo codes w cnt t fuel (n + 1) (untransform (2 ^ sym + x) w t :: out) rest
      else
        match takeBits (sym - 32) rest with
        | none => none
        | some (x, rest) =>
          let len := 2 ^ (sym - 32) + x
          if cnt < n + len then none
          else decodeGo codes w cnt t fuel (n + len) (List.replicate len 0 ++ out) rest

/-- Decode a compressed block from its sectors (R341): 4,096 bytes, or none for a size mismatch. -/
def decodeSectors (t : DeclTable) (c : Nat) (sectors : List Byte) : Option (List Byte) :=
  if 4 < c then none
  else (decodeGo (canonical t) (eWidth c) (eCount c) t.transform (eCount c + 2) 0 [] (byteBits sectors)).map (unelements c)

/-- What encoding a block answers: header of the side word and the bytes of its sectors. -/
structure Coded where
  header : Nat
  sectors : List Byte
  raw : Bool
  deriving DecidableEq, Repr

/-- A block coded under a generation and its table, or raw (R341). -/
def encodeBlock (table : Option DeclTable) (gen c : Nat) (bs : List Byte) : Coded :=
  let rawForm : Coded := ⟨15 + 16 + c * 2 ^ 13, bs, true⟩
  match table with
  | none => rawForm
  | some t =>
    match encodeBits t c bs with
    | none => rawForm
    | some bits =>
      let n := (bits.length + 2047) / 2048
      if 16 ≤ n then rawForm
      else ⟨(n - 1) + gen * 2 ^ 5 + c * 2 ^ 13, bitsBytes (n * 256) (bits ++ List.replicate (n * 2048 - bits.length) false), false⟩

/-! Ranges and side words. -/

/-- The enabled and ready range that holds 4 KiB block `b` of controller `k`. -/
def rangeOfIn (s : State) (k b : Nat) : Option Nat :=
  (List.range 16).find? (fun i =>
    fieldIn s R.CX_RANGE_A_EN i 0 == 1 && fieldIn s R.CX_RANGE_A_READY i 0 == 1 && fieldIn s R.CX_RANGE_A_CTRL i 0 == k &&
    decide (fieldIn s R.CX_RANGE_A_BASE i 0 ≤ b) &&
    decide (b < fieldIn s R.CX_RANGE_A_BASE i 0 + fieldIn s R.CX_RANGE_A_SIZE i 0))

/-- The enabled range, ready or not, that holds 4 KiB block `b` of controller `k`. -/
def rangeAtIn (s : State) (k b : Nat) : Option Nat :=
  (List.range 16).find? (fun i =>
    fieldIn s R.CX_RANGE_A_EN i 0 == 1 && fieldIn s R.CX_RANGE_A_CTRL i 0 == k &&
    decide (fieldIn s R.CX_RANGE_A_BASE i 0 ≤ b) &&
    decide (b < fieldIn s R.CX_RANGE_A_BASE i 0 + fieldIn s R.CX_RANGE_A_SIZE i 0))

/-- The table of a generation, if its slot holds that generation (R344). -/
def tableOfIn (s : State) (gen : Nat) : Option DeclTable :=
  if bitN (fieldIn s R.CX_SLOTS_VALID 0 0) (gen % 4) && bitsN (fieldIn s R.CX_SLOTS_GENS 0 0) (8 * (gen % 4)) 8 == gen then
    (s.cx.slots.getD (gen % 4) none)
  else none

/-- Raw read of a span of bytes within one 256 B block at an offset outside every range. -/
def gdReadSpan (k block off n : Nat) : M s0 (Nat × List Byte × List Rec) := do
  match ← gdRead k block with
  | (some d, ev) => return (Status.ok, slice d off n, ev)
  | (none, ev) => return (Status.poison, List.replicate n 0, ev)

/-- The place of a side word: controller, local block and offset. -/
def sidePlaceIn (s : State) (i b : Nat) : Option (Nat × Nat × Nat) :=
  let o := fieldIn s R.CX_RANGE_B_SIDE i 0 + 8 * (b - fieldIn s R.CX_RANGE_A_BASE i 0)
  (gddrAt (gdBlocksIn s) o).map (fun p => (p.1, p.2, o % 256))

/-- An engine's cache takes a side word: 8,192 of them at most in each engine (R338). -/
def sideKeep (k b v : Nat) : M s0 Unit := do
  let c := (← st).cx
  let rest := c.side.filter (fun x => !(x.1 == k && x.2.1 == b))
  let mine := rest.filter (fun x => x.1 / 4 == k / 4)
  let others := rest.filter (fun x => x.1 / 4 != k / 4)
  eff (.cx { c with side := (k, b, v) :: mine.take 8191 ++ others })

/-- Read the side word of a block: from the engine's cache where it is still held, which is a free choice, or from GDDR7; none for
POISON. -/
def sideRead (i b : Nat) : M s0 (Option Nat × List Rec) := do
  let s ← st
  let k := fieldIn s R.CX_RANGE_A_CTRL i 0
  let held := s.cx.side.find? (fun x => x.1 == k && x.2.1 == b)
  let hit ← (if held.isSome then freeBool else return false)
  match held, hit with
  | some x, true =>
    sideKeep k b x.2.2
    return (some x.2.2, [])
  | _, _ =>
    match sidePlaceIn s i b with
    | none => return (none, [])
    | some (c, blk, off) =>
      let (status, d, ev) ← gdReadSpan c blk off 8
      if status = 0 then
        sideKeep k b (leNat d)
        return (some (leNat d), ev)
      return (none, ev)

/-- Write the side word of a block, through the engine's cache. -/
def sideWrite (i b v : Nat) : M s0 (List Rec) := do
  let s ← st
  match sidePlaceIn s i b with
  | none => return []
  | some (c, blk, off) =>
    let (_, ev) ← gdWrite c blk off (leBytes 8 v)
    sideKeep (fieldIn s R.CX_RANGE_A_CTRL i 0) b v
    return ev

/-- The side word of a block as the engine has it: cached, or stored. -/
def sidePeekIn (s : State) (i b : Nat) : Nat :=
  let k := fieldIn s R.CX_RANGE_A_CTRL i 0
  match s.cx.side.find? (fun x => x.1 == k && x.2.1 == b) with
  | some x => x.2.2
  | none =>
    match sidePlaceIn s i b with
    | none => 0
    | some (c, blk, off) => leNat (readCells s.gddr (gdKey c (gdPhysIn s c blk) + off) 8)

/-- Whether a block is coded under the generation that lives in the slot of another. -/
def namesSlotIn (s : State) (i b gen : Nat) : Bool :=
  let w := sidePeekIn s i b
  !bitN w 4 && bitsN w 5 8 % 4 == gen % 4

/-- Count and record a failure of a block (R349): cause 1 size mismatch, 2 generation, 3 agreement, 4 poison. -/
def cxFail (k b cause side : Nat) : M s0 (List Rec) := do
  let e := k / 4
  if cause = 1 then countSat R.CX_CNT_MISMATCH e
  if cause = 2 then countSat R.CX_CNT_GENMISS e
  if cause = 3 then countSat R.CX_CNT_CHECK e
  let err := BitVec.ofNat 64 (b % 2 ^ 21 + k % 4 * 2 ^ 21 + cause * 2 ^ 23 + 2 ^ 26)
  wrReg (R.CX_ERR_BLOCK.addr e 0) err
  return [{ cls := 1, source := 0x06, unit := k, cause, ctrl := k, field := e, addr := b,
            syn := slice (leBytes 8 err.toNat) 0 32, detail := slice (leBytes 8 side) 0 24 }]

/-- The record of a failed agreement check: carried word, computed word, their XOR, and the serial (R413, R420). -/
def agreeRec (cls unit word g serial : Nat) (bytes : List Byte) : Rec :=
  let got := (agree bytes).toNat
  { cls, source := 0x0C, unit, addr := g, syn := slice (leBytes 4 word ++ leBytes 4 got ++ leBytes 4 (word ^^^ got)) 0 32
    detail := slice (leBytes 4 serial) 0 24 }

/-- The status of a cause of R349. -/
def cxStatus (cause : Nat) : Nat :=
  if cause = 1 then Status.sizeMismatch else if cause = 2 then Status.genMissing
  else if cause = 3 then Status.checkFail else Status.poison

/-- Check an agreement word: counted in INT_AGREE (R431). -/
def agreeCheck (want : Nat) (bs : List Byte) : M s0 Bool := do
  countWrap R.INT_AGREE_CHECKED
  let ok := (agree bs).toNat == want
  if !ok then countSat R.INT_AGREE_FAILED
  return ok

/-- The sectors of a block as stored, `n` of them; none for POISON. -/
def readSectors (k b n : Nat) : M s0 (Option (List Byte) × List Rec) := do
  let mut out : List Byte := []
  let mut ok := true
  let mut evs : List Rec := []
  for i in List.range n do
    let (d, ev) ← gdRead k (b * 16 + i)
    evs := evs ++ ev
    match d with
    | some x => out := out ++ x
    | none => ok := false
  return (if ok then some out else none, evs)

/-- Write the first sectors of a block. -/
def writeSectors (k b : Nat) (bs : List Byte) : M s0 (List Rec) := do
  let mut evs : List Rec := []
  for p in (chunks 256 16 bs).zipIdx do
    let (_, ev) ← gdWrite k (b * 16 + p.2) 0 (slice p.1 0 256)
    evs := evs ++ ev
  return evs

/-- Read a block of an enabled range (R341, R344, R347): status, its 4,096 bytes, its side word, records owed. A block whose agreement word
fails owes two records, that of the engine (R349) and that of the unit that checked (R413). -/
def cxRead (k b i : Nat) : M s0 (Nat × List Byte × Nat × List Rec) := do
  let fail (cause side : Nat) (ev : List Rec) : M s0 (Nat × List Byte × Nat × List Rec) := do
    let more ← cxFail k b cause side
    return (cxStatus cause, [], side, ev ++ more)
  let disagree (side : Nat) (bytes : List Byte) (ev : List Rec) : M s0 (Nat × List Byte × Nat × List Rec) :=
    fail 3 side (ev ++ [{ agreeRec 1 k (bitsN side 16 32) b b bytes with ctrl := k, field := k / 4 }])
  match ← sideRead i b with
  | (none, ev) => fail 4 0 ev
  | (some side, ev) =>
    let raw := bitN side 4
    match ← readSectors k b (if raw then 16 else bitsN side 0 4 + 1) with
    | (none, ev2) => fail 4 side (ev ++ ev2)
    | (some bytes, ev2) =>
      let ev := ev ++ ev2
      if raw then
        if ← agreeCheck (bitsN side 16 32) bytes then return (Status.ok, bytes, side, ev)
        else disagree side bytes ev
      else
        match tableOfIn (← st) (bitsN side 5 8) with
        | none => fail 2 side ev
        | some t =>
          match decodeSectors t (bitsN side 13 3) bytes with
          | none =>
            countSat R.INT_AGREE_FAILED
            fail 1 side ev
          | some out =>
            if ← agreeCheck (bitsN side 16 32) out then return (Status.ok, out, side, ev)
            else disagree side out ev

/-- Write a whole block of an enabled range (R341, R347). -/
def cxWrite (k b i : Nat) (bs : List Byte) : M s0 (Nat × List Rec) := do
  let gen ← getF R.CX_CTRL_ENCGEN
  let c ← getF R.CX_RANGE_A_ECLASS i
  let coded := encodeBlock (tableOfIn (← st) gen) gen c bs
  if coded.raw then countSat R.CX_CNT_RAW (k / 4)
  let e1 ← writeSectors k b coded.sectors
  let e2 ← sideWrite i b (coded.header + (agree bs).toNat * 2 ^ 16)
  return (Status.ok, e1 ++ e2)

/-- Write part of a block of an enabled range, as one action (R347, R349). -/
def cxWritePart (k b i off : Nat) (bs : List Byte) : M s0 (Nat × List Rec) := do
  if off = 0 ∧ bs.length = 4096 then cxWrite k b i bs
  else
    let (s, old, _, ev) ← cxRead k b i
    if s ≠ 0 then return (s, ev)
    let (s, ev2) ← cxWrite k b i (patch old off bs)
    return (s, ev ++ ev2)

/-- Take a block of an enabled range in its stored form, with its side word and no decoding (R348). -/
def cxTake (k b i : Nat) : M s0 (Nat × List Byte × Nat × List Rec) := do
  match ← sideRead i b with
  | (none, ev) =>
    let more ← cxFail k b 4 0
    return (Status.poison, [], 0, ev ++ more)
  | (some side, ev) =>
    match ← readSectors k b (if bitN side 4 then 16 else bitsN side 0 4 + 1) with
    | (none, ev2) =>
      let more ← cxFail k b 4 side
      return (Status.poison, [], side, ev ++ ev2 ++ more)
    | (some bytes, ev2) => return (Status.ok, bytes, side, ev ++ ev2)

/-- Put a block in its compressed form into an enabled range (R348). -/
def cxPut (k b i : Nat) (bytes : List Byte) (side : Nat) : M s0 (Nat × List Rec) := do
  let c ← getF R.CX_RANGE_A_ECLASS i
  if bitsN side 13 3 ≠ c then
    return (Status.sizeMismatch, ← cxFail k b 1 side)
  else if !bitN side 4 && (tableOfIn (← st) (bitsN side 5 8)).isNone then
    return (Status.genMissing, ← cxFail k b 2 side)
  else
    let e1 ← writeSectors k b bytes
    let e2 ← sideWrite i b side
    return (Status.ok, e1 ++ e2)

/-! The module's GDDR7 by offset. -/

/-- Whether an engine's queue is full (R346). -/
def queueFullIn (s : State) (k : Nat) : Bool := decide (64 ≤ (s.cx.queue.filter (fun w => w.k / 4 == k / 4)).length)

/-- Whether a sector of a block of 4 KiB, or its side word, lies behind a port that waits (R297, R298). -/
def blockPortsIn (s : State) (k b i : Nat) : Bool :=
  (List.range 16).any (fun x => gdWaitsIn s k (b * 16 + x)) ||
  (match sidePlaceIn s i b with
    | some (c, blk, _) => gdWaitsIn s c blk
    | none => false)

/-- Whether an access to a block of 4 KiB waits for its engine: for the range to be READY (R334), at a full queue (R346), for work of
the engine on the block (R345, R350), or, as it reads, while a table load waits for the slot its block names (R345 step 4). -/
def engineWaitsIn (s : State) (k b : Nat) (reads : Bool) : Bool :=
  match rangeAtIn s k b with
  | none => false
  | some i =>
    fieldIn s R.CX_RANGE_A_READY i 0 == 0 || blockPortsIn s k b i || queueFullIn s k || s.cx.queue.any (fun w => w.k == k && w.block == b) ||
    s.cx.held.contains (k, b) ||
    (match s.cx.load with
      | some (gen, _) => reads && namesSlotIn s i b gen
      | none => false)

/-- Whether an access to a stored block waits: at the controller's port (R297, R298), or for the engine of an enabled range. -/
def blockWaitsIn (s : State) (k blk : Nat) (reads : Bool) : Bool := gdWaitsIn s k blk || engineWaitsIn s k (blk / 16) reads

/-- The stored blocks that a span of the GDDR7 part of the window touches. -/
def blocksOfIn (s : State) (o n : Nat) : List (Nat × Nat) :=
  (spanPieces 256 (n / 256 + 2) o n).filterMap (fun p => gddrAt (gdBlocksIn s) p.1)

/-- Whether two stored blocks are one, or lie in one block of an enabled range. -/
def sameBlock (s : State) (p q : Nat × Nat) : Bool :=
  p == q || (p.1 == q.1 && p.2 / 16 == q.2 / 16 && (rangeAtIn s p.1 (p.2 / 16)).isSome)

/-- Whether an access to a span of the GDDR7 part of the window waits. -/
def spanWaitsIn (s : State) (o n : Nat) (reads : Bool) : Bool :=
  (blocksOfIn s o n).any (fun p => blockWaitsIn s p.1 p.2 reads)

/-- Whether a write of the module itself that is held at a port is to a block which a span touches (R298). -/
def heldMeets (s : State) (o n : Nat) : Bool :=
  s.held.any (fun h => (blocksOfIn s h.1 h.2.length).any (fun p => (blocksOfIn s o n).any (sameBlock s p)))

/-- Whether a block in its compressed form, with its side word, waits to be put into a block of a range (R345 step 4, R348). -/
def putWaitsIn (s : State) (k b side : Nat) : Bool :=
  engineWaitsIn s k b false || s.held.any (fun h => (blocksOfIn s h.1 h.2.length).any (sameBlock s (k, b * 16))) ||
  (match s.cx.load with
    | some (gen, _) => !bitN side 4 && bitsN side 5 8 % 4 == gen % 4
    | none => false)

/-- End here, with nothing done, where an access to a span of the GDDR7 part of the window waits, as it also does behind a write of the
module itself that waits there. -/
def portWait (o n : Nat) (reads : Bool) : M s0 Unit := do
  let s ← st
  need (!(spanWaitsIn s o n reads || heldMeets s o n)) .later

/-- Whether a write of a span within one 4 KiB block reads the block: all but a write of the whole block by the direct range (R347). -/
def writeReads (o n : Nat) : Bool := n != 4096 || decide (o < 0x100000000000)

/-- Read a span that lies within one 256 B block. -/
def gmReadPiece (o n : Nat) : M s0 (Nat × List Byte × List Rec) := do
  match gddrAt (← gdBlocks) o with
  | none => return (Status.noRoute, List.replicate n 0, [])
  | some (k, blk) =>
    match rangeOfIn (← st) k (blk / 16) with
    | none => gdReadSpan k blk (o % 256) n
    | some i =>
      let (s, d, _, ev) ← cxRead k (blk / 16) i
      return (s, slice d (blk % 16 * 256 + o % 256) n, ev)

/-- Write a span that lies within one 256 B block. -/
def gmWritePiece (o : Nat) (bs : List Byte) : M s0 (Nat × List Rec) := do
  match gddrAt (← gdBlocks) o with
  | none => return (Status.noRoute, [])
  | some (k, blk) =>
    match rangeOfIn (← st) k (blk / 16) with
    | none => gdWrite k blk (o % 256) bs
    | some i => cxWritePart k (blk / 16) i (blk % 16 * 256 + o % 256) bs

/-- The range and local place when an offset lies in the direct range, in an enabled range. -/
def directRange (o : Nat) : M s0 (Option (Nat × Nat × Nat)) := do
  if o < 0x100000000000 then return none
  match gddrAt (← gdBlocks) o with
  | none => return none
  | some (k, blk) =>
    match rangeOfIn (← st) k (blk / 16) with
    | none => return none
    | some i => return some (k, blk / 16, i)

/-- Read a span of the GDDR7 part of the window: status (the first that is not OK), bytes, records owed. -/
def gmRead (o n : Nat) : M s0 (Nat × List Byte × List Rec) := do
  let mut status := Status.ok
  let mut bytes : List Byte := []
  let mut evs : List Rec := []
  for p in spanPieces 4096 (n / 4096 + 2) o n do
    match ← directRange p.1 with
    | some (k, b, i) =>
      let (s, d, _, ev) ← cxRead k b i
      if status = Status.ok then status := s
      bytes := bytes ++ slice d (p.1 % 4096) p.2
      evs := evs ++ ev
    | none =>
      for q in spanPieces 256 18 p.1 p.2 do
        let (s, d, ev) ← gmReadPiece q.1 q.2
        if status = Status.ok then status := s
        bytes := bytes ++ d
        evs := evs ++ ev
  return (status, bytes, evs)

/-- Write a span of the GDDR7 part of the window. -/
def gmWrite (o : Nat) (bs : List Byte) : M s0 (Nat × List Rec) := do
  let mut status := Status.ok
  let mut evs : List Rec := []
  for p in spanPieces 4096 (bs.length / 4096 + 2) o bs.length do
    match ← directRange p.1 with
    | some (k, b, i) =>
      let (s, ev) ← cxWritePart k b i (p.1 % 4096) (slice bs (p.1 - o) p.2)
      if status = Status.ok then status := s
      evs := evs ++ ev
    | none =>
      for q in spanPieces 256 18 p.1 p.2 do
        let (s, ev) ← gmWritePiece q.1 (slice bs (q.1 - o) q.2)
        if status = Status.ok then status := s
        evs := evs ++ ev
  return (status, evs)

/-- An atomic on a word of the GDDR7 part of the window: status, old word, records owed. -/
def gmAtomic (o : Nat) (f : Word → Option Word) : M s0 (Nat × Word × List Rec) := do
  match gddrAt (← gdBlocks) o with
  | none => return (Status.noRoute, 0, [])
  | some (k, blk) =>
    match rangeOfIn (← st) k (blk / 16) with
    | none =>
      match ← gdAtomic k blk (o % 256) f with
      | (some old, ev) => return (Status.ok, old, ev)
      | (none, ev) => return (Status.poison, 0, ev)
    | some i =>
      let off := blk % 16 * 256 + o % 256
      let (s, d, _, ev) ← cxRead k (blk / 16) i
      if s ≠ 0 then return (s, 0, ev)
      let old := BitVec.ofNat 64 (fieldAt d off 8)
      match f old with
      | none => return (Status.ok, old, ev)
      | some new =>
        let (s, ev2) ← cxWrite k (blk / 16) i (patch d off (leBytes 8 new.toNat))
        return (s, old, ev ++ ev2)

end Sys2Proof.Machine
end

