-- ==== Sys2Proof/Machine/Mem.lean ====
section
/-! DEFINITION. The module's own offset window but for register space: GDDR7, scratchpad windows and the KV window with its
translation (R221 to R223, R232, R307, R310); release tags (R323) and the read cache (R324, R326). -/

namespace Sys2Proof.Machine

open Sys2Proof

variable {s0 : State}

/-! The KV window (R221 to R223). -/

/-- Token slots of a page. -/
def kvTpp (tshift : Nat) : Nat := 2 ^ (16 - tshift)
/-- Pages of a plane. -/
def kvPpp (q : Seq) : Nat := (q.maxlen + kvTpp q.tshift - 1) / kvTpp q.tshift

/-- A place in the KV window: sequence, plane, page row, position, offset in the page. -/
structure KvPlace where
  seq : Nat
  plane : Nat
  row : Nat
  pos : Nat
  off : Nat
  deriving DecidableEq, Repr

/-- The place of an offset of the KV window in an open sequence. -/
def kvPlaceIn (s : State) (o : Nat) : Option KvPlace :=
  let n := (o - 0x800000000000) / 2 ^ 32
  let x := o % 2 ^ 32
  let q := FMap.get seq0 s.seqs n
  if !q.isOpen then none
  else
    let page := x / 65536
    let ppp := kvPpp q
    if ppp = 0 ∨ q.planes ≤ page / ppp then none
    else
      let row := page % ppp
      some ⟨n, page / ppp, row, row * kvTpp q.tshift + x % 65536 / 2 ^ q.tshift, x % 65536⟩

/-- The GDDR7 offset of a place, when its row is resident. -/
def kvOffsetIn (s : State) (p : KvPlace) : Option Nat :=
  let r := FMap.get row0 s.rows (p.seq * 65536 + p.row)
  if r.st = .resident then some (r.frames.getD p.plane 0 * 65536 + p.off) else none

/-- Whether a resident row has a frame that another reference holds too: it is never written (R245). -/
def rowShared (s : State) (r : Row) : Bool :=
  r.st == .resident && r.frames.any (fun f => decide (1 < FMap.get zeroNat s.frames f))

/-- Whether R232 admits a write at a place. -/
def kvWritable (s : State) (p : KvPlace) : Bool :=
  let q := FMap.get seq0 s.seqs p.seq
  !rowShared s (FMap.get row0 s.rows (p.seq * 65536 + p.row)) &&
  ((q.active && !q.held && decide (q.clen ≤ p.pos) && decide (p.pos < q.clen + q.grow)) ||
  (q.restoring && decide (q.dlow ≤ p.pos) && decide (p.pos < q.dhigh)))

/-- Whether a write at an offset would be discarded by the KV engine (R232). -/
def kvDiscardsIn (s : State) (o : Nat) : Bool :=
  match kvPlaceIn s o with
  | none => true
  | some p => !kvWritable s p || (kvOffsetIn s p).isNone

/-- Read a span within one page of the KV window (R232): a spilled row waits. -/
def kvRead (o n : Nat) : M s0 (Nat × List Byte × List Rec) := do
  let s ← st
  match kvPlaceIn s o with
  | none => return (Status.poison, List.replicate n 0, [])
  | some p =>
    match (FMap.get row0 s.rows (p.seq * 65536 + p.row)).st, kvOffsetIn s p with
    | .spilled, _ => throw .wait
    | _, some x =>
      portWait x n true
      gmRead x n
    | _, none => return (Status.poison, List.replicate n 0, [])

/-- Write a span within one token slot of the KV window (R232): one that is admitted waits for its row as a read does. -/
def kvWrite (o : Nat) (bs : List Byte) : M s0 (Nat × List Rec) := do
  let s ← st
  let discard : M s0 (Nat × List Rec) := do
    countSat R.KV_CNT1_DISCARDED
    return (Status.ok, [])
  match kvPlaceIn s o with
  | none => discard
  | some p =>
    if kvWritable s p then
      match (FMap.get row0 s.rows (p.seq * 65536 + p.row)).st, kvOffsetIn s p with
      | .spilled, _ => throw .later
      | _, some x =>
        portWait x bs.length true
        gmWrite x bs
      | _, none => discard
    else discard

/-! Windows (R307). -/

/-- The windows of a module by offset. -/
inductive Window where
  | gddr
  | scratchpad (l a : Nat)
  | kv
  | registers (off : Nat)
  | hole
  deriving DecidableEq, Repr

/-- The window an offset lies in. -/
def windowOf (o : Nat) : Window :=
  if o < 0x400000000000 then .gddr
  else if o < 0x800000000000 then
    let l := (o - 0x400000000000) / 0x1000000
    if l < 144 then .scratchpad l (o % 0x1000000) else .hole
  else if o < 0xC00000000000 then .kv
  else if o < 0xC00004000000 then .registers (o - 0xC00000000000)
  else .hole

/-- The key of a word's release tag. -/
def tagKeyIn (s : State) (o : Nat) : Option Nat :=
  match windowOf o with
  | .gddr => (gddrAt (gdBlocksIn s) o).map (fun p => (p.1 * 2 ^ 25 + p.2) * 32 + o % 256 / 8)
  | .scratchpad l a => some (2 ^ 36 + l * 2 ^ 21 + a / 8)
  | .kv =>
    match (kvPlaceIn s o).bind (kvOffsetIn s) with
    | none => none
    | some x => (gddrAt (gdBlocksIn s) x).map (fun p => (p.1 * 2 ^ 25 + p.2) * 32 + x % 256 / 8)
  | .registers _ => none
  | .hole => none

/-- Set or clear the tags of the words a write touches (R323). -/
def setTags (o n : Nat) (tag : Option RelTag) : M s0 Unit := do
  if tag.isNone && (← st).relTags.isEmpty then return ()
  for w in spanWords o n do
    match tagKeyIn (← st) (w * 8) with
    | some key => eff (.relTag key tag)
    | none => pure ()

/-- The words of a core's scratchpad from one on are written with no tag (R323). -/
def clearSpTags (l w n : Nat) : M s0 Unit := do
  let lo := 2 ^ 36 + l * 2 ^ 21 + w
  for x in (← st).relTags do
    if lo ≤ x.1 ∧ x.1 < lo + n then eff (.relTag x.1 none)

/-- Whether an access reaches a core's scratchpad: the core is bound, and its port is not fenced, where the access is dropped and counted
(R22, R276). DESIGN CHOICE: R22 does not say with which status a dropped access completes; whoever asks here answers NO_ROUTE for it, as for
a core that is not bound (log entry 41). -/
def spReach (l : Nat) : M s0 Bool := do
  let s ← st
  if !boundIn s l then return false
  if s.rst.fenced.contains (fieldIn s R.CORE_STATUS_PCORE l 0) then
    eff (.rst { s.rst with dropped := s.rst.dropped + 1 })
    return false
  return true

/-- A requester of a group has been served at an offset, if that lies in a scratchpad (R264). -/
def servedAt (o group : Nat) : M s0 Unit :=
  match windowOf o with
  | .scratchpad l _ => spServed l group
  | _ => pure ()

/-- Read a span of the module's memory windows. -/
def modRead (o n : Nat) : M s0 (Nat × List Byte × List Rec) := do
  let mut status := Status.ok
  let mut bytes : List Byte := []
  let mut evs : List Rec := []
  for p in spanPieces 4096 (n / 4096 + 2) o n do
    let (s, d, ev) ← (match windowOf p.1 with
      | .gddr => do
        portWait p.1 p.2 true
        gmRead p.1 p.2
      | .kv => kvRead p.1 p.2
      | .scratchpad l a => do
        if ← spReach l then
          match ← spRead l a p.2 with
          | (some d, ev) => return (Status.ok, d, ev)
          | (none, ev) => return (Status.poison, List.replicate p.2 0, ev)
        else return (Status.noRoute, List.replicate p.2 0, [])
      | .registers _ => return (Status.noRoute, List.replicate p.2 0, [])
      | .hole => return (Status.noRoute, List.replicate p.2 0, []))
    if status = Status.ok then status := s
    bytes := bytes ++ d
    evs := evs ++ ev
  return (status, bytes, evs)

/-- Write a span of the module's memory windows, with the release tag the store carries. -/
def modWrite (o : Nat) (bs : List Byte) (tag : Option RelTag := none) : M s0 (Nat × List Rec) := do
  let mut status := Status.ok
  let mut evs : List Rec := []
  let begun ← st
  for p in spanPieces 4096 (bs.length / 4096 + 2) o bs.length do
    let d := slice bs (p.1 - o) p.2
    match windowOf p.1 with
    | .gddr =>
      portWait p.1 p.2 (writeReads p.1 p.2)
      let (s, ev) ← gmWrite p.1 d
      if status = Status.ok then status := s
      evs := evs ++ ev
    | .kv =>
      let ts := (FMap.get seq0 (← st).seqs ((p.1 - 0x800000000000) / 2 ^ 32)).tshift
      for q in spanPieces (2 ^ ts) (p.2 / 2 ^ ts + 2) p.1 p.2 do
        let (s, ev) ← kvWrite q.1 (slice bs (q.1 - o) q.2)
        if status = Status.ok then status := s
        evs := evs ++ ev
    | .scratchpad l a =>
      if ← spReach l then
        let (s, ev) ← spWrite l a d
        if status = Status.ok then status := s
        evs := evs ++ ev
      else if status = Status.ok then status := Status.noRoute
    | .registers _ => if status = Status.ok then status := Status.noRoute
    | .hole => if status = Status.ok then status := Status.noRoute
  if status = Status.ok then
    for p in spanPieces 8 (bs.length / 8 + 2) o bs.length do
      if !(match windowOf p.1 with | .kv => kvDiscardsIn begun p.1 | _ => false) then setTags p.1 p.2 tag
  return (status, evs)

/-- An atomic on an aligned word of the module's memory windows (R309, R310): status, old word. In the KV window a write that is not
admitted, or has nowhere to go, is discarded and counted. -/
def modAtomic (o : Nat) (f : Word → Option Word) : M s0 (Nat × Word × List Rec) := do
  let writes (old : Word) : Bool := (f old).isSome
  let r ← (match windowOf o with
    | .gddr => do
      portWait o 8 true
      gmAtomic o f
    | .scratchpad l a => do
      if ← spReach l then
        match ← spAtomic l a f with
        | (some old, ev) => return (Status.ok, old, ev)
        | (none, ev) => return (Status.poison, 0, ev)
      else return (Status.noRoute, 0, [])
    | .kv => do
      let s ← st
      match kvPlaceIn s o with
      | none =>
        countSat R.KV_CNT1_DISCARDED
        return (Status.poison, 0, [])
      | some p =>
        match (FMap.get row0 s.rows (p.seq * 65536 + p.row)).st, kvOffsetIn s p with
        | .spilled, _ => throw .wait
        | _, none =>
          countSat R.KV_CNT1_DISCARDED
          return (Status.poison, 0, [])
        | _, some x =>
          portWait x 8 true
          if kvWritable s p then gmAtomic x f
          else
            let r ← gmAtomic x (fun _ => none)
            if r.1 = Status.ok ∧ writes r.2.1 then countSat R.KV_CNT1_DISCARDED
            return r
    | .registers _ => return (Status.noRoute, 0, [])
    | .hole => return (Status.noRoute, 0, []))
  let t ← st
  let discarded := (match windowOf o with | .kv => kvDiscardsIn t o | _ => false)
  if r.1 = Status.ok && writes r.2.1 && !discarded then setTags o 8 none
  return r

/-! The read cache (R324, R326). -/

/-- The controller and local block that hold an offset, when the read cache may hold it. -/
def cachePlaceIn (s : State) (o : Nat) : Option (Nat × Nat × Nat) :=
  match windowOf o with
  | .gddr => (gddrAt (gdBlocksIn s) o).map (fun p => (p.1, p.2, o % 256))
  | .kv =>
    match (kvPlaceIn s o).bind (kvOffsetIn s) with
    | none => none
    | some x => (gddrAt (gdBlocksIn s) x).map (fun p => (p.1, p.2, x % 256))
  | .scratchpad _ _ => none
  | .registers _ => none
  | .hole => none

/-- Empty the read cache of a core. -/
def cacheEmpty (l : Nat) : M s0 Unit := do eff (.cache ((← st).cache.filter (fun c => c.core != l)))

/-- Remove from a core's cache the block that holds an offset. -/
def cacheDrop (l o : Nat) : M s0 Unit := do
  let s ← st
  match cachePlaceIn s o with
  | none => return ()
  | some (k, b, _) => eff (.cache (s.cache.filter (fun c => !(c.core == l && c.k == k && c.block == b))))

/-- A store of a core that was performed updates the block its cache holds; a place where the KV engine discards it is left out. -/
def cacheStore (l o : Nat) (bs : List Byte) : M s0 Unit := do
  for p in spanPieces 64 (bs.length / 64 + 2) o bs.length do
    let s ← st
    match cachePlaceIn s p.1 with
    | none => pure ()
    | some (k, b, off) =>
      if !(match windowOf p.1 with | .kv => kvDiscardsIn s p.1 | _ => false) then
        eff (.cache (s.cache.map (fun c =>
          if c.core = l ∧ c.k = k ∧ c.block = b then { c with bytes := patch c.bytes off (slice bs (p.1 - o) p.2) } else c)))

/-- Blocks of a core's read cache: 256 KiB (R23, R324). -/
def cacheBlocks : Nat := 1024

/-- A list without its first member that is the head of another. -/
def eraseFirstOf (mine rest : List CacheLine) : List CacheLine :=
  match mine with
  | [] => rest
  | c :: _ => rest.erase c

/-- A context has read words at their point of coherence: a block that the cache may hold of them answers it for them no longer, so that
it never sees a word go back (R314, R331). -/
def cachePass (l k o n : Nat) : M s0 Unit := do
  for w in spanWords o n do
    let s ← st
    match cachePlaceIn s (w * 8) with
    | none => pure ()
    | some (c, b, off) =>
      let here (x : CacheLine) : Bool := x.core == l && x.k == c && x.block == b
      if s.cache.any here then
        eff (.cache (s.cache.map (fun x => if here x then { x with passed := x.passed ++ [(k, off / 8)] } else x)))

/-- A plain load of a context: it may hit what its core's cache holds, or fill it. Which stays is not defined: a free choice. -/
def cacheLoad (l slot o n : Nat) : M s0 (Nat × List Byte × List Rec) := do
  let mut status := Status.ok
  let mut bytes : List Byte := []
  let mut evs : List Rec := []
  for p in spanPieces 256 (n / 256 + 2) o n do
    let s ← st
    match cachePlaceIn s p.1 with
    | none =>
      let (x, d, ev) ← modRead p.1 p.2
      if status = Status.ok then status := x
      bytes := bytes ++ d
      evs := evs ++ ev
    | some (k, b, off) =>
      let held := s.cache.find? (fun c => c.core == l && c.k == k && c.block == b &&
        !(spanWords off p.2).any (fun w => c.passed.contains (slot, w)))
      let keep ← (if held.isSome then freeBool else return false)
      match held, keep with
      | some c, true =>
        if status = Status.ok then status := c.status
        bytes := bytes ++ slice c.bytes off p.2
      | _, _ =>
        let (x, d, ev) ← modRead (p.1 - off) 256
        if status = Status.ok then status := x
        bytes := bytes ++ slice d off p.2
        evs := evs ++ ev
        let s ← st
        let rest := s.cache.filter (fun c => !(c.core == l && c.k == k && c.block == b))
        let mine := rest.filter (fun c => c.core == l)
        let kept := if cacheBlocks ≤ mine.length then eraseFirstOf mine rest else rest
        eff (.cache (kept ++ [⟨l, k, b, slice d 0 256, x, []⟩]))
  return (status, bytes, evs)

end Sys2Proof.Machine
end

