-- ==== Sys2Proof/Machine/Records.lean ====
section
/-! DEFINITION. MSI-X messages (R475, R476), fabric time (R536), error records and their rings (R419 to R422), and the memory
operations that record what they meet. -/

namespace Sys2Proof.Machine

open Sys2Proof

variable {s0 : State}

/-! Interrupts. -/

/-- Whether the function sends MSI-X messages: they are enabled, the function is not masked and it is in D0 (R455; PRESUMED from the PCI
Express specification, log entry 42). -/
def Pcie.sends (p : Pcie) : Bool := p.msixEnable && !p.msixMask && !p.d3hot

/-- Send the message of an MSI-X vector: none while the link is down; a masked vector sets its pending bit (R476), as one does while the
function sends none. -/
def sendMsix (v : Nat) : M s0 Unit := do
  let s ← st
  if fieldIn s R.HOST_LINK_UP 0 0 = 1 then
    let e := FMap.get msix0 s.msix v
    if e.mask || !s.pcie.sends then eff (.msix v { e with pend := true }) else emit (.msix v)

/-! Host memory (R464). -/

/-- The status of a PCI Express outcome: success, completion timeout, Unsupported Request or Completer Abort, poisoned data. -/
def pcieStatus (outcome : BitVec 2) : Nat :=
  match outcome.toNat with
  | 0 => Status.ok
  | 1 => Status.timeout
  | 2 => Status.noRoute
  | _ => Status.poison

/-- The status with which an access to host memory ends: NO_ROUTE while the link is down, as it is while unit 112 is in reset. -/
def hostStatusIn (s : State) (outcome : BitVec 2) : Nat :=
  if fieldIn s R.HOST_LINK_UP 0 0 = 1 then pcieStatus outcome else Status.noRoute

/-- Note an outcome in the Uncorrectable Error Status: bit 12 poisoned data, bit 14 a completion timeout (PRESUMED from the PCI Express
specification, log entry 42). -/
def noteOutcome (outcome : BitVec 2) : M s0 Unit := do
  let p := (← st).pcie
  if outcome = 1 then eff (.pcie { p with aer := p.aer ||| (1 <<< 14) })
  if outcome = 3 then eff (.pcie { p with aer := p.aer ||| (1 <<< 12) })

/-- Send a request to host memory: none leaves while the link is down. Whether it has left. -/
def hostEmit (o : Out) : M s0 Bool := do
  if (← getF R.HOST_LINK_UP) = 1 then
    emit o
    return true
  return false

/-- Read host memory: the status and the bytes. -/
def hostFetch (addr len : Nat) (h : HostRead) : M s0 (Nat × List Byte) := do
  if ← hostEmit (.hostRead addr len) then noteOutcome h.outcome
  let status := hostStatusIn (← st) h.outcome
  return (if status = Status.ok ∧ h.bytes.length ≠ len then Status.sizeMismatch else status, h.bytes)

/-! Time. -/

/-- Fabric time in ns: 0 until set (R536). -/
def fabricNsIn (s : State) : Nat := if fieldIn s R.MGT_TIME_SET 0 0 = 1 then s.mgt.time / 781250 % 2 ^ 64 else 0
def fabricNs : M s0 Nat := do return fabricNsIn (← st)

/-! Records. -/

/-- The 128 bytes of a record (R419). -/
def recordBytes (s : State) (r : Rec) (suppressed : Nat) : List Byte :=
  let f := r.field
  let known := decide (f < 8)
  let (jobNum, tense, tainted, touched) := match r.job with
    | none => (0xFFFF, 0xFFFFFFFF, false, false)
    | some j =>
      let v := FMap.get job0 s.jobs j
      (fieldIn s R.CJ_JOBA_JOB j 0, fieldIn s R.CJ_JOBB_TENSE j 0, v.tainted, v.touched)
  let flags := r.flags ||| (if tainted then 8 else 0) ||| (if touched then 32 else 0)
  let body := leBytes 4 s.recSerial ++ leBytes 1 r.cls ++ leBytes 1 r.source ++ leBytes 2 r.cause ++
    leBytes 8 (fabricNsIn s) ++ leBytes 4 tense ++ leBytes 2 jobNum ++ leBytes 2 r.ctxId ++ leBytes 1 r.lcore ++
    leBytes 1 r.pcore ++ leBytes 1 f ++ leBytes 1 r.slot ++ leBytes 1 r.ctrl ++ leBytes 1 r.device ++ leBytes 1 r.lane ++
    leBytes 1 flags ++ leBytes 2 (if known then fieldIn s R.PWR_VREQ_TJ f 0 else 0xFFFF) ++
    leBytes 2 (if known then s.pwr.rail.getD f 0 else 0xFFFF) ++ leBytes 2 (fieldIn s R.PWR_INPUT_VIN 0 0) ++
    leBytes 2 (if known then fieldIn s R.DEV_STEP_RATE_RATE (f / 4) 0 else 0xFFFF) ++
    leBytes 2 (fieldIn s R.FAB_ID_CHIP 0 0) ++ leBytes 2 (fieldIn s R.FAB_ID_INC 0 0) ++ leBytes 4 suppressed ++
    leBytes 8 r.op ++ leBytes 8 r.addr ++
    (if r.syn.isEmpty then List.replicate 32 0xFF#8 else slice r.syn 0 32) ++
    (if r.detail.isEmpty then List.replicate 24 0xFF#8 else slice r.detail 0 24) ++ leBytes 4 0
  body ++ leBytes 4 (agree body).toNat

/-- Write 128 bytes at a ring's head and advance it (R421); a full ring drops the record. Answers whether it was written, and the
records that the write of the block owes. -/
def ringWrite (base size head tail : Fld) (bytes : List Byte) : M s0 (Bool × List Rec) := do
  let h ← getF head
  let t ← getF tail
  let n ← getF size
  if (h + 2 ^ 32 - t) % 2 ^ 32 = 2 ^ n then return (false, [])
  let at' := (← getF base) + 128 * (h % 2 ^ n)
  let t ← st
  setF head (h + 1)
  if spanWaitsIn t at' 128 true || heldMeets t at' 128 then
    eff (.held (t.held ++ [(at', bytes)]))
    return (true, [])
  let (_, owed) ← gmWrite at' bytes
  setTags at' 128 none
  return (true, owed)

/-- A D-ring record is to be told of by its interrupt (R421); one of a time when the link is down sends none (R476). -/
def noteFault : M s0 Unit := do
  if (← getF R.HOST_LINK_UP) = 1 then eff (.faultsDue ((← st).faultsDue + 1))

/-- Write a D-ring record: to the ring, or to the internal store while it is not enabled (R421). Answers as `ringWrite`. -/
def dRing (bytes : List Byte) : M s0 (Bool × List Rec) := do
  let s ← st
  if fieldIn s R.INT_LOGD_EN 0 0 = 1 then
    let (written, owed) ← ringWrite R.INT_LOGD_BASE R.INT_LOGD_SIZE R.INT_LOGD_PTR_HEAD R.INT_LOGD_PTR_TAIL bytes
    if written then noteFault
    else countSat R.INT_LOST_LOSTD
    return (written, owed)
  else
    if s.store.length < 64 then
      eff (.store (s.store ++ [bytes]))
      noteFault
      return (true, [])
    countSat R.INT_LOST_LOSTD
    return (false, [])

/-- Write a C-ring record (R421). Answers as `ringWrite`. -/
def cRing (bytes : List Byte) : M s0 (Bool × List Rec) := do
  if (← getF R.INT_LOGC_EN) = 1 then
    let (written, owed) ← ringWrite R.INT_LOGC_BASE R.INT_LOGC_SIZE R.INT_LOGC_PTR_HEAD R.INT_LOGC_PTR_TAIL bytes
    if !written then countSat R.INT_LOST_LOSTC
    return (written, owed)
  else
    countSat R.INT_LOST_LOSTC
    return (false, [])

/-- What stands of the records of an event's source and unit: the last one written, and the class C events not recorded since (R422). -/
def clsOf (s : State) (r : Rec) : Option ClassC := s.classC.find? (fun c => c.source == r.source && c.unit == r.unit)
def setCls (r : Rec) (lastMs : Option Nat) (suppressed : Nat) : M s0 Unit := do
  eff (.classC ((← st).classC.filter (fun c => !(c.source == r.source && c.unit == r.unit)) ++
    [⟨r.source, r.unit, lastMs, suppressed⟩]))

/-- How many class C events of an event's source and unit were not recorded since their last record, where the event is to be recorded now: a
class C event is, unless its source and unit wrote a record of any class within the interval (R419, R422). -/
def recordDue (s : State) (r : Rec) : Option Nat :=
  match clsOf s r with
  | none => some 0
  | some c => if r.cls == 0 && c.lastMs.any (fun t => decide (s.ms - t < fieldIn s R.INT_CLIM_MS 0 0)) then none else some c.suppressed

/-- Enter an event that no record was written of: a class C event adds one to what the next record shows as suppressed (R422). -/
def noteUnrecorded (r : Rec) : M s0 Unit := do
  if r.cls = 0 then
    let c := (clsOf (← st) r).getD ⟨r.source, r.unit, none, 0⟩
    setCls r c.lastMs (c.suppressed + 1)

/-- Write an error record now: a record that is written takes the next serial number, and starts its source and unit's interval; one that
is dropped does neither (R419, R421, R422). Answers the records that its own write owes. -/
def writeRecord (r : Rec) (suppressed : Nat) : M s0 (List Rec) := do
  let s ← st
  let bytes := recordBytes s r suppressed
  let (written, owed) ← (if r.cls = 0 then cRing bytes else dRing bytes)
  if written then
    eff (.recSerial ((s.recSerial + 1) % 2 ^ 32))
    setCls r (some s.ms) 0
  else noteUnrecorded r
  return owed

/-- Record an event, and what the block its record lies in meets: a block that fails is poison after that, so few follow. -/
def recordGo : Nat → Rec → M s0 Unit
  | 0, _ => return ()
  | fuel + 1, r => do
    match recordDue (← st) r with
    | none => noteUnrecorded r
    | some n =>
      for x in ← writeRecord r n do
        recordGo fuel x

/-- Record an event by its class. -/
def record (r : Rec) : M s0 Unit := recordGo 4 r

/-- Record what an operation met. -/
def recordAll (evs : List Rec) : M s0 Unit := do
  for r in evs do
    record r

/-! Memory operations that record what they meet. -/

def rdMem (o n : Nat) : M s0 (Nat × List Byte) := do
  let (s, d, ev) ← modRead o n
  recordAll ev
  return (s, d)

def wrMem (o : Nat) (bs : List Byte) (tag : Option RelTag := none) : M s0 Nat := do
  let (s, ev) ← modWrite o bs tag
  recordAll ev
  return s

def atMem (o : Nat) (f : Word → Option Word) : M s0 (Nat × Word) := do
  let (s, w, ev) ← modAtomic o f
  recordAll ev
  return (s, w)

/-- A read of the module's own GDDR7 ranges only (R283), for a job where one is given. -/
def rdGddr (o n : Nat) (job : Option Nat := none) : M s0 (Nat × List Byte) := do
  portWait o n true
  let (s, d, ev) ← gmRead o n
  recordAll (ofJob job ev)
  return (s, d)

/-- A write of the module's own GDDR7 ranges only: one that meets a port that waits, or an earlier one that does, is held there (R297, R298,
R334). -/
def wrGddr (o : Nat) (bs : List Byte) (job : Option Nat := none) : M s0 Nat := do
  let t ← st
  if spanWaitsIn t o bs.length true || heldMeets t o bs.length then
    eff (.held (t.held ++ [(o, bs)]))
    return Status.ok
  let (s, ev) ← gmWrite o bs
  recordAll (ofJob job ev)
  setTags o bs.length none
  return s

/-- Own chip number and incarnation (R382). -/
def chipIn (s : State) : Nat := fieldIn s R.FAB_ID_CHIP 0 0
def ownChip : M s0 Nat := do return chipIn (← st)
def ownInc : M s0 Nat := getF R.FAB_ID_INC

/-- The offset within this module that a global address names, if it names this module (R306). -/
def localOffset (g : Nat) : M s0 (Option Nat) := do
  return if g / 2 ^ 48 = (← ownChip) then some (g % 2 ^ 48) else none

/-- Whether a DMA source may carry a command of a logical core: its own scratchpad, or the module's GDDR7 (R192, R225). -/
def commandSource (s : State) (l src : Nat) : Bool :=
  src / 2 ^ 48 == chipIn s && (match windowOf (src % 2 ^ 48) with
    | .gddr => true
    | .scratchpad m _ => m == l
    | .kv => false
    | .registers _ => false
    | .hole => false)

/-- The physical core a logical core is bound to: CORE_STATUS.PCORE (R20). -/
def pcoreOf (l : Nat) : M s0 Nat := getF R.CORE_STATUS_PCORE l

end Sys2Proof.Machine
end

