-- ==== Sys2Proof/Machine/Lane.lean ====
section
/-! DEFINITION. Fabric packets and lanes: the layout of packets and flits (R359, R364, R365), virtual lanes and credits (R361,
R362), the replay buffer (R360), and the choice of a lane (R386, R387). -/

namespace Sys2Proof.Machine

open Sys2Proof

variable {s0 : State}

/-! Packet types (R364). -/

def Ty.rd : BitVec 8 := 0x01
def Ty.wr : BitVec 8 := 0x02
def Ty.pwr : BitVec 8 := 0x03
def Ty.at : BitVec 8 := 0x04
def Ty.seg : BitVec 8 := 0x05
def Ty.msg : BitVec 8 := 0x06
def Ty.conf : BitVec 8 := 0x07
def Ty.retr : BitVec 8 := 0x08
def Ty.rdr : BitVec 8 := 0x10
def Ty.ack : BitVec 8 := 0x11
def Ty.atr : BitVec 8 := 0x12

/-- Whether a type is a response. -/
def isResponse (t : BitVec 8) : Bool := t == Ty.rdr || t == Ty.ack || t == Ty.atr
/-- Whether a type is a request that is not posted: RD, WR and AT. -/
def isNonPosted (t : BitVec 8) : Bool := t == Ty.rd || t == Ty.wr || t == Ty.at
/-- The response type of a request. -/
def responseType (t : BitVec 8) : BitVec 8 := if t = Ty.rd then Ty.rdr else if t = Ty.at then Ty.atr else Ty.ack

/-- Virtual lane of a packet (R361, R364, R390). -/
def packetVl (t aux : BitVec 8) : BitVec 2 :=
  if isResponse t then 1 else if t = Ty.seg then 2 else if t = Ty.msg then (if aux = 1 then 3 else 2) else 0

/-- FLAGS bits (R365). -/
def Packet.tent (p : Packet) : Bool := p.flags.getLsbD 0
def Packet.cmp (p : Packet) : Bool := p.flags.getLsbD 1
def Packet.trail (p : Packet) : Bool := p.flags.getLsbD 2
def Packet.blk (p : Packet) : Bool := p.flags.getLsbD 3

/-- The units of a packet: header, data and trailer (R364). -/
def packetUnits (p : Packet) : Nat := 2 + (p.data.length + 15) / 16 + (if p.trailer.isSome then 1 else 0)

/-- The bytes of a packet (R365). -/
def packetBytes (p : Packet) : List Byte :=
  leBytes 1 p.typ.toNat ++ leBytes 1 p.flags.toNat ++ leBytes 2 p.len.toNat ++ leBytes 2 p.src.toNat ++ leBytes 2 p.dst.toNat ++
  leBytes 2 p.inc.toNat ++ leBytes 2 p.job.toNat ++ leBytes 2 p.tag.toNat ++
  leBytes 1 (p.status.toNat + p.vl.toNat * 16) ++ leBytes 1 p.aux.toNat ++ leBytes 8 p.addr.toNat ++ leBytes 4 p.tense.toNat ++
  leBytes 4 p.serial.toNat ++ slice p.data 0 ((p.data.length + 15) / 16 * 16) ++
  (match p.trailer with | some w => leBytes 8 w.toNat ++ leBytes 8 0 | none => [])

/-- Data bytes a header announces: an RD's LEN names the bytes to be read, and it carries none. -/
def headerData (h : List Byte) : Nat := if fieldAt h 0 1 = Ty.rd.toNat then 0 else fieldAt h 2 2

/-- Units of the packet whose first unit is given (R364, R365). -/
def headerUnits (h : List Byte) : Nat := 2 + (headerData h + 15) / 16 + fieldAt h 1 1 / 4 % 2

/-- Read a whole packet of its units. -/
def parsePacket (bs : List Byte) : Packet :=
  let n := headerData bs
  let u := (n + 15) / 16 * 16
  let fl := BitVec.ofNat 8 (fieldAt bs 1 1)
  { typ := BitVec.ofNat 8 (fieldAt bs 0 1), flags := fl, len := BitVec.ofNat 16 (fieldAt bs 2 2), src := BitVec.ofNat 14 (fieldAt bs 4 2),
    dst := BitVec.ofNat 14 (fieldAt bs 6 2), inc := BitVec.ofNat 16 (fieldAt bs 8 2), job := BitVec.ofNat 16 (fieldAt bs 10 2),
    tag := BitVec.ofNat 16 (fieldAt bs 12 2), status := BitVec.ofNat 4 (fieldAt bs 14 1), vl := BitVec.ofNat 2 (fieldAt bs 14 1 / 16),
    aux := BitVec.ofNat 8 (fieldAt bs 15 1), addr := BitVec.ofNat 64 (fieldAt bs 16 8), tense := BitVec.ofNat 32 (fieldAt bs 24 4),
    serial := BitVec.ofNat 32 (fieldAt bs 28 4), data := slice bs 32 n,
    trailer := if fl.getLsbD 2 then some (BitVec.ofNat 64 (fieldAt bs (32 + u) 8)) else none }

/-- A packet with nothing in it, to be filled. -/
def emptyPacket : Packet := ⟨0, 0, 0, 0, 0, 0, 0xFFFF, 0, 0, 0, 0, 0, 0, 0, [], none⟩

/-! Flits (R359). -/

/-- A flit of its header fields and body. -/
def flitBytes (seq kind ack : Nat) (nak : Bool) (credit first : Nat) (body : List Byte) : List Byte :=
  let b := leBytes 2 (seq + kind * 2 ^ 12) ++ leBytes 2 (ack + (if nak then 2 ^ 12 else 0)) ++ leBytes 4 credit ++ leBytes 1 first ++
    leBytes 3 0 ++ slice body 0 240
  b ++ leBytes 4 (crc32c b).toNat

/-- The state of a lane (R376). -/
def laneState (i : Nat) : M s0 Nat := getF R.FAB_LSTAT_STATE i
/-- Whether a lane is UP. -/
def laneUp (s : State) (i : Nat) : Bool := fieldIn s R.FAB_LSTAT_STATE i 0 == 6

/-- The CREDIT field for the units freed since the last flit, and what is left of them. -/
def creditField (freed : List Nat) : Nat × List Nat :=
  let g (v : Nat) : Nat := min (freed.getD v 0) 255
  (g 0 + g 1 * 2 ^ 8 + g 2 * 2 ^ 16 + g 3 * 2 ^ 24, (List.range 4).map (fun v => freed.getD v 0 - g v))

/-- Whether units freed have not been given back as credits yet (R362). -/
def creditsOwed (x : Lane) : Bool := x.freed.any (· != 0)

/-- The receive buffer of a lane on each virtual lane, in units (R361). -/
def bufferUnits : List Nat := [1024, 1024, 512, 128]

/-- Start a training of a lane: a full one or a fast retrain, with its cause (R358). In P3 the lanes are OFF (R494). -/
def startTraining (i : Nat) (full : Bool) (cause : Nat) : M s0 Unit := do
  if (← getF R.PWR_STATE_STATE) < 3 then
    modLane i (fun x => { x with full := full })
    if full then
      setF R.FAB_LSTAT_STATE 1 i
      countWrap R.FAB_LCNT1_TRAININGS i
    else
      setF R.FAB_LSTAT_STATE 7 i
      setF R.FAB_LSTAT_CAUSE cause i
      countWrap R.FAB_LCNT1_RETRAINS i

/-- Send one sequenced flit of the replay buffer, with the acknowledgement as it stands and the credits it was first sent
with, which the far end has not taken (R359, R360). The ninth sending of a SEQ starts a fast retrain instead. -/
def sendFlit (i : Nat) (f : ReplayFlit) : M s0 Unit := do
  if (← laneState i) = 6 then
    let x ← getLane i
    if 8 ≤ f.sends then startTraining i false 6
    else
      emit (.flit i f.seq (flitBytes f.seq f.kind x.rxSeq x.nak f.credit f.first f.body))
      setLane i { x with
        owed := 0
        replay := x.replay.map (fun g => if g.seq = f.seq then { g with sends := g.sends + 1 } else g) }

/-- Send an idle flit: ACK, NAK, CREDIT and the last SEQ sent (R359). -/
def sendIdle (i : Nat) : M s0 Unit := do
  if (← laneState i) = 6 then
    let x ← getLane i
    let (credit, left) := creditField x.freed
    emit (.idle i x.rxSeq x.nak (flitBytes x.txSeq 0 x.rxSeq x.nak credit 0xFF []))
    setLane i { x with freed := left, owed := 0 }

/-- The packet a transmitter sends next: by virtual lane 3, 1, 2, 0, but a ready request after 7 others (R362). -/
def nextPacket (x : Lane) : Option Packet :=
  let ready (v : Nat) : Option Packet :=
    match x.queue.find? (fun p => p.vl.toNat == v) with
    | some p => if packetUnits p ≤ x.credits.getD v 0 then some p else none
    | none => none
  match ready 0 with
  | some p => if 7 ≤ x.streak then some p else
    match ready 3, ready 1, ready 2 with
    | some q, _, _ => some q
    | none, some q, _ => some q
    | none, none, some q => some q
    | none, none, none => some p
  | none =>
    match ready 3, ready 1, ready 2 with
    | some q, _, _ => some q
    | none, some q, _ => some q
    | none, none, r => r

/-- A list without the first element equal to `p`. -/
def eraseFirst {α : Type} [DecidableEq α] (p : α) : List α → List α
  | [] => []
  | x :: xs => if x = p then xs else x :: eraseFirst p xs

/-- Take packets from the queue while credits and `room` units last; `fuel` bounds them. -/
def takePackets : Nat → Nat → Lane → List Packet × Lane
  | 0, _, x => ([], x)
  | fuel + 1, room, x =>
    match nextPacket x with
    | none => ([], x)
    | some p =>
      let n := packetUnits p
      if room < n then ([], x)
      else
        let v := p.vl.toNat
        let x' := { x with
          queue := eraseFirst p x.queue
          credits := x.credits.set v (x.credits.getD v 0 - n)
          streak := if v = 0 then 0 else x.streak + 1 }
        let (ps, y) := takePackets fuel (room - n) x'
        (p :: ps, y)

/-- The units of packets: bytes, the packet, and whether it begins there. -/
def unitsOf (ps : List Packet) : List (List Byte × Packet × Bool) :=
  ps.flatMap (fun p => (chunks 16 (packetUnits p) (packetBytes p)).zipIdx.map (fun u => (u.1, p, u.2 == 0)))

/-- Put a new flit in the replay buffer, with the credits freed since the last, and send it. -/
def newFlit (i kind : Nat) (body : List Byte) (first : Nat) (packets : List Packet) : M s0 Unit := do
  let z ← getLane i
  let seq := (z.txSeq + 1) % 4096
  let (credit, left) := creditField z.freed
  let f : ReplayFlit := { seq, kind, sends := 0, credit, body, first, packets }
  setLane i { z with txSeq := seq, freed := left, replay := z.replay ++ [f] }
  sendFlit i f

/-- The body of a control flit; the manual does not lay out the bytes of a record: free values. -/
def controlBody : M s0 (List Byte) := do
  let w ← freeWord
  let v ← freeWord
  return leBytes 8 w.toNat ++ leBytes 8 v.toNat

/-- Send the control records that wait on a lane while its replay buffer has room (R360). -/
def sendControls (i : Nat) : List (Nat × Nat × Nat) → M s0 Unit
  | [] => return ()
  | (kind, a, b) :: rest => do
    if (← laneState i) = 6 ∧ (← getLane i).replay.length < 512 then
      modLane i (fun x => { x with controls := rest })
      emit (.control i kind a b)
      newFlit i 2 (← controlBody) 0xFF []
      sendControls i rest

/-- Send a control record on a lane that is UP, once the records before it have gone. -/
def sendControl (i kind a b : Nat) : M s0 Unit := do
  if (← laneState i) = 6 then
    let q := (← getLane i).controls ++ [(kind, a, b)]
    modLane i (fun x => { x with controls := q })
    sendControls i q

/-- Whether two packets must keep their order (R363). -/
def sameFlow (p q : Packet) : Bool :=
  p.src == q.src && p.dst == q.dst && p.vl == q.vl && p.addr.toNat / 4096 % 2 ^ 36 == q.addr.toNat / 4096 % 2 ^ 36

/-- The other lane of a lane's pair (R368). -/
def partner (i : Nat) : Nat := if i % 2 = 0 then i + 1 else i - 1

/-- Put the packets that a lane can send into flits, one after the other without gaps, and send them (R359, R362). A packet
whose flow has earlier packets on a lost partner lane waits for those (R368 step 2). -/
def pumpLane (i : Nat) : M s0 Unit := do
  sendControls i (← getLane i).controls
  let x ← getLane i
  if (← laneState i) = 6 ∧ !x.draining then
    let w ← getLane (partner i)
    let early := if w.lost then w.replay.flatMap (·.packets) ++ w.queue else []
    let held := x.queue.filter (fun p => early.any (sameFlow p))
    let free := x.queue.filter (fun p => !early.any (sameFlow p))
    let (ps, y) := takePackets free.length ((512 - x.replay.length) * 15) { x with queue := free }
    setLane i { y with queue := y.queue ++ held }
    for p in ps do
      emit (.packet i p)
    for g in chunks 15 (ps.length * 20 + 1) (unitsOf ps) do
      newFlit i 1 (g.map (·.1)).flatten (match g.findIdx? (fun u => u.2.2) with | some k => k | none => 0xFF)
        (g.map (·.2.1)).dedup

/-- Queue a packet on a lane. -/
def queuePacket (i : Nat) (p : Packet) : M s0 Unit := modLane i (fun x => { x with queue := x.queue ++ [p] })

/-! Routes. -/

/-- The spread value (R386). -/
def spread (addr dst : Nat) : Nat :=
  let k := (addr / 2 ^ 12 % 2 ^ 36) ^^^ (dst * 2 ^ 36)
  (List.range 11).foldl (fun h i => h ^^^ (k / 2 ^ (6 * i) % 64)) 0

/-- The address a packet's path is chosen by: types without an address use 0. -/
def pathAddr (p : Packet) : Nat :=
  if p.typ = Ty.rd ∨ p.typ = Ty.wr ∨ p.typ = Ty.pwr ∨ p.typ = Ty.at ∨ p.typ = Ty.conf ∨ p.typ = Ty.retr then p.addr.toNat else 0

/-- The UP lane of a pair: the preferred index, or the other. -/
def pairLane (s : State) (pair index : Nat) : Option Nat :=
  if laneUp s (2 * pair + index) then some (2 * pair + index)
  else if laneUp s (2 * pair + (1 - index)) then some (2 * pair + (1 - index)) else none

/-- The lane pair toward switch w of the group (R379): switch 2f on pair 3f, switch 2f + 1 on pair 3f + 1. -/
def switchPair (w : Nat) : Nat := 3 * (w / 2) + w % 2
/-- The lane pair of a global pair. -/
def globalPair (g : Nat) : Nat := 3 * g + 2
/-- Whether a lane is global by its place. -/
def laneGlobal (i : Nat) : Bool := decide (4 ≤ i % 6)

/-- A local lane by step 2 of R387. -/
def localLane (s : State) (h : Nat) : Option Nat :=
  let index := (h / 16 ^^^ h / 32) % 2
  ((List.range 16).map (fun i => pairLane s (switchPair ((h + i) % 16)) index)).findSome? id

/-- The lane a packet leaves on, or none for NO_ROUTE (R387). -/
def routeOf (s : State) (p : Packet) (arrived : Option Nat) : Option Nat :=
  let group := fieldIn s R.CJ_COORD_GROUP 0 0
  let slot := fieldIn s R.CJ_COORD_SLOT 0 0
  let h := spread (pathAddr p) p.dst.toNat
  let index := (h / 16 ^^^ h / 32) % 2
  if p.dst.toNat / 64 = group then localLane s h
  else
    let e : RouteEntry := match s.stream with
      | some x => x.routes.getD (p.dst.toNat / 64) ⟨0, 0, false, 0, 0, false⟩
      | none => ⟨0, 0, false, 0, 0, false⟩
    if arrived.any laneGlobal then none
    else if e.valid && e.slot == slot && (pairLane s (globalPair e.pair) index).isSome then pairLane s (globalPair e.pair) index
    else if e.avalid && e.aslot == slot then pairLane s (globalPair e.apair) index
    else if e.valid then localLane s h else none

/-- Queue a packet toward its target; answers the lane, or none where there is no route. -/
def sendPacket (p : Packet) (arrived : Option Nat := none) : M s0 (Option Nat) := do
  match routeOf (← st) p arrived with
  | some i =>
    queuePacket i p
    return some i
  | none => return none

/-- Send what is queued on every lane. -/
def pumpAll : M s0 Unit := do
  for i in List.range 48 do
    let x ← getLane i
    if !x.queue.isEmpty || !x.controls.isEmpty then pumpLane i

/-- Give the units freed on a lane that has nothing else to send back as credits, in an idle flit (R359, R362). -/
def returnCredits : M s0 Unit := do
  for i in List.range 48 do
    if creditsOwed (← getLane i) then sendIdle i

/-! Requests and responses (R364, R367). -/

/-- A fresh tag: the next number no outstanding request has. -/
def freshTag : M s0 Nat := do
  let s ← st
  let t := ((List.range 65536).find? (fun d => !s.reqs.any (fun r => r.tag == (s.nextTag + d) % 65536))).getD 0
  let tag := (s.nextTag + t) % 65536
  eff (.nextTag ((tag + 1) % 65536))
  return tag

/-- A packet of this module: SRC, INC and the virtual lane filled in. -/
def ownPacket (p : Packet) : M s0 Packet := do
  return { p with src := BitVec.ofNat 14 (← ownChip), inc := BitVec.ofNat 16 (← ownInc), vl := packetVl p.typ p.aux }

/-- Count a completion with a status other than OK (R367). -/
def countStatus (s : Nat) (chip : Nat) : M s0 Unit := do
  if s ≠ 0 then
    countSat R.FAB_STAT_COUNT s
    setF R.FAB_STAT_CHIP chip s

/-- Send a request and keep it outstanding; none where there is no route (it then completes with NO_ROUTE). -/
def sendRequest (p : Packet) (purpose : Purpose) : M s0 (Option Nat) := do
  let tag ← freshTag
  let q ← ownPacket { p with tag := BitVec.ofNat 16 tag }
  match ← sendPacket q with
  | some i =>
    eff (.reqs ((← st).reqs ++ [⟨tag, q.dst, q.typ.toNat, purpose, q.addr.toNat, i, []⟩]))
    return some tag
  | none =>
    countStatus Status.noRoute q.dst.toNat
    return none

/-- Answer a request (R364): type, status and data by the request; `addr` only for STALE_INCARNATION. -/
def sendResponse (p : Packet) (status : Nat) (data : List Byte) (addr : Nat := 0) : M s0 Unit := do
  let d := if status = 0 then data else []
  let r ← ownPacket { emptyPacket with
    typ := responseType p.typ, len := BitVec.ofNat 16 d.length, dst := p.src, job := p.job, tag := p.tag,
    status := BitVec.ofNat 4 status, addr := BitVec.ofNat 64 addr, data := d }
  let _ ← sendPacket r
  return ()

/-- Forget the outstanding packets of a purpose. -/
def dropReqs (f : Purpose → Bool) : M s0 Unit := do eff (.reqs ((← st).reqs.filter (fun r => !f r.purpose)))

/-- The tag the next request takes. -/
def nextTagIn (s : State) : Nat :=
  (s.nextTag + ((List.range 65536).find? (fun d => !s.reqs.any (fun r => r.tag == (s.nextTag + d) % 65536))).getD 0) % 65536

/-- Send the RD packets of the aligned words that cover a span of another module; the purpose is told the bytes to skip, the
bytes to keep and the tag of the first packet, which is answered. None where there is no route. -/
def sendRead (g n job : Nat) (mk : Nat → Nat → Nat → Purpose) : M s0 (Option Nat) := do
  let a := g / 8 * 8
  let len := (g % 8 + n + 7) / 8 * 8
  let first := nextTagIn (← st)
  let purpose := mk (g % 8) n first
  let mut ok := true
  for p in spanPieces 256 (len / 256 + 2) a len do
    if ok then
      let r ← sendRequest { emptyPacket with
        typ := Ty.rd, len := BitVec.ofNat 16 p.2, dst := BitVec.ofNat 14 (p.1 / 2 ^ 48), job := BitVec.ofNat 16 job,
        addr := BitVec.ofNat 64 (p.1 % 2 ^ 48) } purpose
      ok := r.isSome
  if ok then return some first
  dropReqs (· == purpose)
  return none

end Sys2Proof.Machine
end

