-- ==== Sys2Proof/Machine/Kv.lean ====
section
/-! DEFINITION. The KV engine (R225 to R245): the frame pool, sequences and their page rows, the four commands, reclaim by
drop and spill, tense openings, commits and rollbacks, and the prefix table. -/

namespace Sys2Proof.Machine

open Sys2Proof

variable {s0 : State}

/-! Results of R228. -/

def KvResult.ok : Nat := 0x00
def KvResult.seqBusy : Nat := 0x01
def KvResult.seqFree : Nat := 0x02
def KvResult.layout : Nat := 0x03
def KvResult.policy : Nat := 0x04
def KvResult.noMap : Nat := 0x05
def KvResult.illegal : Nat := 0x06
def KvResult.length : Nat := 0x07
def KvResult.notHeld : Nat := 0x08
def KvResult.heldSeq : Nat := 0x09
def KvResult.noStream : Nat := 0x0A

/-! Writes of module agents. -/

/-- A module agent writes at a global address: on this module, or to a peer by WR (R364). -/
def moduleWrite (g : Nat) (bs : List Byte) (purpose : Purpose := .agent) : M s0 Unit := do
  match ← localOffset g with
  | some o =>
    let _ ← wrMem o bs
    return ()
  | none =>
    for p in spanPieces 256 (bs.length / 256 + 2) (g % 2 ^ 48) bs.length do
      let d := slice bs (p.1 - g % 2 ^ 48) p.2
      let _ ← sendRequest { emptyPacket with
        typ := Ty.wr, len := BitVec.ofNat 16 p.2, dst := BitVec.ofNat 14 (g / 2 ^ 48), addr := BitVec.ofNat 64 p.1, data := d } purpose

/-! The frame pool. A frame is a 64 KiB page of the interleaved range, numbered from offset 0. -/

/-- The first frame and the end of the pool (R247). -/
def poolIn (s : State) : Nat × Nat :=
  let base := fieldIn s R.KV_POOL_BASE 0 0
  (base + fieldIn s R.KV_POOL_AREA 0 0 * 16, base + fieldIn s R.KV_POOL_PAGES 0 0)

/-- The lowest `need` numbers from `cand` below `hi` that are not in a rising list. -/
def gapsGo : Nat → List Nat → Nat → Nat → Nat → List Nat
  | 0, _, _, _, _ => []
  | fuel + 1, used, cand, hi, need =>
    if need = 0 ∨ hi ≤ cand then []
    else
      match used with
      | [] => cand :: gapsGo fuel [] (cand + 1) hi (need - 1)
      | u :: us =>
        if cand < u then cand :: gapsGo fuel (u :: us) (cand + 1) hi (need - 1)
        else gapsGo fuel us (if u = cand then cand + 1 else cand) hi need

/-- `n` free frames, lowest first; fewer where there are fewer. -/
def freeFramesIn (s : State) (n : Nat) : List Nat :=
  let (lo, hi) := poolIn s
  gapsGo (n + s.frames.length + 1) ((s.frames.map (·.1)).filter (fun f => decide (lo ≤ f))) lo hi n

/-- Add a reference to a frame (R245). -/
def incRef (f : Nat) : M s0 Unit := do
  let c := FMap.get zeroNat (← st).frames f
  eff (.frame f (c + 1))
  if c = 0 then setF R.KV_STATUS_FREE ((← getF R.KV_STATUS_FREE) - 1)

/-- Give up a reference to a frame. -/
def decRef (f : Nat) : M s0 Unit := do
  let c := FMap.get zeroNat (← st).frames f
  if 0 < c then
    eff (.frame f (c - 1))
    if c = 1 then setF R.KV_STATUS_FREE ((← getF R.KV_STATUS_FREE) + 1)

def incRefs (fs : List Nat) : M s0 Unit := do
  for f in fs do
    incRef f
def decRefs (fs : List Nat) : M s0 Unit := do
  for f in fs do
    decRef f

/-! The tables in GDDR7. -/

/-- The 128 bytes of a sequence's table entry (R229). -/
def seqBytes (q : Seq) : List Byte :=
  let b (x : Bool) (i : Nat) : Nat := if x then 2 ^ i else 0
  leBytes 1 (b q.isOpen 0) ++ leBytes 1 (b q.publish 0) ++ leBytes 2 q.job ++ leBytes 2 q.batch ++ leBytes 1 q.policy ++
  leBytes 1 q.tshift ++ leBytes 1 q.planes ++
  leBytes 1 (b q.active 0 + b q.held 1 + b q.restoring 2 + b q.excluded 3 + b q.lost 4) ++ leBytes 2 0 ++
  leBytes 4 q.maxlen ++ leBytes 4 q.clen ++ leBytes 4 q.pclen ++ leBytes 4 q.steps ++ leBytes 4 q.psteps ++ leBytes 4 q.grow ++
  leBytes 4 q.ngrow ++ leBytes 4 q.dlow ++ leBytes 4 q.dhigh ++ leBytes 4 q.lastuse ++ leBytes 4 q.pblk ++ leBytes 8 q.tokens ++
  leBytes 8 q.pkey.toNat ++ leBytes 56 0

/-- Set a sequence and its table entry. -/
def putSeq (n : Nat) (q : Seq) : M s0 Unit := do
  eff (.seq n q)
  if 0 < (← getF R.KV_POOL_PAGES) then
    let _ ← wrGddr ((← getF R.KV_SEQTAB_ADDR) + 128 * n) (seqBytes q)

def modSeq (n : Nat) (f : Seq → Seq) : M s0 Unit := do putSeq n (f (← getSeq n))

/-- The 512 bytes of a prefix node (R243). -/
def nodeBytes (x : Node) : List Byte :=
  leBytes 8 x.key.toNat ++ leBytes 8 x.parent.toNat ++ leBytes 1 x.tshift ++ leBytes 1 x.planes ++ leBytes 2 x.children ++
  leBytes 4 x.lasthit ++ leBytes 4 x.block ++ leBytes 4 0 ++
  slice ((x.ids.map (fun i => leBytes 4 i.toNat)).flatten) 0 128 ++
  slice ((x.frames.map (fun f => leBytes 4 f)).flatten) 0 256 ++ leBytes 96 0

/-- Set a node (bucket × 4 + index) and its image in the prefix table. -/
def putNode (n : Nat) (x : Node) : M s0 Unit := do
  eff (.node n x)
  let _ ← wrGddr ((← getF R.KV_PFX_BASE) * 65536 + 512 * n) (nodeBytes x)

/-- The open sequences of a job, ascending. -/
def seqsOfJob (s : State) (jobNum : Nat) : List Nat :=
  (s.seqs.filter (fun p => p.2.isOpen && p.2.job == jobNum)).map (·.1)

/-- The job slot that serves a job number (R407). -/
def jobSlotIn (s : State) (jobNum : Nat) : Option Nat :=
  (List.range 16).find? (fun j => fieldIn s R.CJ_JOBA_STATE j 0 != 0 && fieldIn s R.CJ_JOBA_JOB j 0 == jobNum)

/-- Whether an attempt of a tense is open for the job a sequence serves. -/
def seqTenseOpen (s : State) (q : Seq) : Bool :=
  match jobSlotIn s q.job with
  | some j => (FMap.get job0 s.jobs j).isOpen
  | none => false

/-- Whether a sequence is active in an open attempt (R227, R236). -/
def seqBusy (s : State) (q : Seq) : Bool := q.active && seqTenseOpen s q

/-- The policy in force for a sequence: of the last load its job has opened a tense under (R86). -/
def policyIn (s : State) (q : Seq) : Option Policy :=
  match s.stream with
  | none => none
  | some x =>
    let set : List Policy := match jobSlotIn s q.job with
      | some j =>
        match x.oldPolicies.find? (fun (o : Nat × List Policy) => o.1 == (FMap.get job0 s.jobs j).policies) with
        | some o => o.2
        | none => x.policies
      | none => x.policies
    set.find? (fun p => p.num == q.policy)

/-- The page rows of a sequence that are not unbacked, with their numbers, ascending. -/
def rowsIn (s : State) (n : Nat) : List (Nat × Row) :=
  (s.rows.filter (fun p => p.1 / 65536 == n)).map (fun p => (p.1 % 65536, p.2))

/-! Prefix nodes as victims (R236). -/

/-- The cached rows: groups of leaf nodes that alone reference a row, with the latest LASTHIT. -/
def cachedRowsIn (s : State) : List (List Nat × Nat × List Nat) :=
  let groups := (s.nodes.map (fun p => p.2.frames)).dedup
  (groups.map (fun fs =>
    let ns := s.nodes.filter (fun p => p.2.frames == fs)
    (ns, fs))).filterMap (fun g =>
      if g.2.isEmpty then none
      else if g.1.all (fun p => p.2.children == 0) &&
          g.2.all (fun f => FMap.get zeroNat s.frames f == g.1.length) then
        some (g.1.map (·.1), (g.1.map (fun p => p.2.lasthit)).foldl max 0, g.2)
      else none)

/-- Set KV_STATUS.CACHED. -/
def kvCached : M s0 Unit := do
  let s ← st
  setF R.KV_STATUS_CACHED (((cachedRowsIn s).map (fun g => g.2.2.length)).sum)

/-- Remove a prefix node: its references, and one from its parent's CHILDREN (R244). -/
def removeNode (n : Nat) : M s0 Unit := do
  let s ← st
  let x := FMap.get node0 s.nodes n
  decRefs x.frames
  putNode n {}
  match s.nodes.find? (fun p => p.2.key == x.parent && p.2.key != 0) with
  | some (m, y) => if m ≠ n then putNode m { y with children := y.children - 1 }
  | none => pure ()

/-! Reclaim (R235 to R237). -/

/-- The row a drop-class sequence gives up next: the one above its leading rows that are shared or dropped, if it is resident and not in
flight. -/
def dropRowIn (s : State) (n : Nat) : Option Nat :=
  let q := FMap.get seq0 s.seqs n
  let rows := (List.range (kvPpp q)).map (fun k => (k, FMap.get row0 s.rows (n * 65536 + k)))
  match rows.dropWhile (fun r => rowShared s r.2 || r.2.st == .dropped) with
  | (k, r) :: _ => if r.st = .resident && !rowShared s r && r.flight % 4 == 0 then some k else none
  | [] => none

/-- The row a keep-class sequence gives up next. -/
def spillRowIn (s : State) (n : Nat) : Option Nat :=
  ((rowsIn s n).find? (fun r => r.2.st == .resident && !rowShared s r.2 && r.2.flight % 4 == 0)).map (·.1)

/-- A candidate for reclaim: priority, last use, sequence number (16,384 for cached rows), nodes of a cached row. -/
structure Candidate where
  priority : Nat
  lastuse : Nat
  num : Nat
  nodes : List Nat
  deriving DecidableEq, Repr

/-- Whether one candidate comes before another (R237). -/
def Candidate.before (a b : Candidate) : Bool :=
  decide (a.priority < b.priority) ||
  (a.priority == b.priority && (decide (a.lastuse < b.lastuse) || (a.lastuse == b.lastuse && decide (a.num < b.num))))

/-- The first of a list of candidates. -/
def firstCandidate : List Candidate → Option Candidate
  | [] => none
  | c :: cs =>
    match firstCandidate cs with
    | none => some c
    | some d => if d.before c then some d else some c

/-- Candidates of a class with an eligible row. -/
def candidatesIn (s : State) (drop : Bool) : List Candidate :=
  let seqs := s.seqs.filterMap (fun p =>
    let q := p.2
    if !q.isOpen || seqBusy s q then none
    else
      match policyIn s q with
      | none => none
      | some y =>
        if y.drop = drop && (if drop then (dropRowIn s p.1).isSome else (spillRowIn s p.1).isSome) then
          some ⟨y.priority, q.lastuse, p.1, []⟩
        else none)
  if drop then seqs ++ (cachedRowsIn s).map (fun g => ⟨0, g.2.1, 16384, g.1⟩) else seqs

/-- Drop a row: its frames go, the dropped range widens to hold it (R235). Shared frames that a copy replaced stay until the next
opening (R233). -/
def dropRow (n k : Nat) : M s0 Unit := do
  let r ← getRow n k
  decRefs r.frames
  setRow n k { st := .dropped, old := r.old }
  countWrap R.KV_CNT1_DROPS
  modSeq n (fun q =>
    let lo := min (k * kvTpp q.tshift) q.clen
    let hi := min ((k + 1) * kvTpp q.tshift) q.clen
    if q.dlow = q.dhigh then { q with dlow := lo, dhigh := hi } else { q with dlow := min q.dlow lo, dhigh := max q.dhigh hi })

/-- Free spill slots of a tier: `n` of them, or none. -/
def freeSlotsIn (s : State) (peer : Bool) (n : Nat) : Option (List Nat) :=
  let off := if peer then 2 ^ 32 else 0
  let total := if peer then fieldIn s R.KV_SPILLP_SLOTS 0 0 else fieldIn s R.KV_SPILLH_SIZE_SLOTS 0 0
  let used := (s.spillSlots.map (·.1)).filter (fun x => decide (off ≤ x))
  let l := gapsGo (n + used.length + 1) used off (off + total) n
  if l.length = n then some l else none

/-- The address of a spill slot: on the host, or in the peer's GDDR7 (R250). -/
def slotAddr (s : State) (slot : Nat) : Nat :=
  if slot < 2 ^ 32 then fieldIn s R.KV_SPILLH_BASE 0 0 * 65536 + slot * 65536
  else (fieldIn s R.KV_SPILLP_BASE 0 0 + (slot - 2 ^ 32)) * 65536

/-- Free the spill slots of a row, and its sequence's tier when no row of it is spilled. -/
def freeSlots (n k : Nat) : M s0 Unit := do
  let r ← getRow n k
  for x in r.slots do
    eff (.spillSlot x false)
  setRow n k { r with slots := [] }
  let s ← st
  if (rowsIn s n).all (fun r => r.2.slots.isEmpty) then modSeq n (fun q => { q with tier := none })

/-- Start to write a row of a keep-class sequence to its tier: whether it started; it does not without a free slot or without a route to
the peer (R238, R464). -/
def startSpill (n k : Nat) : M s0 Bool := do
  let s ← st
  let q ← getSeq n
  let some pol := policyIn s q | return false
  let tier := match q.tier with
    | some t => t
    | none => (if pol.peerTier then 1 else 0, pol.peer)
  let some slots := freeSlotsIn s (tier.1 == 1) q.planes | return false
  if q.tier.isNone then modSeq n (fun q => { q with tier := some tier })
  for x in slots do
    eff (.spillSlot x true)
  let r ← getRow n k
  setRow n k { r with flight := 1, slots }
  let mut sent := true
  for p in r.frames.zip slots do
    let (_, d) ← rdGddr (p.1 * 65536) 65536
    let a := slotAddr (← st) p.2
    if tier.1 = 1 then
      for c in spanPieces 256 258 a 65536 do
        if sent then
          let x ← sendRequest { emptyPacket with
            typ := Ty.wr, len := BitVec.ofNat 16 c.2, dst := BitVec.ofNat 14 tier.2, addr := BitVec.ofNat 64 c.1,
            data := slice d (c.1 - a) c.2 } (.kv n k)
          sent := x.isSome
    else
      let x ← hostEmit (.hostWrite a d)
      let _ ← hostEmit (.hostRead a 0)
      sent := sent && x
  if sent then return true
  dropReqs (· == .kv n k)
  setRow n k { r with flight := 0, slots }
  freeSlots n k
  return false

/-- Start to read a spilled row back; with no route to the peer it is retried (R238). -/
def startFetch (n k : Nat) : M s0 Unit := do
  let q ← getSeq n
  let r ← getRow n k
  setRow n k { r with flight := 2 }
  let mut sent := true
  for slot in r.slots do
    let a := slotAddr (← st) slot
    match q.tier with
    | some (1, peer) =>
      for c in spanPieces 256 258 a 65536 do
        if sent then
          let x ← sendRequest { emptyPacket with
            typ := Ty.rd, len := BitVec.ofNat 16 c.2, dst := BitVec.ofNat 14 peer, addr := BitVec.ofNat 64 c.1 } (.kv n k)
          sent := x.isSome
    | _ =>
      let x ← hostEmit (.hostRead a 65536)
      sent := sent && x
  if !sent then
    dropReqs (· == .kv n k)
    setRow n k { r with flight := 3 }

/-! Tense openings (R230). -/

/-- The rows an active sequence needs, with what for: 0 growth, 1 dropped, 2 spilled, 3 a copy (R230 step 3). -/
def rowsNeededIn (s : State) (n : Nat) : List (Nat × Nat) :=
  let q := FMap.get seq0 s.seqs n
  let tpp := kvTpp q.tshift
  ((List.range (kvPpp q)).map (fun k => (k, FMap.get row0 s.rows (n * 65536 + k)))).filterMap (fun p =>
    let k := p.1
    let r := p.2
    match r.st with
    | .unbacked => if q.clen < (k + 1) * tpp ∧ k * tpp < q.clen + q.grow then some (k, 0) else none
    | .dropped => some (k, 1)
    | .spilled => some (k, 2)
    | .resident => if q.clen / tpp = k ∧ rowShared s r then some (k, 3) else none)

/-- Whether a row is being fetched, for an earlier opening it may be: its frames stay its own. -/
def Row.fetching (r : Row) : Bool := r.flight == 2 || r.flight == 3

/-- Give back the frames reserved for a sequence by the present opening. -/
def releaseReserved (n : Nat) : M s0 Unit := do
  for p in rowsIn (← st) n do
    if !p.2.reserved.isEmpty && !p.2.fetching then
      decRefs p.2.reserved
      setRow n p.1 { p.2 with reserved := [] }

/-- Hold a sequence for want of rows: the page-starve event (R239). -/
def starve (n short : Nat) : M s0 Unit := do
  releaseReserved n
  modSeq n (fun q => { q with held := true })
  let q ← getSeq n
  let opens ← getF R.KV_OPENS_OPENS
  wrReg (R.KV_EVENT_SEQ.addr 0 0)
    (BitVec.ofNat 64 (n % 2 ^ 14 + q.job % 2 ^ 16 * 2 ^ 16 + min short 0xFFFF * 2 ^ 32 + opens % 2 ^ 16 * 2 ^ 48))
  countSat R.KV_CNT1_STARVE
  sendMsix 1

/-- The rows an opening obtains for a sequence: those it needs whose fetch is not under way already. -/
def rowsWantedIn (s : State) (n : Nat) : List Nat :=
  ((rowsNeededIn s n).map (·.1)).filter (fun k => !(FMap.get row0 s.rows (n * 65536 + k)).fetching)

/-- The rows it obtains that have no frames yet. -/
def rowsMissingIn (s : State) (n : Nat) : List Nat :=
  (rowsWantedIn s n).filter (fun k => (FMap.get row0 s.rows (n * 65536 + k)).reserved.isEmpty)

/-- Reserve frames for the rows a sequence still misses, while there are whole rows of them. -/
def reserveRows (n : Nat) : M s0 Unit := do
  let q ← getSeq n
  for k in rowsMissingIn (← st) n do
    if q.planes ≤ (← getF R.KV_STATUS_FREE) then
      let fs := freeFramesIn (← st) q.planes
      incRefs fs
      let r ← getRow n k
      setRow n k { r with reserved := fs }

/-- One more row has been got for the sequence that is served. -/
def gotRow : M s0 Unit := do
  let e := (← st).kv
  eff (.kv { e with got := e.got + 1 })

/-- Drop rows of the candidates while fewer than `need` are got: each victim counts for one (R237). -/
def dropLoop (n need : Nat) : Nat → M s0 Unit
  | 0 => return ()
  | fuel + 1 => do
    let s ← st
    if s.kv.got < need then
      match firstCandidate (candidatesIn s true) with
      | none => return ()
      | some c =>
        if c.num = 16384 then
          for m in c.nodes do
            removeNode m
        else
          match dropRowIn s c.num with
          | some k => dropRow c.num k
          | none => return ()
        gotRow
        reserveRows n
        dropLoop n need fuel

/-- Spill the next row of the keep-class candidates: whether one was found, and whether its spill was started. -/
def spillNext : M s0 (Bool × Bool) := do
  match firstCandidate (candidatesIn (← st) false) with
  | none => return (false, false)
  | some c =>
    match spillRowIn (← st) c.num with
    | none => return (false, false)
    | some k =>
      let started ← startSpill c.num k
      if started then eff (.kv { (← st).kv with awaited := some (c.num, k) })
      return (true, started)

/-- Obtain the rows of one sequence (R237). `resumed`: it has waited, for a spill or for a slot to spill to, so the deadline may have passed, a
free choice. Answers false where the opening waits, for a spill that was started or, where none could be, for the next try within the
deadline. The sequence is held where fewer rows were got than it needs; and also where as many were got, but the victims' were of fewer
planes than its own, so that frames are missing (log entry 29). -/
def obtain (n : Nat) (resumed : Bool) : M s0 Bool := do
  let q ← getSeq n
  let need := (rowsWantedIn (← st) n).length
  if !resumed then eff (.kv { (← st).kv with got := min need ((← getF R.KV_STATUS_FREE) / q.planes), awaited := none, serving := some n })
  reserveRows n
  dropLoop n need 70000
  kvCached
  let s ← st
  if s.kv.got < need then
    let reclaim := match policyIn s q with
      | some y => y.reclaim
      | none => 0
    let inTime ← (if reclaim = 0 then return false else if resumed then freeBool else return true)
    if inTime then
      eff (.kv { (← st).kv with awaited := none })
      if (← spillNext).1 then return false
  let s ← st
  let short := max (need - s.kv.got) (rowsMissingIn s n).length
  eff (.kv { s.kv with awaited := none, serving := none })
  if short ≠ 0 then starve n short
  return true

/-- Steps 1 and 2 of R230: the open number, and every sequence of the job made ready. -/
def openBegin (jobNum : Nat) (rerun : Bool) : M s0 Unit := do
  countWrap R.KV_OPENS_OPENS
  let opens ← getF R.KV_OPENS_OPENS
  for n in seqsOfJob (← st) jobNum do
    for p in rowsIn (← st) n do
      decRefs p.2.old
      setRow n p.1 { p.2 with old := [], flight := if p.2.flight = 4 then 0 else p.2.flight }
    modSeq n (fun q =>
      let q := { q with active := false, held := false, restoring := false, excluded := false, lost := false }
      let q := if !rerun && q.grow == 0 then { q with grow := q.ngrow, ngrow := 0 } else q
      if 0 < q.grow then { q with active := true, lastuse := opens } else q)
  kvCached

/-- Step 3 of R230 over the active sequences in ascending order, from the one that has waited where one has: false where the opening
waits. -/
def openObtain (jobNum : Nat) : M s0 Bool := do
  let mut going := true
  for n in seqsOfJob (← st) jobNum do
    if going then
      let q ← getSeq n
      let waited := (← st).kv.serving == some n
      if q.active && !q.held && (waited || !(rowsMissingIn (← st) n).isEmpty) then going ← obtain n waited
  return going

/-- The member's own batch map: bits of its held sequences (R231). -/
def heldMap (s : State) (jobNum : Nat) : List Nat :=
  ((seqsOfJob s jobNum).filter (fun n => (FMap.get seq0 s.seqs n).held)).map (fun n => (FMap.get seq0 s.seqs n).batch)

/-- Mark HELD by the union of the maps, returning those sequences' frames (R231). -/
def applyUnion (jobNum : Nat) (isHeld : Nat → Bool) : M s0 Unit := do
  for n in seqsOfJob (← st) jobNum do
    let q ← getSeq n
    if isHeld q.batch && !q.held then
      releaseReserved n
      modSeq n (fun q => { q with held := true })

/-- Copy the contents of frames into others. -/
def copyFrames (src dst : List Nat) : M s0 Unit := do
  for p in src.zip dst do
    let (_, d) ← rdGddr (p.1 * 65536) 65536
    let _ ← wrGddr (p.2 * 65536) d

/-- Step 5 of R230: map the frames, mark restored rows, copy shared ones, start the fetches. -/
def openMap (jobNum : Nat) : M s0 Unit := do
  for n in seqsOfJob (← st) jobNum do
    let q ← getSeq n
    if q.active && !q.held then
      for p in rowsNeededIn (← st) n do
        let r ← getRow n p.1
        if !r.reserved.isEmpty && !r.fetching then
          if p.2 = 0 then setRow n p.1 { r with st := .resident, frames := r.reserved, reserved := [] }
          else if p.2 = 1 then
            setRow n p.1 { r with st := .resident, frames := r.reserved, reserved := [], restored := true }
            modSeq n (fun q => { q with restoring := true })
          else if p.2 = 3 then
            copyFrames r.frames r.reserved
            setRow n p.1 { r with frames := r.reserved, old := r.frames, reserved := [] }
          else startFetch n p.1

/-- Whether the rows of R238 are resident: the lowest PREFETCH of the rows fetched by this opening. -/
def fetchedIn (s : State) (jobNum : Nat) : Bool :=
  (seqsOfJob s jobNum).all (fun n =>
    let q := FMap.get seq0 s.seqs n
    if q.active && !q.held then
      let rows := (rowsIn s n).filter (fun r => decide (2 ≤ r.2.flight))
      let pre := match policyIn s q with
        | some y => y.prefetch
        | none => 0
      (rows.take pre).all (fun r => r.2.flight == 4)
    else true)

/-! Commit, rollback and reform (R233). -/

/-- Give up all a row holds: its frames, those reserved for it, and its spill slots; a spill or fetch of it under way is abandoned. -/
def releaseRow (n k : Nat) : M s0 Unit := do
  let r ← getRow n k
  decRefs r.frames
  decRefs r.reserved
  freeSlots n k

/-- Release the rows that lie wholly beyond the committed length, in whatever state they are. -/
def releaseBeyond (n : Nat) : M s0 Unit := do
  let q ← getSeq n
  for p in rowsIn (← st) n do
    if q.clen ≤ p.1 * kvTpp q.tshift then
      releaseRow n p.1
      decRefs p.2.old
      setRow n p.1 {}

/-- Undo the copies of R245: the old reference is mapped again, though the copy has been spilled or dropped since. -/
def undoCopies (n : Nat) : M s0 Unit := do
  for p in rowsIn (← st) n do
    if !p.2.old.isEmpty then
      releaseRow n p.1
      setRow n p.1 { st := .resident, frames := p.2.old }

/-- Rollback of a tense for the job's sequences: frames reserved and not yet mapped go too; the rows that the attempt restored stay
dropped. -/
def kvRollback (jobNum : Nat) : M s0 Unit := do
  for n in seqsOfJob (← st) jobNum do
    releaseReserved n
    undoCopies n
    releaseBeyond n
    for p in rowsIn (← st) n do
      if p.2.restored then
        releaseRow n p.1
        setRow n p.1 { st := .dropped }
  kvCached

/-- Reform to the tense before the last (R55, R233). -/
def kvReform (jobNum : Nat) : M s0 Unit := do
  for n in seqsOfJob (← st) jobNum do
    undoCopies n
    modSeq n (fun q => { q with clen := q.pclen, steps := q.psteps })
  kvCached

/-- A warm module or compute-die reset interrupts the spills and fetches in flight (R241): a row that was being spilled is resident, one
that was being fetched is spilled. Work that waits for token ids is abandoned. -/
def kvInterrupt : M s0 Unit := do
  for p in (← st).rows do
    let n := p.1 / 65536
    let k := p.1 % 65536
    if p.2.flight = 1 then
      setRow n k { p.2 with flight := 0 }
      freeSlots n k
    else if p.2.fetching then
      decRefs p.2.reserved
      setRow n k { p.2 with flight := 0, reserved := [] }
  dropReqs (fun x => match x with
    | .kv _ _ => true
    | .kvIds _ _ _ => true
    | _ => false)
  eff (.kv { (← st).kv with work := none, awaited := none, serving := none })

/-! Shared prefixes (R242 to R244). -/

/-- block_key of R242. -/
def blockKey (parent : Word) (ids : List (BitVec 32)) : Word :=
  let msg := leBytes 8 parent.toNat ++ (ids.map (fun i => leBytes 4 i.toNat)).flatten
  let k := BitVec.ofNat 64 (sha512 msg).toNat
  if k = 0 then 1 else k

/-- The 32 token ids that 128 bytes hold. -/
def idsOf (d : List Byte) : List (BitVec 32) := (chunks 4 32 d).map (fun c => BitVec.ofNat 32 (leNat c))

/-- The token ids of a block: at once, or none where they cannot be read; or asked of another module, from which they come later. -/
inductive Ids where
  | here (ids : Option (List (BitVec 32)))
  | asked
  deriving DecidableEq, Repr

/-- Read the ids of a block from the TOKENS array. -/
def readIds (tokens b : Nat) : M s0 Ids := do
  let g := tokens + 128 * b
  match ← localOffset g with
  | some o =>
    let (s, d) ← rdMem o 128
    return .here (if s = 0 then some (idsOf d) else none)
  | none =>
    match ← sendRead g 128 0xFFFF (fun skip len first => .kvIds skip len first) with
    | some _ => return .asked
    | none => return .here none

/-- The nodes of a key's bucket, with their indices. -/
def bucketOf (s : State) (key : Word) : List (Nat × Node) :=
  let b := key.toNat % 2 ^ fieldIn s R.KV_PFX_BBITS 0 0
  (List.range 4).map (fun i => (b * 4 + i, FMap.get node0 s.nodes (b * 4 + i)))

/-- Look up the next block of an OPEN, its ids read: whether it is a hit (R244). -/
def lookupBlock (n : Nat) (ids : List (BitVec 32)) : M s0 Bool := do
  let q ← getSeq n
  let key := blockKey q.pkey ids
  let s ← st
  match (bucketOf s key).find? (fun x =>
      x.2.key == key && x.2.parent == q.pkey && x.2.tshift == q.tshift && x.2.planes == q.planes && x.2.block == q.pblk && x.2.ids == ids) with
  | none => return false
  | some (i, x) =>
    let k := 32 * q.pblk / kvTpp q.tshift
    let r ← getRow n k
    if r.st ≠ .resident then
      incRefs x.frames
      setRow n k { st := .resident, frames := x.frames }
    putNode i { x with lasthit := ← getF R.KV_OPENS_OPENS }
    countWrap R.KV_CNT2_HITS
    modSeq n (fun q => { q with clen := 32 * (q.pblk + 1), pclen := 32 * (q.pblk + 1), pblk := q.pblk + 1, pkey := key })
    return true

/-- Look up blocks while they are hits: whether the lookup has ended; it has not where ids are still to come (R244). -/
def lookupGo (n limit : Nat) : Nat → M s0 Bool
  | 0 => return true
  | fuel + 1 => do
    let q ← getSeq n
    if limit ≤ q.pblk then return true
    match ← readIds q.tokens q.pblk with
    | .asked => return false
    | .here none => return true
    | .here (some ids) => if ← lookupBlock n ids then lookupGo n limit fuel else return true

/-- Publish one block: whether publishing moves on to the next (always), with its key. -/
def publishBlock (n b : Nat) (parent : Word) (ids : List (BitVec 32)) : M s0 Word := do
  let q ← getSeq n
  let key := blockKey parent ids
  let s ← st
  let bucket := bucketOf s key
  let opens ← getF R.KV_OPENS_OPENS
  let frames := (← getRow n (32 * b / kvTpp q.tshift)).frames
  let fill (i : Nat) : M s0 Unit := do
    incRefs frames
    let s ← st
    let children := (s.nodes.filter (fun p => p.2.key != 0 && p.2.parent == key && p.1 != i)).length
    putNode i { key, parent, tshift := q.tshift, planes := q.planes, children, lasthit := opens, block := b, ids, frames }
    let s ← st
    match s.nodes.find? (fun p => p.2.key == parent && p.2.key != 0) with
    | some (m, y) => putNode m { y with children := y.children + 1 }
    | none => pure ()
  if bucket.any (fun x => x.2.key == key && x.2.parent == parent && x.2.ids == ids) then return key
  else if bucket.any (fun x => x.2.key == key) then
    countSat R.KV_CNT2_COLLIDE
    return key
  else
    match bucket.find? (fun x => x.2.key == 0) with
    | some (i, _) =>
      fill i
      return key
    | none =>
      let leaves := bucket.filter (fun x => x.2.children == 0)
      match leaves.foldl (fun (m : Option (Nat × Node)) x =>
          match m with
          | none => some x
          | some y => if x.2.lasthit < y.2.lasthit then some x else some y) none with
      | some (i, _) =>
        removeNode i
        fill i
        return key
      | none =>
        countSat R.KV_CNT2_FULL
        return key

/-- Publish the next block of a sequence, its ids read. -/
def publishNext (n : Nat) (ids : List (BitVec 32)) : M s0 Unit := do
  let q ← getSeq n
  let key ← publishBlock n q.pblk q.pkey ids
  modSeq n (fun q => { q with pblk := q.pblk + 1, pkey := key })

/-- Publish every block b ≥ PBLK whose whole row lies below CLEN (R244): whether that has ended; it has not where ids are still to come.
It ends early, to go on at the next commit, where ids cannot be read or the row has no frames to refer to (log entry 29). -/
def publishGo (n : Nat) : Nat → M s0 Bool
  | 0 => return true
  | fuel + 1 => do
    let q ← getSeq n
    let k := 32 * q.pblk / kvTpp q.tshift
    if (k + 1) * kvTpp q.tshift ≤ q.clen ∧ (← getRow n k).st = .resident then
      match ← readIds q.tokens q.pblk with
      | .asked => return false
      | .here none => return true
      | .here (some ids) =>
        publishNext n ids
        publishGo n fuel
    else return true

/-- Publish the blocks of sequences in turn, as far as their ids are there. -/
def publishSeqs : List Nat → M s0 Unit
  | [] => do
    eff (.kv { (← st).kv with work := none })
    kvCached
  | n :: ns => do
    if ← publishGo n 32769 then publishSeqs ns
    else eff (.kv { (← st).kv with work := some { seq := n, limit := none, rest := ns } })

/-- Commit of a tense for the job's sequences (R233, R244). -/
def kvCommit (jobNum : Nat) : M s0 Unit := do
  for n in seqsOfJob (← st) jobNum do
    modSeq n (fun q =>
      let q := { q with pclen := q.clen, psteps := q.steps }
      let q := if q.active && !q.held then { q with clen := q.clen + q.grow, steps := (q.steps + 1) % 2 ^ 32 } else q
      let q := if q.held then q else { q with grow := 0 }
      if q.restoring then { q with dlow := q.dhigh } else q)
    for p in rowsIn (← st) n do
      if p.2.restored then setRow n p.1 { p.2 with restored := false }
  let s ← st
  let sharing := fieldIn s R.KV_PFX_BBITS 0 0 != 0
  publishSeqs ((seqsOfJob s jobNum).filter (fun n => sharing && (FMap.get seq0 s.seqs n).publish))

/-! Commands (R225 to R228). -/

/-- Release all that a sequence holds. -/
def kvRelease (n : Nat) : M s0 Unit := do
  for p in rowsIn (← st) n do
    releaseRow n p.1
    decRefs p.2.old
    setRow n p.1 {}
  putSeq n {}
  setF R.KV_STATUS_SEQS ((← getF R.KV_STATUS_SEQS) - 1)
  kvCached

/-- Whether the bytes a command's operation does not use are zero, and its addresses aligned (R226). -/
def kvFormOk (c : List Byte) : Bool :=
  let op := fieldAt c 0 1
  let z (off n : Nat) : Bool := fieldAt c off n == 0
  decide (fieldAt c 2 2 < 16384) && z 36 4 && z 48 16 && z 11 1 && decide (fieldAt c 40 8 % 8 = 0) &&
  (if op = 1 then decide (fieldAt c 1 1 < 2) && decide (fieldAt c 24 8 % 4 = 0) && decide (fieldAt c 6 2 < 4096)
   else if op = 2 ∨ op = 3 then z 1 1 && z 4 7 && z 16 20
   else if op = 4 then z 1 1 && z 4 12 && z 16 20
   else false)

/-- Whether an OPEN finds the engine area full: the manual gives neither the size of a page map nor how many the area holds, so with other
sequences open a free choice; with none open the area has room (R223, R228; log entry 29). -/
def mapFull : M s0 Bool := do
  if (← getF R.KV_STATUS_SEQS) = 0 then return false else freeBool

/-- OPEN: the result, and the blocks to look up (R227, R228, R244, R247). -/
def kvOpen (c : List Byte) : M s0 (Nat × Nat) := do
  let n := fieldAt c 2 2
  let s ← st
  let q ← getSeq n
  let tshift := fieldAt c 9 1
  let planes := fieldAt c 10 1
  let maxlen := fieldAt c 12 4
  let ntok := fieldAt c 32 4
  let publish := fieldAt c 1 1 == 1
  let new : Seq := { isOpen := true, publish, job := fieldAt c 4 2, batch := fieldAt c 6 2, policy := fieldAt c 8 1, tshift, planes, maxlen,
                     tokens := fieldAt c 24 8, pkey := BitVec.ofNat 64 (fieldAt c 16 8) }
  if (← getF R.KV_POOL_PAGES) = 0 then return (KvResult.noMap, 0)
  if q.isOpen then return (KvResult.seqBusy, 0)
  if tshift < 6 ∨ 12 < tshift ∨ planes < 1 ∨ 64 < planes ∨ maxlen < 1 ∨ 2 ^ 20 < maxlen ∨ 65536 < planes * kvPpp new then
    return (KvResult.layout, 0)
  if tshift = 12 ∧ (publish ∨ 33 ≤ ntok) then return (KvResult.layout, 0)
  match s.stream with
  | none => return (KvResult.noStream, 0)
  | some x =>
    if !x.policies.any (fun p => p.num == new.policy) then return (KvResult.policy, 0)
    if ← mapFull then return (KvResult.noMap, 0)
    putSeq n new
    setF R.KV_STATUS_SEQS ((← getF R.KV_STATUS_SEQS) + 1)
    return (KvResult.ok, if (← getF R.KV_PFX_BBITS) ≠ 0 then (ntok - 1) / 32 else 0)

/-- GROW. -/
def kvGrow (c : List Byte) : M s0 Nat := do
  let n := fieldAt c 2 2
  let count := fieldAt c 12 4
  let q ← getSeq n
  if !q.isOpen then return KvResult.seqFree
  if seqTenseOpen (← st) q && q.held then return KvResult.heldSeq
  if q.maxlen < q.clen + q.grow + count then return KvResult.length
  putSeq n { q with ngrow := count }
  return KvResult.ok

/-- EXCLUDE. -/
def kvExclude (c : List Byte) : M s0 Nat := do
  let n := fieldAt c 2 2
  let q ← getSeq n
  if !q.isOpen then return KvResult.seqFree
  let s ← st
  let tense := match jobSlotIn s q.job with
    | some j => if (FMap.get job0 s.jobs j).isOpen then some (fieldIn s R.CJ_JOBB_TENSE j 0) else none
    | none => none
  if q.held && tense == some (fieldAt c 12 4) then
    putSeq n { q with excluded := true }
    return KvResult.ok
  else return KvResult.notHeld

/-- CLOSE. -/
def kvClose (c : List Byte) : M s0 Nat := do
  let n := fieldAt c 2 2
  let q ← getSeq n
  if !q.isOpen then return KvResult.seqFree
  if seqBusy (← st) q then return KvResult.seqBusy
  kvRelease n
  return KvResult.ok

/-- Whether commands are served: a stream is active and no full load runs (R228). -/
def kvServed (s : State) : Bool :=
  s.stream.isSome && (match s.load with | some l => l.result.isSome || l.partialKind | none => true)

/-- The job slot whose tense opening the engine is at: from its first step to the release to the clauses (R225, R230). -/
def openingIn (s : State) : Option Nat :=
  (List.range 16).find? (fun j =>
    let v := FMap.get job0 s.jobs j
    fieldIn s R.CJ_JOBA_STATE j 0 == 2 && v.isOpen && !v.released)

/-- Whether the spill that an opening has waited for is still in flight. -/
def spillingIn (s : State) : Bool :=
  match s.kv.awaited with
  | some (n, k) => (FMap.get row0 s.rows (n * 65536 + k)).flight == 1
  | none => false

/-- Whether the engine is at something: an opening, the spill of one that a hold has ended since, or work that waits for token ids
(R225). -/
def kvBusyIn (s : State) : Bool := s.kv.work.isSome || (openingIn s).isSome || spillingIn s

end Sys2Proof.Machine
end

