-- ==== Sys2Proof/Machine/Queue.lean ====
section
/-! DEFINITION. Completion entries and job events (R472, R473), written to host memory as their queues have room; and the running of one KV
command (R225 to R228). -/

namespace Sys2Proof.Machine

open Sys2Proof

variable {s0 : State}

/-- The 16 bytes of a completion entry with PHASE clear (R472). -/
def entryBytes (cid sq type status detail jobNum tense : Nat) : List Byte :=
  leBytes 2 cid ++ leBytes 1 sq ++ leBytes 1 type ++ leBytes 1 status ++ leBytes 1 detail ++ leBytes 2 jobNum ++
  leBytes 4 tense ++ leBytes 4 0

/-- Entries of a completion queue's ring. -/
def cqSizeIn (s : State) (c : Nat) : Nat := 2 ^ fieldIn s R.HOST_CQB_SIZE c 0

/-- Whether a completion queue's ring is full: its tail would reach its head. -/
def cqFullIn (s : State) (c : Nat) : Bool :=
  (fieldIn s R.HOST_CQB_TAIL c 0 + 1) % cqSizeIn s c == fieldIn s R.HOST_CQB_HEAD c 0

/-- Write an entry at the tail, with the phase of this turn, and send the queue's message. -/
def writeEntry (c : Nat) (bs : List Byte) : M s0 Unit := do
  let t ← getF R.HOST_CQB_TAIL c
  let ph ← getF R.HOST_CQB_PHASE c
  emit (.hostWrite ((← getF R.HOST_CQA_BASE c) * 4096 + 16 * t)
    (patch bs 3 [BitVec.ofNat 8 (fieldAt bs 3 1 + 128 * ph)]))
  let n := cqSizeIn (← st) c
  setF R.HOST_CQB_TAIL ((t + 1) % n) c
  if t + 1 = n then setF R.HOST_CQB_PHASE (1 - ph) c
  sendMsix (← getF R.HOST_CQB_VECTOR c)

/-- Post an entry to a completion queue: counted as lost when it is disabled, kept back while it is full (R473, R479). -/
def postEntry (c : Nat) (bs : List Byte) : M s0 Unit := do
  let s ← st
  if fieldIn s R.HOST_CQB_EN c 0 = 0 then countSat R.HOST_CNT_LOST
  else if cqFullIn s c || s.pcie.waiting.any (fun w => w.1 == c) then
    eff (.pcie { s.pcie with waiting := s.pcie.waiting ++ [(c, bs)] })
  else writeEntry c bs

/-- Write the entries a completion queue has kept back while it has room; `fuel` bounds them. -/
def drainEntries (c : Nat) : Nat → M s0 Unit
  | 0 => return ()
  | fuel + 1 => do
    let s ← st
    if !cqFullIn s c then
      match s.pcie.waiting.find? (fun w => w.1 == c) with
      | some w =>
        eff (.pcie { s.pcie with waiting := eraseFirst w s.pcie.waiting })
        writeEntry c w.2
        drainEntries c fuel
      | none => return ()

/-- The completion of a command of a submission queue: type 0 ACK, 1 DONE. -/
def complete (q cid type status : Nat) (detail : Nat := 0) (jobNum : Nat := 0) (tense : Nat := 0) : M s0 Unit := do
  postEntry (← getF R.HOST_SQA_CQ q) (entryBytes cid q type status detail jobNum tense)

/-- A job event: 1 idle, 2 held, 3 stood down. -/
def jobEvent (j status : Nat) (detail : Nat := 0) : M s0 Unit := do
  match (← getJob j).sq with
  | none => return ()
  | some q =>
    postEntry (← getF R.HOST_SQA_CQ q)
      (entryBytes 0xFFFF q 2 status detail (← getF R.CJ_JOBA_JOB j) (← getF R.CJ_JOBB_TENSE j))

/-! Running one KV command (R225 to R228). -/

/-- End a command: its completion word is written, and who sent it is told (R225, R228, R478). -/
def kvAnswer (done : Nat) (reply : KvReply) (word : Nat) : M s0 Unit := do
  if done % 8 = 0 then moduleWrite (done % 2 ^ 62) (leBytes 8 word)
  match reply with
  | .word => return ()
  | .queue q cid => complete q cid 1 (word % 256) 0 0 (word / 256)
  | .channel l ch => if (← getDma l ch).kind = 2 then setDma l ch { (← getDma l ch) with state := 0 }
  | .lost => countSat R.HOST_CNT_LOST

/-- A command of a host queue does not end at once: its ACK (R473). -/
def kvAck (reply : KvReply) : M s0 Unit := do
  match reply with
  | .queue q cid => complete q cid 0 0
  | .word => return ()
  | .channel _ _ => return ()
  | .lost => return ()

/-- An OPEN's lookup has ended: the blocks hit are PBLK. -/
def lookupDone (w : KvWork) : M s0 Unit := do
  eff (.kv { (← st).kv with work := none })
  kvCached
  kvAnswer w.done w.reply (KvResult.ok + (← getSeq w.seq).pblk % 2 ^ 24 * 2 ^ 8)

/-- Look up blocks as far as their ids are there: whether the lookup has ended. -/
def lookupRun (w : KvWork) (limit : Nat) : M s0 Bool := do
  if ← lookupGo w.seq limit (limit + 1) then
    lookupDone w
    return true
  else
    eff (.kv { (← st).kv with work := some w })
    return false

/-- Run one 64-byte command, the engine being free: whether it has ended. With no pool every OPEN fails with NO_MAP, before anything else
(R247). -/
def kvPerform (c : List Byte) (reply : KvReply) : M s0 Bool := do
  let op := fieldAt c 0 1
  let done := fieldAt c 40 8
  let answer (result : Nat) : M s0 Bool := do
    kvAnswer done reply result
    return true
  if op = 1 ∧ (← getF R.KV_POOL_PAGES) = 0 then answer KvResult.noMap
  else if !kvFormOk c then answer KvResult.illegal
  else if !kvServed (← st) then answer KvResult.noStream
  else if op = 1 then
    let (result, limit) ← kvOpen c
    if result = KvResult.ok then lookupRun { seq := fieldAt c 2 2, limit := some limit, done, reply } limit
    else answer result
  else answer (← (if op = 2 then kvGrow c else if op = 3 then kvExclude c else kvClose c))

end Sys2Proof.Machine
end

