-- ==== Sys2Proof/Machine/Context.lean ====
section
/-! DEFINITION. Contexts (R92, R93, R118 to R129): which are runnable, how one starts, traps and ends, what a switch saves and
restores (R121 to R123, R161, R268), and the merge of tensor flags (R189 to R191). -/

namespace Sys2Proof.Machine

open Sys2Proof

variable {s0 : State}

/-! Where a context stands. -/

/-- Rank of a logical core in its clause (R68). -/
def rankIn (s : State) (l : Nat) : Nat :=
  match clauseOfIn s l with
  | some c => (c.cores.filter (fun x => decide (x < l))).length
  | none => 0

/-- The context identifier (R118). -/
def ctxIdIn (s : State) (l k : Nat) : Nat :=
  (match clauseOfIn s l with | some c => c.num | none => 0) * 256 + k % 16 * 16 + rankIn s l % 16

/-- The state of a context slot (R128). -/
def cstateIn (s : State) (l k : Nat) : Nat := fieldIn s R.CORE_CTX_CSTATE l k

/-- Whether a core is halted by SEC_HALT (R514). -/
def haltedIn (s : State) (l : Nat) : Bool := fieldIn s R.SEC_HALT_HALT l 0 == 1

/-- Whether no sentence may issue on a core for want of voltage: its rail is below 0.65 V, as in P2 and P3 (R25, R494), or as it was last
sampled, by a reading that is within 5 mV (R493). -/
def lowVoltageIn (s : State) (l : Nat) : Bool :=
  decide (2 ≤ fieldIn s R.DEV_MOOD_POWER 0 0) || (match s.pwr.rail[l / 18]? with | some v => decide (v + 5 < 650) | none => false)

/-- Whether a running reset covers a core (R433, R434). -/
def underResetIn (s : State) (l : Nat) : Bool :=
  s.rst.running.any (fun r => r.1 == 6 || (r.1 == 1 && r.2 == l) || (r.1 == 5 && r.2 == l / 72) ||
    (r.1 == 2 && (match clauseOfIn s l with | some c => c.num == r.2 | none => false)))

/-- Whether a core's clause is held by a retirement: one of its cores is fenced or unbound (R22, R69). -/
def clauseHeldIn (s : State) (l : Nat) : Bool :=
  match clauseOfIn s l with
  | some c => c.cores.any (fun m => s.rst.fenced.contains (fieldIn s R.CORE_STATUS_PCORE m 0) || !boundIn s m)
  | none => false

/-- Whether a context is runnable (R119). The contexts of a job that a reset of the control complex holds go on to END, as R433 has it of the
clauses (DEDUCED, log entry 37). -/
def runnableIn (s : State) (l k : Nat) : Bool :=
  let c := FMap.get ctx0 s.ctxs (ctxKey l k)
  cstateIn s l k == 1 && !c.stopped && !c.ended &&
  (match c.job with
    | some j => (decide (fieldIn s R.CJ_JOBA_STATE j 0 ≠ 3) || (FMap.get job0 s.jobs j).finishing) && decide (fieldIn s R.CJ_JOBA_STATE j 0 ≠ 4)
    | none => false)

/-- Whether a context's part of the attempt is over on a core: it has trapped, stopped, ended, or lost its core (R125). -/
def partOverIn (s : State) (l k : Nat) : Bool :=
  let c := FMap.get ctx0 s.ctxs (ctxKey l k)
  c.stopped || !(cstateIn s l k == 1 || c.ended)

/-- The job context a slot of a core's clause carries, with its index in the job order. -/
def entryOfIn (s : State) (l k j : Nat) : Option (Nat × JobCtx) :=
  match clauseOfIn s l with
  | none => none
  | some c => ((FMap.get job0 s.jobs j).ctxs.zipIdx.find? (fun e => e.1.clause == c.num && e.1.slot == k)).map (fun e => (e.2, e.1))

/-- The cores that run the contexts of a job: core, slot, entry. -/
def partsIn (s : State) (j : Nat) : List (Nat × Nat × JobCtx) :=
  (FMap.get job0 s.jobs j).ctxs.flatMap (fun e =>
    match s.stream with
    | none => []
    | some x =>
      match x.clauses.find? (fun c => c.num == e.clause) with
      | some c => (c.cores.filter (fun l => decide (l < 144))).map (fun l => (l, e.slot % 16, e))
      | none => [])

/-! Quotas and save areas (R79, R85, R123). -/

/-- The quota record of a context. -/
def quotaRecIn (s : State) (l k : Nat) : Option Quota :=
  match s.stream, clauseOfIn s l with
  | some x, some c => x.quotas.find? (fun q => q.clause == c.num && q.context == k)
  | _, _ => none

/-- Sentences of a quota that a record gives, or the default in force (R79). -/
def sentencesIn (s : State) (quota : Option Nat) : Nat :=
  quota.getD (match s.stream with | some x => x.quotaDefault | none => 0) * 1024

/-- Sentences of a quota. -/
def quotaIn (s : State) (l k : Nat) : Nat := sentencesIn s ((quotaRecIn s l k).map (·.quota))

/-- Whether a region is private to a context slot (R72). -/
def privateTo (r : Region) (k : Nat) : Bool := r.contexts == 2 ^ k

/-- The private regions of a context, in ascending number. -/
def privateIn (s : State) (l k : Nat) : List Region :=
  ((regionsIn s l).filter (fun r => privateTo r k)).insertionSort (fun a b => a.num ≤ b.num)

/-- Bytes of a core's slice of a save area. -/
def sliceSize (rs : List Region) : Nat := 2 ^ 20 + (rs.map (fun r => r.size * 65536)).sum

/-- Where a core's slice of the context's save area begins (R123). -/
def sliceIn (s : State) (l k : Nat) : Nat :=
  let base := match quotaRecIn s l k with
    | some q => q.save
    | none =>
      match s.stream, clauseOfIn s l with
      | some x, some c =>
        (match x.defaults.find? (fun d => d.1 == c.num && d.2.1 == k) with
          | some d => d.2.2
          | none => 0)
      | _, _ => 0
  base + rankIn s l * sliceSize (privateIn s l k)

/-- Where a private region lies in its slice. -/
def regionPlaceIn (s : State) (l k : Nat) (r : Region) : Nat :=
  sliceIn s l k + 2 ^ 20 + (((privateIn s l k).filter (fun x => decide (x.num < r.num))).map (fun x => x.size * 65536)).sum

/-! Flag tables (R189 to R191). -/

/-- Note that a job's attempt has met a class D fault. -/
def jobFaultD (j : Nat) : M s0 Unit := do
  let v ← getJob j
  if v.isOpen then setJob j { v with faultD := true }

/-- The checks of a context's attempt have failed, class D: the member votes disagree, and every block that the context has sent or will
send in the tense is retracted (R157, R417). -/
def ctxFaultD (l k : Nat) : M s0 Unit := do
  match (← getCtx l k).job with
  | some j =>
    jobFaultD j
    modJob j (fun v => if v.isOpen && !v.failed.contains (l, k) then { v with failed := v.failed ++ [(l, k)] } else v)
  | none => pure ()

/-- The hold cause that a fault by an access' status gives (R403). -/
def statusCause (status : Nat) : Nat :=
  if status = Status.noRoute then 4 else if status = Status.peerReset then 5 else 9

/-- Note that a job's attempt has met a class H fault, with its hold cause. -/
def jobFaultH (j cause : Nat) : M s0 Unit := do
  let v ← getJob j
  if v.isOpen && v.faultH.isNone then setJob j { v with faultH := some cause }

/-- A flag-table entry with updates merged: saturating addition and OR. -/
def mergeEntry (u : FlagUpd) (old : Word) : Word :=
  let v := min (old.toNat % 2 ^ 32 + u.vanish) 0xFFFFFFFF
  let b (x : Bool) (i : Nat) : Nat := if x then 2 ^ i else 0
  BitVec.ofNat 64 (v + ((old.toNat / 2 ^ 32 % 8) ||| (b u.sat 0 + b u.void 1 + b u.voidLost 2)) * 2 ^ 32)

/-- Merge the tensor-flag updates a core has gathered for a context into the working half (R190). -/
def mergeFlags (l k : Nat) : M s0 Unit := do
  let c ← getCtx l k
  let s ← st
  match c.job with
  | none => return ()
  | some j =>
    match entryOfIn s l k j with
    | none => return ()
    | some (i, _) =>
      let job := FMap.get job0 s.jobs j
      let base := job.flagtab + 4096 * i + (if job.parity then 0 else 2048)
      for u in s.flagUpds.filter (fun u => inCtx (ctxKey l k) 256 u.1) do
        portWait (base + 8 * (u.1 % 256)) 8 true
        let (status, _, evs) ← gmAtomic (base + 8 * (u.1 % 256)) (fun old => some (mergeEntry u.2 old))
        setTags (base + 8 * (u.1 % 256)) 8 none
        recordAll (ofJob (some j) evs)
        if status ≠ 0 then
          record { cls := 1, source := 0x11, unit := l, job := some j, ctxId := ctxIdIn s l k, lcore := l, pcore := ← pcoreOf l,
                   field := l / 18, slot := 0, addr := (← ownChip) * 2 ^ 48 + base + 8 * (u.1 % 256),
                   syn := leBytes 1 status ++ leBytes 1 (u.1 % 256) ++ leBytes 30 0 }
          ctxFaultD l k
        eff (.flagUpd u.1 {})

/-! Traps (R125 to R127). -/

def Trap.illegal : Nat := 0x01
def Trap.codeTag : Nat := 0x02
def Trap.fetchRange : Nat := 0x03
def Trap.fetchUe : Nat := 0x04
def Trap.region : Nat := 0x05
def Trap.addr : Nat := 0x06
def Trap.xstatus : Nat := 0x07
def Trap.align : Nat := 0x08
def Trap.dmaUe : Nat := 0x09
def Trap.saveUe : Nat := 0x0A
def Trap.soft : Nat := 0x10

/-- The class of a trap cause: 1 class D, 2 class H (R126). -/
def trapClass (cause status : Nat) : Nat :=
  if cause = Trap.fetchUe ∨ cause = Trap.dmaUe ∨ cause = Trap.saveUe then 1
  else if cause = Trap.xstatus then (if statusClassD status then 1 else 2)
  else 2

/-- Other cores of a context stop at a barrier or a conjunction they wait at (R125). -/
def stopWaiters (l k : Nat) : M s0 Unit := do
  match clauseOfIn (← st) l with
  | none => return ()
  | some c =>
    for m in c.cores do
      let x ← getCtx m k
      match x.wait with
      | .barrier _ => setCtx m k { x with stopped := true, wait := .none, sentence := none }
      | .conjunction _ _ => setCtx m k { x with stopped := true, wait := .none, sentence := none }
      | _ => pure ()

/-- The context of a core traps: slot, cause, status, detail, and the operation code of the slot (R125 to R127). -/
def takeTrap (l k slot cause status detail op : Nat) : M s0 Unit := do
  let c ← getCtx l k
  let s ← st
  let id := ctxIdIn s l k
  let t0 := BitVec.ofNat 64 (id + l % 256 * 2 ^ 16 + slot % 16 * 2 ^ 24 + cause % 256 * 2 ^ 28 + 2 ^ 36 + status % 16 * 2 ^ 38)
  if (← getF R.CORE_TRAP0_VALID l) = 1 then setF R.CORE_TRAP0_OVERFLOW 1 l
  else
    let more ← getF R.CORE_TRAP0_OVERFLOW l
    wrReg (R.CORE_TRAP0_CTX_ID.addr l 0) (t0 ||| (BitVec.ofNat 64 more <<< 37))
    wrReg (R.CORE_TRAP1_SADDR.addr l 0) (c.saddr.zeroExtend 64)
    wrReg (R.CORE_TRAP2_DETAIL.addr l 0) (BitVec.ofNat 64 detail)
  setF R.CORE_CTX_CSTATE 3 l k
  setCtx l k { c with wait := .none, sentence := none, ended := false }
  if (← getF R.CORE_STATUS_SLOT l) = k then
    setF R.CORE_STATUS_RUN 3 l
    setF R.CORE_STATUS_WAITING 0 l
    setF R.CORE_STATUS_WAIT_CJ 0 l
  let cls := trapClass cause status
  record { cls, source := 0x01, unit := l, cause, job := c.job, ctxId := id, lcore := l, pcore := ← pcoreOf l, field := l / 18, slot,
           op := op + c.saddr.toNat * 256,
           addr := if cause = Trap.illegal ∨ cause = Trap.codeTag ∨ cause = Trap.soft then 0xFFFFFFFFFFFFFFFF else detail
           syn := leBytes 8 t0.toNat ++ leBytes 8 c.saddr.toNat ++ leBytes 8 detail ++ leBytes 8 0 }
  match c.job with
  | some j => if cls = 1 then ctxFaultD l k else jobFaultH j 9
  | none => pure ()
  stopWaiters l k

/-! The running context of a core. -/

/-- The context slot a core runs. -/
def runSlot (l : Nat) : M s0 Nat := getF R.CORE_STATUS_SLOT l

/-- The quota of a context in force on a core: its record as the core's last switch took it, or taken now; without one the default, which
takes effect at once (R86, R119). -/
def coreQuota (l k : Nat) : M s0 Nat := do
  match (← getCore l).quotas.find? (fun q => q.1 == k) with
  | some q => return sentencesIn (← st) q.2
  | none =>
    let n := (quotaRecIn (← st) l k).map (·.quota)
    modCore l (fun c => { c with quotas := c.quotas ++ [(k, n)] })
    return sentencesIn (← st) n

/-- Make a context the running one: its quota is set, and flags cleared while it was out take effect (R119, R129). -/
def bringIn (l k : Nat) : M s0 Unit := do
  let s ← st
  setF R.CORE_STATUS_SLOT k l
  setF R.CORE_STATUS_RUN (if cstateIn s l k = 3 then 3 else 1) l
  setF R.CORE_STATUS_WAITING 0 l
  setF R.CORE_STATUS_WAIT_CJ 0 l
  match clauseOfIn s l with
  | some c =>
    setF R.CORE_STATUS_CLAUSE c.num l
    setF R.MX_STAT_LD7 (if c.ld7 then 1 else 0) l
  | none => pure ()
  setF R.CORE_CTX_QUOTA_LEFT (← coreQuota l k) l k
  let c ← getCtx l k
  setF R.MX_STAT_ACTIVE (if c.bankB then 1 else 0) l
  setF R.MX_STAT_BUSY (if c.wait = .join then 1 else 0) l
  if c.clear.getLsbD 0 then setF R.CORE_CTX_DIVZ 0 l k
  if c.clear.getLsbD 1 then setF R.CORE_CTX_SAT 0 l k
  setCtx l k { c with clear := 0, yielded := false }

/-- The next runnable slot after one, wrapping round (R120). -/
def nextRunnableIn (s : State) (l from' : Nat) : Option Nat :=
  ((List.range 16).map (fun i => (from' + 1 + i) % 16)).find? (fun k => runnableIn s l k)

/-! The image of a context (R123, R161, R268). -/

def rdSreg (l k r : Nat) : M s0 Word := do
  let s ← st
  return if r = 0 then 0 else FMap.get zeroWord s.sregs (ctxKey l k * 64 + r)
def wrSreg (l k r : Nat) (v : Word) : M s0 Unit := if r = 0 then pure () else eff (.sreg (ctxKey l k * 64 + r) v)
def rdAreg (l k r : Nat) : M s0 Word := do return FMap.get zeroWord (← st).aregs (ctxKey l k * 32 + r)
def wrAreg (l k r : Nat) (v : Word) : M s0 Unit := eff (.areg (ctxKey l k * 32 + r) v)
def rdPreg (l k r : Nat) : M s0 (BitVec 256) := do
  let s ← st
  return if r = 0 then BitVec.allOnes 256 else FMap.get zeroPred s.pregs (ctxKey l k * 8 + r)
def wrPreg (l k r : Nat) (v : BitVec 256) : M s0 Unit := if r = 0 then pure () else eff (.preg (ctxKey l k * 8 + r) v)

/-- The 256 lanes of a vector register. -/
def rdVreg (l k r : Nat) : M s0 (List (BitVec 32)) := do
  let m := (← st).vregs.filter (fun x => x.1 / 256 == ctxKey l k * 64 + r)
  return (List.range 256).map (fun i => FMap.get zeroLane m ((ctxKey l k * 64 + r) * 256 + i))

/-- Set the lanes of a vector register. -/
def wrVreg (l k r : Nat) (v : List (BitVec 32)) : M s0 Unit := do
  for x in (v.take 256).zipIdx do
    eff (.vreg ((ctxKey l k * 64 + r) * 256 + x.2) x.1)

/-- Key of a stationary row: context, bank (0 A, 1 B), row. -/
def rowKey (l k bank r : Nat) : Nat := (ctxKey l k * 2 + bank) * 128 + r

def rdRow (l k bank r : Nat) : M s0 (List (BitVec 32)) := do
  let m := (← st).banks.filter (fun x => x.1 / 256 == rowKey l k bank r)
  return (List.range 256).map (fun i => FMap.get zeroLane m (rowKey l k bank r * 256 + i))
def wrRow (l k bank r : Nat) (v : List (BitVec 32)) : M s0 Unit := do
  for x in (v.take 256).zipIdx do
    eff (.bank (rowKey l k bank r * 256 + x.2) x.1)
def rdRowDesc (l k bank r : Nat) : M s0 RowDesc := do return FMap.get rowDesc0 (← st).rowDescs (rowKey l k bank r)

/-- The 257 accumulators of a row; column 256 is the checksum. -/
def rdAccRow (l k t : Nat) : M s0 (List (BitVec 48)) := do
  let base := (ctxKey l k * 128 + t) * 257
  let m := (← st).accs.filter (fun x => x.1 / 257 == ctxKey l k * 128 + t)
  return (List.range 257).map (fun i => FMap.get zeroAcc m (base + i))
def wrAccRow (l k t : Nat) (v : List (BitVec 48)) : M s0 Unit := do
  for x in (v.take 257).zipIdx do
    eff (.acc ((ctxKey l k * 128 + t) * 257 + x.2) x.1)
def rdAccSide (l k t : Nat) : M s0 AccRow := do return FMap.get accRow0 (← st).accRows (ctxKey l k * 128 + t)
def wrAccSide (l k t : Nat) (v : AccRow) : M s0 Unit := eff (.accRow (ctxKey l k * 128 + t) v)

/-- `n` bytes whose contents the manual does not lay out: free values. -/
def freeBytes (n : Nat) : M s0 (List Byte) := do
  let mut out : List Byte := []
  for _ in List.range (n / 8) do
    out := out ++ leBytes 8 (← freeWord).toNat
  return out

/-- The 10 bytes of a row descriptor. -/
def descBytes (d : RowDesc) : List Byte :=
  leBytes 8 d.scales.toNat ++ leBytes 1 d.fmt.toNat ++ leBytes 1 ((if d.low then 1 else 0) + (if d.high then 2 else 0))

/-- The 16 upper bits of an accumulator's place in the image (R161). -/
def accUpper (a : AccRow) (c : Nat) : Nat :=
  if c < 3 then a.g.toNat / 2 ^ (16 * c) % 2 ^ 16
  else if c = 256 then (if a.inexact then 1 else 0) + (if a.poison then 2 else 0) else 0

/-- Write a piece of an image to the module's GDDR7, for the job of the context. -/
def saveBytes (j : Option Nat) (o : Nat) (bs : List Byte) : M s0 Unit := do
  let _ ← wrGddr o bs j
  return ()

/-- The control state of a context in its image at 0x400: sentence address, sticky flags, quota left, the channels it owns, code tag. The
manual names them and not their places (log entry 26). -/
def controlBytes (s : State) (l k : Nat) : List Byte :=
  let c := FMap.get ctx0 s.ctxs (ctxKey l k)
  let owned := (List.range 8).foldl (fun m ch =>
    let d := FMap.get dma0 s.dmas (l * 8 + ch)
    m + (if d.state ≠ 0 ∧ d.slot = k then 2 ^ ch else 0)) 0
  leBytes 8 c.saddr.toNat ++ leBytes 8 (fieldIn s R.CORE_CTX_DIVZ l k + 2 * fieldIn s R.CORE_CTX_SAT l k) ++
    leBytes 8 (fieldIn s R.CORE_CTX_QUOTA_LEFT l k) ++ leBytes 8 owned ++ leBytes 8 c.tag.toNat

/-- The gather buffer in an image at 0x1000: the tags of the eight entries, then their contents, as far as the 8 KiB of R123 hold them. R268
writes both there and reads back the tags only; their order there is the model's choice (log entry 26). -/
def gatherBytes (g : List GatherEntry) : List Byte :=
  ((List.range 8).flatMap (fun i => leBytes 2 ((g[i]?.map (·.line)).getD 0xFFFF)) ++ g.flatMap (·.bytes)).take 8192

/-- The tags that the bytes at 0x1000 of an image hold. -/
def gatherTags (d : List Byte) : List Nat := ((List.range 8).map (fun i => fieldAt d (2 * i) 2)).filter (fun x => decide (x < 16384))

/-- Give a context the control state of its image; the quota is set when it is switched in, and its channels are the core's. -/
def restoreControl (l k : Nat) (d : List Byte) : M s0 Unit := do
  modCtx l k (fun c => { c with saddr := BitVec.ofNat 48 (fieldAt d 0 8), tag := BitVec.ofNat 8 (fieldAt d 32 1) })
  setF R.CORE_CTX_DIVZ (fieldAt d 8 1 % 2) l k
  setF R.CORE_CTX_SAT (fieldAt d 8 1 / 2 % 2) l k

/-- Write the image of a context to its slice (R123). -/
def saveImage (l k : Nat) : M s0 Unit := do
  let base := sliceIn (← st) l k
  let saveBytes := saveBytes (s0 := s0) (← getCtx l k).job
  let mut b : List Byte := []
  for r in List.range 64 do
    b := b ++ leBytes 8 (← rdSreg l k r).toNat
  for r in List.range 32 do
    b := b ++ leBytes 8 (← rdAreg l k r).toNat
  for r in List.range 8 do
    b := b ++ leBytes 32 (← rdPreg l k r).toNat
  saveBytes base b
  saveBytes (base + 0x400) (controlBytes (← st) l k ++ (← freeBytes 216))
  let mut d : List Byte := []
  for bank in List.range 2 do
    for r in List.range 128 do
      d := d ++ descBytes (← rdRowDesc l k bank r)
  saveBytes (base + 0x500) d
  saveBytes (base + 0xF00) (← freeBytes 256)
  saveBytes (base + 0x1000) (gatherBytes (← getCore l).gather)
  for r in List.range 64 do
    saveBytes (base + 0x3000 + 1024 * r) ((← rdVreg l k r).flatMap (fun x => leBytes 4 x.toNat))
  for bank in List.range 2 do
    for r in List.range 128 do
      let row ← rdRow l k bank r
      saveBytes (base + 0x13000 + 0x10000 * bank + 512 * r) (row.flatMap (fun x => leBytes 2 x.toNat))
      let x ← rdRowDesc l k bank r
      if x.low || x.high then
        saveBytes (base + 0x73400 + 0x10000 * bank + 512 * r) (row.flatMap (fun x => leBytes 2 (x.toNat / 2 ^ 16)))
  for t in List.range 128 do
    let side ← rdAccSide l k t
    saveBytes (base + 0x33000 + 8 * 257 * t)
      ((← rdAccRow l k t).zipIdx.flatMap (fun x => leBytes 6 x.1.toNat ++ leBytes 2 (accUpper side x.2)))
  modCtx l k (fun c => { c with saved := true, savedAt := base })

/-- Read a piece of an image for a job, block by block; the first address that fails is remembered. -/
def loadBytes (j : Option Nat) (bad : Option Nat) (o n : Nat) : M s0 (Option Nat × List Byte) := do
  let mut first := bad
  let mut bytes : List Byte := []
  for p in spanPieces 256 (n / 256 + 2) o n do
    let (status, d) ← rdGddr p.1 p.2 j
    if first.isNone ∧ status ≠ 0 then first := some p.1
    bytes := bytes ++ d
  return (first, bytes)

/-- Read back the image of a context from where it was last written; answers the tags of the gather buffer and the address that
failed, if one did. -/
def loadImage (l k : Nat) : M s0 (List Nat × Option Nat) := do
  let base := (← getCtx l k).savedAt
  let loadBytes := loadBytes (s0 := s0) (← getCtx l k).job
  let mut bad : Option Nat := none
  let (b1, d1) ← loadBytes bad base 0x400
  bad := b1
  for r in List.range 64 do
    wrSreg l k r (BitVec.ofNat 64 (fieldAt d1 (8 * r) 8))
  for r in List.range 32 do
    wrAreg l k r (BitVec.ofNat 64 (fieldAt d1 (0x200 + 8 * r) 8))
  for r in List.range 8 do
    wrPreg l k r (BitVec.ofNat 256 (fieldAt d1 (0x300 + 32 * r) 32))
  let (bc, dc) ← loadBytes bad (base + 0x400) 0x100
  restoreControl l k dc
  let (b2, d2) ← loadBytes bc (base + 0x500) 0xB00
  let (bg, dg) ← loadBytes b2 (base + 0x1000) 16
  bad := bg
  for r in List.range 64 do
    let (b, d) ← loadBytes bad (base + 0x3000 + 1024 * r) 1024
    bad := b
    wrVreg l k r ((List.range 256).map (fun i => BitVec.ofNat 32 (fieldAt d (4 * i) 4)))
  for bank in List.range 2 do
    for r in List.range 128 do
      let o := 10 * (128 * bank + r)
      let x ← rdRowDesc l k bank r
      let fl := fieldAt d2 (o + 9) 1
      eff (.rowDesc (rowKey l k bank r)
        { x with scales := BitVec.ofNat 64 (fieldAt d2 o 8), fmt := BitVec.ofNat 8 (fieldAt d2 (o + 8) 1),
                 low := bitN fl 0, high := bitN fl 1 })
      let (b, d) ← loadBytes bad (base + 0x13000 + 0x10000 * bank + 512 * r) 512
      bad := b
      let mut hi : List Byte := List.replicate 512 0
      if bitN fl 0 || bitN fl 1 then
        let (b, e) ← loadBytes bad (base + 0x73400 + 0x10000 * bank + 512 * r) 512
        bad := b
        hi := e
      wrRow l k bank r ((List.range 256).map (fun i => BitVec.ofNat 32 (fieldAt d (2 * i) 2 + fieldAt hi (2 * i) 2 * 2 ^ 16)))
  for t in List.range 128 do
    let (b, d) ← loadBytes bad (base + 0x33000 + 8 * 257 * t) (8 * 257)
    bad := b
    wrAccRow l k t ((List.range 257).map (fun i => BitVec.ofNat 48 (fieldAt d (8 * i) 6)))
    let up (c : Nat) : Nat := fieldAt d (8 * c + 6) 2
    wrAccSide l k t { g := BitVec.ofNat 48 (up 0 + up 1 * 2 ^ 16 + up 2 * 2 ^ 32), inexact := bitN (up 256) 0, poison := bitN (up 256) 1 }
  return (gatherTags dg, bad)

/-- Store poison in the block of a GDDR7 offset (R273: a failing word is saved marked poisoned). In an enabled range it passes through the
engine, whose whole 4 KiB block is poison then: every read of it takes its first sector (R333, R347). -/
def poisonAt (o : Nat) : M s0 Unit := do
  portWait o 256 true
  let s ← st
  match gddrAt (gdBlocksIn s) o with
  | some (k, b) => gdStorePoison k (if (rangeAtIn s k (b / 16)).isSome then b / 16 * 16 else b)
  | none => return ()

/-- Write a private region out to its place in the slice of its context. -/
def saveRegion (l k : Nat) (r : Region) : M s0 Unit := do
  let place := regionPlaceIn (← st) l k r
  let j := (← getCtx l k).job
  spServed l 4
  for i in List.range (r.size * 256) do
    let (d, evs) ← spRead l (r.base * 65536 + 256 * i) 256
    recordAll (ofJob j evs)
    match d with
    | some bs => saveBytes j (place + 256 * i) bs
    | none => poisonAt (place + 256 * i)
  modCore l (fun c => { c with
    resident := c.resident.filter (· != (k, r.num))
    touched := c.touched.map (fun x => if x.1 = k ∧ x.2.1 = r.num then (k, r.num, place) else x) })

/-- Read a private region in: zeros the first time since the load (R122). The words of a block that fails are bad until they are written
(R271, R273). Answers the address that failed, if one did. -/
def loadRegion (l k : Nat) (r : Region) : M s0 (Option Nat) := do
  let c ← getCore l
  let j := (← getCtx l k).job
  let mut bad : Option Nat := none
  spServed l 4
  clearSpTags l (r.base * 8192) (r.size * 8192)
  match c.touched.find? (fun x => x.1 == k && x.2.1 == r.num) with
  | some x =>
    for i in List.range (r.size * 256) do
      let (status, d) ← rdGddr (x.2.2 + 256 * i) 256 j
      if status ≠ 0 then
        if bad.isNone then bad := some (x.2.2 + 256 * i)
        for w in List.range 32 do
          spPoisonWord l (r.base * 8192 + 32 * i + w)
      else
        let _ ← spWrite l (r.base * 65536 + 256 * i) d
  | none =>
    for w in List.range (r.size * 8192) do
      spStoreWord l (r.base * 8192 + w) 0
  modCore l (fun c => { c with
    resident := c.resident ++ [(k, r.num)]
    touched := if c.touched.any (fun x => x.1 == k && x.2.1 == r.num) then c.touched else c.touched ++ [(k, r.num, 0)] })
  return bad

/-- Whether two regions overlap. -/
def overlaps (a b : Region) : Bool := decide (a.base < b.base + b.size) && decide (b.base < a.base + a.size)

/-- Steps 3 and 4 of R121 for an incoming context, the outgoing one given when there is one; then it runs. -/
def switchTo (l : Nat) (out : Option Nat) (k : Nat) : M s0 Unit := do
  match out with
  | some o =>
    mergeFlags l o
    gbFlushAll l
    setF R.MX_STAT_ENABLED 0 l
    setF R.MX_STAT_RAMPDOWN 0 l
    modCore l (fun c => { c with ramp := 0 })
    saveImage l o
    modCtx l o (fun c => { c with early := none })
  | none => gbFlushAll l
  modCore l (fun c => { c with quotas := [] })
  let mine := privateIn (← st) l k
  for q in (← getCore l).resident do
    if q.1 ≠ k then
      match (regionsIn (← st) l).find? (fun r => r.num == q.2) with
      | some r => if mine.any (overlaps r) then saveRegion l q.1 r
      | none => pure ()
  let mut bad : Option Nat := none
  let mut lines : List Nat := []
  if (← getCtx l k).saved then
    let r ← loadImage l k
    lines := r.1
    bad := r.2
  for r in mine do
    if !(← getCore l).resident.contains (k, r.num) then
      let b ← loadRegion l k r
      if bad.isNone then bad := b
  -- the tags of the gather buffer are kept; each entry is filled again from the banks (R268)
  setGather l []
  for line in lines do
    let (e, evs) ← gbFill l line
    recordAll (ofJob (← getCtx l k).job evs)
    setGather l ((← getCore l).gather ++ [e])
  bringIn l k
  if out.isSome then countWrap R.CORE_SWITCHES_SWITCHES l
  match bad with
  | some a => takeTrap l k 0 Trap.saveUe 0 ((← ownChip) * 2 ^ 48 + a) 0
  | none => return ()

/-- An idle core brings in the next runnable context, if there is one: that is a switch from the one that has reached END or trapped, or
that still belongs to an open attempt. -/
def wakeCore (l : Nat) : M s0 Unit := do
  let s ← st
  let cur := fieldIn s R.CORE_STATUS_SLOT l 0
  if underResetIn s l then return ()
  if runnableIn s l cur then
    if fieldIn s R.CORE_STATUS_RUN l 0 ≠ 1 then bringIn l cur
  else if fieldIn s R.CORE_STATUS_RUN l 0 = 0 then
    match nextRunnableIn s l cur with
    | some k => switchTo l (if (FMap.get ctx0 s.ctxs (ctxKey l cur)).job.isSome || decide (2 ≤ cstateIn s l cur) then some cur else none) k
    | none => return ()

/-- Forget the partial sums of a context (R158). -/
def dropPartials (l k : Nat) : M s0 Unit := do eff (.partials ((← st).partials.filter (fun p => !(p.core == l && p.slot == k))))

/-- Start a context of a job for an attempt of a tense (R93). -/
def startCtx (j tense l k : Nat) (e : JobCtx) : M s0 Unit := do
  let s ← st
  eff (.clearCtx (ctxKey l k))
  dropPartials l k
  setCtx l k { job := some j, entry := e.entry, tag := e.tag, saddr := e.entry }
  wrSreg l k 1 (BitVec.ofNat 64 tense)
  wrSreg l k 2 (BitVec.ofNat 64 (ctxIdIn s l k))
  setF R.CORE_CTX_DIVZ 0 l k
  setF R.CORE_CTX_SAT 0 l k
  setF R.CORE_CTX_CSTATE 1 l k
  for ch in List.range 8 do
    let d ← getDma l ch
    if d.slot = k ∧ d.state = 2 then setDma l ch { d with state := 0, failed := none }

/-- A context's part of a tense is closed: one at END or trapped goes on reading so, any other has no tense released. The partial sums
it has sent and no drain has taken go with the attempt. -/
def stopCtx (l k : Nat) : M s0 Unit := do
  dropPartials l k
  if cstateIn (← st) l k = 1 then setF R.CORE_CTX_CSTATE 0 l k
  modCtx l k (fun c => { c with job := none, sentence := none, wait := .none, ended := false, stopped := false, early := none })
  if (← runSlot l) = k then
    setF R.CORE_STATUS_RUN 0 l
    setF R.CORE_STATUS_WAITING 0 l
    setF R.CORE_STATUS_WAIT_CJ 0 l
    setF R.MX_STAT_BUSY 0 l

end Sys2Proof.Machine
end

