-- ==== Sys2Proof/Machine/Jobs.lean ====
section
/-! DEFINITION. Jobs and tenses (R35 to R60, R389 to R395, R400 to R404, R468 to R471): the conjunction tree and its
messages, openings, votes, decisions, holds, reform and stand-down, and the confirmations and sweeps of tentative writes
(R44 to R47, R371 to R374). -/

namespace Sys2Proof.Machine

open Sys2Proof

variable {s0 : State}

/-! The tree of a job (R78, R389). -/

def jobStateIn (s : State) (j : Nat) : Nat := fieldIn s R.CJ_JOBA_STATE j 0
def jobNumIn (s : State) (j : Nat) : Nat := fieldIn s R.CJ_JOBA_JOB j 0
def jobTenseIn (s : State) (j : Nat) : Nat := fieldIn s R.CJ_JOBB_TENSE j 0

/-- The conjunction tree of a job; none for a job confined to the module. -/
def treeIn (s : State) (j : Nat) : Option Tree :=
  match s.stream with
  | some x => if fieldIn s R.CJ_JOBA_TREE j 0 = 0xFFFF then none else x.trees.find? (fun t => t.num == fieldIn s R.CJ_JOBA_TREE j 0)
  | none => none

/-- Nodes of a job. -/
def nodesIn (s : State) (j : Nat) : Nat := match treeIn s j with | some t => t.nodes.length | none => 1

/-- The parent of the module's node. -/
def parentIn (s : State) (j : Nat) : Option Nat :=
  (treeIn s j).bind (fun t => (t.nodes.getD (fieldIn s R.CJ_JOBA_NODE j 0) (0, none)).2)

/-- The children of the module's node, in node-record order. -/
def kidsIn (s : State) (j : Nat) : List Nat :=
  match treeIn s j with
  | some t => (List.range t.nodes.length).filter (fun n => (t.nodes.getD n (0, none)).2 == some (fieldIn s R.CJ_JOBA_NODE j 0))
  | none => []

/-- The chip that serves a node. -/
def nodeChipIn (s : State) (j n : Nat) : Nat := ((FMap.get job0 s.jobs j).map.getD n (0, 0)).1.toNat

/-- The tense a job opens next. -/
def nextTenseIn (s : State) (j : Nat) : Nat := ((FMap.get job0 s.jobs j).committed + 1) % 2 ^ 32

/-! Messages (R390). -/

def Msg.vote : Nat := 0x0001
def Msg.decide : Nat := 0x0002
def Msg.mapup : Nat := 0x0003
def Msg.mapdown : Nat := 0x0004
def Msg.arrive : Nat := 0x0005
def Msg.release : Nat := 0x0006
def Msg.join : Nat := 0x0007
def Msg.start : Nat := 0x0008
def Msg.hold : Nat := 0x0101
def Msg.peerReset : Nat := 0x0102

/-- Send a message of a job to a node, of the open tense or of the one given; answers whether a route was found. -/
def sendMsg (j node code : Nat) (payload : List Byte) (tense : Option Nat := none) : M s0 Bool := do
  let s ← st
  let r ← sendRequest { emptyPacket with
    typ := Ty.msg, len := BitVec.ofNat 16 payload.length, dst := BitVec.ofNat 14 (nodeChipIn s j node),
    job := BitVec.ofNat 16 (jobNumIn s j), aux := if code < 0x100 then 0 else 1, addr := BitVec.ofNat 64 code,
    tense := BitVec.ofNat 32 (tense.getD (jobTenseIn s j)), data := payload } (.message j)
  return r.isSome

/-! The commit word (R35). -/

/-- The commit word as its fields stand. -/
def commitWordIn (s : State) (j : Nat) : Word :=
  let v := FMap.get job0 s.jobs j
  let b (x : Bool) (i : Nat) : Nat := if x then 2 ^ i else 0
  BitVec.ofNat 64 (v.committed % 2 ^ 32 + b v.parity 32 + b v.pending 33 + v.word % 4 * 2 ^ 34 + fieldIn s R.FAB_ID_INC 0 0 * 2 ^ 36)

/-- Write the commit word; answers the status of the write. One that has to wait at its port is held there in order, and what it meets shows
later (R295, R297). -/
def writeCommit (j : Nat) : M s0 Nat := do
  let s ← st
  wrGddr (FMap.get job0 s.jobs j).commit (leBytes 8 (commitWordIn s j).toNat)

/-! Tentative writes (R44 to R47, R371 to R374). -/

/-- Replace the tentative table; FAB_TENT.OPEN shows its entries. -/
def setTent (v : List TentEntry) : M s0 Unit := do
  eff (.tent v)
  setF R.FAB_TENT_OPEN v.length

/-- Whether a job's attempt has a tentative input (R46). -/
def inputsIn (s : State) (j : Nat) : Bool :=
  s.tent.any (fun t => t.job.toNat == jobNumIn s j && t.tense.toNat == jobTenseIn s j)

/-- The tentative inputs of a job as they stand: what a block sent now may have been computed from (R44, log entry 24). -/
def tentInputs (s : State) (j : Nat) : List TentEntry :=
  s.tent.filter (fun t => t.job.toNat == jobNumIn s j && t.tense.toNat == jobTenseIn s j)

/-- Whether a proof record of a job's tense is outstanding (R418). -/
def proofsIn (s : State) (j : Nat) : Bool := s.proofs.any (fun p => p.job == j && p.tense.toNat == jobTenseIn s j)

/-- Whether proof-reading still has to check what a block or write was made of (R374, R418): a proof record of its context is outstanding of a
sentence issued before the one that sent the block, or for a write, of that one too, which may still run. -/
def proofsOfIn (s : State) (e : SentEntry) : Bool :=
  let upTo := if e.isBlock then e.issue - 1 else e.issue
  let c := FMap.get ctx0 s.ctxs (ctxKey e.core e.slot)
  s.proofs.any (fun p => p.job == e.j && p.core == e.core && p.slot == e.slot && decide (p.issue ≤ upTo)) ||
    (c.job == some e.j && decide (c.issued ≤ upTo) && c.sentence.any (·.proof))

/-- Entries of a job's tense that have had neither confirmation nor retraction. -/
def unsettledIn (s : State) (j : Nat) : List SentEntry :=
  s.sent.filter (fun e => e.j == j && e.tense.toNat == jobTenseIn s j && !e.settled)

/-! Holds (R400, R403). -/

/-- Record a conjunction fault of a job (R420 source 0x09): with the operation's ID where one has it (R419). -/
def recordConj (j cls cause : Nat) (detail : List Byte := []) (opId : Nat := 0xFFFF) : M s0 Unit := do
  let w ← rdReg (R.CJ_JOBB_TENSE.addr j 0)
  record { cls, source := 0x09, unit := j, cause, job := some j, op := if opId = 0xFFFF then 0xFFFFFFFFFFFFFFFF else 0xFF + opId * 256,
           syn := leBytes 8 w.toNat ++ leBytes 2 opId ++ leBytes 22 0, detail }

/-- Abandon every open collective instance of a job; the contexts that wait in CJWAIT, or at a barrier that cannot fill any more,
stop (R399, R125). -/
def abandonColls (j : Nat) : M s0 Unit := do
  eff (.colls ((← st).colls.filter (fun c => c.j != j)))
  for p in partsIn (← st) j do
    let x ← getCtx p.1 p.2.1
    match x.wait with
    | .conjunction _ _ => setCtx p.1 p.2.1 { x with stopped := true, wait := .none, sentence := none }
    | .barrier _ => setCtx p.1 p.2.1 { x with stopped := true, wait := .none, sentence := none }
    | _ => pure ()

/-- Hold a job: the chip and the cause go into its registers and onto every tree edge but the one it came by. A fault that has
written its record writes no second one (R51). With `finish` the contexts go on to END (R433). -/
def holdJob (j cause chip : Nat) (skip : Option Nat := none) (noticeCause : Nat := cause) (noted : Bool := false) (finish : Bool := false) :
    M s0 Unit := do
  let s ← st
  if jobStateIn s j = 1 ∨ jobStateIn s j = 2 then
    setF R.CJ_JOBA_STATE 3 j
    setF R.CJ_JOBB_CAUSE cause j
    setF R.CJ_JOBB_FROM chip j
    modJob j (fun v => { v with word := 1, waits := false, joined := false, finishing := finish, joins := []
                                heldTenses := v.heldTenses.filter (· != nextTenseIn s j) ++ [nextTenseIn s j] })
    abandonColls j
    for p in partsIn s j do
      if !finish && (← runSlot p.1) = p.2.1 && (← getF R.CORE_STATUS_RUN p.1) = 1 && (← getCtx p.1 p.2.1).sentence.isNone then
        setF R.CORE_STATUS_RUN 2 p.1
    let _ ← writeCommit j
    if !noted then recordConj j 2 cause
    for n in (parentIn s j).toList ++ kidsIn s j do
      if skip ≠ some n then
        let _ ← sendMsg j n Msg.hold (leBytes 2 chip ++ leBytes 1 noticeCause)
    jobEvent j 2 cause

/-! Confirmations and retractions sent (R44 to R46, R373, R374). -/

/-- Send a CONF or RETR for a block, or as a sweep, and mark what it covers settled. A member that is left without a route to the other
end holds (R48, R60). -/
def sendSettle (confirm : Bool) (e : SentEntry) (covered : SentEntry → Bool) : M s0 Unit := do
  let s ← st
  let r ← sendRequest { emptyPacket with
    typ := if confirm then Ty.conf else Ty.retr, flags := if e.isBlock then 8 else 0, dst := e.dst,
    job := BitVec.ofNat 16 (jobNumIn s e.j), addr := BitVec.ofNat 64 (if e.isBlock then e.addr else 0), tense := e.tense,
    serial := BitVec.ofNat 32 e.serial } (.confirm e.j)
  if r.isSome then eff (.sent ((← st).sent.map (fun x => if covered x then { x with settled := true } else x)))
  else holdJob e.j 4 (← ownChip)

/-- Settle one block: confirmed or retracted. -/
def settleBlock (confirm : Bool) (e : SentEntry) : M s0 Unit := sendSettle confirm e (· == e)

/-- The non-block entries of a list in ascending serial. -/
def sweepable (es : List SentEntry) (chip : BitVec 14) : List SentEntry :=
  (es.filter (fun e => !e.isBlock && e.dst == chip)).insertionSort (fun a b => a.serial ≤ b.serial)

/-- Send a sweep to a chip that covers entries: it carries the last one's SERIAL. -/
def sweep (confirm : Bool) (es : List SentEntry) : M s0 Unit := do
  match es.getLast? with
  | some e => sendSettle confirm e (fun x => es.contains x)
  | none => return ()

/-- Whether an entry is to be retracted: it was not answered OK, an input of it was retracted, the checks of the context that sent it have
failed, or the member is to hold (R157, R373). -/
def failedIn (s : State) (e : SentEntry) : Bool :=
  let v := FMap.get job0 s.jobs e.j
  e.bad || e.status.any (· != 0) || v.failed.contains (e.core, e.slot) || v.faultH.isSome

/-- Whether an entry may be confirmed: it was answered OK, its own checks are complete and passed, and none of the inputs it may have
been computed from is still tentative (R44, R373, R374, R418). -/
def confirmableIn (s : State) (e : SentEntry) : Bool :=
  e.status == some 0 && !failedIn s e && !proofsOfIn s e && e.inputs.all (fun t => !s.tent.contains t)

/-- Confirm or retract each block of a job whose ACK has come, when its checks are complete (R373). -/
def settleBlocks (j : Nat) : M s0 Unit := do
  for e in unsettledIn (← st) j do
    if e.isBlock && e.status.isSome then
      let s ← st
      if failedIn s e then settleBlock false e
      else if confirmableIn s e then settleBlock true e

/-- Settle everything a job has sent in the tense, before its vote (R39, R374 rule 3). -/
def settleAll (j : Nat) : M s0 Unit := do
  settleBlocks j
  let es := unsettledIn (← st) j
  for chip in (es.map (·.dst)).dedup do
    let us := sweepable es chip
    let s ← st
    sweep (us.all (confirmableIn s)) us

/-- The jobs of a module that resets read held with cause 5; every commit word keeps its value (R445 step 6). -/
def holdInReset (chip : Nat) : M s0 Unit := do
  for j in List.range 16 do
    let s ← st
    if jobStateIn s j = 1 ∨ jobStateIn s j = 2 then
      setF R.CJ_JOBA_STATE 3 j
      setF R.CJ_JOBB_CAUSE 5 j
      setF R.CJ_JOBB_FROM chip j
      modJob j (fun v => { v with word := 1, waits := false, joined := false, joins := []
                                  heldTenses := v.heldTenses.filter (· != nextTenseIn s j) ++ [nextTenseIn s j] })
      abandonColls j
      recordConj j 2 5
      jobEvent j 2 5

/-- Hold every job the module serves (R59, R437); with `noted` for a fault that has its own record. -/
def holdAll (cause : Nat) (noted : Bool := false) (finish : Bool := false) : M s0 Unit := do
  let own ← ownChip
  for j in List.range 16 do
    holdJob j cause own (noted := noted) (finish := finish)

/-- Send an up or down message; a member without a route holds with NO_ROUTE (R48, R54). -/
def sendUp (j code : Nat) (payload : List Byte) (tense : Option Nat := none) : M s0 Unit := do
  match parentIn (← st) j with
  | some n =>
    if !(← sendMsg j n code payload tense) then holdJob j 4 (← ownChip)
  | none => return ()

/-- Pass a message down: whether every child had a route. -/
def passDown (j code : Nat) (payload : List Byte) (tense : Option Nat := none) : M s0 Bool := do
  let mut all := true
  for n in kidsIn (← st) j do
    if !(← sendMsg j n code payload tense) then all := false
  return all

def sendDown (j code : Nat) (payload : List Byte) (tense : Option Nat := none) : M s0 Unit := do
  if !(← passDown j code payload tense) then holdJob j 4 (← ownChip)

/-- A hold by a failed write of the commit word (R35, R403). -/
def commitWordLost (j : Nat) : M s0 Unit := do holdJob j 7 (← ownChip)

/-- Make the writes of the module itself that no longer wait; those to one block in their order. One of a commit word that fails holds its
job. -/
def serveHeld : M s0 Unit := do
  for h in (← st).held do
    let t ← st
    let before := t.held.takeWhile (· != h)
    if !spanWaitsIn t h.1 h.2.length true && !before.any (fun x => (blocksOfIn t x.1 x.2.length).any (fun p =>
        (blocksOfIn t h.1 h.2.length).any (sameBlock t p))) then
      eff (.held (before ++ (t.held.drop before.length).drop 1))
      let (status, ev) ← gmWrite h.1 h.2
      recordAll ev
      setTags h.1 h.2.length none
      if status ≠ 0 then
        for j in List.range 16 do
          if (← getJob j).commit = h.1 then commitWordLost j

/-! Openings (R40 step 1, R230, R231, R394). -/

/-- Count a tense as touched by a voltage event (R488). -/
def touchJob (j : Nat) : M s0 Unit := do
  let v ← getJob j
  if !v.touched then
    setJob j { v with touched := true }
    countSat R.PWR_VEVENT_COUNT j
    setF R.PWR_VEVENT_TENSE (← getF R.CJ_JOBB_TENSE j) j
    setF R.PWR_VEVENT_VALID 1 j

/-- The bits of part p of a batch map given as batch indices. -/
def mapPart (held : List Nat) (p : Nat) : BitVec 1024 :=
  (held.filter (fun b => b / 1024 == p)).foldl (fun m b => m ||| (1#1024 <<< (b % 1024))) 0

/-- Step 5 of R230: the union marks the held sequences, and the rows are mapped. The member waits, within the step-hold timeout, for the
rows that are to be there before the release (R238). -/
def finishOpen (j : Nat) (isHeld : Nat → Bool) : M s0 Unit := do
  let n := jobNumIn (← st) j
  applyUnion n isHeld
  openMap n
  let s ← st
  modJob j (fun v => { v with waits := !fetchedIn s n, phase := 3 })

/-- The union once its four parts are there. -/
def unionDone (j : Nat) : M s0 Unit := do
  let v ← getJob j
  if v.phase = 2 && (List.range 4).all (fun p => v.union.any (fun u => u.1 == p)) then
    finishOpen j (fun b => match v.union.find? (fun u => u.1 == b / 1024) with
      | some u => u.2.getLsbD (b % 1024)
      | none => false)

/-- Send up the parts of the combined map that are complete; the root answers them down (R394). -/
def openRound (j : Nat) : M s0 Unit := do
  let s ← st
  let v ← getJob j
  if v.phase = 2 then
    let kids := kidsIn s j
    let held := heldMap s (jobNumIn s j)
    let tense := jobTenseIn s j
    for p in List.range 4 do
      let v ← getJob j
      let mine := v.maps.filter (fun m => m.2.1 == tense && m.2.2.1 == p)
      if !v.mapsSent.contains p && kids.all (fun n => mine.any (fun m => m.1 == n)) then
        let bits := mine.foldl (fun b m => b ||| m.2.2.2) (mapPart held p)
        let payload := leBytes 1 p ++ leBytes 7 0 ++ leBytes 128 bits.toNat
        setJob j { v with mapsSent := v.mapsSent ++ [p] }
        match parentIn s j with
        | some _ => sendUp j Msg.mapup payload
        | none =>
          modJob j (fun v => { v with union := v.union ++ [(p, bits)] })
          sendDown j Msg.mapdown payload
    unionDone j

/-- Obtain rows; when all are obtained or their sequences held, the open round begins. -/
def openOn (j : Nat) : M s0 Unit := do
  let n := jobNumIn (← st) j
  if ← openObtain n then
    modJob j (fun v => { v with phase := 2 })
    let s ← st
    if nodesIn s j = 1 then
      let held := heldMap s n
      finishOpen j (fun b => held.contains b)
    else
      modJob j (fun v => { v with waits := true })
      openRound j

/-- Zero the working half of every flag table of a job (R190 step 1). -/
def zeroFlags (j : Nat) : M s0 Unit := do
  let v ← getJob j
  for i in List.range v.ctxs.length do
    let _ ← wrGddr (v.flagtab + 4096 * i + (if v.parity then 0 else 2048)) (List.replicate 2048 0)

/-- Whether a job can open an attempt: of the next tense, or of the tense that rolled back; none opens in P2 or P3 (R40 steps 1 and 6,
R471, R495). -/
def mayOpenIn (s : State) (j : Nat) : Bool :=
  let v := FMap.get job0 s.jobs j
  jobStateIn s j == 2 && decide (fieldIn s R.PWR_STATE_STATE 0 0 < 2) && !v.isOpen && (v.rerun || decide (0 < v.release))

/-- Open an attempt, the engine being free (R40 steps 1 and 6, R471). "When its next tense opens" (R86) is taken to be any attempt's
opening, a rerun's too (log entry 30). -/
def openNow (j : Nat) : M s0 Unit := do
  let s ← st
  let v ← getJob j
  if mayOpenIn s j then
    let tense := nextTenseIn s j
    setF R.CJ_JOBB_TENSE tense j
    if !v.rerun then setF R.CJ_JOBB_RERUNS 0 j
    setJob j { v with
      release := if v.rerun then v.release else v.release - 1
      opened := tense, isOpen := true, phase := 1, released := false, waits := false, voted := none, sentUp := false
      faultD := false, failed := [], badInput := v.earlyBad == some tense, faultH := none
      tainted := (v.rerun && v.tainted) || fieldIn s R.DEV_MOOD_TAINT 0 0 == 1
      serial := if v.rerun then v.serial else 0
      votes := v.votes.filter (fun x => x.2.1 == tense), maps := v.maps.filter (fun x => x.2.1 == tense)
      mapsSent := [], union := [], earlyBad := none
      policies := match s.stream with | some x => x.policyLoad | none => 0 }
    if fieldIn s R.PWR_ALERT_WARN 0 0 = 1 then touchJob j
    zeroFlags j
    openBegin (jobNumIn s j) v.rerun
    openOn j

/-- Stop the contexts of a job and close its attempt. -/
def closeAttempt (j : Nat) : M s0 Unit := do
  let s ← st
  for p in partsIn s j do
    if (← getCtx p.1 p.2.1).job = some j then stopCtx p.1 p.2.1
  abandonColls j
  eff (.sent ((← st).sent.filter (fun e => e.j != j)))
  setTent ((← st).tent.filter (fun t => !(t.job.toNat == jobNumIn s j && t.tense.toNat == jobTenseIn s j)))
  eff (.tentDone ((← st).tentDone.filter (fun t => !(t.job.toNat == jobNumIn s j && t.tense.toNat == jobTenseIn s j))))
  eff (.proofs ((← st).proofs.filter (fun p => p.job != j)))
  modJob j (fun v => { v with isOpen := false, released := false, phase := 0, waits := false, finishing := false, voted := none, sentUp := false,
                              votes := [], maps := [], mapsSent := [], union := [] })

/-- Commit of the open tense, the engine being free (R36, R40 step 5). -/
def commitNow (j : Nat) : M s0 Unit := do
  let s ← st
  closeAttempt j
  modJob j (fun v => { v with parity := !v.parity })
  kvCommit (jobNumIn s j)
  modJob j (fun v => { v with committed := jobTenseIn s j, pending := false, rerun := false })
  modJob j (fun v => { v with heldTenses := v.heldTenses.filter (· != (v.committed + 1) % 2 ^ 32) })
  setF R.CJ_JOBB_RERUNS 0 j
  let status ← writeCommit j
  if status ≠ 0 then commitWordLost j
  else if (← getJob j).release = 0 then jobEvent j 1
  modJob j (fun v => { v with tainted := false, touched := false })

/-- Whether an item is a commit that can still be done: its attempt is open. One that was decided before a hold is done in spite of it. -/
def commitStands (s : State) (j : Nat) : Bool := (FMap.get job0 s.jobs j).isOpen && (jobStateIn s j == 2 || jobStateIn s j == 3)

/-- The engine runs one thing that has waited for it. -/
def kvItem : KvItem → M s0 Unit
  | .opening j => openNow j
  | .commit j => do if commitStands (← st) j then commitNow j
  | .command c reply => do let _ ← kvPerform c reply

/-- The engine goes on (R225, R237, R241): with the opening that waits, for a spill once that has ended or for a spill slot; and, being free,
with what waits for it, in the order in which it came. -/
def kvServe : Nat → M s0 Unit
  | 0 => return ()
  | fuel + 1 => do
    let s ← st
    if s.kv.work.isSome || spillingIn s then return ()
    match openingIn s with
    | some j =>
      if (FMap.get job0 s.jobs j).phase = 1 then
        openOn j
        if (← getJob j).phase ≠ 1 then kvServe fuel
    | none =>
      match s.kv.queue with
      | [] => return ()
      | x :: xs =>
        eff (.kv { s.kv with queue := xs, serving := none, awaited := none })
        kvItem x
        kvServe fuel

/-- Serve all that can be served. -/
def kvServeAll : M s0 Unit := do kvServe (2 * (← st).kv.queue.length + 2)

/-- Something reaches the engine: it is done when all before it is. A command of a host queue that does not end at once has its ACK (R473). -/
def kvAsk (x : KvItem) : M s0 Unit := do
  let s ← st
  eff (.kv { s.kv with queue := s.kv.queue ++ [x] })
  kvServeAll
  match x with
  | .command _ reply => if (← st).kv.queue.contains x || (← st).kv.work.any (fun w => w.reply == reply) then kvAck reply
  | .opening _ => return ()
  | .commit _ => return ()

/-- Ask for an attempt to be opened. -/
def openTense (j : Nat) : M s0 Unit := do
  let s ← st
  if mayOpenIn s j && !s.kv.queue.contains (.opening j) then kvAsk (.opening j)

/-- Release the open attempt to the clauses (R230 step 6, R93). -/
def releaseTense (j : Nat) : M s0 Unit := do
  let s ← st
  let v ← getJob j
  if jobStateIn s j = 2 && v.isOpen && v.phase == 3 && !v.released && fetchedIn s (jobNumIn s j) then
    setJob j { v with released := true, waits := false }
    for p in partsIn s j do
      startCtx j (jobTenseIn s j) p.1 p.2.1 p.2.2
    for l in ((partsIn s j).map (·.1)).dedup do
      wakeCore l
    kvServeAll

/-! The join round (R392). -/

/-- Join once the tense can be opened, and pass joins on. -/
def joinRound (j : Nat) : M s0 Unit := do
  let s ← st
  let v ← getJob j
  if jobStateIn s j = 1 then
    let target := nextTenseIn s j
    if !v.joined && decide (0 < v.release) then
      setJob j { v with joined := true, waits := true, sentUp := false }
    let v ← getJob j
    if v.joined && !v.sentUp && (kidsIn s j).all (fun n => v.joins.any (fun x => x == (n, target))) then
      setJob j { v with sentUp := true }
      match parentIn s j with
      | some _ => sendUp j Msg.join (leBytes 4 target) (some target)
      | none =>
        sendDown j Msg.start (leBytes 4 target) (some target)
        if jobStateIn (← st) j = 1 then
          setF R.CJ_JOBA_STATE 2 j
          modJob j (fun v => { v with waits := false, joined := false, joins := [], heldTenses := v.heldTenses.filter (· != target) })
          openTense j

/-! Votes and decisions (R39, R40, R42, R393). -/

/-- Rollback of the open tense (R40 step 6). -/
def rollbackJob (j : Nat) : M s0 Unit := do
  let s ← st
  closeAttempt j
  kvRollback (jobNumIn s j)
  modJob j (fun v => { v with pending := false, rerun := true })
  let status ← writeCommit j
  if status ≠ 0 then commitWordLost j

/-- A member passes a decision down and acts on it: 0 commit, which the engine does in its turn, 1 rollback, 2 hold. A member that finds no
route to a child holds, after it has acted (R48, R393). -/
def actOn (j d cause : Nat) : M s0 Unit := do
  let routes ← passDown j Msg.decide (leBytes 1 d)
  if d = 0 then
    if !(← st).kv.queue.contains (.commit j) then kvAsk (.commit j)
  else if d = 1 then rollbackJob j
  else holdJob j cause (← ownChip) (noted := (← getJob j).faultH == some cause)
  if !routes then holdJob j 4 (← ownChip)
  kvServeAll

/-- The cause a member's own fault gives a hold decision; a member without one holds as a peer. -/
def ownCauseIn (s : State) (j : Nat) : Nat :=
  let v := FMap.get job0 s.jobs j
  if v.tainted then 3 else match v.faultH with | some c => c | none => 8

/-- The root decides (R40 step 4, R42, R393). -/
def decideRoot (j v n : Nat) : M s0 Unit := do
  let s ← st
  let reruns := fieldIn s R.CJ_JOBB_RERUNS j 0
  let limit := match treeIn s j with | some t => t.rerun | none => 3
  let (d, cause) :=
    if v = 2 then (2, ownCauseIn s j)
    else if v = 0 ∧ n = nodesIn s j then (0, 0)
    else if limit ≤ reruns then (2, 1)
    else (1, 0)
  if d = 1 then setF R.CJ_JOBB_RERUNS (min (reruns + 1) 15) j
  actOn j d cause

/-- Combine the own vote with the children's and pass it on. -/
def combineVotes (j : Nat) : M s0 Unit := do
  let s ← st
  let v ← getJob j
  let kids := kidsIn s j
  let tense := jobTenseIn s j
  match v.voted with
  | none => return ()
  | some own =>
    let got := kids.filterMap (fun n => v.votes.find? (fun x => x.1 == n && x.2.1 == tense))
    if !v.sentUp && got.length = kids.length then
      let verdict := got.foldl (fun m x => max m x.2.2.1) own
      let n := got.foldl (fun m x => m + x.2.2.2) 1
      setJob j { v with sentUp := true }
      match parentIn s j with
      | some _ => sendUp j Msg.vote (leBytes 2 verdict ++ leBytes 2 n)
      | none => decideRoot j verdict n

/-- Held sequences of a job that were not excluded (R234). -/
def unexcludedIn (s : State) (jobNum : Nat) : List Nat :=
  (seqsOfJob s jobNum).filter (fun n => (FMap.get seq0 s.seqs n).held && !(FMap.get seq0 s.seqs n).excluded)

/-- Whether a member's part of the attempt is over: every context, and no reset whose end the vote awaits (R125, R437). -/
def memberDoneIn (s : State) (j : Nat) : Bool :=
  (partsIn s j).all (fun p => partOverIn s p.1 p.2.1) && !s.rst.affected.any (fun a => a.1 == j)

/-- Cast a vote: what was sent is settled, then the vote climbs. A member that holds because something it had to send has no route does
not vote. -/
def castVote (j v : Nat) : M s0 Unit := do
  settleAll j
  if jobStateIn (← st) j = 2 then
    modJob j (fun x => { x with voted := some v, waits := true, pending := x.pending || v == 0 })
    if v = 0 then
      let status ← writeCommit j
      if status ≠ 0 then commitWordLost j
    if jobStateIn (← st) j = 2 then combineVotes j

/-- The member votes when its clauses have finished the tense, no input is tentative any more, what it has sent has been answered and every
proof record of the tense has been compared, skipped or abandoned (R39, R46, R373, R418). -/
def memberVoteJob (j : Nat) : M s0 Unit := do
  let s ← st
  let v ← getJob j
  if jobStateIn s j = 2 && v.isOpen && v.released && v.voted.isNone && memberDoneIn s j && !inputsIn s j &&
      (unsettledIn s j).all (fun e => e.status.isSome) && !proofsIn s j then
    for n in unexcludedIn s (jobNumIn s j) do
      record { cls := 2, source := 0x0A, unit := n, job := some j, syn := leBytes 4 n ++ leBytes 28 0,
               detail := leBytes 8 (← rdReg (R.KV_EVENT_SEQ.addr 0 0)).toNat ++ leBytes 16 0 }
      jobFaultH j 9
    let v ← getJob j
    if v.tainted || v.faultH.isSome then castVote j 2
    else if v.faultD || v.badInput || (unsettledIn s j).any (failedIn s) then castVote j 1
    else castVote j 0

/-! Conjunction messages received (R390 to R395, R400). -/

/-- The node a message came from, when it is the parent (true) or a child of the own node. -/
def edgeIn (s : State) (j : Nat) (chip : Nat) : Option (Nat × Bool) :=
  match parentIn s j with
  | some n =>
    if nodeChipIn s j n = chip then some (n, true)
    else ((kidsIn s j).find? (fun n => nodeChipIn s j n == chip)).map (fun n => (n, false))
  | none => ((kidsIn s j).find? (fun n => nodeChipIn s j n == chip)).map (fun n => (n, false))

/-- The edge of a message going in the right direction: `up` for one that climbs. One from outside the tree is dropped and counted (R390); one
of a parent or a child in the other direction, which the manual does not speak of, is dropped (log entry 35). -/
def edgeOf (j chip : Nat) (up : Bool) : M s0 Nat := do
  match edgeIn (← st) j chip with
  | some (n, fromParent) =>
    need (fromParent ≠ up)
    return n
  | none =>
    countSat R.CJ_CNT_ODD
    throw .done

/-- A message ignored by R395: of a job held or stood down, or after a reform of a tense held that has not opened again. -/
def lateCheck (j tense : Nat) : M s0 Unit := do
  let s ← st
  if jobStateIn s j = 3 ∨ jobStateIn s j = 4 ∨ (FMap.get job0 s.jobs j).heldTenses.contains tense then
    countSat R.CJ_CNT_LATE
    throw .done

def onVote (j chip tense : Nat) (data : List Byte) : M s0 Unit := do
  let n ← edgeOf j chip true
  lateCheck j tense
  let s ← st
  let v ← getJob j
  let current := v.isOpen && decide (tense = jobTenseIn s j)
  if current || (!v.isOpen && decide (tense = nextTenseIn s j)) then
    setJob j { v with votes := v.votes.filter (fun x => x.1 != n) ++ [(n, tense, min (fieldAt data 0 1) 2, fieldAt data 2 2)] }
    if current then combineVotes j

def onDecide (j chip tense : Nat) (data : List Byte) : M s0 Unit := do
  let _ ← edgeOf j chip false
  lateCheck j tense
  let s ← st
  let v ← getJob j
  if v.isOpen && v.voted.isSome && tense == jobTenseIn s j then actOn j (min (fieldAt data 0 1) 2) (ownCauseIn s j)

def onMapup (j chip tense : Nat) (data : List Byte) : M s0 Unit := do
  let n ← edgeOf j chip true
  lateCheck j tense
  modJob j (fun v => { v with maps := v.maps ++ [(n, tense, fieldAt data 0 1 % 4, BitVec.ofNat 1024 (fieldAt data 8 128))] })
  openRound j

def onMapdown (j chip tense : Nat) (data : List Byte) : M s0 Unit := do
  let _ ← edgeOf j chip false
  lateCheck j tense
  let s ← st
  let v ← getJob j
  if v.isOpen && v.phase == 2 && decide (tense = jobTenseIn s j) then
    let p := fieldAt data 0 1 % 4
    sendDown j Msg.mapdown (slice data 0 136)
    modJob j (fun v => { v with union := v.union ++ [(p, BitVec.ofNat 1024 (fieldAt data 8 128))] })
    unionDone j

def onJoin (j chip : Nat) (data : List Byte) : M s0 Unit := do
  let n ← edgeOf j chip true
  modJob j (fun v => { v with joins := v.joins.filter (fun x => x.1 != n) ++ [(n, fieldAt data 0 4)] })
  joinRound j

def onStart (j chip : Nat) (data : List Byte) : M s0 Unit := do
  let _ ← edgeOf j chip false
  let s ← st
  let v ← getJob j
  if jobStateIn s j = 1 && v.joined && decide (fieldAt data 0 4 = nextTenseIn s j) then
    sendDown j Msg.start (slice data 0 4) (some (nextTenseIn s j))
    if jobStateIn (← st) j = 1 then
      setF R.CJ_JOBA_STATE 2 j
      modJob j (fun v => { v with waits := false, joined := false, joins := [], sentUp := false
                                  heldTenses := v.heldTenses.filter (· != nextTenseIn s j) })
      openTense j

def onHold (j chip : Nat) (data : List Byte) : M s0 Unit := do
  match edgeIn (← st) j chip with
  | some (n, _) =>
    countSat R.CJ_CNT_HOLDS
    holdJob j 8 (fieldAt data 0 2 % 2 ^ 14) (some n) (fieldAt data 2 1)
  | none => countSat R.CJ_CNT_ODD

/-! Retractions received (R46). -/

/-- Inputs of a member were retracted: it votes disagree, and retracts what it has sent since they came, once that is answered. The
manual does not say how a member knows what was derived from an input: every block and write sent while the input was in the tentative
table counts as derived from it (R46; log entry 24). -/
def retracted (j tense : Nat) (gone : List TentEntry) : M s0 Unit := do
  let s ← st
  let v ← getJob j
  if v.isOpen && decide (tense = jobTenseIn s j) then
    modJob j (fun v => { v with badInput := true })
    eff (.sent ((← st).sent.map (fun e => if e.j = j ∧ e.inputs.any (gone.contains ·) then { e with bad := true } else e)))
    settleBlocks j
  else if tense = nextTenseIn s j then setJob j { v with earlyBad := some tense }

/-! Job orders and the orders of management (R389, R402, R469). -/

/-- Statuses of R470. -/
def Cmd.ok : Nat := 0x00
def Cmd.opcode : Nat := 0x01
def Cmd.format : Nat := 0x02
def Cmd.source : Nat := 0x03
def Cmd.mood : Nat := 0x04
def Cmd.noStream : Nat := 0x05
def Cmd.jobSlot : Nat := 0x06
def Cmd.jobInUse : Nat := 0x07
def Cmd.map : Nat := 0x08
def Cmd.tree : Nat := 0x09
def Cmd.context : Nat := 0x0A
def Cmd.unknownJob : Nat := 0x0B
def Cmd.jobActive : Nat := 0x0C
def Cmd.failed : Nat := 0x0D

/-- Whether the security state is Operating and the power state at most the given one (R514). -/
def operatingIn (s : State) (maxPower : Nat) : Bool :=
  fieldIn s R.DEV_MOOD_SEC 0 0 == 2 && decide (fieldIn s R.DEV_MOOD_POWER 0 0 ≤ maxPower) && s.pins.pwrgd

/-- The map in an order: chip and incarnation of each node. -/
def mapOf (p : List Byte) (off n : Nat) : List (BitVec 14 × BitVec 16) :=
  (List.range n).map (fun i => (BitVec.ofNat 14 (fieldAt p (off + 4 * i) 2), BitVec.ofNat 16 (fieldAt p (off + 4 * i + 2) 2)))

/-- The own node in a map. -/
def ownNodeIn (s : State) (m : List (BitVec 14 × BitVec 16)) : Option Nat :=
  m.findIdx? (fun e => e.1.toNat == chipIn s && e.2.toNat == fieldIn s R.FAB_ID_INC 0 0)

/-- Whether all bytes of a span are zero. -/
def zeros (p : List Byte) (off n : Nat) : Bool := fieldAt p off n == 0

/-- The context entries of a job order. -/
def ctxEntries (p : List Byte) : List JobCtx :=
  (List.range (fieldAt p 12 1)).map (fun i =>
    { clause := fieldAt p (64 + 16 * i) 1, slot := fieldAt p (65 + 16 * i) 1, tag := BitVec.ofNat 8 (fieldAt p (66 + 16 * i) 1),
      entry := BitVec.ofNat 48 (fieldAt p (68 + 16 * i) 6) })

/-- Whether the layout of a job order is kept (R469). -/
def jobFormOk (p : List Byte) (nodes : Nat) : Bool :=
  decide (p.length = 320 + 4 * nodes) && decide (fieldAt p 0 2 ≠ 0xFFFF) && decide (1 ≤ fieldAt p 12 1) && decide (fieldAt p 12 1 ≤ 16) &&
  zeros p 13 3 && zeros p 40 24 && decide (fieldAt p 16 8 % 8 = 0) && decide (fieldAt p 24 8 % 4096 = 0) && decide (fieldAt p 32 8 % 32 = 0) &&
  (List.range 16).all (fun i =>
    if i < fieldAt p 12 1 then
      decide (fieldAt p (66 + 16 * i) 1 ≠ 0) && zeros p (67 + 16 * i) 1 && zeros p (74 + 16 * i) 6 &&
      decide (fieldAt p (68 + 16 * i) 6 % 32 = 0)
    else zeros p (64 + 16 * i) 16) &&
  (List.range nodes).all (fun i => decide (fieldAt p (320 + 4 * i) 2 < 2 ^ 14))

/-- Whether the contexts of a job order can be taken (R470 CONTEXT). -/
def ctxsFree (s : State) (cs : List JobCtx) : Bool :=
  let held := (List.range 16).flatMap (fun j => if jobStateIn s j = 0 then [] else (FMap.get job0 s.jobs j).ctxs)
  decide (((cs.map (fun c => (c.clause, c.slot))).dedup).length = cs.length) &&
  cs.all (fun c =>
    (match s.stream with
      | some x => x.clauses.any (fun d => d.num == c.clause && decide (c.slot < d.contexts))
      | none => false) && !held.any (fun h => h.clause == c.clause && h.slot == c.slot))

/-- The status of a job order (R470), and the slot, node and tree nodes it takes. -/
def jobCheck (s : State) (p : List Byte) : Nat × Nat × Nat × Nat :=
  let bad (st : Nat) : Nat × Nat × Nat × Nat := (st, 0, 0, 0)
  if !operatingIn s 2 then bad Cmd.mood
  else match s.stream with
  | none => bad Cmd.noStream
  | some x =>
    let tn := fieldAt p 2 2
    let tree := x.trees.find? (fun t => t.num == tn)
    if tn = 0xFFFF ∧ 324 < p.length then bad Cmd.tree
    else if tn ≠ 0xFFFF ∧ tree.isNone then bad Cmd.tree
    else
      let nodes := match tree with | some t => if tn = 0xFFFF then 1 else t.nodes.length | none => 1
      if !jobFormOk p nodes then bad Cmd.format
      else if (jobSlotIn s (fieldAt p 0 2)).isSome then bad Cmd.jobInUse
      else match (List.range 16).find? (fun j => jobStateIn s j == 0) with
      | none => bad Cmd.jobSlot
      | some j =>
        if !ctxsFree s (ctxEntries p) then bad Cmd.context
        else match ownNodeIn s (mapOf p 320 nodes) with
        | none => bad Cmd.map
        | some n => (Cmd.ok, j, n, nodes)

/-- Start a job (R469, R392): the instruction caches are invalidated (R101). The command's status. -/
def jobStart (q : Nat) (p : List Byte) : M s0 Nat := do
  let s ← st
  let (status, j, node, nodes) := jobCheck s p
  if status ≠ Cmd.ok then return status
  for l in List.range 144 do
    if !(← getCore l).icache.isEmpty then modCore l (fun c => { c with icache := [] })
  let first := fieldAt p 4 4
  let last := (first + 2 ^ 32 - 1) % 2 ^ 32
  wrReg (R.CJ_JOBA_JOB.addr j 0)
    (BitVec.ofNat 64 (fieldAt p 0 2 + fieldAt p 2 2 * 2 ^ 16 + node % 2 ^ 9 * 2 ^ 32 + 1 * 2 ^ 41))
  wrReg (R.CJ_JOBB_TENSE.addr j 0) (BitVec.ofNat 64 last)
  wrReg (R.PWR_VEVENT_TENSE.addr j 0) 0
  setJob j { ctxs := ctxEntries p, commit := fieldAt p 16 8, flagtab := fieldAt p 24 8, optab := fieldAt p 32 8, map := mapOf p 320 nodes,
             sq := some q, release := fieldAt p 8 4, committed := last, parity := true, opened := last,
             policies := match s.stream with | some x => x.policyLoad | none => 0 }
  let _ ← writeCommit j
  joinRound j
  return Cmd.ok

/-- ADVANCE (R468, R471). -/
def jobAdvance (jobNum arg : Nat) : M s0 Nat := do
  let s ← st
  if !operatingIn s 2 then return Cmd.mood
  if arg = 0 then return Cmd.format
  match jobSlotIn s jobNum with
  | none => return Cmd.unknownJob
  | some j =>
    modJob j (fun v => { v with release := min (v.release + arg) (2 ^ 32 - 1) })
    joinRound j
    return Cmd.ok

/-- Whether a job is idle: its last opened tense has committed with a count of zero (R471). -/
def idleIn (s : State) (j : Nat) : Bool :=
  let v := FMap.get job0 s.jobs j
  decide (jobStateIn s j = 1 ∨ jobStateIn s j = 2) && !v.isOpen && !v.rerun && v.release == 0

/-- END (R468): the slot is freed. -/
def jobEnd (jobNum : Nat) : M s0 Nat := do
  let s ← st
  if !operatingIn s 3 then return Cmd.mood
  match jobSlotIn s jobNum with
  | none => return Cmd.unknownJob
  | some j =>
    if jobStateIn s j = 4 ∨ idleIn s j then
      closeAttempt j
      for p in partsIn s j do
        setF R.CORE_CTX_CSTATE 0 p.1 p.2.1
      wrReg (R.CJ_JOBA_JOB.addr j 0) 0
      wrReg (R.CJ_JOBB_TENSE.addr j 0) 0
      setJob j {}
      return Cmd.ok
    else return Cmd.jobActive

/-- What R55 makes of a reform tense r with COMMITTED = c: 0 discards, 1 commits c + 1, 2 goes back to c − 1. -/
def reformCase (v : Job) (r : Nat) : Option Nat :=
  if r = v.committed then some 0
  else if r = (v.committed + 1) % 2 ^ 32 then (if v.pending then some 1 else none)
  else if r = (v.committed + 2 ^ 32 - 1) % 2 ^ 32 then some 2
  else none

/-- Apply a reform tense (R55) and join again (R402). Clearing the job's conjunction state leaves the JOINs that have come while the member was
held: joins wait for a member not yet reformed (R392, R404; log entry 25). -/
def reformApply (j r what : Nat) (m : List (BitVec 14 × BitVec 16)) (node : Nat) : M s0 Unit := do
  let s ← st
  let n := jobNumIn s j
  let v ← getJob j
  need (!s.kv.queue.contains (.commit j) && (what ≠ 1 || !kvBusyIn s)) .later
  closeAttempt j
  if what = 1 then kvCommit n
  else if v.isOpen then kvRollback n
  if what = 2 then kvReform n
  modJob j (fun v => { v with
    committed := r, parity := if what = 0 then v.parity else !v.parity, pending := false, word := 0, rerun := false
    release := min (v.release + (v.opened + 2 ^ 32 - r) % 2 ^ 32) (2 ^ 32 - 1), opened := r, map := m, joined := false
    policies := match s.stream with | some x => x.policyLoad | none => 0
    faultD := false, failed := [], badInput := false, faultH := none, tainted := false, touched := v.touched && what == 0, earlyBad := none })
  setF R.CJ_JOBA_NODE node j
  setF R.CJ_JOBA_STATE 1 j
  setF R.CJ_JOBB_TENSE r j
  setF R.CJ_JOBB_RERUNS 0 j
  setF R.CJ_JOBB_CAUSE 0 j
  setF R.CJ_JOBB_FROM 0 j
  let _ ← writeCommit j
  joinRound j

/-- Stand a job down (R57). -/
def standDown (j : Nat) : M s0 Unit := do
  let n := jobNumIn (← st) j
  let v ← getJob j
  closeAttempt j
  if v.isOpen then kvRollback n
  setF R.CJ_JOBA_STATE 4 j
  modJob j (fun v => { v with word := 2, joined := false, joins := [] })
  let _ ← writeCommit j
  jobEvent j 3

/-- A reform order (KIND 1) or a stand-down order (KIND 2) (R402): status and detail. A rejection's detail code is not in the
manual: a free value. -/
def orderRun (p : List Byte) : M s0 (Nat × Nat) := do
  let s ← st
  if !operatingIn s 3 then return (Cmd.mood, 0)
  if p.length < 16 || !zeros p 1 3 || !zeros p 14 2 || !(fieldAt p 0 1 == 1 || fieldAt p 0 1 == 2) then return (Cmd.format, 0)
  match jobSlotIn s (fieldAt p 4 2) with
  | none => return (Cmd.unknownJob, 0)
  | some j =>
    let reject : M s0 (Nat × Nat) := do
      recordConj j 2 (← getF R.CJ_JOBB_CAUSE j)
      return (Cmd.failed, (← freeWord).toNat % 256)
    let reform := fieldAt p 0 1 == 1
    let nodes := if reform then nodesIn s j else 0
    if fieldAt p 6 2 ≠ fieldIn s R.CJ_JOBA_TREE j 0 ∨ fieldAt p 12 2 ≠ nodes then reject
    else if p.length ≠ 16 + 4 * nodes then return (Cmd.format, 0)
    else if jobStateIn s j = 4 then reject
    else if !reform then
      standDown j
      return (Cmd.ok, 0)
    else
      match ownNodeIn s (mapOf p 16 nodes) with
      | none => return (Cmd.map, 0)
      | some node =>
        if jobStateIn s j ≠ 3 then reject
        else
          match reformCase (← getJob j) (fieldAt p 8 4) with
          | some what =>
            reformApply j (fieldAt p 8 4) what (mapOf p 16 nodes) node
            return (Cmd.ok, 0)
          | none => reject

end Sys2Proof.Machine
end

