-- ==== Sys2Proof/Machine/Num.lean ====
section
/-! DEFINITION. The fifteen number formats (R166 to R176), the one rounding rule (R179 to R183, R545), W32
arithmetic, the functions of the exponential and reciprocal unit (R111) and mix64 (R186). Values are exact. -/

namespace Sys2Proof.Machine

open Sys2Proof

/-- A value: void, or the number m × 2^e. Every format's values but G8's have this form. -/
inductive Val where
  | void
  | num (m : Int) (e : Int)
  deriving DecidableEq, Repr

/-- Zero. -/
def Val.zero : Val := .num 0 0

/-- Whether a value is the number zero. -/
def Val.isZero : Val → Bool
  | .void => false
  | .num m _ => m == 0

/-- Whether a value is void. -/
def Val.isVoid : Val → Bool
  | .void => true
  | .num _ _ => false

/-- The integer `m` at exponent `e` written at the lower exponent `f`. -/
def shiftTo (m e f : Int) : Int := m * 2 ^ (e - f).toNat

/-- Exact sum; void propagates (R170). -/
def Val.add : Val → Val → Val
  | .num m e, .num n f => let g := min e f; .num (shiftTo m e g + shiftTo n f g) g
  | _, _ => .void

/-- Exact negation. -/
def Val.neg : Val → Val
  | .num m e => .num (-m) e
  | .void => .void

/-- Exact product. -/
def Val.mul : Val → Val → Val
  | .num m e, .num n f => .num (m * n) (e + f)
  | _, _ => .void

/-- Exact scaling by a power of two. -/
def Val.scale (v : Val) (k : Int) : Val :=
  match v with
  | .num m e => .num m (e + k)
  | .void => .void

/-- Exact comparison of numbers; false where one is void (R103, R109). -/
def Val.lt : Val → Val → Bool
  | .num m e, .num n f => let g := min e f; decide (shiftTo m e g < shiftTo n f g)
  | _, _ => false

def Val.eq : Val → Val → Bool
  | .num m e, .num n f => let g := min e f; decide (shiftTo m e g = shiftTo n f g)
  | _, _ => false

/-- The magnitude. -/
def Val.abs : Val → Val
  | .num m e => .num m.natAbs e
  | .void => .void

/-! Roots and logarithms of exact numbers. -/

/-- Bits of the square root of `n` below bit `b`, added to `r`. -/
def isqrtGo (n : Nat) : Nat → Nat → Nat
  | 0, r => r
  | b + 1, r => if (r + 2 ^ b) * (r + 2 ^ b) ≤ n then isqrtGo n b (r + 2 ^ b) else isqrtGo n b r

/-- The integer part of the square root. -/
def isqrt (n : Nat) : Nat := isqrtGo n (Nat.log2 n / 2 + 1) 0

/-- The integer part of the sixteenth root. -/
def root16 (n : Nat) : Nat := isqrt (isqrt (isqrt (isqrt n)))

/-- The next `n` fraction bits of log₂ y, for y in [1, 2) with `b` fraction bits: squaring moves one bit out. -/
def log2Bits (b : Nat) : Nat → Nat → Nat → Nat
  | 0, _, acc => acc
  | n + 1, y, acc =>
    let z := y * y / 2 ^ b
    if 2 ^ (b + 1) ≤ z then log2Bits b n (z / 2) (2 * acc + 1) else log2Bits b n z (2 * acc)

/-- ⌊log₂ m × 2^n⌋ for m ≥ 1, computed with 400 fraction bits (log entry 20). -/
def log2Fixed (n m : Nat) : Nat :=
  let k := Nat.log2 m
  k * 2 ^ n + log2Bits 400 n (m * 2 ^ 400 / 2 ^ k) 0

/-- Whether m is a power of two. -/
def isPow2 (m : Nat) : Bool := 2 ^ Nat.log2 m == m

/-! Rounding (R179). -/

/-- Whether an inexact value goes up: `mode` of the table, `r` the 13 random bits, `odd` the magnitude bits of the lower
neighbour, and the fraction rem ÷ d of the way to the upper one. -/
def roundUp (mode r : Nat) (odd : Bool) (rem d : Nat) : Bool :=
  if rem = 0 then false
  else if mode = 0 then decide (d < 2 * rem) || (decide (d = 2 * rem) && odd)
  else if mode = 2 then decide (r < rem * 8192 / d)
  else false

/-- m × 2^e as a whole number of units of 2^sp, rounded; and whether that was exact. -/
def gridRound (mode r m : Nat) (e sp : Int) : Nat × Bool :=
  if sp ≤ e then (m * 2 ^ (e - sp).toNat, true)
  else
    let d := 2 ^ (sp - e).toNat
    let k := m / d
    (if roundUp mode r (k % 2 == 1) (m % d) d then k + 1 else k, m % d == 0)

/-- The fifteen formats (R166), and the accumulator's (R138). -/
inductive Fmt where
  | t2 | q4 | n4 | n6 | k8 | j8 | g8 | i8 | e8 | h16 | m16 | i16 | w24 | w32 | i32 | acc
  deriving DecidableEq, Repr

/-- The format of a FORMAT code (R166). -/
def Fmt.ofCode (c : Nat) : Option Fmt :=
  if c = 0x01 then some .t2 else if c = 0x02 then some .q4 else if c = 0x03 then some .n4
  else if c = 0x04 then some .n6 else if c = 0x08 then some .k8 else if c = 0x09 then some .j8
  else if c = 0x0A then some .g8 else if c = 0x0B then some .i8 else if c = 0x0C then some .e8
  else if c = 0x10 then some .h16 else if c = 0x11 then some .m16 else if c = 0x12 then some .i16
  else if c = 0x18 then some .w24 else if c = 0x20 then some .w32 else if c = 0x21 then some .i32
  else none

/-- Width in bits. -/
def Fmt.width : Fmt → Nat
  | .t2 => 2 | .q4 => 4 | .n4 => 4 | .n6 => 6 | .k8 => 8 | .j8 => 8 | .g8 => 8 | .i8 => 8 | .e8 => 8
  | .h16 => 16 | .m16 => 16 | .i16 => 16 | .w24 => 24 | .w32 => 32 | .i32 => 32 | .acc => 48

/-- Whether elements share an E8 scale by groups of 32. -/
def Fmt.block : Fmt → Bool
  | .t2 => true | .q4 => true | .n4 => true | .n6 => true
  | .k8 => false | .j8 => false | .g8 => false | .i8 => false | .e8 => false | .h16 => false | .m16 => false
  | .i16 => false | .w24 => false | .w32 => false | .i32 => false | .acc => false

/-- Whether the matrix array accepts the format as an operand (R166, R171). -/
def Fmt.array : Fmt → Bool
  | .e8 => false | .i16 => false | .i32 => false | .acc => false
  | .t2 => true | .q4 => true | .n4 => true | .n6 => true | .k8 => true | .j8 => true | .g8 => true | .i8 => true
  | .h16 => true | .m16 => true | .w24 => true | .w32 => true

/-- Fraction bits and bias of a float format. -/
def Fmt.float : Fmt → Option (Nat × Int)
  | .n4 => some (1, 1) | .n6 => some (2, 3) | .k8 => some (3, 10) | .j8 => some (2, 18)
  | .h16 => some (9, 33) | .m16 => some (8, 65) | .w24 => some (15, 129) | .w32 => some (22, 257)
  | .acc => some (37, 511)
  | .t2 => none | .q4 => none | .g8 => none | .i8 => none | .e8 => none | .i16 => none | .i32 => none

/-- Bytes of the storage form of `n` elements (R173, R174). -/
def Fmt.storage (f : Fmt) (n : Nat) : Nat := (if f.block then 8 else 0) + f.width * n / 8

/-- The pattern of void (R167, R168); I32 has none. -/
def Fmt.voidPat : Fmt → Nat
  | .t2 => 2
  | .e8 => 0xFF
  | .i32 => 0
  | f => 2 ^ (f.width - 1)

/-- The value of a float pattern (R167). -/
def decodeFloat (w p : Nat) (b : Int) (x : Nat) : Val :=
  let s := bitN x (w - 1)
  let e := x / 2 ^ p % 2 ^ (w - 1 - p)
  let m := x % 2 ^ p
  let sg (k : Nat) : Int := if s then -(k : Int) else k
  if e = 0 then
    if m = 0 then (if s then .void else .zero) else .num (sg m) (1 - b - p)
  else .num (sg (2 ^ p + m)) (e - b - p)

/-- 2^(k ÷ 16) to 120 fraction bits below its leading bit and a sticky one; exact where 16 divides k. -/
def pow2by16 (k : Int) : Val :=
  let q := k / 16
  let r := (k % 16).toNat
  if r = 0 then .num 1 q else .num (2 * root16 (2 ^ (r + 16 * 120)) + 1 : Nat) (q - 121)

/-- The exact value of a pattern; for G8 a value that rounds as the exact one does (R167, R168, R181). -/
def Fmt.decode (f : Fmt) (x : Nat) : Val :=
  let x := x % 2 ^ f.width
  match f with
  | .t2 => if x = 0 then .zero else if x = 1 then .num 1 0 else if x = 3 then .num (-1) 0 else .void
  | .q4 =>
    let e := x % 8
    if e = 0 then (if x = 8 then .void else .zero) else .num (if x < 8 then 1 else -1) (e - 4)
  | .g8 =>
    let m := x % 128
    if m = 0 then (if x = 128 then .void else .zero)
    else if x < 128 then pow2by16 (m - 64) else (pow2by16 (m - 64)).neg
  | .i8 => if x = 0x80 then .void else .num (signedN x 8) 0
  | .i16 => if x = 0x8000 then .void else .num (signedN x 16) 0
  | .i32 => .num (signedN x 32) 0
  | .e8 => if x = 0 then .zero else if x = 0xFF then .void else .num 1 (x - 128)
  | .n4 => decodeFloat 4 1 1 x
  | .n6 => decodeFloat 6 2 3 x
  | .k8 => decodeFloat 8 3 10 x
  | .j8 => decodeFloat 8 2 18 x
  | .h16 => decodeFloat 16 9 33 x
  | .m16 => decodeFloat 16 8 65 x
  | .w24 => decodeFloat 24 15 129 x
  | .w32 => decodeFloat 32 22 257 x
  | .acc => decodeFloat 48 37 511 x

/-- A decoded element under its group's scale code (R175). -/
def Fmt.decodeScaled (f : Fmt) (scale x : Nat) : Val :=
  if f.block then
    if scale = 0 then .zero else if scale = 0xFF then .void else (f.decode x).scale (scale - 128)
  else f.decode x

/-- What a conversion answers: the pattern, and what it tells the tensor's flags (R177, R180, R183). -/
structure Enc where
  code : Nat
  vanish : Bool := false
  sat : Bool := false
  void : Bool := false
  voidLost : Bool := false
  deriving DecidableEq, Repr

/-- The magnitude code of a float: exponent and fraction together; it runs on past the format's largest. -/
def floatMag (p : Nat) (b : Int) (mode r m : Nat) (e : Int) : Nat :=
  let be := max (Nat.log2 m + e) (1 - b)
  let k := (gridRound mode r m e (be - p)).1
  (be + b - 1).toNat * 2 ^ p + k

/-- The code of a power of two grid whose code c stands for 2^(c − b), with zero below it (Q4, E8). -/
def powerMag (b : Int) (mode r m : Nat) (e : Int) : Nat :=
  let x := Nat.log2 m + e
  if x < 1 - b then (if roundUp mode r false m (2 ^ (1 - b - e).toNat) then 1 else 0)
  else
    let c := (x + b).toNat
    let d := 2 ^ Nat.log2 m
    if roundUp mode r (c % 2 == 1) (m - d) d then c + 1 else c

/-- The magnitude of G8 (R181): L truncated at 20 fraction bits, then rounded to an integer. -/
def logMag (mode r m : Nat) (e : Int) : Nat :=
  let t : Int := log2Fixed 24 m + e * 2 ^ 24 + 64 * 2 ^ 20
  let n := t / 2 ^ 20
  let f := (t % 2 ^ 20).toNat
  (if roundUp mode r (n % 2 == 1) f (2 ^ 20) then n + 1 else n).toNat

/-- The magnitude a format gives a nonzero number, running on past its largest. -/
def Fmt.mag (f : Fmt) (mode r m : Nat) (e : Int) : Nat :=
  match f with
  | .q4 => powerMag 4 mode r m e
  | .e8 => powerMag 128 mode r m e
  | .g8 => logMag mode r m e
  | .t2 => (gridRound mode r m e 0).1
  | .i8 => (gridRound mode r m e 0).1
  | .i16 => (gridRound mode r m e 0).1
  | .i32 => (gridRound mode r m e 0).1
  | .n4 => floatMag 1 1 mode r m e
  | .n6 => floatMag 2 3 mode r m e
  | .k8 => floatMag 3 10 mode r m e
  | .j8 => floatMag 2 18 mode r m e
  | .h16 => floatMag 9 33 mode r m e
  | .m16 => floatMag 8 65 mode r m e
  | .w24 => floatMag 15 129 mode r m e
  | .w32 => floatMag 22 257 mode r m e
  | .acc => floatMag 37 511 mode r m e

/-- The magnitude code of F (R169). -/
def Fmt.top (f : Fmt) (neg : Bool) : Nat :=
  match f with
  | .t2 => 1
  | .q4 => 7
  | .e8 => 254
  | .i32 => if neg then 2 ^ 31 else 2 ^ 31 - 1
  | f => 2 ^ (f.width - 1) - 1

/-- A magnitude code with its sign. -/
def Fmt.pack (f : Fmt) (neg : Bool) (k : Nat) : Nat :=
  if k = 0 then 0
  else match f with
    | .t2 => if neg then 3 else 1
    | .e8 => k
    | .i8 => if neg then 2 ^ 8 - k else k
    | .i16 => if neg then 2 ^ 16 - k else k
    | .i32 => if neg then 2 ^ 32 - k else k
    | f => if neg then 2 ^ (f.width - 1) + k else k

/-- Round a value into a format (R179 to R183, R545): element patterns of block-scaled formats before their scale. -/
def Fmt.encode (f : Fmt) (mode r : Nat) (v : Val) : Enc :=
  match v with
  | .void => if f = .i32 then { code := 0, voidLost := true } else { code := f.voidPat, void := true }
  | .num m e =>
    if m = 0 then { code := 0 }
    else
      let neg := decide (m < 0)
      if f = .e8 ∧ neg then { code := 0xFF, void := true }
      else
        let k := f.mag mode r m.natAbs e
        if k = 0 then { code := 0, vanish := true }
        else if f.top neg < k then { code := f.pack neg (f.top neg), sat := true }
        else { code := f.pack neg k }

/-- F of a block-scaled format as 2^k units (R169): mantissa and exponent. -/
def Fmt.largest (f : Fmt) : Nat × Int :=
  match f with
  | .t2 => (1, 0) | .q4 => (1, 3) | .n4 => (3, 1) | .n6 => (7, 2)
  | _ => (1, 0)

/-- Whether m × 2^e ≤ F × 2^k. -/
def fitsAt (m : Nat) (e : Int) (f : Nat × Int) (k : Int) : Bool :=
  let g := min e (f.2 + k)
  decide (m * 2 ^ (e - g).toNat ≤ f.1 * 2 ^ (f.2 + k - g).toNat)

/-- The smallest k with m × 2^e ÷ 2^k ≤ F. -/
def scaleExp (m : Nat) (e : Int) (f : Nat × Int) : Int :=
  let k := (Nat.log2 m : Int) + e - Nat.log2 f.1 - f.2
  if fitsAt m e f k then k else k + 1

/-- The greatest magnitude of the values that are not void. -/
def maxMag : List Val → Val
  | [] => .zero
  | v :: vs => let r := maxMag vs; if r.lt v.abs then v.abs else r

/-- The scale code of a group of 32 values (R176). -/
def Fmt.scaleOf (f : Fmt) (vs : List Val) : Nat :=
  let nv := vs.filter (fun v => !v.isVoid)
  if nv.isEmpty then 0xFF
  else
    match maxMag nv with
    | .void => 0xFF
    | .num m e =>
      if m = 0 then (if nv.length = vs.length then 0 else 1)
      else
        let k := scaleExp m.natAbs e f.largest
        if 126 < k then 0xFE else if k < -127 then 1 else (k + 128).toNat

/-- An element of a group under its scale code (R176). -/
def Fmt.encodeIn (f : Fmt) (scale mode r : Nat) (v : Val) : Enc :=
  if scale = 0 then { code := 0 }
  else if scale = 0xFF then { code := f.voidPat, void := true }
  else f.encode mode r (v.scale (128 - scale))

/-! W32 (R103, R109, R140). -/

/-- The value of a W32 pattern. -/
def w32 (x : BitVec 32) : Val := Fmt.w32.decode x.toNat

/-- A value in W32, nearest-even, and whether it saturated. -/
def toW32 (v : Val) : BitVec 32 × Bool :=
  let e := Fmt.w32.encode 0 0 v
  (BitVec.ofNat 32 e.code, e.sat)

def wAdd (a b : BitVec 32) : BitVec 32 × Bool := toW32 ((w32 a).add (w32 b))
def wSub (a b : BitVec 32) : BitVec 32 × Bool := toW32 ((w32 a).add (w32 b).neg)
def wMul (a b : BitVec 32) : BitVec 32 × Bool := toW32 ((w32 a).mul (w32 b))
/-- One rounding of a × b + c. -/
def wFma (a b c : BitVec 32) : BitVec 32 × Bool := toW32 (((w32 a).mul (w32 b)).add (w32 c))
/-- Minimum and maximum; a void operand gives void (R109). -/
def wMin (a b : BitVec 32) : BitVec 32 :=
  if (w32 a).isVoid || (w32 b).isVoid then 0x80000000 else if (w32 b).lt (w32 a) then b else a
def wMax (a b : BitVec 32) : BitVec 32 :=
  if (w32 a).isVoid || (w32 b).isVoid then 0x80000000 else if (w32 a).lt (w32 b) then b else a
def wLt (a b : BitVec 32) : Bool := (w32 a).lt (w32 b)
def wEq (a b : BitVec 32) : Bool := (w32 a).eq (w32 b)
def wLe (a b : BitVec 32) : Bool := wLt a b || wEq a b

/-- W32 to a two's complement integer of `n` bits, toward zero; void gives 0, out of range saturates (R103 FCVTI). -/
def wToInt (n : Nat) (a : BitVec 32) : Int :=
  match w32 a with
  | .void => 0
  | .num m e =>
    let k : Int := (gridRound 1 0 m.natAbs e 0).1
    if m < 0 then max (-k) (-(2 ^ (n - 1) : Nat)) else min k ((2 ^ (n - 1) : Nat) - 1)

/-! The exponential and reciprocal unit (R111). -/

/-- ln 2 in units of 2^(−192). -/
def ln2Fixed : Nat := 0xb17217f7d1cf79abc9e3b39803f2f6af40f343267298b62d

/-- Terms k, k + 1, … of the exponential series of r in units of 2^(−192). -/
def expTerms (r : Nat) : Nat → Nat → Nat → Nat
  | 0, _, _ => 0
  | n + 1, k, t => t + expTerms r n (k + 1) (t * r / 2 ^ 192 / k)

/-- e^x as a number that rounds as the exact value does: 192 fraction bits, the last sticky (log entry 20). -/
def expVal (m e : Int) : Val :=
  if m = 0 then .num 1 0
  else if 9 ≤ (Nat.log2 m.natAbs : Int) + e then (if m < 0 then .num 1 (-400) else .num 1 400)
  else
    let x : Int := if 0 ≤ e + 192 then m * 2 ^ (e + 192).toNat else m / 2 ^ (-(e + 192)).toNat
    let n := x / ln2Fixed
    let r := (x % ln2Fixed).toNat
    .num (2 * expTerms r 64 1 (2 ^ 192) + 1 : Nat) (n - 193)

/-- A value in W32 with R111's saturation. -/
def sfuRound (v : Val) : BitVec 32 × Bool := toW32 v

/-- The largest finite W32 with a sign. -/
def w32Top (neg : Bool) : BitVec 32 := if neg then 0xFFFFFFFF else 0x7FFFFFFF

/-- e^x (R111 VEXP). -/
def sfuExp (a : BitVec 32) : BitVec 32 × Bool :=
  match w32 a with
  | .void => (0x80000000, false)
  | .num m e => sfuRound (expVal m e)

/-- The quotient 1 ÷ (m × 2^e) to 200 bits, the last sticky where inexact. -/
def recip (m : Nat) (e : Int) : Val :=
  let n := Nat.log2 m + 200
  let q := 2 ^ n / m
  if q * m = 2 ^ n then .num q (-e - n) else .num (2 * q + 1 : Nat) (-e - n - 1)

/-- 1/x (R111 VRCP). -/
def sfuRcp (a : BitVec 32) : BitVec 32 × Bool :=
  match w32 a with
  | .void => (0x80000000, false)
  | .num m e =>
    if m = 0 then (w32Top false, true)
    else if m < 0 then sfuRound (recip m.natAbs e).neg
    else sfuRound (recip m.natAbs e)

/-- 1/√(m × 2^e) to about 200 bits. -/
def recipSqrt (m : Nat) (e : Int) : Val :=
  let m' := if e % 2 = 0 then m else 2 * m
  let e' := if e % 2 = 0 then e else e - 1
  let n := Nat.log2 m' / 2 + 200
  let q := isqrt (2 ^ (2 * n) / m')
  if q * q * m' = 2 ^ (2 * n) then .num q (-(e' / 2) - n) else .num (2 * q + 1 : Nat) (-(e' / 2) - n - 1)

/-- 1/√x (R111 VRSQRT). -/
def sfuRsqrt (a : BitVec 32) : BitVec 32 × Bool :=
  match w32 a with
  | .void => (0x80000000, false)
  | .num m e =>
    if m = 0 then (w32Top false, true)
    else if m < 0 then (0x80000000, false)
    else sfuRound (recipSqrt m.natAbs e)

/-- log₂ (m × 2^e) in units of 2^(−129), the last bit sticky where inexact. -/
def log2Val (m : Nat) (e : Int) : Val :=
  let t : Int := log2Fixed 128 m + e * 2 ^ 128
  if isPow2 m then .num t (-128) else .num (2 * t + 1) (-129)

/-- log₂ x (R111 VLOG2). -/
def sfuLog2 (a : BitVec 32) : BitVec 32 × Bool :=
  match w32 a with
  | .void => (0x80000000, false)
  | .num m e =>
    if m = 0 then (w32Top true, true)
    else if m < 0 then (0x80000000, false)
    else sfuRound (log2Val m.natAbs e)

/-! The generator (R186). -/

/-- fold of R186. -/
def mixFold (x : Word) : Word :=
  let x := x ^^^ (x >>> 32)
  let x := x * 0xB74F2C91E5D38A27#64
  let x := x ^^^ (x >>> 29)
  let x := x * 0x8F3A61D5C29B4E0D#64
  x ^^^ (x >>> 32)

/-- mix64 of R186: seed, lane (16 bits), index (48 bits), tense (32 bits). -/
def mix64 (seed : Word) (lane index tense : Nat) : Word :=
  let x := mixFold (seed ^^^ BitVec.ofNat 64 (lane % 2 ^ 16 * 2 ^ 48 + index % 2 ^ 48))
  mixFold (x ^^^ (BitVec.ofNat 64 (tense % 2 ^ 32)).rotateLeft 24 ^^^ 0x6C756C6461697339#64)

/-- The 13 random bits of a rounding. -/
def mixBits (seed : Word) (lane index tense : Nat) : Nat := (mix64 seed lane index tense).toNat / 2 ^ 51

end Sys2Proof.Machine
end

