-- ==== Sys2Proof/Machine/Coll.lean ====
section
/-! DEFINITION. Collective operations (R396 to R399): the operation table, contributions, segments, barriers and results. -/

namespace Sys2Proof.Machine

open Sys2Proof

variable {s0 : State}

/-- An entry of the operation table (R396). -/
structure OpEntry where
  kind : Nat
  func : Nat
  type : Nat
  local' : Nat
  count : Nat
  dst : Nat
  root : Nat
  deriving DecidableEq, Repr

/-- An entry as its 32 bytes spell it; none for KIND 0 or a field out of range: TYPE and DST are bounded for every KIND (R396). -/
def parseOp (b : List Byte) (nodes : Nat) : Option OpEntry :=
  let e : OpEntry := { kind := fieldAt b 0 1, func := fieldAt b 1 1, type := fieldAt b 2 1, local' := fieldAt b 3 1,
                       count := fieldAt b 4 4, dst := fieldAt b 8 8, root := fieldAt b 16 2 }
  if e.kind = 0 ∨ 3 < e.kind ∨ e.local' = 0 ∨ 144 < e.local' ∨ fieldAt b 18 14 ≠ 0 ∨ 1 < e.type ∨ e.dst % 64 ≠ 0 ∨ 2 ^ 48 ≤ e.dst then none
  else if e.kind = 1 then (if e.count = 0 then some e else none)
  else if e.count = 0 ∨ 2 ^ 21 < e.count then none
  else if e.kind = 2 ∧ 2 < e.func then none
  else if e.kind = 3 ∧ nodes ≤ e.root then none
  else some e

/-- Read an operation's entry: a status and the entry. -/
def readOp (j id : Nat) : M s0 (Nat × Option OpEntry) := do
  let v ← getJob j
  if v.optab = 0 then return (0, none)
  let (status, b) ← rdGddr (v.optab + 32 * id) 32
  if status ≠ 0 then return (status, none)
  return (0, parseOp b (nodesIn (← st) j))

/-- Combine two elements (R397). -/
def combineElem (e : OpEntry) (a b : BitVec 32) : BitVec 32 :=
  if e.type = 0 then
    (if e.func = 0 then (wAdd a b).1 else if e.func = 1 then wMax a b else wMin a b)
  else
    (if e.func = 0 then a + b
     else if e.func = 1 then (if a.toInt < b.toInt then b else a)
     else (if a.toInt < b.toInt then a else b))

/-- Combine lists of elements, left to right. -/
def combineAll (e : OpEntry) : List (List (BitVec 32)) → List (BitVec 32)
  | [] => []
  | v :: vs => vs.foldl (fun acc w => List.zipWith (combineElem e) acc w) v

/-- What the second adder makes of a combination: as the first, off by what its fault, if it has one, puts into every element (R398; log
entry 12). -/
def secondAdder (s : State) (e : OpEntry) (vs : List (List (BitVec 32))) : List (BitVec 32) :=
  if vs.length ≤ 1 then combineAll e vs else (combineAll e vs).map (· ^^^ s.adderFault)

/-- Combine on both adders: the first one's values; a mismatch is counted, recorded and class D for the job (R398, R420). -/
def combine (j id : Nat) (e : OpEntry) (vs : List (List (BitVec 32))) : M s0 (List (BitVec 32)) := do
  let first := combineAll e vs
  let second := secondAdder (← st) e vs
  match (first.zip second).find? (fun x => x.1 != x.2) with
  | none => return first
  | some x =>
    countSat R.CJ_CNT_ADDERR
    recordConj j 1 0xFFFF (leBytes 4 x.1.toNat ++ leBytes 4 x.2.toNat ++ leBytes 16 0) id
    jobFaultD j
    return first

/-- Elements in 60s: segment `s` of a list (R398). -/
def segmentOf (s : Nat) (xs : List (BitVec 32)) : List (BitVec 32) := (xs.drop (60 * s)).take 60

/-- Segments of an operation. -/
def segments (e : OpEntry) : Nat := if e.kind = 1 then 1 else (e.count + 59) / 60

/-- Elements of segment `s`. -/
def segLen (e : OpEntry) (s : Nat) : Nat := min 60 (e.count - 60 * s)

/-- Replace an instance, by its job, operation and number. -/
def putColl (c : Coll) : M s0 Unit := do
  eff (.colls ((← st).colls.filter (fun x => !(x.j == c.j && x.id == c.id && x.inst == c.inst)) ++ [c]))

/-- The instance of an operation with a number; a new one has nothing yet. -/
def getColl (j id inst : Nat) : M s0 Coll := do
  match (← st).colls.find? (fun x => x.j == j && x.id == id && x.inst == inst) with
  | some c => return c
  | none => return ⟨j, id, inst, [], [], [], [], [], false⟩

/-- The number of the instance a child's message belongs to: the first one not finished. -/
def openInstIn (s : State) (j id : Nat) : Nat :=
  ((s.colls.filter (fun x => x.j == j && x.id == id && x.finished)).map (fun x => x.inst + 1)).foldl max 0

/-- The node in the subtree of a child that holds a node, by walking up; `fuel` bounds the walk. -/
def descends (t : Tree) (anc : Nat) : Nat → Nat → Bool
  | 0, n => n == anc
  | fuel + 1, n =>
    if n = anc then true
    else match (t.nodes.getD n (0, none)).2 with
      | some p => descends t anc fuel p
      | none => false

/-- `n` elements that nothing constrains. -/
def freeElems (n : Nat) : M s0 (List (BitVec 32)) := do
  let mut out : List (BitVec 32) := []
  for _ in List.range n do
    out := out ++ [(← freeWord).setWidth 32]
  return out

/-- Whether one contribution comes before another: by rank, and at equal ranks, which cores of two clauses have, by core (R397; log
entry 12). -/
def beforeIn (a b : Nat × Nat × Nat × List (BitVec 32)) : Bool :=
  decide (a.1 < b.1) || (a.1 == b.1 && decide (a.2.1 ≤ b.2.1))

/-- The value a node passes up for segment `s`. -/
def segmentValue (j : Nat) (e : OpEntry) (c : Coll) (s : Nat) : M s0 (List (BitVec 32)) := do
  let st' ← st
  let mine := (c.own.insertionSort (fun a b => beforeIn a b)).map (fun x => segmentOf s x.2.2.2)
  let kids := (kidsIn st' j).map (fun n => (n, ((c.child.find? (fun x => x.1 == n && x.2.1 == s)).map (·.2.2)).getD []))
  if e.kind = 2 then combine j c.id e ((← combine j c.id e mine) :: kids.map (·.2))
  else if e.root = fieldIn st' R.CJ_JOBA_NODE j 0 then return mine.headD []
  else
    match treeIn st' j with
    | some t =>
      match kids.find? (fun k => descends t k.1 t.nodes.length e.root) with
      | some k => return k.2
      | none => freeElems (segLen e s)
    | none => return mine.headD []

/-- A segment packet to a node (R364, R398). -/
def sendSeg (j node id s : Nat) (xs : List (BitVec 32)) : M s0 Unit := do
  let st' ← st
  let r ← sendRequest { emptyPacket with
    typ := Ty.seg, flags := 1, len := BitVec.ofNat 16 (4 * xs.length), dst := BitVec.ofNat 14 (nodeChipIn st' j node),
    job := BitVec.ofNat 16 (jobNumIn st' j), addr := BitVec.ofNat 64 (id + s * 2 ^ 16), tense := BitVec.ofNat 32 (jobTenseIn st' j),
    data := xs.flatMap (fun x => leBytes 4 x.toNat) } (.segment j)
  if r.isNone then holdJob j 4 (← ownChip)

/-- A context goes on after a wait: its slot has completed, and the sentence goes on with the next. -/
def resumeCtx (l k : Nat) : M s0 Unit := do
  modCtx l k (fun c => { c with wait := .none, sentence := c.sentence.map (fun q => { q with slot := q.slot + 1 }) })
  if (← runSlot l) = k then
    setF R.CORE_STATUS_WAITING 0 l
    setF R.CORE_STATUS_WAIT_CJ 0 l

/-- An instance is finished on this member: the result is written at DST and the contexts that wait go on (R397 steps 3, 4). -/
def finishColl (j id inst : Nat) (e : OpEntry) : M s0 Unit := do
  let c ← getColl j id inst
  putColl { c with own := [], child := [], finished := true }
  if e.kind ≠ 1 then
    let xs := ((List.range (segments e)).map (fun s => ((c.result.find? (fun r => r.1 == s)).map (·.2)).getD [])).flatten
    let status ← wrMem e.dst (xs.flatMap (fun x => leBytes 4 x.toNat))
    if status ≠ 0 then
      recordConj j (if statusClassD status then 1 else 2) status [] id
      if statusClassD status then jobFaultD j else jobFaultH j (statusCause status)
  for p in partsIn (← st) j do
    let x ← getCtx p.1 p.2.1
    if x.wait = .conjunction id inst then
      resumeCtx p.1 p.2.1
      cacheEmpty p.1

/-- Take a segment of the result: pass it down, and finish when all are there. -/
def takeResult (j id inst : Nat) (e : OpEntry) (s : Nat) (xs : List (BitVec 32)) : M s0 Unit := do
  let c ← getColl j id inst
  if !c.finished then
    putColl { c with result := c.result.filter (fun r => r.1 != s) ++ [(s, xs)] }
    if e.kind = 1 then sendDown j Msg.release (leBytes 2 id)
    else
      for n in kidsIn (← st) j do
        sendSeg j n id s xs
    let c ← getColl j id inst
    if (List.range (segments e)).all (fun i => c.result.any (fun r => r.1 == i)) then finishColl j id inst e

/-- Pass up what is complete: each segment once the own contributions and those of all children are there (R391, R397). -/
def advanceColl (j id inst : Nat) (e : OpEntry) : M s0 Unit := do
  let c ← getColl j id inst
  if c.own.length ≥ e.local' then
    for s in List.range (segments e) do
      let c ← getColl j id inst
      let st' ← st
      let kids := kidsIn st' j
      let ready := if e.kind = 1 then kids.all (fun n => c.arrived.contains n)
        else kids.all (fun n => c.child.any (fun x => x.1 == n && x.2.1 == s))
      if !c.finished && !c.sent.contains s && ready then
        putColl { c with sent := c.sent ++ [s] }
        if e.kind = 1 then
          match parentIn st' j with
          | some _ => sendUp j Msg.arrive (leBytes 2 id)
          | none => takeResult j id inst e 0 []
        else
          let xs ← segmentValue j e c s
          match parentIn st' j with
          | some n => sendSeg j n id s xs
          | none => takeResult j id inst e s xs

/-- A core's contribution to an instance; whether the instance is already finished. -/
def contribute (l k j id inst : Nat) (e : OpEntry) (xs : List (BitVec 32)) : M s0 Bool := do
  let c ← getColl j id inst
  if c.finished then return true
  let s ← st
  putColl (if c.own.length < e.local' then { c with own := c.own ++ [(rankIn s l, l, k, xs)] } else c)
  modCtx l k (fun x => { x with wait := .conjunction id inst })
  advanceColl j id inst e
  return (← getCtx l k).wait == .none

/-- A segment that a parent or a child sent (R397). -/
def onSeg (j chip id s : Nat) (data : List Byte) : M s0 Unit := do
  match edgeIn (← st) j chip with
  | none => countSat R.CJ_CNT_ODD
  | some (n, fromParent) =>
    let (_, e?) ← readOp j id
    match e? with
    | none => return ()
    | some e =>
      let inst := openInstIn (← st) j id
      let xs := (chunks 4 60 data).map (fun b => BitVec.ofNat 32 (leNat b))
      if fromParent then takeResult j id inst e s xs
      else
        let c ← getColl j id inst
        putColl { c with child := c.child.filter (fun x => !(x.1 == n && x.2.1 == s)) ++ [(n, s, xs)] }
        advanceColl j id inst e

/-- Whether a tense is the one whose attempt is open on this member. -/
def ofAttemptIn (s : State) (j tense : Nat) : Bool :=
  (FMap.get job0 s.jobs j).isOpen && jobStateIn s j == 2 && tense == jobTenseIn s j

/-- An ARRIVE of a child (R390), for the attempt that is open. -/
def onArrive (j chip tense : Nat) (data : List Byte) : M s0 Unit := do
  let n ← edgeOf j chip true
  need (ofAttemptIn (← st) j tense)
  let id := fieldAt data 0 2 % 2048
  let (_, e?) ← readOp j id
  match e? with
  | none => return ()
  | some e =>
    let inst := openInstIn (← st) j id
    let c ← getColl j id inst
    putColl { c with arrived := c.arrived.filter (· != n) ++ [n] }
    advanceColl j id inst e

/-- A RELEASE of the parent (R390), for the attempt that is open. -/
def onRelease (j chip tense : Nat) (data : List Byte) : M s0 Unit := do
  let _ ← edgeOf j chip false
  need (ofAttemptIn (← st) j tense)
  let id := fieldAt data 0 2 % 2048
  let (_, e?) ← readOp j id
  match e? with
  | none => return ()
  | some e => takeResult j id (openInstIn (← st) j id) e 0 []

end Sys2Proof.Machine
end

