-- ==== Sys2Proof/Machine/Operands.lean ====
section
/-! DEFINITION. Operand forms of the sentence slots (R96, R102, R105, R108, R112, R113): the bits of a slot, the
fields it holds, predicates, and how one slot runs and ends. -/

namespace Sys2Proof.Machine

open Sys2Proof

variable {s0 : State}

/-- Where a slot runs: logical core, context slot, slot number of the sentence, the sentence's address and the address of
the sentence that follows it. -/
structure At where
  l : Nat
  k : Nat
  n : Nat
  addr : Nat
  follow : Nat
  deriving DecidableEq, Repr

/-- A truth value as a bit. -/
def bit (b : Bool) : Nat := if b then 1 else 0

/-! Slots as bits. -/

/-- The 64 bits of a scalar slot (R102). -/
def scalarBits (op : Nat) (f : ScalarF) : Nat :=
  op + f.rd.toNat * 2 ^ 8 + f.rs1.toNat * 2 ^ 14 + f.rs2.toNat * 2 ^ 20 + f.pred.toNat * 2 ^ 26 + bit f.pneg * 2 ^ 29 +
  bit f.immsel * 2 ^ 30 + f.imm.toNat * 2 ^ 32

/-- The fields of a scalar slot. -/
def scalarOf (w : Nat) : ScalarF :=
  ⟨BitVec.ofNat 6 (w / 2 ^ 8), BitVec.ofNat 6 (w / 2 ^ 14), BitVec.ofNat 6 (w / 2 ^ 20), BitVec.ofNat 3 (w / 2 ^ 26),
   bitN w 29, bitN w 30, BitVec.ofNat 32 (w / 2 ^ 32)⟩

/-- The 64 bits of an address/move slot (R105). -/
def addrBits (op : Nat) (f : AddrF) : Nat :=
  op + f.ad.toNat * 2 ^ 8 + f.reg.toNat * 2 ^ 13 + f.pred.toNat * 2 ^ 19 + bit f.pneg * 2 ^ 22 + f.size.toNat * 2 ^ 23 +
  f.scope.toNat * 2 ^ 25 + bit f.postinc * 2 ^ 28 + bit f.vol * 2 ^ 30 + f.offset.toNat * 2 ^ 32

/-- The fields of an address/move slot. -/
def addrOf (w : Nat) : AddrF :=
  ⟨BitVec.ofNat 5 (w / 2 ^ 8), BitVec.ofNat 6 (w / 2 ^ 13), BitVec.ofNat 3 (w / 2 ^ 19), bitN w 22, BitVec.ofNat 2 (w / 2 ^ 23),
   BitVec.ofNat 3 (w / 2 ^ 25), bitN w 28, bitN w 30, BitVec.ofNat 32 (w / 2 ^ 32)⟩

/-- The 80 bits of a vector slot (R108). -/
def vecBits (op : Nat) (f : VecF) : Nat :=
  op + f.vd.toNat * 2 ^ 8 + f.vs1.toNat * 2 ^ 14 + f.vs2.toNat * 2 ^ 20 + f.vs3.toNat * 2 ^ 26 + f.pred.toNat * 2 ^ 32 +
  bit f.pneg * 2 ^ 35 + f.fmt.toNat * 2 ^ 36 + bit f.immsel * 2 ^ 44 + f.imm.toNat * 2 ^ 48

/-- The fields of a vector slot. -/
def vecOf (w : Nat) : VecF :=
  ⟨BitVec.ofNat 6 (w / 2 ^ 8), BitVec.ofNat 6 (w / 2 ^ 14), BitVec.ofNat 6 (w / 2 ^ 20), BitVec.ofNat 6 (w / 2 ^ 26),
   BitVec.ofNat 3 (w / 2 ^ 32), bitN w 35, BitVec.ofNat 8 (w / 2 ^ 36), bitN w 44, BitVec.ofNat 32 (w / 2 ^ 48)⟩

/-- The 64 bits of a matrix slot (R112). -/
def matBits (op : Nat) (f : MatF) : Nat :=
  op + bit f.bank * 2 ^ 8 + f.row.toNat * 2 ^ 9 + f.vreg.toNat * 2 ^ 16 + f.fmt.toNat * 2 ^ 22 + f.pass.toNat * 2 ^ 30 +
  f.rows.toNat * 2 ^ 32 + f.cols.toNat * 2 ^ 39 + bit f.acc * 2 ^ 47 + f.ad.toNat * 2 ^ 48 + f.count.toNat * 2 ^ 53

/-- The fields of a matrix slot. -/
def matOf (w : Nat) : MatF :=
  ⟨bitN w 8, BitVec.ofNat 7 (w / 2 ^ 9), BitVec.ofNat 6 (w / 2 ^ 16), BitVec.ofNat 8 (w / 2 ^ 22), BitVec.ofNat 2 (w / 2 ^ 30),
   BitVec.ofNat 7 (w / 2 ^ 32), BitVec.ofNat 8 (w / 2 ^ 39), bitN w 47, BitVec.ofNat 5 (w / 2 ^ 48), BitVec.ofNat 8 (w / 2 ^ 53)⟩

/-- The 64 bits of a sync/branch slot (R113). -/
def syncBits (op : Nat) (f : SyncF) : Nat :=
  op + f.pred.toNat * 2 ^ 8 + bit f.pneg * 2 ^ 11 + f.rs.toNat * 2 ^ 12 + f.scope.toNat * 2 ^ 18 + f.id.toNat * 2 ^ 21 +
  f.imm.toNat * 2 ^ 32

/-- The fields of a sync/branch slot. -/
def syncOf (w : Nat) : SyncF :=
  ⟨BitVec.ofNat 3 (w / 2 ^ 8), bitN w 11, BitVec.ofNat 6 (w / 2 ^ 12), BitVec.ofNat 3 (w / 2 ^ 18), BitVec.ofNat 11 (w / 2 ^ 21),
   BitVec.ofNat 32 (w / 2 ^ 32)⟩

/-- First bit and width of a slot in the full form (R96). -/
def slotPlace : Nat → Nat × Nat
  | 1 => (32, 64)
  | 2 => (96, 64)
  | 3 => (160, 64)
  | 4 => (224, 80)
  | 5 => (304, 80)
  | 6 => (384, 64)
  | 7 => (448, 64)
  | _ => (0, 32)

/-- First bit of the sync/branch slot in a sentence of the short form. -/
def shortSync : Nat := 160

/-- The bits of slot `n` of a sentence (R96). -/
def slotBits (raw : BitVec 512) (n : Nat) : Nat :=
  let p := slotPlace n
  if n = 7 ∧ raw.toNat % 4 = 1 then bitsN raw.toNat shortSync p.2 else bitsN raw.toNat p.1 p.2

/-- The scalar slot of a unit. -/
def scalarSlot : ScalarUnit → Nat | .a => 1 | .b => 2
/-- The vector slot of a unit. -/
def vecSlot : VecUnit → Nat | .a => 4 | .b => 5

/-! Operands. -/

/-- A scalar register. -/
def rdS (a : At) (r : BitVec 6) : M s0 Word := rdSreg a.l a.k r.toNat
def wrS (a : At) (r : BitVec 6) (v : Word) : M s0 Unit := wrSreg a.l a.k r.toNat v
/-- An address register. -/
def rdA (a : At) (r : Nat) : M s0 Word := rdAreg a.l a.k r
def wrA (a : At) (r : Nat) (v : Word) : M s0 Unit := wrAreg a.l a.k r v

/-- The second operand of a scalar slot (R103). -/
def op2 (a : At) (f : ScalarF) : M s0 Word := if f.immsel then return f.imm.signExtend 64 else rdS a f.rs2

/-- Whether the predicate of a scalar, address or sync slot holds: bit 0 (R92). -/
def predHolds (a : At) (pred : BitVec 3) (pneg : Bool) : M s0 Bool := do
  let p ← rdPreg a.l a.k pred.toNat
  return p.getLsbD 0 != pneg

/-- The 256 predicate bits of a vector slot. -/
def predLanes (a : At) (f : VecF) : M s0 (BitVec 256) := do
  let p ← rdPreg a.l a.k f.pred.toNat
  return if f.pneg then ~~~p else p

/-- The scope field as the number of R107; 7 is a fault of encoding. -/
def scopeOk (scope : BitVec 3) : Bool := scope != 7

/-- The sentence address that follows becomes `v` (R114), cut to the 48 bits it has (R113 is silent on a larger one: DESIGN CHOICE, log
entry 41). -/
def setNext (a : At) (v : Nat) : M s0 Unit :=
  modCtx a.l a.k (fun c => match c.sentence with
    | some q => { c with sentence := some { q with next := BitVec.ofNat 48 v } }
    | none => { c with saddr := BitVec.ofNat 48 v })

/-- The FMT block of a core's clause. -/
def fmtBlockIn (s : State) (l : Nat) : Option FmtBlock :=
  match s.stream, clauseOfIn s l with
  | some x, some c => x.fmts.find? (fun b => b.clause == c.num)
  | _, _ => none

/-- A format entry of the clause's FMT block, with its format. -/
def fmtEntryIn (s : State) (l i : Nat) : Option (FmtEntry × Fmt) :=
  match fmtBlockIn s l with
  | none => none
  | some b =>
    match b.entries[i]? with
    | none => none
    | some e => (Fmt.ofCode e.format).map (fun f => (e, f))

/-- The seed a format entry names. -/
def seedIn (s : State) (l : Nat) (e : FmtEntry) : Word :=
  match fmtBlockIn s l with
  | none => 0
  | some b => b.seeds.getD e.seed 0

/-! Running one slot. -/

/-- The slot has a fault of encoding (R543). -/
def illegal {α : Type} : M s0 α := throw (.trap Trap.illegal 0 0)

/-- Go on only where the encoding is right. -/
def encOk (b : Bool) : M s0 Unit := need b (.trap Trap.illegal 0 0)

/-- A slot that waits goes on later with its own slot: its sentence is kept; a slot commanded alone is kept as a sentence that
holds it and nothing else. -/
def keepWaiting (a : At) (bits : Nat) : M s0 Unit := do
  modCtx a.l a.k (fun c => match c.sentence with
    | some _ => c
    | none =>
      let q : Sentence := ⟨BitVec.ofNat 512 (bits * 2 ^ (slotPlace a.n).1 + 2 ^ (12 + a.n)), BitVec.ofNat 48 a.addr, a.n,
        BitVec.ofNat 48 a.addr, true, false⟩
      { c with sentence := some q })
  if (← runSlot a.l) = a.k then
    setF R.CORE_STATUS_WAITING 1 a.l
    match (← getCtx a.l a.k).wait with
    | .conjunction _ _ => setF R.CORE_STATUS_WAIT_CJ 1 a.l
    | _ => pure ()

/-- Run one slot: whether it has completed and its sentence goes on. A trap is taken with the slot's bits where the encoding is at fault (R125, R126). -/
def runOne (a : At) (bits : Nat) (op : M s0 Unit) : M s0 Bool := do
  match ← attempt op with
  | .ok () => return !(← getCtx a.l a.k).stopped
  | .error (.trap cause status detail) =>
    takeTrap a.l a.k a.n cause status (if cause = Trap.illegal then bits % 2 ^ 64 else detail) (bits % 256)
    return false
  | .error .wait =>
    keepWaiting a bits
    return false
  | .error _ => return true

/-- Whether a core's running context takes a slot commanded alone: it has neither trapped nor ended nor waits, and the core is
neither held, halted, under reset nor short of voltage. -/
def takesSlot (s : State) (l : Nat) : Bool :=
  let k := fieldIn s R.CORE_STATUS_SLOT l 0
  let c := FMap.get ctx0 s.ctxs (ctxKey l k)
  decide (l < 144) && decide (cstateIn s l k < 2) && !c.ended && !c.stopped && c.sentence.isNone && c.wait == .none &&
  decide (fieldIn s R.CORE_STATUS_RUN l 0 < 2) && !haltedIn s l && !underResetIn s l && !clauseHeldIn s l && !lowVoltageIn s l

/-- Whether an attention operation of a context runs, from the start of the transfer that brings its descriptor: the vector and matrix slots
that follow are held meanwhile (R192, R194). -/
def attRunsIn (s : State) (l k : Nat) : Bool :=
  (FMap.get core0 s.cores l).att.any (fun x => x.slot == k) ||
    (List.range 8).any (fun ch =>
      let d := FMap.get dma0 s.dmas (l * 8 + ch)
      d.kind == 1 && d.state == 1 && d.slot == k)

/-- Whether a slot number is one of the vector or matrix slots. -/
def vecOrMat (n : Nat) : Bool := n == 4 || n == 5 || n == 6

/-- The place of a slot commanded alone. -/
def soleAt (s : State) (l n : Nat) : At :=
  let k := fieldIn s R.CORE_STATUS_SLOT l 0
  let c := FMap.get ctx0 s.ctxs (ctxKey l k)
  ⟨l, k, n, c.saddr.toNat, c.saddr.toNat + 64⟩

/-- One slot of the running context of a core, commanded alone at its present sentence address. A vector or matrix slot is held, to run
later, while an attention operation of the context runs (R194). -/
def soleSlot (s : State) (l n bits : Nat) (op : At → M s Unit) : Host.Outcome State Fault Refusal := .next <| run s do
  if takesSlot s l then
    if vecOrMat n && attRunsIn s l (fieldIn s R.CORE_STATUS_SLOT l 0) then keepWaiting (soleAt s l n) bits
    else
      let _ ← runOne (soleAt s l n) bits (op (soleAt s l n))

end Sys2Proof.Machine
end

