-- ==== Sys2Proof/Machine/Flags.lean ====
section
/-! DEFINITION. The sticky flags of a context (R92, R104) and the tensor flags it gathers (R177 to R191). -/

namespace Sys2Proof.Machine

open Sys2Proof

variable {s0 : State}

/-- Set DIVZ where a division was by zero. -/
def noteDivz (a : At) (z : Bool) : M s0 Unit := if z then setF R.CORE_CTX_DIVZ 1 a.l a.k else pure ()

/-- Set SAT where a W32 result saturated. -/
def noteSat (a : At) (z : Bool) : M s0 Unit := if z then setF R.CORE_CTX_SAT 1 a.l a.k else pure ()

/-- Gather what conversions under a format entry tell the tensor's flags (R189, R190). -/
def gather (l k i : Nat) (es : List Enc) : M s0 Unit := do
  let key := ctxKey l k * 256 + i % 256
  let u := FMap.get flagUpd0 (← st).flagUpds key
  let v := (es.filter (·.vanish)).length
  eff (.flagUpd key
    { vanish := min (u.vanish + v) 0xFFFFFFFF, sat := u.sat || es.any (·.sat), void := u.void || es.any (·.void),
      voidLost := u.voidLost || es.any (·.voidLost) })

/-- What a slot's conversions under a format entry tell the tensor's flags and the context's SAT flag (R180, R189). -/
def noteConversion (a : At) (i : Nat) (es : List Enc) : M s0 Unit := do
  gather a.l a.k i es
  noteSat a (es.any (·.sat))

/-- The random bits of a slot's conversions under an entry: index j of R187 plus the base gives them. -/
def slotBitsOf (a : At) (e : FmtEntry) : M s0 (Nat → Nat) := do
  if e.round = 2 then
    let b ← rdSreg a.l a.k 62
    let t ← rdSreg a.l a.k 63
    let seed := seedIn (← st) a.l e
    return fun j => mixBits seed (b.toNat / 2 ^ 48) ((b.toNat + j) % 2 ^ 48) (t.toNat % 2 ^ 32)
  else return fun _ => 0

/-- Rounding mode number of a format entry (R179). -/
def modeOf (e : FmtEntry) : Nat := e.round

end Sys2Proof.Machine
end

