-- ==== Sys2Proof/Machine/Scalar.lean ====
section
/-! DEFINITION. The scalar slots (R102 to R104). -/

namespace Sys2Proof.Machine

open Sys2Proof

variable {s0 : State}

/-- An operation that writes s[RD] with a function of s[RS1] and op2, where the predicate holds. -/
def scalarBin (g : Word → Word → Word) (a : At) (f : ScalarF) : M s0 Unit := do
  if ← predHolds a f.pred f.pneg then
    let x ← rdS a f.rs1
    let y ← op2 a f
    wrS a f.rd (g x y)

/-- A comparison: its result in all 256 bits of p[RD[2:0]]. -/
def scalarCmp (g : Word → Word → Bool) (a : At) (f : ScalarF) : M s0 Unit := do
  if ← predHolds a f.pred f.pneg then
    let x ← rdS a f.rs1
    let y ← op2 a f
    wrPreg a.l a.k (f.rd.toNat % 8) (if g x y then BitVec.allOnes 256 else 0)

/-- The low half of a register as a W32 or I32. -/
def low (x : Word) : BitVec 32 := x.truncate 32

/-- A W32 operation on bits [31:0]: bits [63:32] of the result are zero, saturation sets SAT. -/
def scalarW (g : BitVec 32 → BitVec 32 → BitVec 32 × Bool) (a : At) (f : ScalarF) : M s0 Unit := do
  if ← predHolds a f.pred f.pneg then
    let x ← rdS a f.rs1
    let y ← op2 a f
    let r := g (low x) (low y)
    wrS a f.rd (r.1.zeroExtend 64)
    noteSat a r.2

/-- A division: quotient or remainder, by zero 0 or the dividend with DIVZ. Scalar A only. -/
def scalarDiv (g : Word → Word → Word) (byZero : Word → Word) (a : At) (f : ScalarF) : M s0 Unit := do
  encOk (a.n != 2)
  if ← predHolds a f.pred f.pneg then
    let x ← rdS a f.rs1
    let y ← op2 a f
    wrS a f.rd (if y = 0 then byZero x else g x y)
    noteDivz a (y == 0)

/-- High 64 bits of a product of integers. -/
def highProduct (x y : Int) : Word := BitVec.ofInt 64 (x * y / 2 ^ 64)

/-- Leading zeros, 64 for zero. -/
def leadingZeros (x : Word) : Nat := if x = 0 then 64 else 63 - Nat.log2 x.toNat

/-- Set bits. -/
def popCount (x : Word) : Nat := ((List.range 64).filter (fun i => x.getLsbD i)).length

def opAdd (a : At) (f : ScalarF) : M s0 Unit := scalarBin (· + ·) a f
def opSub (a : At) (f : ScalarF) : M s0 Unit := scalarBin (· - ·) a f
def opMul (a : At) (f : ScalarF) : M s0 Unit := scalarBin (· * ·) a f
def opMulhs (a : At) (f : ScalarF) : M s0 Unit := scalarBin (fun x y => highProduct x.toInt y.toInt) a f
def opMulhu (a : At) (f : ScalarF) : M s0 Unit := scalarBin (fun x y => highProduct x.toNat y.toNat) a f
def opDivs (a : At) (f : ScalarF) : M s0 Unit := scalarDiv (fun x y => BitVec.ofInt 64 (x.toInt.tdiv y.toInt)) (fun _ => 0) a f
def opDivu (a : At) (f : ScalarF) : M s0 Unit := scalarDiv (fun x y => BitVec.ofNat 64 (x.toNat / y.toNat)) (fun _ => 0) a f
def opRems (a : At) (f : ScalarF) : M s0 Unit := scalarDiv (fun x y => BitVec.ofInt 64 (x.toInt.tmod y.toInt)) id a f
def opRemu (a : At) (f : ScalarF) : M s0 Unit := scalarDiv (fun x y => BitVec.ofNat 64 (x.toNat % y.toNat)) id a f
def opAnd (a : At) (f : ScalarF) : M s0 Unit := scalarBin (· &&& ·) a f
def opOr (a : At) (f : ScalarF) : M s0 Unit := scalarBin (· ||| ·) a f
def opXor (a : At) (f : ScalarF) : M s0 Unit := scalarBin (· ^^^ ·) a f
def opShl (a : At) (f : ScalarF) : M s0 Unit := scalarBin (fun x y => x <<< (y.toNat % 64)) a f
def opShr (a : At) (f : ScalarF) : M s0 Unit := scalarBin (fun x y => x >>> (y.toNat % 64)) a f
def opSar (a : At) (f : ScalarF) : M s0 Unit := scalarBin (fun x y => x.sshiftRight (y.toNat % 64)) a f
def opRotl (a : At) (f : ScalarF) : M s0 Unit := scalarBin (fun x y => x.rotateLeft (y.toNat % 64)) a f
def opMins (a : At) (f : ScalarF) : M s0 Unit := scalarBin (fun x y => if y.slt x then y else x) a f
def opMaxs (a : At) (f : ScalarF) : M s0 Unit := scalarBin (fun x y => if x.slt y then y else x) a f
def opMinu (a : At) (f : ScalarF) : M s0 Unit := scalarBin (fun x y => if y.ult x then y else x) a f
def opMaxu (a : At) (f : ScalarF) : M s0 Unit := scalarBin (fun x y => if x.ult y then y else x) a f
def opClz (a : At) (f : ScalarF) : M s0 Unit := scalarBin (fun x _ => BitVec.ofNat 64 (leadingZeros x)) a f
def opPopc (a : At) (f : ScalarF) : M s0 Unit := scalarBin (fun x _ => BitVec.ofNat 64 (popCount x)) a f

/-- SEL: the predicate selects and does not suppress. -/
def opSel (a : At) (f : ScalarF) : M s0 Unit := do
  let p ← predHolds a f.pred f.pneg
  let x ← rdS a f.rs1
  let y ← op2 a f
  wrS a f.rd (if p then x else y)

def opLi (a : At) (f : ScalarF) : M s0 Unit := scalarBin (fun _ _ => f.imm.signExtend 64) a f

/-- LIH: bits [63:32] only. -/
def opLih (a : At) (f : ScalarF) : M s0 Unit := do
  if ← predHolds a f.pred f.pneg then
    let x ← rdS a f.rd
    wrS a f.rd (f.imm ++ low x)

def opCmpeq (a : At) (f : ScalarF) : M s0 Unit := scalarCmp (fun x y => x == y) a f
def opCmpne (a : At) (f : ScalarF) : M s0 Unit := scalarCmp (fun x y => x != y) a f
def opCmplts (a : At) (f : ScalarF) : M s0 Unit := scalarCmp (fun x y => x.slt y) a f
def opCmpltu (a : At) (f : ScalarF) : M s0 Unit := scalarCmp (fun x y => x.ult y) a f
def opCmples (a : At) (f : ScalarF) : M s0 Unit := scalarCmp (fun x y => x.sle y) a f
def opCmpleu (a : At) (f : ScalarF) : M s0 Unit := scalarCmp (fun x y => x.ule y) a f
def opFadd (a : At) (f : ScalarF) : M s0 Unit := scalarW wAdd a f
def opFsub (a : At) (f : ScalarF) : M s0 Unit := scalarW wSub a f
def opFmul (a : At) (f : ScalarF) : M s0 Unit := scalarW wMul a f
def opFmin (a : At) (f : ScalarF) : M s0 Unit := scalarW (fun x y => (wMin x y, false)) a f
def opFmax (a : At) (f : ScalarF) : M s0 Unit := scalarW (fun x y => (wMax x y, false)) a f
def opFcmplt (a : At) (f : ScalarF) : M s0 Unit := scalarCmp (fun x y => wLt (low x) (low y)) a f
def opFcmpeq (a : At) (f : ScalarF) : M s0 Unit := scalarCmp (fun x y => wEq (low x) (low y)) a f

/-- Whether a W32 lies outside the signed 64-bit range. -/
def wOutside (x : BitVec 32) : Bool := (w32 x).lt (.num (-1) 63) || (Val.num (2 ^ 63 - 1) 0).lt (w32 x)

/-- FCVTI: a value out of range saturates, which sets SAT. -/
def opFcvti (a : At) (f : ScalarF) : M s0 Unit := do
  if ← predHolds a f.pred f.pneg then
    let x ← rdS a f.rs1
    wrS a f.rd (BitVec.ofInt 64 (wToInt 64 (low x)))
    noteSat a (wOutside (low x))

def opFcvtf (a : At) (f : ScalarF) : M s0 Unit :=
  scalarBin (fun x _ => (toW32 (.num x.toInt 0)).1.zeroExtend 64) a f

/-- The tense a context runs, its job's. -/
def tenseOf (a : At) : M s0 Nat := do
  match (← getCtx a.l a.k).job with
  | some j => return (← getJob j).opened
  | none => return 0

/-- Cores of a core's clause. -/
def clauseSizeIn (s : State) (l : Nat) : Nat := match clauseOfIn s l with | some c => c.cores.length | none => 0

/-- The special values of R104; none for another selector. Steps since power-on is an observation: a free value. -/
def special (a : At) (sel : Nat) : M s0 (Option Word) := do
  let s ← st
  if sel = 0 then return some (BitVec.ofNat 64 (ctxIdIn s a.l a.k))
  else if sel = 1 then return some (BitVec.ofNat 64 a.l)
  else if sel = 2 then return some (BitVec.ofNat 64 (rankIn s a.l))
  else if sel = 3 then return some (BitVec.ofNat 64 (clauseSizeIn s a.l))
  else if sel = 4 then return some (BitVec.ofNat 64 (← tenseOf a))
  else if sel = 6 then return some (← freeWord)
  else if sel = 7 then return some (BitVec.ofNat 64 (fabricNsIn s))
  else return none

/-- The selectors of RDSPEC. -/
def specialOk (sel : Nat) : Bool := sel == 6 || sel == 7 || decide (sel ≤ 4)

/-- RDSPEC: an undefined selector is a fault of encoding (R543). -/
def opRdspec (a : At) (f : ScalarF) : M s0 Unit := do
  encOk (specialOk (f.imm.toNat % 256))
  if ← predHolds a f.pred f.pneg then
    match ← special a (f.imm.toNat % 256) with
    | some v => wrS a f.rd v
    | none => illegal

/-- The operation of a scalar code (R103); none for an undefined one. -/
def scalarOp (op : Nat) : Option (At → ScalarF → M s0 Unit) :=
  match op with
  | 0x01 => some opAdd | 0x02 => some opSub | 0x03 => some opMul | 0x04 => some opMulhs | 0x05 => some opMulhu
  | 0x06 => some opDivs | 0x07 => some opDivu | 0x08 => some opRems | 0x09 => some opRemu
  | 0x10 => some opAnd | 0x11 => some opOr | 0x12 => some opXor | 0x13 => some opShl | 0x14 => some opShr
  | 0x15 => some opSar | 0x16 => some opRotl | 0x18 => some opMins | 0x19 => some opMaxs | 0x1A => some opMinu
  | 0x1B => some opMaxu | 0x1C => some opClz | 0x1D => some opPopc | 0x20 => some opSel | 0x21 => some opLi | 0x22 => some opLih
  | 0x28 => some opCmpeq | 0x29 => some opCmpne | 0x2A => some opCmplts | 0x2B => some opCmpltu | 0x2C => some opCmples
  | 0x2D => some opCmpleu | 0x30 => some opFadd | 0x31 => some opFsub | 0x32 => some opFmul | 0x33 => some opFmin
  | 0x34 => some opFmax | 0x35 => some opFcmplt | 0x36 => some opFcmpeq | 0x37 => some opFcvti | 0x38 => some opFcvtf
  | 0x3F => some opRdspec
  | _ => none

/-- A scalar slot commanded alone. -/
def soleScalar (op : Nat) (g : {s : State} → At → ScalarF → M s Unit) (core : Nat) (u : ScalarUnit) (f : ScalarF) (s : State) :
    Host.Outcome State Fault Refusal := soleSlot s core (scalarSlot u) (scalarBits op f) (fun a => g a f)

def execAdd (core : Nat) (u : ScalarUnit) (f : ScalarF) (s : State) : Host.Outcome State Fault Refusal :=
  soleScalar 0x01 opAdd core u f s
def execSub (core : Nat) (u : ScalarUnit) (f : ScalarF) (s : State) : Host.Outcome State Fault Refusal :=
  soleScalar 0x02 opSub core u f s
def execMul (core : Nat) (u : ScalarUnit) (f : ScalarF) (s : State) : Host.Outcome State Fault Refusal :=
  soleScalar 0x03 opMul core u f s
def execMulhs (core : Nat) (u : ScalarUnit) (f : ScalarF) (s : State) : Host.Outcome State Fault Refusal :=
  soleScalar 0x04 opMulhs core u f s
def execMulhu (core : Nat) (u : ScalarUnit) (f : ScalarF) (s : State) : Host.Outcome State Fault Refusal :=
  soleScalar 0x05 opMulhu core u f s
def execDivs (core : Nat) (u : ScalarUnit) (f : ScalarF) (s : State) : Host.Outcome State Fault Refusal :=
  soleScalar 0x06 opDivs core u f s
def execDivu (core : Nat) (u : ScalarUnit) (f : ScalarF) (s : State) : Host.Outcome State Fault Refusal :=
  soleScalar 0x07 opDivu core u f s
def execRems (core : Nat) (u : ScalarUnit) (f : ScalarF) (s : State) : Host.Outcome State Fault Refusal :=
  soleScalar 0x08 opRems core u f s
def execRemu (core : Nat) (u : ScalarUnit) (f : ScalarF) (s : State) : Host.Outcome State Fault Refusal :=
  soleScalar 0x09 opRemu core u f s
def execAnd (core : Nat) (u : ScalarUnit) (f : ScalarF) (s : State) : Host.Outcome State Fault Refusal :=
  soleScalar 0x10 opAnd core u f s
def execOr (core : Nat) (u : ScalarUnit) (f : ScalarF) (s : State) : Host.Outcome State Fault Refusal :=
  soleScalar 0x11 opOr core u f s
def execXor (core : Nat) (u : ScalarUnit) (f : ScalarF) (s : State) : Host.Outcome State Fault Refusal :=
  soleScalar 0x12 opXor core u f s
def execShl (core : Nat) (u : ScalarUnit) (f : ScalarF) (s : State) : Host.Outcome State Fault Refusal :=
  soleScalar 0x13 opShl core u f s
def execShr (core : Nat) (u : ScalarUnit) (f : ScalarF) (s : State) : Host.Outcome State Fault Refusal :=
  soleScalar 0x14 opShr core u f s
def execSar (core : Nat) (u : ScalarUnit) (f : ScalarF) (s : State) : Host.Outcome State Fault Refusal :=
  soleScalar 0x15 opSar core u f s
def execRotl (core : Nat) (u : ScalarUnit) (f : ScalarF) (s : State) : Host.Outcome State Fault Refusal :=
  soleScalar 0x16 opRotl core u f s
def execMins (core : Nat) (u : ScalarUnit) (f : ScalarF) (s : State) : Host.Outcome State Fault Refusal :=
  soleScalar 0x18 opMins core u f s
def execMaxs (core : Nat) (u : ScalarUnit) (f : ScalarF) (s : State) : Host.Outcome State Fault Refusal :=
  soleScalar 0x19 opMaxs core u f s
def execMinu (core : Nat) (u : ScalarUnit) (f : ScalarF) (s : State) : Host.Outcome State Fault Refusal :=
  soleScalar 0x1A opMinu core u f s
def execMaxu (core : Nat) (u : ScalarUnit) (f : ScalarF) (s : State) : Host.Outcome State Fault Refusal :=
  soleScalar 0x1B opMaxu core u f s
def execClz (core : Nat) (u : ScalarUnit) (f : ScalarF) (s : State) : Host.Outcome State Fault Refusal :=
  soleScalar 0x1C opClz core u f s
def execPopc (core : Nat) (u : ScalarUnit) (f : ScalarF) (s : State) : Host.Outcome State Fault Refusal :=
  soleScalar 0x1D opPopc core u f s
def execSel (core : Nat) (u : ScalarUnit) (f : ScalarF) (s : State) : Host.Outcome State Fault Refusal :=
  soleScalar 0x20 opSel core u f s
def execLi (core : Nat) (u : ScalarUnit) (f : ScalarF) (s : State) : Host.Outcome State Fault Refusal :=
  soleScalar 0x21 opLi core u f s
def execLih (core : Nat) (u : ScalarUnit) (f : ScalarF) (s : State) : Host.Outcome State Fault Refusal :=
  soleScalar 0x22 opLih core u f s
def execCmpeq (core : Nat) (u : ScalarUnit) (f : ScalarF) (s : State) : Host.Outcome State Fault Refusal :=
  soleScalar 0x28 opCmpeq core u f s
def execCmpne (core : Nat) (u : ScalarUnit) (f : ScalarF) (s : State) : Host.Outcome State Fault Refusal :=
  soleScalar 0x29 opCmpne core u f s
def execCmplts (core : Nat) (u : ScalarUnit) (f : ScalarF) (s : State) : Host.Outcome State Fault Refusal :=
  soleScalar 0x2A opCmplts core u f s
def execCmpltu (core : Nat) (u : ScalarUnit) (f : ScalarF) (s : State) : Host.Outcome State Fault Refusal :=
  soleScalar 0x2B opCmpltu core u f s
def execCmples (core : Nat) (u : ScalarUnit) (f : ScalarF) (s : State) : Host.Outcome State Fault Refusal :=
  soleScalar 0x2C opCmples core u f s
def execCmpleu (core : Nat) (u : ScalarUnit) (f : ScalarF) (s : State) : Host.Outcome State Fault Refusal :=
  soleScalar 0x2D opCmpleu core u f s
def execFadd (core : Nat) (u : ScalarUnit) (f : ScalarF) (s : State) : Host.Outcome State Fault Refusal :=
  soleScalar 0x30 opFadd core u f s
def execFsub (core : Nat) (u : ScalarUnit) (f : ScalarF) (s : State) : Host.Outcome State Fault Refusal :=
  soleScalar 0x31 opFsub core u f s
def execFmul (core : Nat) (u : ScalarUnit) (f : ScalarF) (s : State) : Host.Outcome State Fault Refusal :=
  soleScalar 0x32 opFmul core u f s
def execFmin (core : Nat) (u : ScalarUnit) (f : ScalarF) (s : State) : Host.Outcome State Fault Refusal :=
  soleScalar 0x33 opFmin core u f s
def execFmax (core : Nat) (u : ScalarUnit) (f : ScalarF) (s : State) : Host.Outcome State Fault Refusal :=
  soleScalar 0x34 opFmax core u f s
def execFcmplt (core : Nat) (u : ScalarUnit) (f : ScalarF) (s : State) : Host.Outcome State Fault Refusal :=
  soleScalar 0x35 opFcmplt core u f s
def execFcmpeq (core : Nat) (u : ScalarUnit) (f : ScalarF) (s : State) : Host.Outcome State Fault Refusal :=
  soleScalar 0x36 opFcmpeq core u f s
def execFcvti (core : Nat) (u : ScalarUnit) (f : ScalarF) (s : State) : Host.Outcome State Fault Refusal :=
  soleScalar 0x37 opFcvti core u f s
def execFcvtf (core : Nat) (u : ScalarUnit) (f : ScalarF) (s : State) : Host.Outcome State Fault Refusal :=
  soleScalar 0x38 opFcvtf core u f s
def execRdspec (core : Nat) (u : ScalarUnit) (f : ScalarF) (s : State) : Host.Outcome State Fault Refusal :=
  soleScalar 0x3F opRdspec core u f s

end Sys2Proof.Machine
end

