-- ==== Sys2Proof/Machine/Vector.lean ====
section
/-! DEFINITION. The vector slots (R108 to R111, R172, R178, R184, R187). -/

namespace Sys2Proof.Machine

open Sys2Proof

variable {s0 : State}

/-- A vector register. -/
def rdV (a : At) (r : BitVec 6) : M s0 (List (BitVec 32)) := rdVreg a.l a.k r.toNat
def wrV (a : At) (r : BitVec 6) (v : List (BitVec 32)) : M s0 Unit := wrVreg a.l a.k r.toNat v

/-- The second vector operand: v[VS2], or the immediate in every lane. -/
def vop2 (a : At) (f : VecF) : M s0 (List (BitVec 32)) := if f.immsel then return List.replicate 256 f.imm else rdV a f.vs2

/-- Lane `i` of a list of lanes. -/
def lane (v : List (BitVec 32)) (i : Nat) : BitVec 32 := v.getD i 0

/-- A list of 256 lanes. -/
def lanes {α : Type} (g : Nat → α) : List α := (List.range 256).map g

/-- An operation lane by lane: lanes whose predicate bit is 0 keep their old value; saturation sets SAT. -/
def vecMap (g : BitVec 32 → BitVec 32 → BitVec 32 → BitVec 32 × Bool) (a : At) (f : VecF) : M s0 Unit := do
  let p ← predLanes a f
  let x ← rdV a f.vs1
  let y ← vop2 a f
  let z ← rdV a f.vs3
  let old ← rdV a f.vd
  let r := lanes (fun i => if p.getLsbD i then g (lane x i) (lane y i) (lane z i) else (lane old i, false))
  wrV a f.vd (r.map (·.1))
  noteSat a (r.any (·.2))

/-- An integer or bitwise operation of two operands. -/
def vecInt (g : BitVec 32 → BitVec 32 → BitVec 32) (a : At) (f : VecF) : M s0 Unit := vecMap (fun x y _ => (g x y, false)) a f

/-- A comparison into p[VD[2:0]]: lanes whose predicate bit is 0 give 0. -/
def vecCmp (g : BitVec 32 → BitVec 32 → Bool) (a : At) (f : VecF) : M s0 Unit := do
  let p ← predLanes a f
  let x ← rdV a f.vs1
  let y ← vop2 a f
  wrPreg a.l a.k (f.vd.toNat % 8)
    (BitVec.ofNat 256 ((List.range 256).map (fun i => if p.getLsbD i && g (lane x i) (lane y i) then 2 ^ i else 0)).sum)

/-- One level of the balanced tree: neighbours combined (R110). -/
def pairUp {α : Type} (g : α → α → α) : List α → List α
  | x :: y :: r => g x y :: pairUp g r
  | r => r

/-- `n` levels of the tree. -/
def treeOf {α : Type} (g : α → α → α) : Nat → List α → List α
  | 0, l => l
  | n + 1, l => treeOf g n (pairUp g l)

/-- A reduction: lane 0 gets it, the other lanes zero, whatever their predicate bits. -/
def vecReduce (g : BitVec 32 × Bool → BitVec 32 × Bool → BitVec 32 × Bool) (inactive : BitVec 32) (a : At) (f : VecF) : M s0 Unit := do
  let p ← predLanes a f
  let x ← rdV a f.vs1
  let r := (treeOf g 8 (lanes (fun i => if p.getLsbD i then (lane x i, false) else (inactive, false)))).headD (0, false)
  wrV a f.vd (r.1 :: List.replicate 255 0)
  noteSat a r.2

def opVaddi (a : At) (f : VecF) : M s0 Unit := vecInt (· + ·) a f
def opVsubi (a : At) (f : VecF) : M s0 Unit := vecInt (· - ·) a f
def opVmuli (a : At) (f : VecF) : M s0 Unit := vecInt (· * ·) a f
def opVand (a : At) (f : VecF) : M s0 Unit := vecInt (· &&& ·) a f
def opVor (a : At) (f : VecF) : M s0 Unit := vecInt (· ||| ·) a f
def opVxor (a : At) (f : VecF) : M s0 Unit := vecInt (· ^^^ ·) a f
def opVshl (a : At) (f : VecF) : M s0 Unit := vecInt (fun x y => x <<< (y.toNat % 32)) a f
def opVshr (a : At) (f : VecF) : M s0 Unit := vecInt (fun x y => x >>> (y.toNat % 32)) a f
def opVsar (a : At) (f : VecF) : M s0 Unit := vecInt (fun x y => x.sshiftRight (y.toNat % 32)) a f
def opVmini (a : At) (f : VecF) : M s0 Unit := vecInt (fun x y => if y.slt x then y else x) a f
def opVmaxi (a : At) (f : VecF) : M s0 Unit := vecInt (fun x y => if x.slt y then y else x) a f
def opVaddf (a : At) (f : VecF) : M s0 Unit := vecMap (fun x y _ => wAdd x y) a f
def opVsubf (a : At) (f : VecF) : M s0 Unit := vecMap (fun x y _ => wSub x y) a f
def opVmulf (a : At) (f : VecF) : M s0 Unit := vecMap (fun x y _ => wMul x y) a f
def opVfma (a : At) (f : VecF) : M s0 Unit := vecMap wFma a f
def opVminf (a : At) (f : VecF) : M s0 Unit := vecInt wMin a f
def opVmaxf (a : At) (f : VecF) : M s0 Unit := vecInt wMax a f
def opVcmpeqi (a : At) (f : VecF) : M s0 Unit := vecCmp (fun x y => x == y) a f
def opVcmplti (a : At) (f : VecF) : M s0 Unit := vecCmp (fun x y => x.slt y) a f
def opVcmplei (a : At) (f : VecF) : M s0 Unit := vecCmp (fun x y => x.sle y) a f
def opVcmpeqf (a : At) (f : VecF) : M s0 Unit := vecCmp wEq a f
def opVcmpltf (a : At) (f : VecF) : M s0 Unit := vecCmp wLt a f
def opVcmplef (a : At) (f : VecF) : M s0 Unit := vecCmp wLe a f

/-- VSEL: the predicate selects and does not suppress. -/
def opVsel (a : At) (f : VecF) : M s0 Unit := do
  let p ← predLanes a f
  let x ← rdV a f.vs1
  let y ← vop2 a f
  wrV a f.vd (lanes (fun i => if p.getLsbD i then lane x i else lane y i))

/-- VBCAST: VS1 names a scalar register. -/
def opVbcast (a : At) (f : VecF) : M s0 Unit := do
  let x ← rdS a f.vs1
  vecMap (fun _ _ _ => (low x, false)) a f

/-- VPERM. -/
def opVperm (a : At) (f : VecF) : M s0 Unit := do
  let x ← rdV a f.vs1
  vecMap (fun _ y _ => (lane x (y.toNat % 256), false)) a f

def opVredaddf (a : At) (f : VecF) : M s0 Unit :=
  vecReduce (fun x y => let r := wAdd x.1 y.1; (r.1, x.2 || y.2 || r.2)) 0 a f
def opVredaddi (a : At) (f : VecF) : M s0 Unit := vecReduce (fun x y => (x.1 + y.1, false)) 0 a f
def opVredmaxf (a : At) (f : VecF) : M s0 Unit := vecReduce (fun x y => (wMax x.1 y.1, false)) (w32Top true) a f
def opVexp (a : At) (f : VecF) : M s0 Unit := vecMap (fun x _ _ => sfuExp x) a f
def opVrcp (a : At) (f : VecF) : M s0 Unit := vecMap (fun x _ _ => sfuRcp x) a f
def opVrsqrt (a : At) (f : VecF) : M s0 Unit := vecMap (fun x _ _ => sfuRsqrt x) a f
def opVlog2 (a : At) (f : VecF) : M s0 Unit := vecMap (fun x _ _ => sfuLog2 x) a f

/-- VEXT: bit 0 of the predicate decides, as in a scalar slot. -/
def opVext (a : At) (f : VecF) : M s0 Unit := do
  let p ← predLanes a f
  if p.getLsbD 0 then
    let x ← rdV a f.vs1
    wrS a f.vd ((lane x (f.imm.toNat % 256)).zeroExtend 64)

/-- VINS: one lane, where its predicate bit holds; VS1 names a scalar register. -/
def opVins (a : At) (f : VecF) : M s0 Unit := do
  let p ← predLanes a f
  let i := f.imm.toNat % 256
  if p.getLsbD i then
    let x ← rdS a f.vs1
    let old ← rdV a f.vd
    wrV a f.vd (old.set i (low x))

/-! VCVT. -/

/-- The storage form of elements and their group scales (R173). -/
def packStorage (f : Fmt) (scales codes : List Nat) : List Byte :=
  (if f.block then scales.map (BitVec.ofNat 8) ++ List.replicate (8 - scales.length) 0 else []) ++
  leBytes (f.width * codes.length / 8) (codes.foldr (fun c acc => c + 2 ^ f.width * acc) 0)

/-- The elements and group scales of a storage form of `n` elements. -/
def unpackStorage (f : Fmt) (n : Nat) (bs : List Byte) : List Nat × List Nat :=
  let body := if f.block then bs.drop 8 else bs
  let v := leNat (slice body 0 (f.width * n / 8))
  (if f.block then (List.range 8).map (fun g => fieldAt bs g 1) else [],
   (List.range n).map (fun i => bitsN v (f.width * i) f.width))

/-- Elements and group scales in register placement (R172). -/
def placed (f : Fmt) (v : List (BitVec 32)) : List Nat × List Nat :=
  (if f.block then (List.range (v.length / 32)).map (fun g => (lane v (32 * g)).toNat / 256 % 256) else [],
   v.map (fun x => x.toNat % 2 ^ f.width))

/-- The value of a lane, as W32 or as I32 (R184 LANES). -/
def laneVal (asInt : Bool) (x : BitVec 32) : Val := if asInt then .num x.toInt 0 else w32 x

/-- Encode values in groups of 32 of a block-scaled format, or one by one: scales and codes (R176, R179). `rnd` gives the
random bits of value i. -/
def encodeAll (f : Fmt) (mode : Nat) (rnd : Nat → Nat) (base : Nat) (vs : List Val) : List Nat × List Enc :=
  if f.block then
    let gs := (chunks 32 vs.length vs).zipIdx.map (fun g =>
      let sc := f.scaleOf g.1
      (sc, g.1.zipIdx.map (fun v => f.encodeIn sc mode (rnd (base + 32 * g.2 + v.2)) v.1)))
    (gs.map (·.1), gs.flatMap (·.2))
  else ([], vs.zipIdx.map (fun v => f.encode mode (rnd (base + v.2)) v.1))

/-- The decode direction: from the entry's format to W32 or I32 lanes; no value counts as vanished (R177). -/
def cvtDecode (a : At) (f : VecF) (e : FmtEntry) (fm : Fmt) (packed asInt : Bool) : M s0 Unit := do
  let p ← predLanes a f
  let x ← rdV a f.vs1
  let old ← rdV a f.vd
  let rnd ← slotBitsOf a e
  let (scales, codes) := if packed then unpackStorage fm 256 (x.flatMap (fun w => leBytes 4 w.toNat)) else placed fm x
  let side := if asInt then Fmt.i32 else Fmt.w32
  let encs := lanes (fun i => side.encode (modeOf e) (rnd i) (fm.decodeScaled (scales.getD (i / 32) 0) (codes.getD i 0)))
  wrV a f.vd (lanes (fun i => if p.getLsbD i then BitVec.ofNat 32 ((encs.getD i ⟨0, false, false, false, false⟩).code) else lane old i))
  noteConversion a f.fmt.toNat
    ((encs.zipIdx.filter (fun c => p.getLsbD c.2)).map (fun c => { c.1 with vanish := false }))

/-- The packed encode: all 256 lanes, those whose predicate bit is 0 as zero (R178); the image's other bytes are zero. -/
def cvtEncodePacked (a : At) (f : VecF) (e : FmtEntry) (fm : Fmt) (asInt : Bool) : M s0 Unit := do
  let p ← predLanes a f
  let x ← rdV a f.vs1
  let rnd ← slotBitsOf a e
  let (scales, encs) := encodeAll fm (modeOf e) rnd 0 (lanes (fun i => if p.getLsbD i then laneVal asInt (lane x i) else Val.zero))
  let img := packStorage fm scales (encs.map (·.code))
  wrV a f.vd (lanes (fun i => BitVec.ofNat 32 (fieldAt img (4 * i) 4)))
  noteConversion a f.fmt.toNat encs

/-- The encode into register placement: block-scaled formats group by group, by bit 32g of the predicate (R178); others lane by
lane. -/
def cvtEncodePlaced (a : At) (f : VecF) (e : FmtEntry) (fm : Fmt) (asInt : Bool) : M s0 Unit := do
  let p ← predLanes a f
  let x ← rdV a f.vs1
  let old ← rdV a f.vd
  let rnd ← slotBitsOf a e
  let on (i : Nat) : Bool := if fm.block then p.getLsbD (i / 32 * 32) else p.getLsbD i
  let (scales, encs) := encodeAll fm (modeOf e) rnd 0 (x.map (laneVal asInt))
  wrV a f.vd (lanes (fun i =>
    if on i then BitVec.ofNat 32 ((encs.getD i ⟨0, false, false, false, false⟩).code + (if fm.block then scales.getD (i / 32) 0 * 256 else 0))
    else lane old i))
  noteConversion a f.fmt.toNat ((encs.zipIdx.filter (fun c => on c.2)).map (·.1))

/-- VCVT (R184): reserved bits of the immediate and an entry that does not exist are faults of encoding. -/
def opVcvt (a : At) (f : VecF) : M s0 Unit := do
  encOk (decide (f.imm.toNat / 8 = 0))
  match fmtEntryIn (← st) a.l f.fmt.toNat with
  | none => illegal
  | some (e, fm) =>
    let enc := f.imm.getLsbD 0
    let packed := f.imm.getLsbD 1
    let asInt := f.imm.getLsbD 2
    if fm = (if asInt then Fmt.i32 else Fmt.w32) then
      -- lanes are copied; a packed encoding counts those whose predicate bit is 0 as zero (R178)
      if enc && packed then
        let p ← predLanes a f
        let x ← rdV a f.vs1
        wrV a f.vd (lanes (fun i => if p.getLsbD i then lane x i else 0))
      else vecMap (fun x _ _ => (x, false)) a f
    else if enc then
      if packed then cvtEncodePacked a f e fm asInt else cvtEncodePlaced a f e fm asInt
    else cvtDecode a f e fm packed asInt

/-- The operation of a vector code (R109); none for an undefined one. -/
def vecOp (op : Nat) : Option (At → VecF → M s0 Unit) :=
  match op with
  | 0x01 => some opVaddi | 0x02 => some opVsubi | 0x03 => some opVmuli | 0x04 => some opVand | 0x05 => some opVor
  | 0x06 => some opVxor | 0x07 => some opVshl | 0x08 => some opVshr | 0x09 => some opVsar | 0x0A => some opVmini
  | 0x0B => some opVmaxi | 0x10 => some opVaddf | 0x11 => some opVsubf | 0x12 => some opVmulf | 0x13 => some opVfma
  | 0x14 => some opVminf | 0x15 => some opVmaxf | 0x18 => some opVcmpeqi | 0x19 => some opVcmplti | 0x1A => some opVcmplei
  | 0x1B => some opVcmpeqf | 0x1C => some opVcmpltf | 0x1D => some opVcmplef | 0x20 => some opVsel | 0x21 => some opVbcast
  | 0x22 => some opVperm | 0x23 => some opVredaddf | 0x24 => some opVredaddi | 0x25 => some opVredmaxf | 0x28 => some opVexp
  | 0x29 => some opVrcp | 0x2A => some opVrsqrt | 0x2B => some opVlog2 | 0x30 => some opVcvt | 0x38 => some opVext
  | 0x39 => some opVins
  | _ => none

/-- A vector slot commanded alone. -/
def soleVec (op : Nat) (g : {s : State} → At → VecF → M s Unit) (core : Nat) (u : VecUnit) (f : VecF) (s : State) :
    Host.Outcome State Fault Refusal := soleSlot s core (vecSlot u) (vecBits op f) (fun a => g a f)

def execVaddi (core : Nat) (u : VecUnit) (f : VecF) (s : State) : Host.Outcome State Fault Refusal :=
  soleVec 0x01 opVaddi core u f s
def execVsubi (core : Nat) (u : VecUnit) (f : VecF) (s : State) : Host.Outcome State Fault Refusal :=
  soleVec 0x02 opVsubi core u f s
def execVmuli (core : Nat) (u : VecUnit) (f : VecF) (s : State) : Host.Outcome State Fault Refusal :=
  soleVec 0x03 opVmuli core u f s
def execVand (core : Nat) (u : VecUnit) (f : VecF) (s : State) : Host.Outcome State Fault Refusal :=
  soleVec 0x04 opVand core u f s
def execVor (core : Nat) (u : VecUnit) (f : VecF) (s : State) : Host.Outcome State Fault Refusal :=
  soleVec 0x05 opVor core u f s
def execVxor (core : Nat) (u : VecUnit) (f : VecF) (s : State) : Host.Outcome State Fault Refusal :=
  soleVec 0x06 opVxor core u f s
def execVshl (core : Nat) (u : VecUnit) (f : VecF) (s : State) : Host.Outcome State Fault Refusal :=
  soleVec 0x07 opVshl core u f s
def execVshr (core : Nat) (u : VecUnit) (f : VecF) (s : State) : Host.Outcome State Fault Refusal :=
  soleVec 0x08 opVshr core u f s
def execVsar (core : Nat) (u : VecUnit) (f : VecF) (s : State) : Host.Outcome State Fault Refusal :=
  soleVec 0x09 opVsar core u f s
def execVmini (core : Nat) (u : VecUnit) (f : VecF) (s : State) : Host.Outcome State Fault Refusal :=
  soleVec 0x0A opVmini core u f s
def execVmaxi (core : Nat) (u : VecUnit) (f : VecF) (s : State) : Host.Outcome State Fault Refusal :=
  soleVec 0x0B opVmaxi core u f s
def execVaddf (core : Nat) (u : VecUnit) (f : VecF) (s : State) : Host.Outcome State Fault Refusal :=
  soleVec 0x10 opVaddf core u f s
def execVsubf (core : Nat) (u : VecUnit) (f : VecF) (s : State) : Host.Outcome State Fault Refusal :=
  soleVec 0x11 opVsubf core u f s
def execVmulf (core : Nat) (u : VecUnit) (f : VecF) (s : State) : Host.Outcome State Fault Refusal :=
  soleVec 0x12 opVmulf core u f s
def execVfma (core : Nat) (u : VecUnit) (f : VecF) (s : State) : Host.Outcome State Fault Refusal :=
  soleVec 0x13 opVfma core u f s
def execVminf (core : Nat) (u : VecUnit) (f : VecF) (s : State) : Host.Outcome State Fault Refusal :=
  soleVec 0x14 opVminf core u f s
def execVmaxf (core : Nat) (u : VecUnit) (f : VecF) (s : State) : Host.Outcome State Fault Refusal :=
  soleVec 0x15 opVmaxf core u f s
def execVcmpeqi (core : Nat) (u : VecUnit) (f : VecF) (s : State) : Host.Outcome State Fault Refusal :=
  soleVec 0x18 opVcmpeqi core u f s
def execVcmplti (core : Nat) (u : VecUnit) (f : VecF) (s : State) : Host.Outcome State Fault Refusal :=
  soleVec 0x19 opVcmplti core u f s
def execVcmplei (core : Nat) (u : VecUnit) (f : VecF) (s : State) : Host.Outcome State Fault Refusal :=
  soleVec 0x1A opVcmplei core u f s
def execVcmpeqf (core : Nat) (u : VecUnit) (f : VecF) (s : State) : Host.Outcome State Fault Refusal :=
  soleVec 0x1B opVcmpeqf core u f s
def execVcmpltf (core : Nat) (u : VecUnit) (f : VecF) (s : State) : Host.Outcome State Fault Refusal :=
  soleVec 0x1C opVcmpltf core u f s
def execVcmplef (core : Nat) (u : VecUnit) (f : VecF) (s : State) : Host.Outcome State Fault Refusal :=
  soleVec 0x1D opVcmplef core u f s
def execVsel (core : Nat) (u : VecUnit) (f : VecF) (s : State) : Host.Outcome State Fault Refusal :=
  soleVec 0x20 opVsel core u f s
def execVbcast (core : Nat) (u : VecUnit) (f : VecF) (s : State) : Host.Outcome State Fault Refusal :=
  soleVec 0x21 opVbcast core u f s
def execVperm (core : Nat) (u : VecUnit) (f : VecF) (s : State) : Host.Outcome State Fault Refusal :=
  soleVec 0x22 opVperm core u f s
def execVredaddf (core : Nat) (u : VecUnit) (f : VecF) (s : State) : Host.Outcome State Fault Refusal :=
  soleVec 0x23 opVredaddf core u f s
def execVredaddi (core : Nat) (u : VecUnit) (f : VecF) (s : State) : Host.Outcome State Fault Refusal :=
  soleVec 0x24 opVredaddi core u f s
def execVredmaxf (core : Nat) (u : VecUnit) (f : VecF) (s : State) : Host.Outcome State Fault Refusal :=
  soleVec 0x25 opVredmaxf core u f s
def execVexp (core : Nat) (u : VecUnit) (f : VecF) (s : State) : Host.Outcome State Fault Refusal :=
  soleVec 0x28 opVexp core u f s
def execVrcp (core : Nat) (u : VecUnit) (f : VecF) (s : State) : Host.Outcome State Fault Refusal :=
  soleVec 0x29 opVrcp core u f s
def execVrsqrt (core : Nat) (u : VecUnit) (f : VecF) (s : State) : Host.Outcome State Fault Refusal :=
  soleVec 0x2A opVrsqrt core u f s
def execVlog2 (core : Nat) (u : VecUnit) (f : VecF) (s : State) : Host.Outcome State Fault Refusal :=
  soleVec 0x2B opVlog2 core u f s
def execVcvt (core : Nat) (u : VecUnit) (f : VecF) (s : State) : Host.Outcome State Fault Refusal :=
  soleVec 0x30 opVcvt core u f s
def execVext (core : Nat) (u : VecUnit) (f : VecF) (s : State) : Host.Outcome State Fault Refusal :=
  soleVec 0x38 opVext core u f s
def execVins (core : Nat) (u : VecUnit) (f : VecF) (s : State) : Host.Outcome State Fault Refusal :=
  soleVec 0x39 opVins core u f s

end Sys2Proof.Machine
end

