-- ==== Sys2Proof/Machine/Matrix.lean ====
section
/-! DEFINITION. The matrix array (R130 to R165): stationary rows, streams, element-wise mode, drains with their comparison,
joins, and the ramp. -/

namespace Sys2Proof.Machine

open Sys2Proof

variable {s0 : State}

/-! Values in the array. -/

/-- An element: its value, and for a G8 element that is neither zero nor void its sign and 16 × log₂ of its magnitude. -/
structure Elem where
  v : Val
  log : Option (Bool × Int) := .none
  deriving DecidableEq, Repr

/-- The element zero. -/
def elem0 : Elem := { v := .zero }

/-- The value of an accumulator. -/
def accVal (b : BitVec 48) : Val := Fmt.acc.decode b.toNat

/-- A value in the accumulator format, nearest-even: the pattern, whether it was rounded, whether it saturated (R140). -/
def toAcc (v : Val) : BitVec 48 × Bool × Bool :=
  let e := Fmt.acc.encode 0 0 v
  let b := BitVec.ofNat 48 e.code
  (b, !v.isVoid && !(accVal b).eq v, e.sat)

/-- The product of two elements and whether it was rounded (R139). -/
def product (a b : Elem) : Val × Bool :=
  if a.v.isVoid || b.v.isVoid then (.void, false)
  else if a.v.isZero || b.v.isZero then (.zero, false)
  else
    let p := match a.log, b.log with
      | some (n, x), some (m, y) => if n != m then (pow2by16 (x + y)).neg else pow2by16 (x + y)
      | _, _ => a.v.mul b.v
    let tiny := p.abs.lt (.num 1 (-547))
    if a.log.isSome || b.log.isSome || tiny then
      let r := toAcc p
      (accVal r.1, r.2.1)
    else (p, false)

/-- Add a product into an accumulator: rounded once; void stays void (R140). -/
def accAdd (b : BitVec 48) (p : Val) : BitVec 48 × Bool × Bool :=
  if p.isZero then (b, false, false) else toAcc ((accVal b).add p)

/-- v rounded to nearest-even at 10 significant bits, in the format's exponent range (R149). -/
def round10 (top : Int) (v : Val) : Val :=
  match v with
  | .void => .void
  | .num m e =>
    if m = 0 then .zero
    else
      let sp := (Nat.log2 m.natAbs : Int) + e - 9
      let k := (gridRound 0 0 m.natAbs e sp).1
      let sg (x : Nat) : Int := if m < 0 then -(x : Int) else x
      if top < sp + 9 + (if 1024 ≤ k then 1 else 0) then .num (sg 1023) (top - 9) else .num (sg k) sp

/-- Whether a format has its elements split into parts. -/
def wideFmt (f : Fmt) : Bool := f == .w24 || f == .w32

/-- The greatest exponent of a wide format. -/
def wideTop (f : Fmt) : Int := if f = .w24 then 126 else 254

/-- The high and low part of a value (R149); a value of another format is its own high part. -/
def splitWide (f : Fmt) (v : Val) : Val × Val :=
  if wideFmt f then
    let hi := round10 (wideTop f) v
    (hi, if v.isVoid then .void else round10 (wideTop f) (v.add hi.neg))
  else (v, .zero)

/-- The element a pattern stands for under its group's scale. -/
def elemOf (f : Fmt) (scale code : Nat) : Elem :=
  { v := f.decodeScaled scale code
    log := if f = .g8 ∧ code % 128 ≠ 0 then some (decide (128 ≤ code % 256), ((code % 128 : Nat) : Int) - 64) else .none }

/-- The high and the low parts of elements. -/
def partsOf (f : Fmt) (scales codes : List Nat) : List Elem × List Elem :=
  if wideFmt f then
    let ps := codes.map (fun c => splitWide f (f.decode c))
    (ps.map (fun p => { v := p.1 }), ps.map (fun p => { v := p.2 }))
  else (codes.zipIdx.map (fun c => elemOf f (scales.getD (c.2 / 32) 0) c.1), codes.map (fun _ => elem0))

/-! Stationary rows. -/

/-- A stationary row as a stream reads it: its elements, its row sum and magnitude row sum, whether either was rounded, its
poison. -/
structure StatRow where
  elems : List Elem
  sum : Val
  mag : Val
  rounded : Bool
  poison : Bool
  deriving DecidableEq, Repr

/-- Row sum and magnitude row sum of elements (R154). -/
def statRow (es : List Elem) (poison : Bool) : StatRow :=
  let s := toAcc (es.foldl (fun a e => a.add e.v) .zero)
  let m := toAcc (es.foldl (fun a e => a.add e.v.abs) .zero)
  ⟨es, accVal s.1, accVal m.1, s.2.1, poison⟩

/-- A row of zeros. -/
def zeroRow : StatRow := ⟨List.replicate 256 elem0, .zero, .zero, false, false⟩

/-- The stored elements of a stationary row. -/
def rdStat (l k bank r : Nat) : M s0 StatRow := do
  let d ← rdRowDesc l k bank r
  match Fmt.ofCode d.fmt.toNat with
  | none => return { zeroRow with poison := d.poison }
  | some f =>
    let row ← rdRow l k bank r
    return statRow (row.zipIdx.map (fun x =>
      if d.low || d.high then ({ v := f.decode x.1.toNat } : Elem)
      else elemOf f (bitsOf d.scales (8 * (x.2 / 32)) 8) x.1.toNat)) d.poison

/-- The active bank of a context: 0 A, 1 B. -/
def activeBank (l k : Nat) : M s0 Nat := do return bit (← getCtx l k).bankB

/-- The stationary part a pass reads (R151): pass 2 reads the low part in the other bank, zero where the row is no wide pair. -/
def statPart (l k pass r : Nat) : M s0 StatRow := do
  let b ← activeBank l k
  if pass ≠ 2 then rdStat l k b r
  else
    let hi ← rdRowDesc l k b r
    let lo ← rdRowDesc l k (1 - b) r
    if hi.high && lo.low then rdStat l k (1 - b) r else return zeroRow

/-- Write a stationary row: columns from `cols` on are zero; a wide row's low parts go to the other bank (R132, R150). A
void scale over zeroed columns is kept as void elements, which have the same values. -/
def wrStat (l k bank r : Nat) (f : Fmt) (code cols : Nat) (scales codes : List Nat) (poison : Bool) : M s0 Unit := do
  let kept := codes.zipIdx.map (fun c => if c.2 < cols then c.1 else 0)
  let cut (g : Nat) : Bool := decide (cols < 32 * g + 32)
  if wideFmt f then
    let ps := kept.map (fun c => splitWide f (f.decode c))
    let pat (v : Val) : BitVec 32 := BitVec.ofNat 32 (f.encode 0 0 v).code
    wrRow l k bank r (ps.map (fun p => pat p.1))
    eff (.rowDesc (rowKey l k bank r) { fmt := BitVec.ofNat 8 code, high := true, poison })
    wrRow l k (1 - bank) r (ps.map (fun p => pat p.2))
    eff (.rowDesc (rowKey l k (1 - bank) r) { fmt := BitVec.ofNat 8 code, low := true, poison })
  else
    let void (g : Nat) : Bool := f.block && scales.getD g 0 == 0xFF && cut g
    let codes' := kept.zipIdx.map (fun c => if void (c.2 / 32) && decide (c.2 < cols) then f.voidPat else c.1)
    let scales' := (List.range 8).map (fun g => if void g then 1 else scales.getD g 0)
    wrRow l k bank r (codes'.map (BitVec.ofNat 32))
    eff (.rowDesc (rowKey l k bank r)
      { fmt := BitVec.ofNat 8 code, scales := if f.block then BitVec.ofNat 64 (leNat (scales'.map (BitVec.ofNat 8))) else 0, poison })

/-! Scratchpad access of the array's paths (R136, R263). -/

/-- The own-scratchpad address of a global address (R275). -/
def ownAddrIn (s : State) (l : Nat) (ea : Nat) : Option Nat :=
  let base := chipIn s * 2 ^ 48 + 0x400000000000 + l * 0x1000000
  if base ≤ ea ∧ ea < base + 0x1000000 then some (ea - base) else none

/-- The region at a scratchpad address that a context may address (R73). -/
def allowedIn (s : State) (l k a : Nat) : Option Region :=
  (regionsIn s l).find? (fun r => inRegion r a && bitN r.contexts k)

/-- Whether a context may address every byte of a span. -/
def spanAllowedIn (s : State) (l k a n : Nat) : Bool :=
  (spanPieces 65536 (n / 65536 + 2) a n).all (fun p => (allowedIn s l k p.1).isSome)

/-- The scratchpad addresses of `n` rows of `len` bytes from a[AD] on: all are checked before any effect. -/
def rowAddrs (a : At) (ad : BitVec 5) (n len : Nat) : M s0 (List Nat) := do
  let base ← rdA a ad.toNat
  let s ← st
  (List.range n).mapM (fun i => do
    let ea := (base.toNat + i * len) % 2 ^ 64
    match ownAddrIn s a.l ea with
    | none => throw (.trap Trap.region 0 ea)
    | some x =>
      need (spanAllowedIn s a.l a.k x len) (.trap Trap.region 0 ea)
      return x)

/-- A record of a unit with the context and slot that met it. -/
def coreRec (l k slot : Nat) (r : Rec) : M s0 Rec := do
  let s ← st
  return { r with job := (FMap.get ctx0 s.ctxs (ctxKey l k)).job, ctxId := ctxIdIn s l k, lcore := l, pcore := ← pcoreOf l,
                  field := l / 18, slot }

/-- The OPERATION field of a slot's records: its operation code and sentence address (R419). -/
def opWord (a : At) : M s0 Nat := do
  match (← getCtx a.l a.k).sentence with
  | some q => return slotBits q.raw a.n % 256 + q.addr.toNat * 256
  | none => return 0xFFFFFFFFFFFFFFFF

/-- The record of what a slot met, with its operation (R419). -/
def slotRec (a : At) (r : Rec) : M s0 Rec := do return { ← coreRec a.l a.k a.n r with op := ← opWord a }

/-- Record what a slot met. -/
def slotRecs (a : At) (rs : List Rec) : M s0 Unit := do
  for r in rs do
    record (← slotRec a r)

/-- Record what an access of a context met, with the operation it was for (R419). -/
def coreRecs (l k slot op : Nat) (rs : List Rec) : M s0 Unit := do
  for r in rs do
    record { ← coreRec l k slot r with op }

/-- A failing scratchpad word met by the array: a class D fault (R273). -/
def spFault (a : At) (x : Nat) : M s0 Unit := do
  let r ← spRec a.l 1 (x / 8) 0
  record (← slotRec a r)
  ctxFaultD a.l a.k

/-- Read a row of the scratchpad; a failing word's bytes are free, and the row is poisoned. -/
def rdPad (a : At) (x n : Nat) : M s0 (List Byte × Bool) := do
  spServed a.l 2
  for p in spanPieces 1024 (n / 1024 + 2) x n do
    gbFlushLine a.l (p.1 / 1024)
  let mut bytes : List Byte := []
  let mut bad := false
  for w in spanWords x n do
    let (v, ev) ← spReadWord a.l w
    slotRecs a ev
    match v with
    | some v => bytes := bytes ++ leBytes 8 v.toNat
    | none =>
      bytes := bytes ++ leBytes 8 (← freeWord).toNat
      if !bad then spFault a (w * 8)
      bad := true
  return (slice bytes (x % 8) n, bad)

/-- Write a row of the scratchpad, which is no release: the words carry no tag (R323). -/
def wrPad (a : At) (x : Nat) (bs : List Byte) : M s0 Unit := do
  spServed a.l 2
  let (status, ev) ← spWrite a.l x bs
  clearSpTags a.l (x / 8) ((x % 8 + bs.length + 7) / 8)
  slotRecs a ev
  if status ≠ 0 then spFault a x

/-! Fields of the slot. -/

def rowsOf (f : MatF) : Nat := if f.rows = 0 then 128 else f.rows.toNat
def colsOf (f : MatF) : Nat := if f.cols = 0 then 256 else f.cols.toNat
def countOf (f : MatF) : Nat := if f.count = 0 then 256 else f.count.toNat
def passOf (f : MatF) : Nat := if f.pass = 0 then 1 else f.pass.toNat

/-- The entry and format the slot names; none, and a format the operation does not accept, are faults of encoding (R171). -/
def matEntry (a : At) (f : MatF) (ok : Fmt → Bool) : M s0 (FmtEntry × Fmt) := do
  match fmtEntryIn (← st) a.l f.fmt.toNat with
  | none => illegal
  | some e =>
    encOk (ok e.2)
    return e

/-! Loads. -/

/-- MLDR. -/
def opMldr (a : At) (f : MatF) : M s0 Unit := do
  let (e, fm) ← matEntry a f Fmt.array
  let (scales, codes) := placed fm (← rdV a f.vreg)
  wrStat a.l a.k (bit f.bank) f.row.toNat fm e.format (colsOf f) scales codes false

/-- MLDSP: COUNT rows from the scratchpad. -/
def opMldsp (a : At) (f : MatF) : M s0 Unit := do
  let (e, fm) ← matEntry a f Fmt.array
  let len := fm.storage 256
  let xs ← rowAddrs a f.ad (countOf f) len
  for x in xs.zipIdx do
    let (bs, bad) ← rdPad a x.1 len
    let (scales, codes) := unpackStorage fm 256 bs
    wrStat a.l a.k (bit f.bank) ((f.row.toNat + x.2) % 128) fm e.format (colsOf f) scales codes bad

/-- MSWAP: the other bank becomes active. -/
def opMswap (a : At) (_ : MatF) : M s0 Unit := do
  modCtx a.l a.k (fun c => { c with bankB := !c.bankB })
  setF R.MX_STAT_ACTIVE (← activeBank a.l a.k) a.l

/-! Streams. -/

/-- An accumulator row at work: its columns, checksum, magnitude sum, inexact bit, poison mark; whether a sum saturated. -/
structure AccWork where
  cols : List (BitVec 48)
  z : BitVec 48
  g : BitVec 48
  inexact : Bool
  poison : Bool
  sat : Bool
  deriving DecidableEq, Repr

/-- The accumulator row an operation starts from: restarted at +0 with ACC = 0. -/
def takeAcc (l k t : Nat) (acc : Bool) : M s0 AccWork := do
  if acc then
    let v ← rdAccRow l k t
    let d ← rdAccSide l k t
    return ⟨v.take 256, v.getD 256 0, d.g, d.inexact, d.poison, false⟩
  else return ⟨List.replicate 256 0, 0, 0, false, false, false⟩

/-- Put an accumulator row back; saturation sets SAT. -/
def putAcc (a : At) (t : Nat) (x : AccWork) : M s0 Unit := do
  wrAccRow a.l a.k t (x.cols ++ [x.z])
  wrAccSide a.l a.k t { g := x.g, inexact := x.inexact, poison := x.poison }
  noteSat a x.sat

/-- One row of cells of one pass: products of a streamed element with the columns below `cols`, the checksum and the magnitude
sum (R141, R142, R155). -/
def cellRow (cols : Nat) (x : AccWork) (e : Elem) (w : StatRow) : AccWork :=
  let rs := (x.cols.zip w.elems).zipIdx.map (fun c =>
    if c.2 < cols then
      let p := product e c.1.2
      let r := accAdd c.1.1 p.1
      (r.1, p.2 || r.2.1, r.2.2)
    else (c.1.1, false, false))
  let zp := product e { v := w.sum }
  let zr := accAdd x.z zp.1
  let gp := product { v := e.v.abs, log := e.log.map (fun y => (false, y.2)) } { v := w.mag }
  { cols := rs.map (·.1), z := zr.1, g := (accAdd x.g gp.1).1
    inexact := x.inexact || w.rounded || zp.2 || zr.2.1 || rs.any (·.2.1)
    poison := x.poison || w.poison
    sat := x.sat || zr.2.2 || rs.any (·.2.2) }

/-- Stream one vector into an accumulator row: pass by pass, row by row (R141, R151). -/
def streamVector (a : At) (f : MatF) (t : Nat) (hi lo : List Elem) (bad : Bool) : M s0 Unit := do
  let mut x ← takeAcc a.l a.k t f.acc
  x := { x with poison := x.poison || bad }
  for p in List.range (passOf f) do
    for r in List.range (rowsOf f) do
      let w ← statPart a.l a.k (p + 1) r
      x := cellRow (colsOf f) x ((if p = 2 then lo else hi).getD r elem0) w
  putAcc a t x

/-! The ramp (R144 to R148). -/

/-- Steps of the array: `h` steps of the ramp done, passes and rows left to take; answers the ramp steps done at the end. -/
def rampGo (lim rows : Nat) : Nat → Nat → Nat → Nat → Nat
  | 0, h, _, _ => h
  | fuel + 1, h, passes, left =>
    if passes = 0 then h
    else
      let cap := 8 * min lim (h / 2 + 1)
      let h' := min 32 (h + 1)
      if cap < left then rampGo lim rows fuel h' passes (left - cap)
      else rampGo lim rows fuel h' (passes - 1) (rows - min (cap - left) (rows - 1))

/-- The enabled row count after a stream of `n` vectors, in units of 8: in LD7 mode it returns to 0 at once. -/
def rampUp (l n : Nat) (f : MatF) : M s0 Unit := do
  let s ← st
  let ld7 := match clauseOfIn s l with | some c => c.ld7 | none => false
  setF R.MX_STAT_LD7 (bit ld7) l
  setF R.MX_STAT_RAMPDOWN 0 l
  if ld7 then setF R.MX_STAT_ENABLED 0 l
  else
    let lim ← getF R.MX_LIMIT_LIMIT
    let passes := n * passOf f
    let h := rampGo lim (rowsOf f) (16 * passes + 32) (← getCore l).ramp passes (rowsOf f)
    modCore l (fun c => { c with ramp := h })
    setF R.MX_STAT_ENABLED (min lim ((h + 1) / 2)) l

/-- MSTR. -/
def opMstr (a : At) (f : MatF) : M s0 Unit := do
  let (_, fm) ← matEntry a f Fmt.array
  let (scales, codes) := placed fm ((← rdV a f.vreg).take 128)
  let (hi, lo) := partsOf fm scales codes
  streamVector a f f.row.toNat hi lo false
  rampUp a.l 1 f

/-- MSTRSP: COUNT vectors from the scratchpad. -/
def opMstrsp (a : At) (f : MatF) : M s0 Unit := do
  let (_, fm) ← matEntry a f Fmt.array
  let len := fm.storage 128
  let xs ← rowAddrs a f.ad (countOf f) len
  for x in xs.zipIdx do
    let (bs, bad) ← rdPad a x.1 len
    let (scales, codes) := unpackStorage fm 128 bs
    let (hi, lo) := partsOf fm scales codes
    streamVector a f ((f.row.toNat + x.2) % 128) hi lo bad
  rampUp a.l (countOf f) f

/-- One product of MEW into accumulator (ROW, i) (R153). -/
def mewCell (x : AccWork) (i : Nat) (e w : Elem) : AccWork :=
  let p := product e w
  let r := accAdd (x.cols.getD i 0) p.1
  let z := accAdd x.z p.1
  { cols := x.cols.set i r.1, z := z.1, g := (accAdd x.g p.1.abs).1
    inexact := x.inexact || p.2 || r.2.1 || z.2.1, poison := x.poison, sat := x.sat || r.2.2 || z.2.2 }

/-- MEW: element-wise products of lanes i and 128 + i. -/
def opMew (a : At) (f : MatF) : M s0 Unit := do
  let (_, fm) ← matEntry a f Fmt.array
  let (scales, codes) := placed fm (← rdV a f.vreg)
  let (hi, lo) := partsOf fm scales codes
  let mut x ← takeAcc a.l a.k f.row.toNat f.acc
  for p in List.range (passOf f) do
    for i in List.range (rowsOf f) do
      x := mewCell x i ((if p = 2 then lo else hi).getD i elem0) ((if p = 1 then lo else hi).getD (128 + i) elem0)
  putAcc a f.row.toNat x
  rampUp a.l 1 f

/-! Drains. -/

/-- An accumulator row as it is drained: 257 accumulators, G, inexact, poison. -/
structure DrainRow where
  row : Nat
  accs : List (BitVec 48)
  g : BitVec 48
  inexact : Bool
  poison : Bool
  deriving DecidableEq, Repr

/-- An accumulator row as the context holds it. -/
def ownRow (a : At) (t : Nat) : M s0 DrainRow := do
  let d ← rdAccSide a.l a.k t
  return ⟨t, ← rdAccRow a.l a.k t, d.g, d.inexact, d.poison⟩

/-- What the comparison of R156 finds: skipped, passed, or failed with D − z. -/
inductive Compared where
  | skipped
  | passed (d : Val)
  | failed (d : Val)
  deriving DecidableEq, Repr

/-- Compare a row's exact sum with its checksum. -/
def compareRow (r : DrainRow) : Compared :=
  let vs := r.accs.map accVal
  if vs.any Val.isVoid then .skipped
  else
    let d := ((vs.take 256).foldl Val.add .zero).add (vs.getD 256 .zero).neg
    let ok := if r.inexact then !(((accVal r.g).scale (-28)).lt d.abs) else d.isZero
    if ok then .passed d else .failed d

/-- Check a drained row (R156, R157, R163); `join` is the join number, 0xFF for none. -/
def checkRow (a : At) (join : Nat) (r : DrainRow) : M s0 Unit := do
  if r.poison then ctxFaultD a.l a.k
  match compareRow r with
  | .skipped => countSat R.MX_CNT_SKIPPED a.l
  | c =>
    countWrap R.MX_CNT_COMPARED a.l
    let inj := (← getCore a.l).inject
    if inj then modCore a.l (fun x => { x with inject := false })
    let fail (d : Val) : M s0 Unit := do
      countSat R.MX_CNT_FAILED a.l
      let b : At := { a with n := 6 }
      let rec' ← slotRec b { cls := 1, source := 0x02, unit := a.l, flags := bit inj
                             syn := slice (leBytes 1 r.row ++ leBytes 1 (← activeBank a.l a.k) ++ leBytes 4 (toW32 d).1.toNat ++
                                       leBytes 1 join) 0 32 }
      record rec'
      ctxFaultD a.l a.k
    match c with
    | .failed d => fail d
    | .passed d => if inj then fail d else pure ()
    | .skipped => pure ()

/-- The join a core belongs to, with its grid row and column (R70). -/
def joinIn (s : State) (l : Nat) : Option (JoinRec × Nat × Nat) :=
  match s.stream, clauseOfIn s l with
  | some x, some c =>
    let r := rankIn s l
    (x.joins.find? (fun j => j.clause == c.num && decide (j.first ≤ r) && decide (r < j.first + j.rows * j.cols))).map
      (fun j => (j, (r - j.first) / j.cols, (r - j.first) % j.cols))
  | _, _ => none

/-- The core at a grid place of a join. -/
def joinCoreIn (s : State) (l : Nat) (j : JoinRec) (i c : Nat) : Nat :=
  match clauseOfIn s l with
  | some x => (x.cores.insertionSort (fun a b => a ≤ b)).getD (j.first + i * j.cols + c) l
  | none => l

/-- Add two partials (R159): every accumulator and G rounds by R140. Whether a sum saturated. -/
def addPartials (x y : DrainRow × Bool) : DrainRow × Bool :=
  let rs := (x.1.accs.zip y.1.accs).map (fun p => accAdd p.1 (accVal p.2))
  ({ row := x.1.row, accs := rs.map (·.1), g := (accAdd x.1.g (accVal y.1.g)).1
     inexact := x.1.inexact || y.1.inexact || rs.any (·.2.1), poison := x.1.poison || y.1.poison },
   x.2 || y.2 || rs.any (·.2.2))

/-- Reduce partials in ascending grid row, linearly or as a balanced tree. -/
def reducePartials (tree : Bool) (ps : List DrainRow) : Option (DrainRow × Bool) :=
  match ps.map (fun p => (p, false)) with
  | [] => none
  | p :: r => if tree then (treeOf addPartials 4 (p :: r)).head? else some (r.foldl addPartials p)

/-- The first partial of a member for a row. -/
def partialOf (ps : List Partial) (core slot row : Nat) : Option Partial :=
  ps.find? (fun p => p.core == core && p.slot == slot && p.row == row)

/-- The reduced row of member (0, j): none where a member's partial has not come. -/
def takeReduced (a : At) (j : JoinRec) (c t : Nat) : M s0 (Option DrainRow) := do
  let s ← st
  let ps := (List.range (j.rows - 1)).map (fun i => partialOf s.partials (joinCoreIn s a.l j (i + 1) c) a.k t)
  if ps.any Option.isNone then return none
  let ps := ps.filterMap id
  eff (.partials (ps.foldl (fun l p => eraseFirst p l) s.partials))
  let own ← ownRow a t
  match reducePartials j.tree (own :: ps.map (fun p => ⟨t, p.accs, p.g, p.inexact, p.poison⟩)) with
  | some (r, sat) =>
    noteSat a sat
    return some r
  | none => return none

/-- The rows a drain writes, checked: those of the array alone, or the reduced rows of member (0, j) of a join, which waits until
the partials have come, its array busy meanwhile. Another member sends its partials and writes nothing (R158). -/
def drainRows (a : At) (ts : List Nat) : M s0 (List DrainRow) := do
  let s ← st
  match joinIn s a.l with
  | none =>
    let rs ← ts.mapM (fun t => ownRow a t)
    for r in rs do
      checkRow a 0xFF r
    return rs
  | some (j, i, c) =>
    if i ≠ 0 then
      for t in ts do
        let r ← ownRow a t
        eff (.partials ((← st).partials ++ [⟨a.l, a.k, j.num, t, r.accs, r.g, r.inexact, r.poison⟩]))
      return []
    else
      let missing := (List.range (j.rows - 1)).any (fun i => ts.eraseDups.any (fun t =>
        decide ((s.partials.filter (fun p => p.core == joinCoreIn s a.l j (i + 1) c && p.slot == a.k && p.row == t)).length <
          (ts.filter (· == t)).length)))
      if missing then
        modCtx a.l a.k (fun x => { x with wait := .join })
        setF R.MX_STAT_BUSY 1 a.l
        throw .wait
      setF R.MX_STAT_BUSY 0 a.l
      modCtx a.l a.k (fun x => { x with wait := if x.wait = .join then .none else x.wait })
      let mut rs : List DrainRow := []
      for t in ts do
        match ← takeReduced a j c t with
        | some r =>
          checkRow a j.num r
          rs := rs ++ [r]
        | none => pure ()
      return rs

/-- Convert drained rows: for each its scales and codes; masked columns are zero (R132, R133, R187). -/
def drainConvert (a : At) (f : MatF) (e : FmtEntry) (fm : Fmt) (rows : List DrainRow) : M s0 (List (List Nat × List Nat)) := do
  let rnd ← slotBitsOf a e
  let stride := (← rdSreg a.l a.k 63).toNat / 2 ^ 32
  let outs := rows.zipIdx.map (fun r =>
    encodeAll fm (modeOf e) rnd (r.2 * stride)
      ((r.1.accs.take 256).zipIdx.map (fun x => if x.2 < colsOf f then accVal x.1 else .zero)))
  noteConversion a f.fmt.toNat (outs.flatMap (·.2))
  return outs.map (fun o => (o.1, o.2.map (·.code)))

/-- The accumulator rows a drain covers (R131). -/
def drainList (f : MatF) : List Nat := (List.range (countOf f)).map (fun i => (f.row.toNat + i) % 128)

/-- MDRN: COUNT rows to v[VREG] onward; the entry must be W32 or I32, and the last register v63 at most. -/
def opMdrn (a : At) (f : MatF) : M s0 Unit := do
  let (e, fm) ← matEntry a f (fun x => x == .w32 || x == .i32)
  encOk (decide (f.vreg.toNat + countOf f ≤ 64))
  let rows ← drainRows a (drainList f)
  if !rows.isEmpty then
    let outs ← drainConvert a f e fm rows
    for o in outs.zipIdx do
      wrVreg a.l a.k (f.vreg.toNat + o.2) (o.1.2.map (BitVec.ofNat 32))

/-- MDRNSP: COUNT rows to the scratchpad, in any format. -/
def opMdrnsp (a : At) (f : MatF) : M s0 Unit := do
  let (e, fm) ← matEntry a f (fun _ => true)
  let xs ← rowAddrs a f.ad (countOf f) (fm.storage 256)
  let rows ← drainRows a (drainList f)
  if !rows.isEmpty then
    let outs ← drainConvert a f e fm rows
    for o in outs.zip xs do
      wrPad a o.2 (packStorage fm o.1.1 o.1.2)

/-- The operation of a matrix code (R112); none for an undefined one. -/
def matOp (op : Nat) : Option (At → MatF → M s0 Unit) :=
  match op with
  | 0x01 => some opMldr | 0x02 => some opMldsp | 0x03 => some opMswap | 0x04 => some opMstr | 0x05 => some opMstrsp
  | 0x06 => some opMdrn | 0x07 => some opMdrnsp | 0x08 => some opMew
  | _ => none

/-- A matrix slot commanded alone. -/
def soleMat (op : Nat) (g : {s : State} → At → MatF → M s Unit) (core : Nat) (f : MatF) (s : State) :
    Host.Outcome State Fault Refusal := soleSlot s core 6 (matBits op f) (fun a => g a f)

def execMldr (core : Nat) (f : MatF) (s : State) : Host.Outcome State Fault Refusal := soleMat 0x01 opMldr core f s
def execMldsp (core : Nat) (f : MatF) (s : State) : Host.Outcome State Fault Refusal := soleMat 0x02 opMldsp core f s
def execMswap (core : Nat) (f : MatF) (s : State) : Host.Outcome State Fault Refusal := soleMat 0x03 opMswap core f s
def execMstr (core : Nat) (f : MatF) (s : State) : Host.Outcome State Fault Refusal := soleMat 0x04 opMstr core f s
def execMstrsp (core : Nat) (f : MatF) (s : State) : Host.Outcome State Fault Refusal := soleMat 0x05 opMstrsp core f s
def execMdrn (core : Nat) (f : MatF) (s : State) : Host.Outcome State Fault Refusal := soleMat 0x06 opMdrn core f s
def execMdrnsp (core : Nat) (f : MatF) (s : State) : Host.Outcome State Fault Refusal := soleMat 0x07 opMdrnsp core f s
def execMew (core : Nat) (f : MatF) (s : State) : Host.Outcome State Fault Refusal := soleMat 0x08 opMew core f s

/-- RAMP_DOWN: with the stream path empty the enabled row count falls by 8; in LD7 mode it is 0 at once (R146, R148). -/
def execRampDown (core : Nat) (s : State) : Host.Outcome State Fault Refusal := .next <| run s do
  if core < 144 then
    let e ← getF R.MX_STAT_ENABLED core
    if 0 < e then
      setF R.MX_STAT_ENABLED (e - 1) core
      setF R.MX_STAT_RAMPDOWN (if e = 1 then 0 else 1) core
      modCore core (fun c => { c with ramp := 2 * (e - 1) })

end Sys2Proof.Machine
end

