-- ==== Sys2Proof/Machine/Order.lean ====
section
/-! DEFINITION. Releases, acquires, scopes and release tags (R318 to R326). -/

namespace Sys2Proof.Machine

open Sys2Proof

variable {s0 : State}

/-- Whether posted stores of a context wait for their acknowledgement (R316, R319): all of them, or its releases only. -/
def storesOutIn (s : State) (l k : Nat) (releases : Bool) : Bool :=
  s.reqs.any (fun r => match r.purpose with
    | .store l' k' _ rel _ => l' == l && k' == k && (rel || !releases)
    | _ => false)

/-- A release waits until every posted store of the context has been acknowledged (R319). -/
def releaseWait (a : At) : M s0 Unit := do
  if storesOutIn (← st) a.l a.k false then throw .wait

/-- An acquire waits until the earlier releases of the context have been performed (R320). -/
def acquireWait (a : At) : M s0 Unit := do
  if storesOutIn (← st) a.l a.k true then throw .wait

/-- The debug states Observe and Intrusive keep tags (R323). -/
def tagsKept (s : State) : Bool := fieldIn s R.DEV_MOOD_DEBUG 0 0 != 0

/-- The tag of a store of a context at a scope; none in debug state Closed or without a scope. -/
def tagAt (a : At) (scope : Nat) : M s0 (Option RelTag) := do
  let s ← st
  if tagsKept s && scope != 0 then
    return some ⟨BitVec.ofNat 14 (chipIn s), a.l, ctxIdIn s a.l a.k / 256, BitVec.ofNat 16 (ctxIdIn s a.l a.k), BitVec.ofNat 3 scope⟩
  else return none

/-- Whether two agents share the set of a scope: chip, core, clause and context identifier of each (R318, R323). -/
def inScope (x y : RelTag) (scope : Nat) : Bool :=
  if 6 ≤ scope then true
  else if scope = 5 then x.chip.toNat / 64 == y.chip.toNat / 64
  else if x.chip ≠ y.chip then false
  else if scope = 4 then true
  else if scope = 3 then x.clause == y.clause
  else if scope = 2 then x.core == y.core
  else x.core == y.core && x.ctxId == y.ctxId

/-- An acquire at a scope that reads tagged words: a mismatch is counted once for the acquiring core (R323, R423). -/
def testTags (a : At) (scope : Nat) (tags : List RelTag) : M s0 Unit := do
  match ← tagAt a scope with
  | none => return ()
  | some me =>
    if tags.any (fun t => !(inScope t me scope && inScope t me t.scope.toNat)) then countSat R.INT_SCOPE_MISMATCH a.l

/-- A load or atomic of words of another module has been answered with the tags they keep: an acquire tests them, a plain load keeps them for
a fence (R320, R323). -/
def noteForeign (a : At) (scope : Nat) : M s0 Unit := do
  let c ← getCtx a.l a.k
  if !c.answerTags.isEmpty then
    if scope ≠ 0 then
      setCtx a.l a.k { c with answerTags := [] }
      testTags a scope c.answerTags
    else setCtx a.l a.k { c with answerTags := [], seen := c.seen ++ c.answerTags }

/-- The tag kept with a word of this module. -/
def tagOfWordIn (s : State) (o : Nat) : Option RelTag := (tagKeyIn s o).bind (fun key => FMap.get noTag s.relTags key)

/-- No read that follows an acquire is performed before it (R320): what the context has read ahead, or asked for ahead, is not used. -/
def dropEarly (l k : Nat) : M s0 Unit := do
  let c ← getCtx l k
  if c.early.isSome then setCtx l k { c with early := none }
  let s ← st
  if s.reqs.any (fun r => r.purpose == .early l k) then
    eff (.reqs (s.reqs.map (fun r => if r.purpose = .early l k then { r with purpose := .agent } else r)))

/-- The tags of the words of a span of this module. -/
def tagsOf (s : State) (o n : Nat) : List RelTag := (spanWords o n).filterMap (fun w => tagOfWordIn s (w * 8))

/-- The effect of an acquire on what is cached and read ahead (R320, R324). -/
def acquireCache (a : At) (scope : Nat) : M s0 Unit := do
  dropEarly a.l a.k
  if 2 ≤ scope then cacheEmpty a.l

/-- A fence's acquire makes acquires of the plain loads before it (R320): the tags they read are tested once. -/
def fenceAcquire (a : At) (scope : Nat) : M s0 Unit := do
  testTags a scope (← getCtx a.l a.k).seen
  modCtx a.l a.k (fun c => { c with seen := [] })
  acquireCache a scope

/-- A fence's release: later plain stores carry its scope (R323). -/
def fenceRelease (a : At) (scope : Nat) : M s0 Unit := do
  releaseWait a
  modCtx a.l a.k (fun c => { c with span := BitVec.ofNat 3 scope })

end Sys2Proof.Machine
end

