-- ==== Sys2Proof/Machine/KvCmds.lean ====
section
/-! DEFINITION. The commands of the KV engine and of the tense openings it serves (R225 to R241). -/

namespace Sys2Proof.Machine

open Sys2Proof

variable {s0 : State}

/-- A 64-byte command as bytes. -/
def cmdBytes (cmd : BitVec 512) : List Byte := leBytes 64 cmd.toNat

/-! Commands (R225 to R228). -/

/-- Token ids have come from another module, or could not be read there: the lookup or the publishing goes on, and after it what waits
for the engine. -/
def kvIdsCome (ids : Option (List (BitVec 32))) : M s0 Unit := do
  match (← st).kv.work with
  | none => return ()
  | some w =>
    match w.limit, ids with
    | some limit, some x =>
      if ← lookupBlock w.seq x then let _ ← lookupRun w limit
      else lookupDone w
    | some _, none => lookupDone w
    | none, some x =>
      publishNext w.seq x
      publishSeqs (w.seq :: w.rest)
    | none, none => publishSeqs w.rest
  kvServeAll

/-- A 64-byte command reaches the engine (R225). -/
def kvCommand (c : List Byte) (reply : KvReply := .word) : M s0 Unit := kvAsk (.command c reply)

/-- A command of an operation reaches the engine; another operation's bytes are no such command. -/
def kvRun (op : Nat) (cmd : BitVec 512) : M s0 Unit := do
  if fieldAt (cmdBytes cmd) 0 1 = op then kvCommand (cmdBytes cmd)

def execOpenSeq (cmd : BitVec 512) (s : State) : Host.Outcome State Fault Refusal := .next <| run s (kvRun 1 cmd)
def execGrow (cmd : BitVec 512) (s : State) : Host.Outcome State Fault Refusal := .next <| run s (kvRun 2 cmd)
def execExclude (cmd : BitVec 512) (s : State) : Host.Outcome State Fault Refusal := .next <| run s (kvRun 3 cmd)
def execCloseSeq (cmd : BitVec 512) (s : State) : Host.Outcome State Fault Refusal := .next <| run s (kvRun 4 cmd)

/-! Spills, fetches and openings. -/

/-- A spill has ended (R237, R238): with OK the row is spilled and its frames are free; otherwise it stays resident, as it does where
its sequence has become active since (log entry 29). -/
def spillDone (n k status : Nat) : M s0 Unit := do
  let r ← getRow n k
  if r.flight = 1 then
    if status = 0 ∧ !seqBusy (← st) (← getSeq n) then
      decRefs r.frames
      setRow n k { r with st := .spilled, frames := [], flight := 0 }
      countWrap R.KV_CNT0_SPILLS
      if (← st).kv.awaited = some (n, k) then gotRow
    else
      setRow n k { r with flight := 0 }
      freeSlots n k
    kvServeAll

/-- An uncorrectable error in committed state: class H for the job (R48, R238). -/
def committedLost (n status : Nat) : M s0 Unit := do
  let q ← getSeq n
  match jobSlotIn (← st) q.job with
  | none => return ()
  | some j =>
    let ev ← rdReg (R.KV_EVENT_SEQ.addr 0 0)
    record { cls := 2, source := 0x0A, unit := n, cause := status, job := some j,
             syn := slice (leBytes 2 n ++ leBytes 2 status) 0 32, detail := leBytes 8 ev.toNat }
    if (← getJob j).released then jobFaultH j 7 else holdJob j 7 (← ownChip) (noted := true)

/-- A fetch has ended (R238): the row is resident with its bytes; or it is lost; or it is to be retried. -/
def fetchDone (n k status : Nat) (pages : Option (List (List Byte))) : M s0 Unit := do
  let r ← getRow n k
  if r.flight = 2 then
    if status = 0 then
      match pages with
      | some ps =>
        for p in r.reserved.zip ps do
          let _ ← wrGddr (p.1 * 65536) (slice p.2 0 65536)
      | none => pure ()
      setRow n k { r with st := .resident, frames := r.reserved, reserved := [], flight := 4 }
      freeSlots n k
      countWrap R.KV_CNT0_FETCHES
    else if statusClassD status then
      decRefs r.reserved
      setRow n k { r with flight := 0, reserved := [], frames := [] }
      freeSlots n k
      dropRow n k
      modSeq n (fun q => { q with lost := true })
      committedLost n status
    else setRow n k { r with flight := 3 }
    match jobSlotIn (← st) (← getSeq n).job with
    | some j => releaseTense j
    | none => pure ()

/-- TENSE_OPEN: the next tense opens; while the engine is at something, it waits in the order in which it came (R241). -/
def execTenseOpen (j : Nat) (s : State) : Host.Outcome State Fault Refusal := .next <| run s do
  if j < 16 then openTense j

/-- What the host's memory answers ends a spill or fetch of a sequence whose tier lies there (R464); a peer's answers are packets. -/
def hostTierDone (seq row : Nat) (outcome : BitVec 2) (act : Nat → M s0 Unit) : M s0 Unit := do
  let s ← st
  let r ← getRow seq row
  if (match (FMap.get seq0 s.seqs seq).tier with | some (1, _) => false | _ => true) && (r.flight == 1 || r.flight == 2) then
    noteOutcome outcome
    act (hostStatusIn s outcome)

def execSpillComplete (seq row : Nat) (outcome : BitVec 2) (s : State) : Host.Outcome State Fault Refusal :=
  .next <| run s (hostTierDone seq row outcome (spillDone seq row))

def execFetchComplete (seq row : Nat) (outcome : BitVec 2) (pages : List (List Byte)) (s : State) :
    Host.Outcome State Fault Refusal := .next <| run s (hostTierDone seq row outcome (fun status => fetchDone seq row status (some pages)))

/-- FETCH_RETRY: a fetch that failed for a passing reason starts again. -/
def execFetchRetry (seq row : Nat) (s : State) : Host.Outcome State Fault Refusal := .next <| run s do
  let r ← getRow seq row
  if r.flight = 3 then startFetch seq row

def execTenseRelease (j : Nat) (s : State) : Host.Outcome State Fault Refusal := .next <| run s do
  if j < 16 then releaseTense j

/-! The command window of a core. -/

/-- Word k of a 64-byte command arrives in KV_CMD of a core: from the core's own DMA channel it is taken, and the last word
starts the command, which completes the channel; from elsewhere it is discarded and counted (R225). -/
def kvWindowWrite (l : Nat) (by' : Agent) (k : Nat) (v : Word) : M s0 Unit := do
  match by' with
  | .dma m ch =>
    let d ← getDma l ch
    if m = l ∧ ch < 8 ∧ d.state = 1 ∧ d.kind = 2 ∧ d.len = 64 ∧ commandSource (← st) l d.src ∧ d.dst % 2 ^ 48 = 0xC00000000000 + R.KV_CMD_CMD.addr l 0 then
      wrReg (R.KV_CMD_CMD.addr l k) v
      if k = 7 then
        let s ← st
        let ws := (List.range 8).map (fun i => (FMap.get resetValue s.regs (R.KV_CMD_CMD.addr l i)).toNat)
        kvCommand (ws.flatMap (leBytes 8)) (.channel l ch)
    else countSat R.KV_CNT1_DISCARDED
  | .host => countSat R.KV_CNT1_DISCARDED
  | .firmware => countSat R.KV_CNT1_DISCARDED
  | .management => countSat R.KV_CNT1_DISCARDED
  | .peer _ => countSat R.KV_CNT1_DISCARDED
  | .core _ => countSat R.KV_CNT1_DISCARDED

def execKvCmdWrite (core : Nat) (by' : Agent) (k : Nat) (v : Word) (s : State) : Host.Outcome State Fault Refusal :=
  .next <| run s do
  if core < 144 ∧ k < 8 then kvWindowWrite core by' k v

end Sys2Proof.Machine
end

