-- ==== Sys2Proof/Machine/Complete.lean ====
section
/-! DEFINITION. Posted writes of contexts (R316, R317, R371, R374) and what the end of a request does for whoever sent it
(R364, R367, R373). -/

namespace Sys2Proof.Machine

open Sys2Proof

variable {s0 : State}

/-- A posted write of a context, with its operation, that was not performed: an error record and a fault of its class (R317). -/
def storeFault (l k status g op : Nat) : M s0 Unit := do
  let cls := if statusClassD status then 1 else 2
  record (← coreRec l k 3 { cls, source := 0x08, unit := l, cause := status, addr := g, op
                            syn := slice (leBytes 2 status ++ leBytes 2 (g / 2 ^ 48) ++ leBytes 8 (g % 2 ^ 48)) 0 32 })
  match (← getCtx l k).job with
  | some j => if cls = 1 then ctxFaultD l k else jobFaultH j (statusCause status)
  | none => pure ()

/-- What a write of a context to another module carries: with a tense of its job open, TENT, the job, the tense and the
next SERIAL; otherwise the job only (R371). -/
def tentIn (s : State) (l k : Nat) : Packet × Option Nat :=
  match (FMap.get ctx0 s.ctxs (ctxKey l k)).job with
  | none => (emptyPacket, none)
  | some j =>
    let v := FMap.get job0 s.jobs j
    let p := { emptyPacket with job := BitVec.ofNat 16 (fieldIn s R.CJ_JOBA_JOB j 0) }
    if v.isOpen then
      ({ p with flags := 1, tense := BitVec.ofNat 32 v.opened, serial := BitVec.ofNat 32 v.serial }, some v.serial)
    else (p, none)

/-- Enter a tentative write or block in what the job has sent, and count its SERIAL. One that is sent after an input of the attempt has been
retracted may derive from it, and is not confirmed (R44, R46). -/
def noteSent (l k : Nat) (dst : BitVec 14) (addr serial : Nat) (isBlock : Bool) (segments issue : Nat) : M s0 Unit := do
  match (← getCtx l k).job with
  | none => return ()
  | some j =>
    let v ← getJob j
    setJob j { v with serial := serial + 1 }
    let s ← st
    eff (.sent (s.sent ++
      [⟨j, BitVec.ofNat 32 v.opened, serial, dst, addr, isBlock, segments, l, k, 0, none, false, tentInputs s j, v.badInput, issue⟩]))

/-- The answer to a tentative write or to a segment of a block has come: the entry is answered when all are, with the worst status
(R373). -/
def noteAnswer (j serial : Nat) (dst : BitVec 14) (status : Nat) : M s0 Unit := do
  eff (.sent ((← st).sent.map (fun e =>
    if e.j = j ∧ e.serial = serial ∧ e.dst = dst ∧ !e.settled then
      let worst := if e.worst = 0 then status else e.worst
      { e with segments := e.segments - 1, worst, status := if e.segments ≤ 1 then some worst else none }
    else e)))
  settleBlocks j

/-- A context's posted write to another module, within one 256 B span: sent as PWR, or as WR to a register (R364), and
outstanding until its ACK. The release tag of a store goes with it (R323). -/
def postRemote (l k g : Nat) (bs : List Byte) (purpose : Option Nat → Purpose) (op issue : Nat)
    (rel : Option RelTag := none) : M s0 Unit := do
  let (p, serial) := tentIn (← st) l k
  let dst := BitVec.ofNat 14 (g / 2 ^ 48)
  match serial with
  | some x => noteSent l k dst (g % 2 ^ 48) x false 1 issue
  | none => pure ()
  let typ := match windowOf (g % 2 ^ 48) with
    | .registers _ => Ty.wr
    | _ => Ty.pwr
  let r ← sendRequest { p with typ, len := BitVec.ofNat 16 bs.length, dst, addr := BitVec.ofNat 64 (g % 2 ^ 48), data := bs }
    (purpose serial)
  match r, rel with
  | some t, some x => emit (.relTags dst t [x])
  | _, _ => pure ()
  if r.isNone then
    storeFault l k Status.noRoute g op
    match (← getCtx l k).job, serial with
    | some j, some x => noteAnswer j x dst Status.noRoute
    | _, _ => pure ()

/-- The pieces of a read put together by address. -/
def gathered (got : List (Nat × List Byte)) : List Byte :=
  ((got.insertionSort (fun a b => a.1 ≤ b.1)).map (·.2)).flatten

/-- Give what a packet brought to the next packet of the same read, or answer the whole when there is none. -/
def gatherOr (r : Req) (data : List Byte) (whole : List Byte → M s0 Unit) : M s0 Unit := do
  let got := r.got ++ [(r.addr, data)]
  match (← st).reqs.find? (fun x => x.purpose == r.purpose) with
  | some x => eff (.reqs ((← st).reqs.map (fun y => if y.tag = x.tag then { y with got := y.got ++ got } else y)))
  | none => whole (gathered got)

/-- A load or atomic of a context is answered: its slot goes on with the status and the bytes. -/
def answerLoad (l k first status : Nat) (bs : List Byte) : M s0 Unit := do
  let c ← getCtx l k
  if c.wait = .response first then
    setCtx l k { c with wait := .none, answer := some (status, bs) }

/-- A packet of a DMA channel has been answered. -/
def dmaAnswered (l ch : Nat) : M s0 Unit := do
  let d ← getDma l ch
  setDma l ch { d with outstanding := d.outstanding - 1 }

/-- A BAR read of the host is answered: data; poisoned data for POISON, CHECK_FAIL, SIZE_MISMATCH and GEN_MISSING; Completer Abort for every other
status. A failed access is counted and shown in HOST_ERR (R460). -/
def hostReply (status : Nat) (bs : List Byte) (write : Bool) (g : Nat) : M s0 Unit := do
  if status = 0 then (if write then pure () else emit (.barReply 0 bs))
  else
    countSat R.HOST_CNT_FAILED
    setF R.HOST_ERR_STATUS status
    setF R.HOST_ERR_WRITE (bit write)
    setF R.HOST_ERR_ADDR (g / 64)
    setF R.HOST_ERR_VALID 1
    if !write then emit (if statusClassD status then .barReply 1 bs else .barReply 2 [])

/-- A request has ended with a status: what its sender does (R367). The request is no longer outstanding. -/
def finishReq (r : Req) (status : Nat) (data : List Byte) : M s0 Unit := do
  countStatus status r.chip.toNat
  let g := r.chip.toNat * 2 ^ 48 + r.addr
  match r.purpose with
  | .load l k skip len first =>
    if status = 0 then gatherOr r data (fun bs => answerLoad l k first 0 (slice bs skip len))
    else
      dropReqs (· == r.purpose)
      answerLoad l k first status []
  | .early l k =>
    if status = 0 then modCtx l k (fun c => { c with early := some (g, slice data 0 8, c.earlyTags), earlyTags := [] })
  | .store l k serial _ op =>
    if status ≠ 0 then storeFault l k status g op
    match (← getCtx l k).job, serial with
    | some j, some x => noteAnswer j x r.chip status
    | _, _ => pure ()
  | .dmaRead l ch _ _ _ =>
    if status ≠ 0 then
      let d ← getDma l ch
      let others := ((← st).reqs.filter (fun x => x.purpose == r.purpose)).length
      dropReqs (· == r.purpose)
      if !statusClassD status then storeFault l d.slot status g d.op
      setDma l ch { d with failed := if d.failed.isSome then d.failed else some g, outstanding := d.outstanding - others }
    dmaAnswered l ch
  | .dmaWrite l ch serial =>
    let d ← getDma l ch
    if status ≠ 0 then storeFault l d.slot status g d.op
    match (← getCtx l d.slot).job, serial with
    | some j, some x => noteAnswer j x r.chip status
    | _, _ => pure ()
    dmaAnswered l ch
  | .hostRead skip len _ =>
    if status = 0 then gatherOr r data (fun bs => hostReply 0 (slice bs skip len) false g)
    else
      dropReqs (· == r.purpose)
      hostReply status (List.replicate len 0) false g
  | .hostWrite => hostReply status [] true g
  | .kv n k =>
    let row ← getRow n k
    if status = 0 then
      if row.flight = 2 then
        let now ← st
        match (List.range row.slots.length).find? (fun i =>
            let a := slotAddr now (row.slots.getD i 0)
            decide (a ≤ r.addr) && decide (r.addr < a + 65536)) with
        | some i =>
          let a := slotAddr (← st) (row.slots.getD i 0)
          let _ ← wrGddr (row.reserved.getD i 0 * 65536 + (r.addr - a)) data
        | none => pure ()
      if !(← st).reqs.any (fun x => x.purpose == r.purpose) then
        if row.flight = 1 then spillDone n k 0 else fetchDone n k 0 none
    else
      dropReqs (· == r.purpose)
      if row.flight = 1 then spillDone n k status else fetchDone n k status none
  | .fetch which skip len _ =>
    let found (d : Option (List Byte)) : M s0 Unit := do
      let x := (← st).rst
      eff (.rst { x with reads := x.reads.map (fun f => if f.which = which then { f with result := some d } else f) })
    if status = 0 then gatherOr r data (fun bs => found (some (slice bs skip len)))
    else
      dropReqs (· == r.purpose)
      found none
  | .kvIds skip len _ =>
    if status = 0 then gatherOr r data (fun bs => kvIdsCome (some (idsOf (slice bs skip len))))
    else
      dropReqs (· == r.purpose)
      kvIdsCome none
  | .segment j =>
    -- the tree is cut where the other end cannot be reached: the member holds (R54, R60)
    if status = Status.noRoute ∨ status = Status.peerReset then holdJob j (statusCause status) (← ownChip)
    else if status ≠ 0 then
      recordConj j (if statusClassD status then 1 else 2) status
      if statusClassD status then jobFaultD j else jobFaultH j 9
  | .message j => if status = Status.noRoute ∨ status = Status.peerReset then holdJob j (statusCause status) (← ownChip)
  | .confirm j => if status = Status.noRoute ∨ status = Status.peerReset then holdJob j (statusCause status) (← ownChip)
  | .agent => pure ()

/-- End an outstanding request. -/
def endReq (r : Req) (status : Nat) (data : List Byte) : M s0 Unit := do
  eff (.reqs (eraseFirst r (← st).reqs))
  finishReq r status data

end Sys2Proof.Machine
end

