-- ==== Sys2Proof/Machine/Changes.lean ====
section
/-! DEFINITION. The register of changes (R515 to R518), keys (R504, R505), the mood (R510 to R513, R524) and what follows
from a change of it. -/

namespace Sys2Proof.Machine

open Sys2Proof

variable {s0 : State}

/-! Keys. -/

/-- The 32 bytes of a key. -/
def keyBytes (k : BitVec 256) : List Byte := leBytes 32 k.toNat

/-- The KEY_ID of a key (R504). -/
def keyIdOf (k : BitVec 256) : Nat := (sha512 (keyBytes k)).toNat % 2 ^ 64

/-- The first key of a list with a KEY_ID, and its slot; an empty slot holds zero. -/
def keyNamed (ks : List (BitVec 256)) (id : Nat) : Option (Nat × BitVec 256) :=
  (ks.zipIdx.find? (fun k => k.1 != 0 && keyIdOf k.1 == id)).map (fun k => (k.2, k.1))

/-- The keys of a role: 0 maker, 1 installer, 2 operator. -/
def roleKeysIn (s : State) (role : Nat) : List (BitVec 256) :=
  if role = 0 then (List.range 4).map Config.makerKey else if role = 1 then s.sec.installer else s.sec.operator

/-- A list of slots with one set; missing slots are empty. -/
def setSlot (ks : List (BitVec 256)) (n i : Nat) (k : BitVec 256) : List (BitVec 256) :=
  (List.range n).map (fun x => if x = i then k else ks.getD x 0)

/-- One bit a slot that holds a key. -/
def slotMask (ks : List (BitVec 256)) : Nat :=
  (ks.zipIdx.map (fun k => if k.1 = 0 then 0 else 2 ^ k.2)).sum

/-- Show the enrolled keys and the site record in their registers (R524, R525). -/
def showKeys : M s0 Unit := do
  let s ← st
  setF R.SEC_KEYS_INSTALLERS (slotMask s.sec.installer)
  setF R.SEC_KEYS_OPERATORS (slotMask s.sec.operator)
  setF R.DEV_MOOD_SITE (if s.sec.site.isSome then 1 else 0)

/-! The mood. -/

/-- The mood number (R513). -/
def moodOf (sec debug power : Nat) : Nat := 15 * sec + 5 * debug + power

/-- Show the mood number and whether it taints (R524). -/
def showMood : M s0 Unit := do
  let s ← st
  let n := moodOf (fieldIn s R.DEV_MOOD_SEC 0 0) (fieldIn s R.DEV_MOOD_DEBUG 0 0) (fieldIn s R.DEV_MOOD_POWER 0 0)
  setF R.DEV_MOOD_MOOD n
  setF R.DEV_MOOD_TAINT (if n = 40 ∨ n = 41 ∨ n = 42 then 1 else 0)

/-- Let a core that was held go on. -/
def resumeCore (l : Nat) : M s0 Unit := do
  setF R.SEC_HALT_HALT 0 l
  setF R.SEC_HALT_HALTED 0 l
  modCore l (fun c => { c with stepping := false })
  if (← getF R.CORE_STATUS_RUN l) = 2 then
    setF R.CORE_STATUS_RUN 0 l
    wakeCore l

/-- Set the debug state (R510). A change of it by this ends a grant. Leaving Intrusive lets every halted core go on; entering
it in Operating taints the open tenses (R512, R514); in Closed no release tag is kept (R323). -/
def setDebug (d : Nat) : M s0 Unit := do
  let s ← st
  setF R.DEV_MOOD_DEBUG d
  if d = 0 then
    for t in s.relTags do
      eff (.relTag t.1 none)
  setF R.SEC_GRANT_NOT_AFTER 0
  eff (.sec { s.sec with grantKey := none })
  showMood
  if fieldIn s R.DEV_MOOD_DEBUG 0 0 = 2 ∧ d ≠ 2 then
    for l in List.range 144 do
      if (← getF R.SEC_HALT_HALT l) = 1 then resumeCore l
  if (← getF R.DEV_MOOD_TAINT) = 1 then
    for j in List.range 16 do
      modJob j (fun v => if v.isOpen then { v with tainted := true } else v)

/-- Set the security state: the debug state closes and a grant ends (R507). -/
def setSecurity (x : Nat) : M s0 Unit := do
  setF R.DEV_MOOD_SEC x
  setDebug 0

/-- Whether a power state is among P0 to P(max), the debug and the security state among those listed (R514). -/
def moodAllows (s : State) (secs debugs : List Nat) (maxPower : Nat) : Bool :=
  secs.contains (fieldIn s R.DEV_MOOD_SEC 0 0) && debugs.contains (fieldIn s R.DEV_MOOD_DEBUG 0 0) &&
  decide (fieldIn s R.DEV_MOOD_POWER 0 0 ≤ maxPower)

/-! The register of changes. -/

/-- An entry before it has its place: INDEX, TIME, PREV and CHECK are zero. -/
def entryBody (kind role mood keyId subject : Nat) (detail : List Byte) : List Byte :=
  leBytes 16 0 ++ leBytes 2 kind ++ leBytes 1 role ++ leBytes 1 mood ++ leBytes 4 0 ++ leBytes 8 keyId ++ leBytes 64 subject ++
  leBytes 64 0 ++ slice detail 0 32 ++ leBytes 64 0

/-- Write an entry at the head: its INDEX, TIME, PREV and CHECK (R515), and the registers that show the head. -/
def sealEntry (body : List Byte) : M s0 Unit := do
  let s ← st
  let n := s.log.length
  let prev := (List.range 8).flatMap (fun i => leBytes 8 (FMap.get resetValue s.regs (R.SEC_HEAD_HEAD.addr i 0)).toNat)
  let e := patch (patch (patch body 0 (leBytes 8 n)) 8 (leBytes 8 (fabricNsIn s))) 96 prev
  let e := slice e 0 252 ++ leBytes 4 (agree (slice e 0 252)).toNat
  eff (.log e)
  setF R.SEC_LOG_INDEX n
  let head := sha512 e
  for i in List.range 8 do
    wrReg (R.SEC_HEAD_HEAD.addr i 0) (BitVec.ofNat 64 (head.toNat / 2 ^ (64 * i)))

/-- Entries of a segment of the flash. -/
def segmentEntries : Nat := 131072

/-- Begin the other segment when the active one is full (R517): its first entry has kind 8. -/
def startSegment : M s0 Unit := do
  let s ← st
  let n := s.log.length
  if n % segmentEntries = 0 ∧ 0 < n then
    let first ← (if 2 * segmentEntries ≤ n then return n - 2 * segmentEntries else return (← freeWord).toNat)
    sealEntry (entryBody 8 0xFF (fieldIn s R.DEV_MOOD_MOOD 0 0) 0 0 (leBytes 8 first))
    eff (.sec { (← st).sec with firstHeld := n - segmentEntries })

/-- How many entries of a chain are good, from one whose PREV is the digest given: their CHECK is right and their PREV matches (R518). -/
def goodEntries (prev : List Byte) : List (List Byte) → Nat
  | [] => 0
  | e :: es =>
    if fieldAt e 252 4 = (agree (slice e 0 252)).toNat ∧ slice e 96 64 = prev then 1 + goodEntries (leBytes 64 (sha512 e).toNat) es else 0

/-- The firmware takes the head as the last entry whose CHECK is right and whose PREV matches, and rebuilds the security state from it
(R505, R518). The key slots, the site record and the installed cap stand in State as the commands left them, for an entry shows too
little of a payload to rebuild them from (log entry 21). -/
def rebuildLog : M s0 Unit := do
  let s ← st
  let n := goodEntries (List.replicate 64 0) s.log
  match (if n = 0 then none else s.log[n - 1]?) with
  | some e =>
    setF R.SEC_LOG_INDEX (n - 1)
    let head := sha512 e
    for i in List.range 8 do
      wrReg (R.SEC_HEAD_HEAD.addr i 0) (BitVec.ofNat 64 (head.toNat / 2 ^ (64 * i)))
    setF R.DEV_MOOD_SEC (fieldAt e 19 1 / 15)
    showMood
  | none => pure ()

/-- Write an entry to the flash, or answer that the flash fails. -/
def writeChange (body : List Byte) : M s0 Bool := do
  if (← st).sec.flashBad then return false
  startSegment
  sealEntry body
  return true

/-- An entry for a change that has taken effect (R518): kept unwritten while the flash fails, up to 16 of them. -/
def noteChange (kind role keyId subject : Nat) (detail : List Byte) : M s0 Unit := do
  let s ← st
  let body := entryBody kind role (fieldIn s R.DEV_MOOD_MOOD 0 0) keyId subject detail
  let ok ← writeChange body
  if !ok then
    setF R.SEC_LOG_FAULT 1
    let u := (s.sec.unwritten ++ [body]).take 16
    eff (.sec { s.sec with unwritten := u })
    setF R.SEC_LOG_PENDING u.length

/-- A signed command or a load of another kind runs (R508). -/
def loadRunsIn (s : State) : Bool := s.load.isSome

/-- The 64 bytes of a digest as a number's bytes. -/
def digestBytes (d : BitVec 512) : List Byte := leBytes 64 d.toNat

/-- The digest that a stream's or command's signature covers, and whether the signature in the last 64 bytes is right
(R64, R506). -/
def signedBy (key : BitVec 256) (bs : List Byte) : Bool :=
  let n := bs.length
  ed25519Verify key (digestBytes (sha512 (bs.take (n - 64)))) (BitVec.ofNat 512 (fieldAt bs (n - 64) 64))

end Sys2Proof.Machine
end

