-- ==== Sys2Proof/Machine/Stream.lean ====
section
/-! DEFINITION. The Aqkai stream (R61 to R91, R544): its checks in order with the error, directory index and byte offset of
the first that fails; the reserved area; and the steps of a load. -/

namespace Sys2Proof.Machine

open Sys2Proof

variable {s0 : State}

/-! The values of AQ_STATUS.ERR (R90). -/

def AqErr.busy : Nat := 0x01
def AqErr.power : Nat := 0x02
def AqErr.mood : Nat := 0x03
def AqErr.source : Nat := 0x04
def AqErr.size : Nat := 0x05
def AqErr.keyUnknown : Nat := 0x06
def AqErr.signature : Nat := 0x07
def AqErr.header : Nat := 0x08
def AqErr.target : Nat := 0x09
def AqErr.section : Nat := 0x0A
def AqErr.coreUnavailable : Nat := 0x0B
def AqErr.clause : Nat := 0x0C
def AqErr.join : Nat := 0x0D
def AqErr.region : Nat := 0x0E
def AqErr.route : Nat := 0x0F
def AqErr.format : Nat := 0x10
def AqErr.kvpol : Nat := 0x11
def AqErr.tree : Nat := 0x12
def AqErr.quota : Nat := 0x13
def AqErr.baseMismatch : Nat := 0x14
def AqErr.notReloadable : Nat := 0x15

/-- A check's failure: error, directory index (0xFF for header, directory and signature), byte offset. -/
abbrev Rejection := Nat × Nat × Nat

/-- Fail unless the condition holds. -/
def chk (b : Bool) (err sec off : Nat) : Except Rejection Unit := if b then .ok () else .error (err, sec, off)

/-- Fail, at byte `a`, unless the field of bytes `a` to `b − 1` is zero. -/
def chkZero (d : List Byte) (a b err sec : Nat) : Except Rejection Unit := chk (zeros d a (b - a)) err sec a

/-- Bytes up to a multiple of 64. -/
def pad64 (n : Nat) : Nat := (n + 63) / 64 * 64

/-! Header and directory (R62, R63, R65). -/

/-- A directory entry: type, records, offset, length. -/
structure SecEntry where
  typ : Nat
  records : Nat
  off : Nat
  len : Nat
  deriving DecidableEq, Repr

/-- Bytes a record of a section takes; 0 where R544 counts otherwise. -/
def recordSize (t : Nat) : Nat :=
  if t = 1 then 64 else if t = 2 ∨ t = 3 then 32 else if t = 4 ∨ t = 7 ∨ t = 9 then 16 else 0

/-- Whether a section is reloadable. -/
def reloadable (t : Nat) : Bool := t == 1 || t == 5 || t == 7 || t == 9

/-- The active digest, as the AQ_DIGEST registers hold it. -/
def activeDigestIn (s : State) : BitVec 512 :=
  BitVec.ofNat 512 ((List.range 8).map (fun i => fieldIn s R.AQ_DIGEST_DIGEST i 0 * 2 ^ (64 * i))).sum

/-- The checks of R83 steps 1 and 2 and of the header. -/
def checkHeader (s : State) (d : List Byte) (part : Bool) : Except Rejection Unit := do
  let n := d.length
  chk (fieldAt d 8 4 == n) AqErr.size 0xFF 8
  match keyNamed s.sec.operator (fieldAt d 24 8) with
  | none => .error (AqErr.keyUnknown, 0xFF, 24)
  | some (_, key) => chk (signedBy key d) AqErr.signature 0xFF (n - 64)
  chk (fieldAt d 0 4 == 0x534B5141) AqErr.header 0xFF 0
  chk (fieldAt d 4 2 == 1) AqErr.header 0xFF 4
  chk (fieldAt d 6 1 == (if part then 1 else 0)) AqErr.header 0xFF 6
  chk (1 ≤ fieldAt d 7 1 && fieldAt d 7 1 ≤ 16) AqErr.header 0xFF 7
  chk (fieldAt d 12 2 == fieldIn s R.DEV_ID_PRODUCT 0 0) AqErr.target 0xFF 12
  chk (fieldAt d 14 1 < 4) AqErr.header 0xFF 14
  chk (bitN (fieldAt d 14 1) (if fieldIn s R.DEV_ID_ORDER 0 0 = 2 then 1 else 0)) AqErr.target 0xFF 14
  chk (fieldAt d 15 1 ≤ fieldIn s R.DEV_ID_STEPPING 0 0) AqErr.target 0xFF 15
  if part then chk (s.stream.isSome && fieldAt d 32 64 == (activeDigestIn s).toNat) AqErr.baseMismatch 0xFF 32
  else chkZero d 32 96 AqErr.header 0xFF
  chkZero d 96 128 AqErr.header 0xFF

/-- The checks of the directory; its entries. A mandatory section that is missing is reported at the first entry, byte 128, which the manual
leaves open. The manual does not say either whether bytes between the padded end of a section and the next section's offset must be zero: they are not
looked at. DESIGN CHOICE (log entry 32). -/
def checkDirectory (d : List Byte) (part : Bool) : Except Rejection (List SecEntry) := do
  let n := d.length
  let count := fieldAt d 7 1
  let dend := 128 + pad64 (16 * count)
  chk (dend ≤ n - 64) AqErr.section 0xFF 7
  chkZero d (128 + 16 * count) dend AqErr.section 0xFF
  let (es, _) ← (List.range count).foldlM (fun (acc : List SecEntry × Nat) i => do
    let b := 128 + 16 * i
    let e : SecEntry := ⟨fieldAt d b 1, fieldAt d (b + 4) 4, fieldAt d (b + 8) 4, fieldAt d (b + 12) 4⟩
    chk (1 ≤ e.typ && e.typ ≤ 9 && !acc.1.any (fun x => x.typ == e.typ)) AqErr.section 0xFF b
    chk (!part || reloadable e.typ) AqErr.notReloadable 0xFF b
    chk (fieldAt d (b + 1) 1 == 1) AqErr.section 0xFF (b + 1)
    chkZero d (b + 2) (b + 4) AqErr.section 0xFF
    chk (e.off % 64 == 0 && acc.2 ≤ e.off) AqErr.section 0xFF (b + 8)
    chk (e.off + pad64 e.len ≤ n - 64) AqErr.section 0xFF (b + 12)
    if e.typ = 1 then chk (e.records == 1) AqErr.section 0xFF (b + 4)
    if e.typ = 5 then
      chk (e.records == 48) AqErr.section 0xFF (b + 4)
      chk (e.len == 1216) AqErr.section 0xFF (b + 12)
    if recordSize e.typ ≠ 0 then chk (e.len == e.records * recordSize e.typ) AqErr.section 0xFF (b + 12)
    return (acc.1 ++ [e], e.off + pad64 e.len)) ([], dend)
  if !part then
    for t in [1, 2, 4, 6] do
      chk (es.any (fun e => e.typ == t)) AqErr.section 0xFF 128
  return es

/-! The sections. Each answers its records with the byte offset of each, for the rules between sections. -/

/-- GEN (R66): PROOF_SHIFT and QUOTA_DEFAULT. -/
def parseGen (d : List Byte) (o i : Nat) : Except Rejection (Nat × Nat) := do
  let p := fieldAt d o 1
  chk (p == 0 || (8 ≤ p && p ≤ 20)) AqErr.section i o
  chkZero d (o + 1) (o + 2) AqErr.section i
  chk (fieldAt d (o + 2) 2 != 0) AqErr.section i (o + 2)
  chkZero d (o + 4) (o + 64) AqErr.section i
  return (p, fieldAt d (o + 2) 2)

/-- CLAUSE (R67 to R69). In what order the rules of one record are looked at, here bytes 26 to 31 before CORES, the manual does not say; it
decides what is reported of a record with two faults, as it does for lanes, regions, trees and the directory's padding. DESIGN CHOICE (log
entry 32). -/
def parseClauses (s : State) (d : List Byte) (o n i : Nat) : Except Rejection (List Clause) :=
  (List.range n).foldlM (fun (acc : List Clause) r => do
    let b := o + 32 * r
    let c := fieldAt d b 1
    chk (!acc.any (fun x => x.num == c)) AqErr.clause i b
    chk (fieldAt d (b + 1) 1 < 2) AqErr.clause i (b + 1)
    chk (1 ≤ fieldAt d (b + 2) 1 && fieldAt d (b + 2) 1 ≤ 16) AqErr.clause i (b + 2)
    chkZero d (b + 3) (b + 8) AqErr.clause i
    chkZero d (b + 26) (b + 32) AqErr.clause i
    let map := fieldAt d (b + 8) 18
    let cores := (List.range 144).filter (fun l => bitN map l)
    chk (!cores.isEmpty) AqErr.clause i (b + 8)
    for l in cores do
      chk (!acc.any (fun x => x.cores.contains l)) AqErr.clause i (b + 8)
      chk (boundIn s l) AqErr.coreUnavailable i (b + 8)
    return acc ++ [⟨c, fieldAt d (b + 1) 1 == 1, fieldAt d (b + 2) 1, cores⟩]) []

/-- JOIN (R70), the record's own rules. -/
def parseJoins (d : List Byte) (o n i : Nat) : Except Rejection (List JoinRec) :=
  (List.range n).foldlM (fun (acc : List JoinRec) r => do
    let b := o + 32 * r
    let x (k : Nat) : Nat := fieldAt d (b + k) 1
    chk (x 0 < 64 && !acc.any (fun y => y.num == x 0)) AqErr.join i b
    chk (1 ≤ x 2 && x 2 ≤ 16) AqErr.join i (b + 2)
    chk (1 ≤ x 3 && x 3 ≤ 16) AqErr.join i (b + 3)
    chk (x 5 < 2) AqErr.join i (b + 5)
    chkZero d (b + 6) (b + 32) AqErr.join i
    return acc ++ [⟨x 0, x 1, x 2, x 3, x 4, x 5 == 1⟩]) []

/-- The columns a two-dimensional region may have (R259). -/
def legalCols : List Nat := [128, 256, 512, 1024, 2048, 4096]

/-- SPAD (R71, R72, R259), the record's own rules. -/
def parseRegions (d : List Byte) (o n i : Nat) : Except Rejection (List Region) :=
  (List.range n).foldlM (fun (acc : List Region) r => do
    let b := o + 16 * r
    let v := fieldAt d b 8
    let x : Region := ⟨bitsN v 0 8, bitsN v 8 8, bitN v 16, bitN v 17, bitsN v 18 8, bitsN v 26 9, bitsN v 35 13, bitsN v 48 16⟩
    chk (!acc.any (fun y => y.clause == x.clause && y.num == x.num)) AqErr.region i (b + 1)
    chk (1 ≤ x.size && x.size ≤ 256 && x.base + x.size ≤ 256) AqErr.region i (b + 3)
    chk (if x.twoDim then legalCols.contains x.cols else x.cols == 0) AqErr.region i (b + 4)
    chkZero d (b + 8) (b + 16) AqErr.region i
    return acc ++ [x]) []

/-- The first entry of a route table that breaks a rule that needs coordinates (R385): the module's own group's entry is
zero, and an entry that names its own slot uses a pair whose lanes are global. -/
def routeFault (lanes : List LaneRec) (raw : List Nat) (group slot : Nat) : Option Nat :=
  let role (l : Nat) : Nat := (lanes.getD l ⟨0, false, false, 0⟩).role
  let glob (p : Nat) : Bool := role (6 * p + 4) == 2 && role (6 * p + 5) == 2
  if raw.getD group 0 ≠ 0 then some group
  else raw.findIdx? (fun e =>
    (bitN e 9 && bitsN e 0 6 == slot && !glob (bitsN e 6 3)) || (bitN e 19 && bitsN e 10 6 == slot && !glob (bitsN e 16 3)))

/-- A route table entry of its 32 bits (R384). -/
def routeEntry (v : Nat) : RouteEntry := ⟨bitsN v 0 6, bitsN v 6 3, bitN v 9, bitsN v 10 6, bitsN v 16 3, bitN v 19⟩

/-- The 32 bits of a route table entry. -/
def routeBits (e : RouteEntry) : Nat :=
  e.slot + e.pair * 2 ^ 6 + (if e.valid then 2 ^ 9 else 0) + e.aslot * 2 ^ 10 + e.apair * 2 ^ 16 + (if e.avalid then 2 ^ 19 else 0)

/-- ROUTE (R75, R368, R379, R384, R385). -/
def parseRoute (s : State) (d : List Byte) (o i : Nat) : Except Rejection (List LaneRec × List RouteEntry) := do
  let lanes ← (List.range 48).foldlM (fun (acc : List LaneRec) l => do
    let b := o + 4 * l
    let v := fieldAt d b 4
    let x : LaneRec := ⟨bitsN v 0 2, bitN v 2, bitN v 3, bitsN v 4 4⟩
    chkZero d (b + 1) (b + 4) AqErr.route i
    chk (x.role == 0 || x.role == (if l % 6 < 4 then 1 else 2)) AqErr.route i b
    match l % 2, acc.getLast? with
    | 1, some p => chk (p.role == x.role && p.port == x.port) AqErr.route i b
    | _, _ => pure ()
    return acc ++ [x]) []
  let raw ← (List.range 256).foldlM (fun (acc : List Nat) h => do
    let b := o + 192 + 4 * h
    let v := fieldAt d b 4
    chk (v < 2 ^ 20) AqErr.route i (b + 2)
    chk (bitN v 9 || !bitN v 19) AqErr.route i (b + 2)
    chk (!bitN v 19 || !(bitsN v 10 6 == bitsN v 0 6 && bitsN v 16 3 == bitsN v 6 3)) AqErr.route i (b + 1)
    return acc ++ [v]) []
  if fieldIn s R.CJ_COORD_SET 0 0 = 1 then
    match routeFault lanes raw (fieldIn s R.CJ_COORD_GROUP 0 0) (fieldIn s R.CJ_COORD_SLOT 0 0) with
    | some h => .error (AqErr.route, i, o + 192 + 4 * h)
    | none => .ok ()
  return (lanes, raw.map routeEntry)

/-- FMT (R76): the blocks with their offsets. That RECORDS or SLENGTH of its directory entry does not match is found as the section is read,
after the sections before it, and reported at the entry's SLENGTH (R544, log entry 32). -/
def parseFmts (d : List Byte) (o len n i : Nat) : Except Rejection (List (FmtBlock × Nat)) := do
  let (bs, at') ← (List.range n).foldlM (fun (acc : List (FmtBlock × Nat) × Nat) _ => do
    let b := acc.2
    chk (b + 144 ≤ o + len) AqErr.section 0xFF (128 + 16 * i + 12)
    let c := fieldAt d b 1
    chk (!acc.1.any (fun x => x.1.clause == c)) AqErr.format i b
    chkZero d (b + 1) (b + 2) AqErr.format i
    let k := fieldAt d (b + 2) 2
    chk (1 ≤ k && k ≤ 256) AqErr.format i (b + 2)
    chkZero d (b + 4) (b + 16) AqErr.format i
    chk (b + 144 + 8 * k ≤ o + len) AqErr.section 0xFF (128 + 16 * i + 12)
    let es ← (List.range k).foldlM (fun (es : List FmtEntry) e => do
      let a := b + 144 + 8 * e
      let v := fieldAt d a 8
      match Fmt.ofCode (bitsN v 0 8) with
      | none => .error (AqErr.format, i, a)
      | some f =>
        chk (bitsN v 8 2 != 3) AqErr.format i (a + 1)
        chk (bitN v 14 == f.block && v < 2 ^ 15) AqErr.format i (a + 1)
        return es ++ [⟨bitsN v 0 8, bitsN v 8 2, bitsN v 10 4⟩]) ([] : List FmtEntry)
    let seeds := (List.range 16).map (fun k => BitVec.ofNat 64 (fieldAt d (b + 16 + 8 * k) 8))
    return (acc.1 ++ [(⟨c, seeds, es⟩, b)], b + 144 + 8 * k)) (([] : List (FmtBlock × Nat)), o)
  chk (at' == o + len) AqErr.section 0xFF (128 + 16 * i + 12)
  return bs

/-- KVPOL (R77). -/
def parsePolicies (d : List Byte) (o n i : Nat) : Except Rejection (List Policy) :=
  (List.range n).foldlM (fun (acc : List Policy) r => do
    let b := o + 16 * r
    let x (k : Nat) : Nat := fieldAt d (b + k) 1
    chk (x 0 < 64 && !acc.any (fun y => y.num == x 0)) AqErr.kvpol i b
    chk (x 1 < 2) AqErr.kvpol i (b + 1)
    chk (x 2 < 16) AqErr.kvpol i (b + 2)
    chk (x 4 < 2) AqErr.kvpol i (b + 4)
    chkZero d (b + 5) (b + 6) AqErr.kvpol i
    chk (x 7 < 64) AqErr.kvpol i (b + 7)
    chk (10 ≤ fieldAt d (b + 8) 2) AqErr.kvpol i (b + 8)
    chkZero d (b + 10) (b + 16) AqErr.kvpol i
    return acc ++ [⟨x 0, x 1 == 1, x 2, x 3, x 4 == 1, fieldAt d (b + 6) 2, fieldAt d (b + 8) 2⟩]) []

/-- CONJ (R78). A mismatch of RECORDS or SLENGTH is found and reported as for FMT (R544, log entry 32). A tree with no root or with several is
reported at the NODES field of its header: DESIGN CHOICE (log entry 32). -/
def parseTrees (d : List Byte) (o len n i : Nat) : Except Rejection (List Tree) := do
  let (ts, at') ← (List.range n).foldlM (fun (acc : List Tree × Nat) _ => do
    let b := acc.2
    chk (b + 32 ≤ o + len) AqErr.section 0xFF (128 + 16 * i + 12)
    let num := fieldAt d b 2
    chk (!acc.1.any (fun x => x.num == num)) AqErr.tree i b
    let k := fieldAt d (b + 2) 2
    chk (1 ≤ k && k ≤ 512) AqErr.tree i (b + 2)
    chk (fieldAt d (b + 4) 1 < 16) AqErr.tree i (b + 4)
    let fan := fieldAt d (b + 5) 1
    chk (2 ≤ fan && fan ≤ 16) AqErr.tree i (b + 5)
    chkZero d (b + 6) (b + 8) AqErr.tree i
    let hold := fieldAt d (b + 8) 4
    chk (hold == 0 || (2 ≤ hold && hold ≤ 1000)) AqErr.tree i (b + 8)
    chkZero d (b + 12) (b + 32) AqErr.tree i
    chk (b + 32 + 4 * k ≤ o + len) AqErr.section 0xFF (128 + 16 * i + 12)
    let nodes ← (List.range k).foldlM (fun (ns : List (Nat × Option Nat)) j => do
      let a := b + 32 + 4 * j
      let v := fieldAt d a 4
      chk (bitsN v 14 2 == 0) AqErr.tree i (a + 1)
      chk (v < 2 ^ 26) AqErr.tree i (a + 3)
      let p := bitsN v 16 10
      if p = 0x3FF then return ns ++ [(bitsN v 0 14, none)]
      else
        chk (p < j) AqErr.tree i (a + 2)
        chk ((ns.filter (fun x => x.2 == some p)).length < fan) AqErr.tree i (a + 2)
        return ns ++ [(bitsN v 0 14, some p)]) ([] : List (Nat × Option Nat))
    chk ((nodes.filter (fun x => x.2.isNone)).length == 1) AqErr.tree i (b + 2)
    let rerun := fieldAt d (b + 4) 1
    return (acc.1 ++ [⟨num, if rerun = 0 then 3 else rerun, fan, if hold = 0 then 20 else hold, nodes⟩], b + 32 + 4 * k))
    (([] : List Tree), o)
  chk (at' == o + len) AqErr.section 0xFF (128 + 16 * i + 12)
  return ts

/-- QUOTA (R79), the record's own rules. A second record for one context, of which the manual says nothing, rejects the load with QUOTA: DESIGN
CHOICE (log entry 32). -/
def parseQuotas (d : List Byte) (o n i : Nat) : Except Rejection (List Quota) :=
  (List.range n).foldlM (fun (acc : List Quota) r => do
    let b := o + 16 * r
    let v := fieldAt d b 16
    let q : Quota := ⟨bitsN v 0 8, bitsN v 8 4, bitsN v 16 16, bitsN v 32 48⟩
    chk (!acc.any (fun y => y.clause == q.clause && y.context == q.context)) AqErr.quota i b
    chk (bitsN v 12 4 == 0) AqErr.quota i (b + 1)
    chk (q.quota != 0) AqErr.quota i (b + 2)
    chk (q.save % 4096 == 0) AqErr.quota i (b + 4)
    chkZero d (b + 10) (b + 16) AqErr.quota i
    return acc ++ [q]) []

/-! Rules between sections (R70, R72, R76, R80, R85, R86, R260). -/

/-- The bytes a context's save area takes (R80). -/
def areaSize (c : Clause) (rs : List Region) (k : Nat) : Nat :=
  c.cores.length * (2 ^ 20 + ((rs.filter (fun r => r.clause == c.num && r.contexts == 2 ^ k)).map (fun r => r.size * 65536)).sum)

/-- The local blocks that a span reaches, as (controller, first, end); controller 32 stands for every controller. None where
the span does not lie inside one range (R80, R283, R311). -/
def spanBlocks (blocks o n : Nat) : Option (List (Nat × Nat × Nat)) :=
  if o + n ≤ blocks * 8192 then
    let b0 := o / 256
    let b1 := (o + n + 255) / 256
    let l0 := (b0 + 31) / 32
    let l1 := b1 / 32
    let one (b : Nat) : Nat × Nat × Nat := ((interleave (b * 256)).1, b / 32, b / 32 + 1)
    if l0 < l1 then
      some ((32, l0, l1) :: ((List.range (32 * l0 - b0)).map (fun x => one (b0 + x)) ++
        (List.range (b1 - 32 * l1)).map (fun x => one (32 * l1 + x))))
    else some ((List.range (b1 - b0)).map (fun x => one (b0 + x)))
  else if 0x100000000000 ≤ o then
    let k := (o - 0x100000000000) / 0x200000000
    let a := (o - 0x100000000000) % 0x200000000
    if k < 32 ∧ a + n ≤ blocks * 256 then some [(k, a / 256, (a + n + 255) / 256)] else none
  else none

/-- Whether two lists of local blocks share one. -/
def spansMeet (x y : List (Nat × Nat × Nat)) : Bool :=
  x.any (fun a => y.any (fun b => (a.1 == b.1 || a.1 == 32 || b.1 == 32) && decide (a.2.1 < b.2.2) && decide (b.2.1 < a.2.2)))

/-- The default save areas of R85, in order, and the lowest byte of them. -/
def layDefaults (capacity : Nat) (cs : List Clause) (rs : List Region) (qs : List Quota) : List (Nat × Nat × Nat) × Nat :=
  (cs.insertionSort (fun a b => a.num ≤ b.num)).foldl (fun acc c =>
    (List.range c.contexts).foldl (fun acc k =>
      if qs.any (fun q => q.clause == c.num && q.context == k) then acc
      else
        let at' := acc.2 - areaSize c rs k
        (acc.1 ++ [(c.num, k, at')], at')) acc) ([], capacity - 24 * 2 ^ 20)

/-- The rules of joins against clauses (R70). -/
def checkJoins (cs : List Clause) (js : List JoinRec) (o i : Nat) : Except Rejection Unit := do
  let _ ← js.foldlM (fun (acc : List (Nat × Nat) × Nat) j => do
    let b := o + 32 * acc.2
    match cs.find? (fun c => c.num == j.clause) with
    | none => .error (AqErr.join, i, b + 1)
    | some c =>
      chk (j.first + j.rows * j.cols ≤ c.cores.length) AqErr.join i (b + 4)
      let ranks := (List.range (j.rows * j.cols)).map (fun k => (j.clause, j.first + k))
      chk (!ranks.any acc.1.contains) AqErr.join i (b + 4)
      return (acc.1 ++ ranks, acc.2 + 1)) (([] : List (Nat × Nat)), 0)
  return ()

/-- The rules of regions against clauses and one another (R72, R260). -/
def checkRegions (cs : List Clause) (rs : List Region) (o i : Nat) : Except Rejection Unit := do
  let _ ← rs.foldlM (fun (acc : List Region) r => do
    let b := o + 16 * acc.length
    match cs.find? (fun c => c.num == r.clause) with
    | none => .error (AqErr.region, i, b)
    | some c =>
      chk (r.contexts < 2 ^ c.contexts) AqErr.region i (b + 6)
      for x in acc do
        if x.clause = r.clause ∧ overlaps x r then
          chk ((x.contexts &&& r.contexts) == 0) AqErr.region i (b + 6)
          chk (x.base == r.base && x.activation == r.activation && x.twoDim == r.twoDim) AqErr.region i (b + 2)
          chk (x.size == r.size) AqErr.region i (b + 3)
          chk (x.cols == r.cols) AqErr.region i (b + 4)
      return acc ++ [r]) ([] : List Region)
  return ()

/-- The rules of quota records against clauses, the reserved area and one another (R79, R80). -/
def checkQuotas (blocks base : Nat) (cs : List Clause) (rs : List Region) (qs : List Quota) (o i : Nat) : Except Rejection Unit := do
  let rsv := (spanBlocks blocks base (blocks * 8192 - base)).getD []
  let _ ← qs.foldlM (fun (acc : List (List (Nat × Nat × Nat))) q => do
    let b := o + 16 * acc.length
    match cs.find? (fun c => c.num == q.clause) with
    | none => .error (AqErr.quota, i, b)
    | some c =>
      chk (q.context < c.contexts) AqErr.quota i (b + 1)
      match spanBlocks blocks q.save (areaSize c rs q.context) with
      | none => .error (AqErr.quota, i, b + 4)
      | some sp =>
        chk (!spansMeet sp rsv && !acc.any (spansMeet sp)) AqErr.quota i (b + 4)
        return acc ++ [sp]) ([] : List (List (Nat × Nat × Nat)))
  return ()

/-- A section's entry with its directory index. -/
def sectionOf (es : List SecEntry) (t : Nat) : Option (SecEntry × Nat) := es.zipIdx.find? (fun e => e.1.typ == t)

/-- Zeros follow each section up to a multiple of 64 (R63). -/
def checkPadding (d : List Byte) (e : SecEntry) (i : Nat) : Except Rejection Unit :=
  chkZero d (e.off + e.len) (e.off + pad64 e.len) AqErr.section i

/-- What the sections of a stream hold, as far as they have been read. -/
structure Parsed where
  gen : Option (Nat × Nat) := .none
  clauses : List Clause := []
  joins : List JoinRec := []
  regions : List Region := []
  route : Option (List LaneRec × List RouteEntry) := .none
  fmts : List (FmtBlock × Nat) := []
  policies : Option (List Policy) := .none
  trees : List Tree := []
  quotas : Option (List Quota) := .none
  deriving DecidableEq, Repr

/-- Read one section. -/
def parseSection (s : State) (d : List Byte) (p : Parsed) (e : SecEntry × Nat) : Except Rejection Parsed := do
  let i := e.2
  let o := e.1.off
  let n := e.1.records
  let q ← (match e.1.typ with
    | 1 => do return { p with gen := some (← parseGen d o i) }
    | 2 => do return { p with clauses := ← parseClauses s d o n i }
    | 3 => do return { p with joins := ← parseJoins d o n i }
    | 4 => do return { p with regions := ← parseRegions d o n i }
    | 5 => do return { p with route := some (← parseRoute s d o i) }
    | 6 => do return { p with fmts := ← parseFmts d o e.1.len n i }
    | 7 => do return { p with policies := some (← parsePolicies d o n i) }
    | 8 => do return { p with trees := ← parseTrees d o e.1.len n i }
    | _ => do return { p with quotas := some (← parseQuotas d o n i) } : Except Rejection Parsed)
  checkPadding d e.1 i
  return q

/-- Forty-eight lanes off (R65). -/
def lanesOff : List LaneRec := List.replicate 48 ⟨0, false, false, 0⟩
/-- A route table without an entry. -/
def routesNone : List RouteEntry := List.replicate 256 ⟨0, 0, false, 0, 0, false⟩

/-- Offset and index of a section, for errors of rules between sections. -/
def placeOf (es : List SecEntry) (t : Nat) : Nat × Nat :=
  match sectionOf es t with
  | some e => (e.1.off, e.2)
  | none => (0, 0xFF)

/-- All checks of R83 steps 1 to 3 for a full load: the structure it gives and AQ_RSV.BASE. A clause without an FMT block is reported at the
FMT section's first byte; the half-range rule of R85 in a stream without a QUOTA section with SECTION 0xFF and OFFSET 0. DESIGN CHOICE (log
entry 32). -/
def checkFull (s : State) (d : List Byte) : Except Rejection (Stream × Nat) := do
  checkHeader s d false
  let es ← checkDirectory d false
  let p ← es.zipIdx.foldlM (parseSection s d) {}
  let blocks := gdBlocksIn s
  let (jo, ji) := placeOf es 3
  checkJoins p.clauses p.joins jo ji
  let (ro, ri) := placeOf es 4
  checkRegions p.clauses p.regions ro ri
  let (fo, fi) := placeOf es 6
  for f in p.fmts do
    chk (p.clauses.any (fun c => c.num == f.1.clause)) AqErr.format fi f.2
  for c in p.clauses do
    chk (p.fmts.any (fun f => f.1.clause == c.num)) AqErr.format fi fo
  let qs := p.quotas.getD []
  let (qo, qi) := placeOf es 9
  for q in qs.zipIdx do
    chk (p.clauses.any (fun c => c.num == q.1.clause)) AqErr.quota qi (qo + 16 * q.2)
    chk (p.clauses.any (fun c => c.num == q.1.clause && decide (q.1.context < c.contexts))) AqErr.quota qi (qo + 16 * q.2 + 1)
  let need := ((p.clauses.flatMap (fun c => (List.range c.contexts).map (fun k =>
    if qs.any (fun q => q.clause == c.num && q.context == k) then 0 else areaSize c p.regions k)))).sum
  chk (24 * 2 ^ 20 + need + 65535 ≤ blocks * 8192) AqErr.quota qi qo
  let (defaults, low) := layDefaults (blocks * 8192) p.clauses p.regions qs
  let base := low / 65536 * 65536
  chk (blocks * 8192 - base ≤ blocks * 4096) AqErr.quota qi qo
  checkQuotas blocks base p.clauses p.regions qs qo qi
  let (lanes, routes) := p.route.getD (lanesOff, routesNone)
  let g := p.gen.getD (0, 1)
  let load := match s.stream with | some x => x.policyLoad + 1 | none => 0
  let pols := p.policies.getD []
  return ({ proofShift := g.1, quotaDefault := g.2, clauses := p.clauses, joins := p.joins, regions := p.regions, lanes, routes,
            fmts := p.fmts.map (·.1), policies := pols, oldPolicies := [], policyLoad := load, trees := p.trees, quotas := qs,
            defaults }, base)

/-- All checks of R83 steps 1 to 3 for a partial load: the structure as it stands after the load (R86). -/
def checkPartial (s : State) (old : Stream) (d : List Byte) : Except Rejection Stream := do
  checkHeader s d true
  let es ← checkDirectory d true
  let p ← es.zipIdx.foldlM (parseSection s d) {}
  let (lanes, routes) := p.route.getD (old.lanes, old.routes)
  let g := p.gen.getD (old.proofShift, old.quotaDefault)
  let x := { old with proofShift := g.1, quotaDefault := g.2, lanes, routes }
  let x := match p.policies with
    | some ps => { x with policies := ps, oldPolicies := x.oldPolicies ++ [(x.policyLoad, x.policies)], policyLoad := x.policyLoad + 1 }
    | none => x
  match p.quotas with
  | none => return x
  | some qs =>
    let (qo, qi) := placeOf es 9
    chk (old.quotas.all (fun q => qs.any (fun r => r.clause == q.clause && r.context == q.context))) AqErr.quota qi qo
    checkQuotas (gdBlocksIn s) (fieldIn s R.AQ_RSV_BASE 0 0) old.clauses old.regions qs qo qi
    return { x with quotas := qs }

/-! Applying (R74, R84, R86, R122). -/

/-- The record of a fabric lane event (R420). -/
def laneEvent (i cls cause : Nat) : M s0 Rec := do
  let w (o : Fld) : M s0 (List Byte) := do return leBytes 8 (← rdReg (o.addr i 0)).toNat
  return { cls, source := 0x07, unit := i, cause, lane := i, field := i / 6,
           syn := (← w R.FAB_LSTAT_STATE) ++ (← w R.FAB_LCNT0_FECSYM) ++ leBytes 16 0,
           detail := (← w R.FAB_LPEER_CHIP) ++ leBytes 16 0 }

/-- Hand the packets queued on a lane to their routes as they now stand; those without one stay for `strayPackets`. -/
def rerouteQueue (i : Nat) : M s0 Unit := do
  let q := (← getLane i).queue
  modLane i (fun x => { x with queue := [] })
  for p in q do
    match ← sendPacket p with
    | some _ => pure ()
    | none => queuePacket i p

/-- Begin three attempts of full training (R358). -/
def trainLane (i : Nat) : M s0 Unit := do
  modLane i (fun x => { x with attempts := 0 })
  startTraining i true 0

/-- Give a lane its role and polarity and start or stop it (R75, R86): a lane with flits in replay drains first. -/
def takeRole (i : Nat) : M s0 Unit := do
  let s ← st
  match s.stream with
  | none => return ()
  | some x =>
    let r := x.lanes.getD i ⟨0, false, false, 0⟩
    modLane i (fun y => { y with txInv := r.txInv, rxInv := r.rxInv, peerPort := r.port, draining := false })
    setF R.FAB_LSTAT_ROLE r.role i
    if r.role = 0 then
      setF R.FAB_LSTAT_STATE 0 i
      rerouteQueue i
    else if fieldIn s R.CJ_COORD_SET 0 0 = 1 then
      trainLane i
      rerouteQueue i

/-- Bring the lanes to the roles of a newly loaded ROUTE section. -/
def applyLanes (part : Bool) : M s0 Unit := do
  for i in List.range 48 do
    let s ← st
    let x := FMap.get lane0 s.lanes i
    let r := match s.stream with
      | some y => y.lanes.getD i ⟨0, false, false, 0⟩
      | none => ⟨0, false, false, 0⟩
    let state := fieldIn s R.FAB_LSTAT_STATE i 0
    let changed := fieldIn s R.FAB_LSTAT_ROLE i 0 != r.role || x.txInv != r.txInv || x.rxInv != r.rxInv
    if part && changed then record (← laneEvent i 0 (fieldIn s R.FAB_LSTAT_CAUSE i 0))
    if changed || state == 9 || (state == 0 && r.role != 0) then
      if state = 6 ∧ !x.replay.isEmpty then modLane i (fun y => { y with draining := true })
      else takeRole i
    else modLane i (fun y => { y with peerPort := r.port })

/-- The private regions of a core that are resident after a full load: at each address that of the lowest slot (R122). -/
def firstResident (rs : List Region) : List (Nat × Nat) :=
  let priv := (List.range 16).flatMap (fun k =>
    ((rs.filter (fun r => privateTo r k)).insertionSort (fun a b => a.num ≤ b.num)).map (fun r => (k, r)))
  (priv.foldl (fun (acc : List (Nat × Region)) x => if acc.any (fun y => overlaps y.2 x.2) then acc else acc ++ [x]) []).map
    (fun x => (x.1, x.2.num))

/-- Zero every bound core's scratchpad with the check bits of its regions' modes (R74), and set which regions are
resident. -/
def zeroFill : M s0 Unit := do
  for l in List.range 144 do
    let s ← st
    if boundIn s l then
      eff (.clearSpad l)
      setSp l { FMap.get spctl0 s.spctls l with writeBack := [], injected := [] }
      let r := firstResident (regionsIn s l)
      modCore l (fun c => { c with gather := [], quotas := [], resident := r, touched := r.map (fun x => (x.1, x.2, 0)) })
    setF R.CORE_STATUS_CLAUSE (match clauseOfIn s l with | some c => c.num | none => 0) l
  for t in (← st).relTags do
    if 2 ^ 36 ≤ t.1 then eff (.relTag t.1 none)

/-- Show a digest as the active one. -/
def showDigest (d : BitVec 512) : M s0 Unit := do
  for i in List.range 8 do
    setF R.AQ_DIGEST_DIGEST (d.toNat / 2 ^ (64 * i)) i

/-- Where the partial log begins, the stream copy, in the interleaved range (R85). -/
def partialLogAt : M s0 Nat := do return (← gdCapacity) - 24 * 2 ^ 20
def streamCopyAt : M s0 Nat := do return (← gdCapacity) - 16 * 2 ^ 20

/-- Bytes the first `n` streams of the partial log take, by their LENGTH fields. -/
def partialBytes : Nat → M s0 Nat
  | 0 => return 0
  | n + 1 => do
    let used ← partialBytes n
    let (_, h, _) ← gmRead ((← partialLogAt) + used) 16
    return used + fieldAt h 8 4

/-- The stream digest (R64). -/
def streamDigest (d : List Byte) : BitVec 512 := sha512 (d.take (d.length - 64))

/-- The running digest after a partial load (R86). -/
def chainDigest (old new : BitVec 512) : BitVec 512 := sha512 (digestBytes old ++ digestBytes new)

/-- Every core shows whether its clause runs LD7 mode (R165). -/
def showModes : M s0 Unit := do
  let s ← st
  for l in List.range 144 do
    setF R.MX_STAT_LD7 (match clauseOfIn s l with | some c => if c.ld7 then 1 else 0 | none => 0) l

/-- Apply a full load (R84). What a failed write of the stream copy, or of the partial log, does to the load the manual does not say: the load
is accepted. DESIGN CHOICE (log entry 32). -/
def applyFull (x : Stream) (base : Nat) (d : List Byte) : M s0 Unit := do
  eff (.stream (some x))
  showModes
  setF R.AQ_STATUS_DEGRADED 0
  zeroFill
  setF R.AQ_RSV_BASE base
  setF R.AQ_RSV_PARTIALS 0
  let _ ← wrGddr (← streamCopyAt) d
  showDigest (streamDigest d)
  applyLanes false

/-- Apply a partial load (R86). -/
def applyPartial (x : Stream) (d : List Byte) (route : Bool) : M s0 Unit := do
  let n ← getF R.AQ_RSV_PARTIALS
  let used ← partialBytes n
  eff (.stream (some x))
  let _ ← wrGddr ((← partialLogAt) + used) d
  setF R.AQ_RSV_PARTIALS (n + 1)
  showDigest (chainDigest (activeDigestIn (← st)) (streamDigest d))
  if route then applyLanes true

/-! Loads (R81 to R83, R87). -/

/-- End a load: its result, the count and the message (R83). -/
def endLoad (r : Rejection) : M s0 Unit := do
  setF R.AQ_STATUS_ERR r.1
  setF R.AQ_STATUS_SECTION r.2.1
  setF R.AQ_STATUS_OFFSET r.2.2
  setF R.AQ_STATUS_DONE 1
  setF R.AQ_STATUS_STATE (if (← st).stream.isSome then 2 else 0)
  if r.1 = 0 then countWrap R.AQ_COUNT_ACCEPTED else countWrap R.AQ_COUNT_REJECTED
  eff (.load none)
  sendMsix 2

/-- Whether a job's commit word has STATE 0 or 1 (R35, R82): the job joins, runs or is held. -/
def anyJobLive (s : State) : Bool :=
  (List.range 16).any (fun j => decide (1 ≤ fieldIn s R.CJ_JOBA_STATE j 0) && decide (fieldIn s R.CJ_JOBA_STATE j 0 ≤ 3))

/-- Why a load is refused before R83 step 1 (R82, R514), or for its length or a full partial log (R61, R86). A bad length is found before a bad
source address, and a full partial log before the stream is read, which the manual leaves open (log entry 32). -/
def loadRefused (part : Bool) (len : Nat) : M s0 (Option Nat) := do
  let s ← st
  if fieldIn s R.DEV_MOOD_SEC 0 0 ≠ 2 then return some AqErr.mood
  if 3 ≤ fieldIn s R.DEV_MOOD_POWER 0 0 then return some AqErr.power
  if !part && anyJobLive s then return some AqErr.busy
  if !(decide (320 ≤ len) && decide (len ≤ 2 ^ 24) && len % 64 == 0) then return some AqErr.size
  if part then
    let n ← getF R.AQ_RSV_PARTIALS
    if 64 ≤ n then return some AqErr.size
    if 8 * 2 ^ 20 < (← partialBytes n) + len then return some AqErr.size
  return none

/-- Start a load (R81): answers the error it is refused with, if it is. -/
def startLoad (source : LoadFrom) (part : Bool) (len : Nat) : M s0 (Option Nat) := do
  if (← st).load.isSome then
    countWrap R.AQ_COUNT_REJECTED
    return some AqErr.busy
  match ← loadRefused part len with
  | some e =>
    endLoad (e, 0xFF, 0)
    return some e
  | none =>
    eff (.load (some ⟨source, part, none⟩))
    setF R.AQ_STATUS_STATE 1
    return none

/-- Read a stream from this module's own GDDR7 at a global address: none for SOURCE (R81, R83 step 1). -/
def readOwn (g len : Nat) : M s0 (Option (List Byte)) := do
  if g % 64 ≠ 0 then return none
  match ← localOffset g with
  | none => return none
  | some o =>
    match windowOf o with
    | .gddr =>
      let (status, d) ← rdGddr o len
      return if status = 0 then some d else none
    | .scratchpad _ _ => return none
    | .kv => return none
    | .registers _ => return none
    | .hole => return none

/-- The stream of a queue's command, in host memory or in this module's GDDR7. -/
def readQueued (src len : Nat) (fromHost : Bool) (host : HostRead) : M s0 (Option (List Byte)) := do
  if fromHost then
    let (status, d) ← hostFetch src len host
    return if status = 0 then some d else none
  else readOwn src len

/-- The bytes of the stream that is loaded. -/
def readStream (source : LoadFrom) (host : HostRead) : M s0 (Option (List Byte)) := do
  match source with
  | .registers src len => readOwn src len
  | .queue _ _ src len h => readQueued src len h host
  | .unanswered src len h => readQueued src len h host

/-- The bytes of a register entry for a load (R516 kind 3). -/
def noteLoad (d : List Byte) : M s0 Unit := do
  noteChange 3 2 (fieldAt d 24 8) (streamDigest d).toNat
    (slice d 16 8 ++ slice d 6 1 ++ leBytes 8 ((activeDigestIn (← st)).toNat % 2 ^ 64))

/-- Steps 1 to 5 of R83 for a full load. -/
def execFullLoad (host : HostRead) (s : State) : Host.Outcome State Fault Refusal := .next <| run s do
  match (← st).load with
  | some ⟨source, false, none⟩ =>
    let finish (r : Rejection) : M s Unit := eff (.load (some ⟨source, false, some r⟩))
    match ← readStream source host with
    | none => finish (AqErr.source, 0xFF, 0)
    | some d =>
      match checkFull (← st) d with
      | .error r => finish r
      | .ok (x, base) =>
        applyFull x base d
        noteLoad d
        finish (0, 0, 0)
  | _ => return ()

/-- Steps 1 to 5 of R83 for a partial load. -/
def execPartialLoad (host : HostRead) (s : State) : Host.Outcome State Fault Refusal := .next <| run s do
  match (← st).load with
  | some ⟨source, true, none⟩ =>
    let finish (r : Rejection) : M s Unit := eff (.load (some ⟨source, true, some r⟩))
    match ← readStream source host with
    | none => finish (AqErr.source, 0xFF, 0)
    | some d =>
      let s ← st
      match s.stream with
      | none =>
        (match checkHeader s d true with
          | .error r => finish r
          | .ok _ => finish (AqErr.baseMismatch, 0xFF, 32))
      | some old =>
        match checkPartial s old d with
        | .error r => finish r
        | .ok x =>
          let route := match checkDirectory d true with
            | .ok es => es.any (fun e => e.typ == 5)
            | .error _ => false
          applyPartial x d route
          noteLoad d
          finish (0, 0, 0)
  | _ => return ()

/-- Step 6 of R83: the status, the count, the message, and the completion of a queue's command (R472). -/
def execLoadComplete (s : State) : Host.Outcome State Fault Refusal := .next <| run s do
  match (← st).load with
  | some ⟨source, _, some r⟩ =>
    endLoad r
    match source with
    | .registers _ _ => return ()
    | .unanswered _ _ _ => countSat R.HOST_CNT_LOST
    | .queue q cid _ _ _ => complete q cid.toNat 1 (if r.1 = 0 then Cmd.ok else Cmd.failed) r.1
  | _ => return ()

/-- A load that a control-complex reset meets is abandoned: no message (R87). -/
def abandonLoad : M s0 Unit := do
  if (← st).load.isSome then
    eff (.load none)
    setF R.AQ_STATUS_STATE (if (← st).stream.isSome then 2 else 0)

/-- The digests of R88 steps 1 and 2 against the active digest. -/
def copyMatches : M s0 Bool := do
  let (s1, h, _) ← gmRead (← streamCopyAt) 16
  let n := fieldAt h 8 4
  if s1 ≠ 0 ∨ n < 320 ∨ 2 ^ 24 < n ∨ n % 64 ≠ 0 then return false
  let (s2, d, _) ← gmRead (← streamCopyAt) n
  if s2 ≠ 0 then return false
  let mut dig := streamDigest d
  let mut off ← partialLogAt
  for _ in List.range (← getF R.AQ_RSV_PARTIALS) do
    let (a, h, _) ← gmRead off 16
    let n := fieldAt h 8 4
    if a ≠ 0 ∨ n < 320 ∨ (← streamCopyAt) < off + n then return false
    let (b, d, _) ← gmRead off n
    if b ≠ 0 then return false
    dig := chainDigest dig (streamDigest d)
    off := off + n
  return dig == activeDigestIn (← st)

/-- Restore the configuration after a compute-die or warm module reset (R88): on a match the structure stands as it did and
the scratchpads are zero-filled; otherwise no stream is active. What AQ_STATUS.SECTION and OFFSET, AQ_DIGEST and AQ_RSV show then the manual
does not say: 0xFF and 0, zero, and the values after power-on (log entry 32). -/
def restoreConfig : M s0 Unit := do
  if (← st).stream.isSome then
    if ← copyMatches then
      zeroFill
      applyLanes false
      setF R.AQ_STATUS_STATE 2
    else
      eff (.stream none)
      showDigest 0
      setF R.AQ_RSV_PARTIALS 0
      setF R.AQ_RSV_BASE ((← gdCapacity) - 24 * 2 ^ 20)
      setF R.AQ_STATUS_STATE 0
      setF R.AQ_STATUS_ERR AqErr.source
      setF R.AQ_STATUS_SECTION 0xFF
      setF R.AQ_STATUS_OFFSET 0
      showModes
      for l in List.range 144 do
        setF R.CORE_STATUS_CLAUSE 0 l

end Sys2Proof.Machine
end

