-- ==== Sys2Proof/Machine/FabricCmds.lean ====
section
/-! DEFINITION. The commands of lanes: training (R358), flits and replay (R356 to R362), the loss of a lane (R368), reset
notices (R369, R401) and the lane registers' writes (R376, R377). -/

namespace Sys2Proof.Machine

open Sys2Proof

variable {s0 : State}

/-- Set the cause of a lane's last failure. -/
def laneCause (i cause : Nat) : M s0 Unit := setF R.FAB_LSTAT_CAUSE cause i

/-- A lane is FAILED until REVIVE or a ROUTE load; what waits on it takes the routes that remain. -/
def laneFailed (i : Nat) : M s0 Unit := do
  setF R.FAB_LSTAT_STATE 9 i
  rerouteQueue i

/-- Tell the far end of a lost lane, on its partner, the last SEQ accepted on it, as soon as the partner is UP (R368 step 1). -/
def tellPosition (i : Nat) : M s0 Unit := do
  let x ← getLane i
  if x.tell ∧ (← laneState (partner i)) = 6 then
    setLane i { x with tell := false }
    sendControl (partner i) 1 i x.rxSeq

/-- A fast retrain has failed: the lane is DOWN, its far end's position is told on the partner, and full trainings follow in
the background (R368), but for one that failed for its wiring, which is FAILED (R370). What is queued waits for the far end's recovery flit,
to keep the order of flows. -/
def laneDown (i : Nat) (wiring : Bool := false) : M s0 Unit := do
  setF R.FAB_LSTAT_STATE (if wiring then 9 else 8) i
  countSat R.FAB_LCNT1_DOWNS i
  modLane i (fun x => { x with lost := true, tell := true, attempts := 0, nak := false, units := [], controls := [] })
  record (← laneEvent i 0 (← getF R.FAB_LSTAT_CAUSE i))
  tellPosition i

/-- FULL_TRAINING: the next step of a lane's full training is done: 1 DETECT, 2 EQUALISE, 3 ALIGN with the inversion found,
4 FEC_LOCK; at LINK_INIT the identity is sent. A lane that is DOWN begins one. -/
def alignDone (i : Nat) (rxinv : Bool) : M s0 Unit := do
  setF R.FAB_LSTAT_RXINV (bit rxinv) i
  if rxinv != (← getLane i).rxInv then setF R.FAB_LSTAT_INVMISMATCH 1 i
  setF R.FAB_LSTAT_STATE 4 i

/-- LINK_INIT begins: this end's identity goes out, with the lane's global pair as its port, the last SEQ received in order and the
credits of an empty receive buffer (R358, R361, R362, R380). It travels as a sequenced control flit, behind what the replay buffer holds,
and stays there until it is acknowledged (R359, R360; log entry 23). -/
def linkInit (i : Nat) : M s0 Unit := do
  setF R.FAB_LSTAT_STATE 5 i
  emit (.identity i (← ownChip) (i / 6) (← ownInc) (← getF R.FAB_LSTAT_ROLE i) (← getLane i).rxSeq bufferUnits)
  newFlit i 2 (← controlBody) 0xFF []
  let x ← getLane i
  match x.replay.getLast? with
  | some f => emit (.flit i f.seq (flitBytes f.seq f.kind x.rxSeq x.nak f.credit f.first f.body))
  | none => return ()

def execFullTraining (lane : Nat) (rxinv : Bool) (s : State) : Host.Outcome State Fault Refusal := .next <| run s do
  if lane < 48 then
    let x ← getLane lane
    match ← laneState lane with
    | 8 => startTraining lane true 0
    | 1 => setF R.FAB_LSTAT_STATE 2 lane
    | 2 => setF R.FAB_LSTAT_STATE 3 lane
    | 3 => if x.full then alignDone lane rxinv
    | 4 => if x.full then linkInit lane
    | _ => pure ()

/-- FAST_RETRAIN: the next step of a lane's fast retrain is done: ALIGN, then FEC_LOCK. -/
def execFastRetrain (lane : Nat) (rxinv : Bool) (s : State) : Host.Outcome State Fault Refusal := .next <| run s do
  if lane < 48 then
    let x ← getLane lane
    match ← laneState lane with
    | 7 => alignDone lane rxinv
    | 4 => if !x.full then linkInit lane
    | _ => pure ()

/-- A training has failed: made again up to three times, or the lane is DOWN after a fast retrain (R358, R368). -/
def trainingFailed (i cause : Nat) : M s0 Unit := do
  let x ← getLane i
  laneCause i cause
  if !x.full then laneDown i (cause = 5)
  else if cause = 5 then laneFailed i
  else
    setLane i { x with attempts := x.attempts + 1 }
    if x.attempts < 2 then startTraining i true cause else laneFailed i

/-- TRAINING_STEP_TIMEOUT: the present step has exceeded its limit, with the cause of its row. The manual names no cause for
a LINK_INIT in which no identity comes: a free one. -/
def execTrainingStepTimeout (lane : Nat) (s : State) : Host.Outcome State Fault Refusal := .next <| run s do
  if lane < 48 then
    match ← laneState lane with
    | 1 => trainingFailed lane 1
    | 2 => trainingFailed lane 2
    | 3 => trainingFailed lane 3
    | 7 => trainingFailed lane 3
    | 4 => trainingFailed lane 4
    | 5 => trainingFailed lane ((← freeWord).toNat % 9)
    | _ => pure ()

/-- Take off a replay buffer every flit up to a SEQ that the far end has accepted. -/
def acknowledged (f : List ReplayFlit) (seq : Nat) : List ReplayFlit :=
  match f.findIdx? (fun g => g.seq == seq) with
  | some n => f.drop (n + 1)
  | none => f

/-- The flow of a lane as it goes on after a SEQ that the far end has accepted: what stands in the replay buffer is numbered on from there,
which changes nothing unless flits before it have gone another way (R358, R368). -/
def resumeAfter (x : Lane) (seq : Nat) : Lane :=
  let kept := (acknowledged x.replay seq).zipIdx.map (fun f => { f.1 with seq := (seq + 1 + f.2) % 4096, sends := 0, credit := 0 })
  { x with replay := kept, txSeq := (seq + kept.length) % 4096 }

/-- Send again every flit of the replay buffer in order (R360 step 3). -/
def resend (i : Nat) : M s0 Unit := do
  for f in (← getLane i).replay do
    sendFlit i f

/-- IDENTITY: at LINK_INIT what the far end reports is shown, its port and role are checked, credits are granted afresh and the flow
of flits goes on after the last it accepted (R358, R362, R370, R375, R376). The control flit that brought it counts as accepted where it is
the next in order. -/
def execIdentity (lane : Nat) (id : Identity) (s : State) : Host.Outcome State Fault Refusal := .next <| run s do
  if lane < 48 then
    if (← laneState lane) = 5 then
      let x ← getLane lane
      setF R.FAB_LPEER_CHIP (if id.isSwitch then 0x3FFF else id.chip.toNat) lane
      setF R.FAB_LPEER_PORT id.port.toNat lane
      setF R.FAB_LPEER_INC (if id.isSwitch then 0 else id.inc.toNat) lane
      if id.port.toNat ≠ x.peerPort ∨ id.role.toNat ≠ (← getF R.FAB_LSTAT_ROLE lane) then trainingFailed lane 5
      else
        let next := id.seq.toNat == (x.rxSeq + 1) % 4096
        setLane lane { resumeAfter x id.lastSeq.toNat with
          credits := bufferUnits, freed := [0, 0, 0, 0], lost := false, tell := false, noticed := false, attempts := 0
          rxSeq := if next then id.seq.toNat else x.rxSeq, owed := if next then 1 else 0 }
        setF R.FAB_LSTAT_STATE 6 lane
        resend lane
        tellPosition (partner lane)
        rerouteQueue lane
        pumpAll

/-! Receiving flits. -/

/-- Whether every data bit of a flit is of a good codeword, and its bytes. -/
def flitOf (rx : FlitRx) : Bool × List Byte :=
  let bits := ((groupBits rx.group0 ++ groupBits rx.group1).drop rx.offset).take 2048
  (bits.all (fun b => !b.2) && bits.length == 2048, bitsBytes 256 (bits.map (·.1)))

/-- Count what the lane code saw in a group: corrected symbols and uncorrectable codewords; class C (R357, R377). -/
def countGroup (i : Nat) (syms : List (BitVec 10)) : M s0 Unit := do
  let ds := decodeGroup syms
  let fixed := (ds.map (fun d => match d with | .ok _ n => n | .bad => 0)).sum
  let bad := (ds.filter (fun d => match d with | .ok _ _ => false | .bad => true)).length
  countSat R.FAB_LCNT0_FECSYM i fixed
  countSat R.FAB_LCNT0_FECUE i bad
  modLane i (fun x => { x with fecMs := x.fecMs + fixed })
  if fixed + bad ≠ 0 then record (← laneEvent i 0 (← getF R.FAB_LSTAT_CAUSE i))

/-- Apply a good flit's ACK, NAK and CREDIT; a replay is class C (R48). -/
def applyFields (i : Nat) (b : List Byte) : M s0 Unit := do
  let x ← getLane i
  let c := fieldAt b 4 4
  setLane i { x with
    replay := acknowledged x.replay (fieldAt b 2 2 % 4096)
    credits := (List.range 4).map (fun v => x.credits.getD v 0 + bitsN c (8 * v) 8) }
  if bitN (fieldAt b 2 2) 12 then
    countSat R.FAB_LCNT1_REPLAY i
    record (← laneEvent i 0 (← getF R.FAB_LSTAT_CAUSE i))
    resend i

/-- Cut whole packets off a string of units; `fuel` bounds them. A unit of zeros holds no packet. -/
def wholePackets : Nat → List Byte → List Packet × List Byte
  | 0, bs => ([], bs)
  | fuel + 1, bs =>
    if bs.length < 16 then ([], bs)
    else if fieldAt bs 0 1 = 0 then wholePackets fuel (bs.drop 16)
    else
      let n := 16 * headerUnits bs
      if bs.length < n then ([], bs)
      else
        let (ps, rest) := wholePackets fuel (bs.drop n)
        (parsePacket (bs.take n) :: ps, rest)

/-- The reset of a chip is known here: its requests end with PEER_RESET, its unfinished blocks are discarded, the jobs whose
map lists it are held (R367, R375, R401). -/
def peerReset (chip inc : Nat) : M s0 Unit := do
  countSat R.CJ_CNT_RESETS
  for r in (← st).reqs do
    if r.chip.toNat = chip then endReq r Status.peerReset []
  eff (.blockBufs ((← st).blockBufs.filter (fun b => b.src.toNat != chip)))
  for j in List.range 16 do
    let s ← st
    let v := FMap.get job0 s.jobs j
    if (jobStateIn s j = 1 ∨ jobStateIn s j = 2) ∧ v.map.any (fun m => m.1.toNat == chip && m.2.toNat == inc) then
      holdJob j 5 (← ownChip)

/-- FLIT_RECEIVE: a flit arrives on a lane that is UP. A sequenced flit past the next one shows that one is missing; one not past it has
been accepted before, and is discarded. -/
def execFlitReceive (lane : Nat) (rx : FlitRx) (s : State) : Host.Outcome State Fault Refusal := .next <| run s do
  if lane < 48 then
    if (← laneState lane) = 6 then
      if rx.count0 then countGroup lane rx.group0
      if rx.count1 then countGroup lane rx.group1
      let (good, b) := flitOf rx
      let x ← getLane lane
      if !good || fieldAt b 252 4 != (crc32c (b.take 252)).toNat then
        countSat R.FAB_LCNT0_CRCERR lane
        setLane lane { x with nak := true }
        record (← laneEvent lane 0 (← getF R.FAB_LSTAT_CAUSE lane))
        sendIdle lane
      else
        let seq := fieldAt b 0 2 % 4096
        let kind := fieldAt b 0 2 / 4096
        if kind = 0 then applyFields lane b
        else if (kind = 1 ∨ kind = 2) ∧ seq = (x.rxSeq + 1) % 4096 then
          setLane lane { x with rxSeq := seq, nak := false, owed := x.owed + 1 }
          applyFields lane b
          if kind = 1 then
            let y ← getLane lane
            let first := fieldAt b 8 1
            let body := slice b 12 240
            let start := if y.units.isEmpty then (if first < 15 then first * 16 else 240) else 0
            let (ps, rest) := wholePackets 16 (y.units ++ body.drop start)
            setLane lane { y with units := rest, received := y.received ++ ps }
          if 16 ≤ (← getLane lane).owed then sendIdle lane
        else if (kind = 1 ∨ kind = 2) ∧ 2048 < (x.rxSeq + 4096 - seq) % 4096 ∧ !x.nak then
          setLane lane { x with nak := true }
          sendIdle lane
        let z ← getLane lane
        if z.draining ∧ z.replay.isEmpty then takeRole lane
        pumpLane lane

/-- NAK_REPEAT: until the missing flit arrives, the NAK is sent again every 1 µs. -/
def execNakRepeat (lane : Nat) (s : State) : Host.Outcome State Fault Refusal := .next <| run s do
  if lane < 48 then
    if (← getLane lane).nak then sendIdle lane

/-- ACK_TIMER: 1 µs after accepted flits an ACK is sent, and after units freed their credit (R360, R362). -/
def execAckTimer (lane : Nat) (s : State) : Host.Outcome State Fault Refusal := .next <| run s do
  if lane < 48 then
    if (← getLane lane).owed ≠ 0 ∨ creditsOwed (← getLane lane) then sendIdle lane

/-! The loss of a lane (R368). -/

/-- RECOVERY: a recovery flit arrived on a lane that is UP: the lost partner's packets after that SEQ go out here first. -/
def execRecovery (lane lost : Nat) (lastSeq : BitVec 12) (s : State) : Host.Outcome State Fault Refusal := .next <| run s do
  if lane < 48 ∧ lost = partner lane then
    if (← laneState lane) = 6 then
      let x ← getLane lost
      if x.lost then
        let later := acknowledged x.replay lastSeq.toNat
        let ps := (later.flatMap (·.packets)).dedup
        setLane lost { x with replay := [], queue := [], lost := false, txSeq := lastSeq.toNat }
        modLane lane (fun y => { y with queue := ps ++ x.queue ++ y.queue })
        pumpLane lane

/-- Whether a packet is a request of this module that is outstanding. -/
def reqOf (s : State) (p : Packet) : Option Req :=
  if p.src.toNat = chipIn s ∧ !isResponse p.typ then
    s.reqs.find? (fun r => r.tag == p.tag.toNat && r.chip == p.dst && r.typ == p.typ.toNat)
  else none

/-- A request that another module sent through this one completes with NO_ROUTE, as a switch completes it (R366, R387). -/
def forwardedNoRoute (p : Packet) : M s0 Unit := do
  if !isResponse p.typ then
    let _ ← sendPacket { emptyPacket with
      typ := responseType p.typ, src := p.dst, dst := p.src, job := p.job, tag := p.tag, status := 5, vl := 1 }

/-- A packet that cannot be sent: its request completes with NO_ROUTE, posted or not; a response is dropped. -/
def packetNoRoute (p : Packet) : M s0 Unit := do
  match reqOf (← st) p with
  | some r => endReq r Status.noRoute []
  | none => if p.src.toNat ≠ (← ownChip) then forwardedNoRoute p

/-- Whether packets queued on a lane have no prospect of leaving on it: it is neither UP nor in a fast retrain, nor lost with a recovery to
come. -/
def straysIn (s : State) (i : Nat) : Bool :=
  let x := FMap.get lane0 s.lanes i
  let state := fieldIn s R.FAB_LSTAT_STATE i 0
  !x.queue.isEmpty && !x.lost && state != 6 && state != 7 && (x.full || (state != 4 && state != 5))

/-- What is left queued on lanes that do not serve takes a route that has come up since, or completes with NO_ROUTE (R387). -/
def strayPackets : M s0 Unit := do
  for i in List.range 48 do
    if straysIn (← st) i then
      let q := (← getLane i).queue
      modLane i (fun x => { x with queue := [] })
      for p in q do
        match ← sendPacket p with
        | some _ => pure ()
        | none => packetNoRoute p

/-- LANE_LOSS_TIMEOUT: 1 ms after a lane's loss no recovery has come: what its replay buffer holds is in doubt. -/
def execLaneLossTimeout (lane : Nat) (s : State) : Host.Outcome State Fault Refusal := .next <| run s do
  if lane < 48 then
    let x ← getLane lane
    if x.lost then
      setLane lane { x with replay := [], lost := false, tell := false }
      for p in (x.replay.flatMap (·.packets)).dedup do
        packetNoRoute p
      rerouteQueue lane
      pumpAll

/-- RESET_NOTICE: the two notices of a far end on a global lane act as one PEER_RESET message; the lane's later loss has
that cause (R369). -/
def execResetNotice (lane : Nat) (chip : BitVec 14) (inc : BitVec 16) (s : State) : Host.Outcome State Fault Refusal :=
  .next <| run s do
  if lane < 48 ∧ laneGlobal lane then
    if (← laneState lane) = 6 ∧ !(← getLane lane).noticed then
      modLane lane (fun x => { x with noticed := true })
      laneCause lane 7
      peerReset chip.toNat inc.toNat
      pumpAll

/-- FECRATE_CHECK: a 1 ms window of corrected symbols ends (R377). -/
def execFecrateCheck (lane : Nat) (s : State) : Host.Outcome State Fault Refusal := .next <| run s do
  if lane < 48 then
    let x ← getLane lane
    setLane lane { x with fecMs := 0 }
    if (← laneState lane) = 6 ∧ (← getF R.FAB_FECLIM_SYMS) < x.fecMs then startTraining lane false 8

/-- RETRAIN_WRITE: a 1 written to RETRAIN starts a fast retrain of a lane that is UP; no cause of failure is set. -/
def laneRetrain (lane : Nat) : M s0 Unit := do
  if (← laneState lane) = 6 then startTraining lane false (← getF R.FAB_LSTAT_CAUSE lane)

/-- REVIVE_WRITE: a 1 written to REVIVE starts three attempts of full training of a FAILED lane. -/
def laneRevive (lane : Nat) : M s0 Unit := do
  if (← laneState lane) = 9 then trainLane lane

def execRetrainWrite (lane : Nat) (s : State) : Host.Outcome State Fault Refusal := .next <| run s do
  if lane < 48 then laneRetrain lane

def execReviveWrite (lane : Nat) (s : State) : Host.Outcome State Fault Refusal := .next <| run s do
  if lane < 48 then laneRevive lane

/-! Coordinates (R382, R383). -/

/-- A coordinates order: accepted, or rejected with nothing changed but the count. A FAILED lane stays so (R358). -/
def coordinatesOrder (b : List Byte) : M s0 Bool := do
  let s ← st
  let group := fieldAt b 0 1
  let slot := fieldAt b 1 1
  let chip := fieldAt b 2 2
  let inc := fieldAt b 4 2
  let idle := (List.range 48).all (fun i =>
    let x := fieldIn s R.FAB_LSTAT_STATE i 0
    x == 0 || x == 8 || x == 9)
  let routesOk : Bool := match s.stream with
    | none => true
    | some x => (routeFault x.lanes (x.routes.map routeBits) group slot).isNone
  if b.length = 8 ∧ idle ∧ slot < 64 ∧ chip = 64 * group + slot ∧ inc ≠ 0 ∧ inc ≠ fieldIn s R.CJ_COORD_PREVINC 0 0 ∧
      fieldAt b 6 2 = 0 ∧ routesOk then
    let old ← ownInc
    if old ≠ 0 then setF R.CJ_COORD_PREVINC old
    setF R.CJ_COORD_GROUP group
    setF R.CJ_COORD_SLOT slot
    setF R.CJ_COORD_SET 1
    countWrap R.CJ_COORD_ORDERS
    setF R.FAB_ID_CHIP chip
    setF R.FAB_ID_INC inc
    for i in List.range 48 do
      if (← getF R.FAB_LSTAT_ROLE i) ≠ 0 ∧ (← laneState i) ≠ 9 then takeRole i
    return true
  else
    countSat R.CJ_COORD_REJECTS
    return false

end Sys2Proof.Machine
end

