-- ==== Sys2Proof/Machine/Rope.lean ====
section
/-! DEFINITION. The exact functions of the rotation (R205): a power of the base, sine and cosine, each as a number that rounds
as the exact value does (log entry 20). -/

namespace Sys2Proof.Machine

open Sys2Proof

/-- The greatest c below 2^n, built from `c`, with c^h × d ≤ t. -/
def rootGo (h d t : Nat) : Nat → Nat → Nat
  | 0, c => c
  | n + 1, c => if (c + 2 ^ n) ^ h * d ≤ t then rootGo h d t n (c + 2 ^ n) else rootGo h d t n c

/-- (m × 2^e)^(−i ÷ h) for a base above 1: 320 fraction bits and a sticky one. -/
def powVal (m : Nat) (e : Int) (i h : Nat) : Val :=
  let d := m ^ i * (if 0 ≤ e then 2 ^ (e.toNat * i) else 1)
  let t := 2 ^ (320 * h) * (if 0 ≤ e then 1 else 2 ^ ((-e).toNat * i))
  let c := rootGo h d t 321 0
  if c ^ h * d = t then .num c (-320) else .num (2 * c + 1 : Nat) (-321)

/-- Terms of arctan (1 ÷ n) in units of 2^(−704): `p` is 2^704 ÷ n^(2k+1). -/
def atanTerms (n p : Nat) : Nat → Nat → Int
  | 0, _ => 0
  | fuel + 1, k => ((p / (2 * k + 1) : Nat) : Int) * (if k % 2 = 0 then 1 else -1) + atanTerms n (p / (n * n)) fuel (k + 1)

/-- π in units of 2^(−704), by Machin's formula. -/
def piFixed : Nat :=
  (16 * atanTerms 5 (2 ^ 704 / 5) 160 0 - 4 * atanTerms 239 (2 ^ 704 / 239) 160 0).toNat

/-- The terms from degree k of the series of sine and cosine at r, in units of 2^(−704): `t` is r^k ÷ k!. Those of the degree's
parity alternate. -/
def trigTerms (r : Nat) : Nat → Nat → Nat → Int × Int
  | 0, _, _ => (0, 0)
  | fuel + 1, k, t =>
    let rest := trigTerms r fuel (k + 1) (t * r / 2 ^ 704 / (k + 1))
    let s : Int := if k % 4 < 2 then t else -t
    if k % 2 = 1 then (rest.1 + s, rest.2) else (rest.1, rest.2 + s)

/-- A value of 704 fraction bits that is not exact. -/
def sticky704 (n : Int) : Val := .num (2 * n + 1) (-705)

/-- Sine and cosine of m × 2^e, m > 0. -/
def trigVal (m : Nat) (e : Int) : Val × Val :=
  if (Nat.log2 m : Int) + e < -150 then (.num ((m * 2 ^ 600 - 1 : Nat) : Int) (e - 600), .num ((2 ^ 300 - 1 : Nat) : Int) (-300))
  else
    let x := if 0 ≤ e + 704 then m * 2 ^ (e + 704).toNat else m / 2 ^ (-(e + 704)).toNat
    let q := 2 * x / piFixed
    let (s, c) := trigTerms ((2 * x - q * piFixed) / 2) 160 0 (2 ^ 704)
    match q % 4 with
    | 0 => (sticky704 s, sticky704 c)
    | 1 => (sticky704 c, sticky704 (-s))
    | 2 => (sticky704 (-s), sticky704 (-c))
    | _ => (sticky704 (-c), sticky704 s)

/-- Sine and cosine of a value that is not negative. -/
def sinCos : Val → Val × Val
  | .void => (.void, .void)
  | .num m e => if m ≤ 0 then (.zero, .num 1 0) else trigVal m.natAbs e

/-- w = ne(BASE^(−2i ÷ ROTDIMS)) of R205, with h = ROTDIMS ÷ 2. -/
def ropeStep (base : BitVec 32) (i h : Nat) : BitVec 32 :=
  match w32 base with
  | .void => 0x80000000
  | .num m e => (toW32 (powVal m.natAbs e i h)).1

/-- The cosine and sine of a position for each pair (R205). -/
def ropeAngles (base : BitVec 32) (rot pos : Nat) : List (BitVec 32 × BitVec 32) :=
  (List.range (rot / 2)).map (fun i =>
    let x := sinCos ((w32 (ropeStep base i (rot / 2))).mul (.num pos 0))
    ((toW32 x.2).1, (toW32 x.1).1))

/-- A row rotated by its angles, or back (R205): values, and whether one saturated. Dimensions above pass unchanged. -/
def ropeRow (back : Bool) (cs : List (BitVec 32 × BitVec 32)) (xs : List Val) : List Val × Bool :=
  let out := xs.zipIdx.map (fun x =>
    match cs[x.2 / 2]? with
    | none => (x.1, false)
    | some (c, s) =>
      let sv := if back then (w32 s).neg else w32 s
      let r := if x.2 % 2 = 0 then toW32 ((x.1.mul (w32 c)).add ((xs.getD (x.2 + 1) .zero).mul sv).neg)
        else toW32 (((xs.getD (x.2 - 1) .zero).mul sv).add (x.1.mul (w32 c)))
      (w32 r.1, r.2))
  (out.map (·.1), out.any (·.2))

end Sys2Proof.Machine
end

