-- ==== Sys2Proof/Machine/Attention.lean ====
section
/-! DEFINITION. The attention engine (R192 to R220): the descriptor and its checks, the mask, the forward and the backward pass,
and completion. -/

namespace Sys2Proof.Machine

open Sys2Proof

variable {s0 : State}

/-! The descriptor (R197). -/

/-- A descriptor's fields. -/
structure Desc where
  op : Nat
  flags : Nat
  rows : Nat
  hdim : Nat
  rot : Nat
  qfirst : Nat
  nkeys : Nat
  segs : Nat
  qf : Nat
  kf : Nat
  vf : Nat
  pf : Nat
  ofm : Nat
  df : Nat
  scale : BitVec 32
  base : BitVec 32
  slope : BitVec 32
  window : Nat
  tok : Nat
  q : Nat
  k : Nat
  v : Nat
  seg : Nat
  o : Nat
  stat : Nat
  empty : Nat
  do' : Nat
  dq : Nat
  dk : Nat
  dv : Nat
  rng : Nat
  stride : Nat
  deriving DecidableEq, Repr

/-- The descriptor that 192 bytes spell. -/
def descOf (b : List Byte) : Desc where
  op := fieldAt b 0 1
  flags := fieldAt b 1 1
  rows := fieldAt b 2 2
  hdim := fieldAt b 4 2
  rot := fieldAt b 6 2
  qfirst := fieldAt b 8 4
  nkeys := fieldAt b 12 4
  segs := fieldAt b 16 2
  qf := fieldAt b 18 1
  kf := fieldAt b 19 1
  vf := fieldAt b 20 1
  pf := fieldAt b 21 1
  ofm := fieldAt b 22 1
  df := fieldAt b 23 1
  scale := BitVec.ofNat 32 (fieldAt b 24 4)
  base := BitVec.ofNat 32 (fieldAt b 28 4)
  slope := BitVec.ofNat 32 (fieldAt b 32 4)
  window := fieldAt b 36 4
  tok := fieldAt b 64 8
  q := fieldAt b 72 8
  k := fieldAt b 80 8
  v := fieldAt b 88 8
  seg := fieldAt b 96 8
  o := fieldAt b 104 8
  stat := fieldAt b 112 8
  empty := fieldAt b 120 8
  do' := fieldAt b 128 8
  dq := fieldAt b 136 8
  dk := fieldAt b 144 8
  dv := fieldAt b 152 8
  rng := fieldAt b 160 8
  stride := fieldAt b 168 4

def Desc.causal (d : Desc) : Bool := bitN d.flags 0
def Desc.regions (d : Desc) : Bool := bitN d.flags 1
def Desc.krot (d : Desc) : Bool := bitN d.flags 2
def Desc.bias (d : Desc) : Bool := bitN d.flags 3
def Desc.acc (d : Desc) : Bool := bitN d.flags 4
def Desc.stats (d : Desc) : Bool := bitN d.flags 5
def Desc.back (d : Desc) : Bool := d.op == 2

/-- Token slots the token table covers (R198). -/
def Desc.slots (d : Desc) : Nat := max d.nkeys (d.qfirst + d.rows)

/-- The causes of R201. -/
def AttErr.op : Nat := 0x01
def AttErr.reserved : Nat := 0x02
def AttErr.rows : Nat := 0x03
def AttErr.hdim : Nat := 0x04
def AttErr.rotary : Nat := 0x05
def AttErr.format : Nat := 0x06
def AttErr.window : Nat := 0x07
def AttErr.segment : Nat := 0x08
def AttErr.position : Nat := 0x09
def AttErr.keys : Nat := 0x0A
def AttErr.mode : Nat := 0x0B
def AttErr.address : Nat := 0x0C
def AttErr.length : Nat := 0x0D

/-- Elements a stored row has: 128, or 256 for D = 256 (R199). -/
def rowElemsOf (hdim : Nat) : Nat := if hdim = 256 then 256 else 128

/-- The pitch of a format (R199). -/
def pitchOf (f : Fmt) (hdim : Nat) : Nat := f.storage (rowElemsOf hdim)

/-- The formats of an operation: queries, keys, values, probabilities, outputs, output gradients. -/
structure AttFmts where
  q : Fmt
  k : Fmt
  v : Fmt
  p : Fmt
  o : Fmt
  oe : FmtEntry
  d : Fmt
  deriving DecidableEq, Repr

/-- The format of an entry that passes a test. -/
def fmtIf (s : State) (l i : Nat) (ok : Fmt → Bool) : Option (FmtEntry × Fmt) :=
  (fmtEntryIn s l i).bind (fun e => if ok e.2 then some e else none)

/-- The formats of a descriptor, where they keep R200. Those that the operation does not use are not looked at. -/
def attFmts (s : State) (l : Nat) (d : Desc) : Option AttFmts :=
  let pOk (f : Fmt) : Bool := f == .k8 || f == .j8 || f == .h16 || f == .m16
  match fmtIf s l d.qf Fmt.array, fmtIf s l d.kf Fmt.array, fmtIf s l d.vf Fmt.array, fmtIf s l d.ofm (fun f => f != .e8) with
  | some q, some k, some v, some o =>
    if d.back then (fmtIf s l d.df Fmt.array).map (fun x => ⟨q.2, k.2, v.2, .h16, o.2, o.1, x.2⟩)
    else (fmtIf s l d.pf pOk).map (fun x => ⟨q.2, k.2, v.2, x.2, o.2, o.1, .h16⟩)
  | _, _, _, _ => none

/-- Whether a field or bit that must be zero is not (R197). -/
def reservedSet (s : State) (l : Nat) (b : List Byte) (d : Desc) : Bool :=
  let addrs := [d.tok, d.q, d.k, d.v, d.seg, d.o, d.stat, d.empty] ++ (if d.back then [d.do', d.dq, d.dk, d.dv] else [])
  let stochastic := match fmtEntryIn s l d.ofm with | some e => e.1.round == 2 | none => true
  decide (64 ≤ d.flags) || !zeros b 40 24 || !zeros b 172 20 || addrs.any (fun a => decide (2 ^ 62 ≤ a)) ||
  (d.rot == 0 && (d.base != 0 || d.krot)) || (!d.bias && d.slope != 0) || (d.regions && (d.k != 0 || d.v != 0)) ||
  (if d.back then d.stats || d.pf != 0 || d.rng != 0 || d.stride != 0
   else d.acc || (!d.stats && d.stat != 0) || (!stochastic && (d.rng != 0 || d.stride != 0)))

/-- Whether `n` bytes at a global address lie in the module's GDDR7, or in scratchpad regions the context may address (R200). -/
def attSpanOk (s : State) (l k g n : Nat) : Bool :=
  let o := g % 2 ^ 48
  let blocks := gdBlocksIn s
  decide (g / 2 ^ 48 = chipIn s) &&
  (decide (o + n ≤ blocks * 8192) ||
   (decide (0x100000000000 ≤ o) && decide (o < 0x100000000000 + 32 * 0x200000000) &&
     decide ((o - 0x100000000000) % 0x200000000 + n ≤ blocks * 256)) ||
   (match ownAddrIn s l g with
     | some a => decide (a + n ≤ 0x1000000) && spanAllowedIn s l k a n
     | none => false))

/-- The rules on addresses (R200). -/
def attAddrsOk (s : State) (l k : Nat) (d : Desc) (f : AttFmts) : Bool :=
  let ok (g al n : Nat) : Bool := g % al == 0 && attSpanOk s l k g n
  let w := pitchOf .w32 d.hdim
  ok d.tok 8 (2 * d.slots) && ok d.seg 32 (32 * d.segs) && ok d.q 64 (d.rows * pitchOf f.q d.hdim) &&
  ok d.o 64 (d.rows * pitchOf f.o d.hdim) && ok d.empty 8 8 &&
  (d.regions || (ok d.k 64 (d.nkeys * pitchOf f.k d.hdim) && ok d.v 64 (d.nkeys * pitchOf f.v d.hdim))) &&
  (!(d.back || d.stats) || ok d.stat 8 (8 * d.rows)) &&
  (!d.back || (ok d.do' 64 (d.rows * pitchOf f.d d.hdim) && ok d.dq 64 (d.rows * w) && ok d.dk 64 (d.nkeys * w) && ok d.dv 64 (d.nkeys * w)))

/-- The checks on the descriptor itself, in the order of their codes (R201); ADDRESS comes last. -/
def descCheck (s : State) (l k : Nat) (b : List Byte) (d : Desc) : Nat :=
  if d.op ≠ 1 ∧ d.op ≠ 2 then AttErr.op
  else if reservedSet s l b d then AttErr.reserved
  else if d.rows < 1 ∨ 128 < d.rows ∨ (!d.regions ∧ d.nkeys < d.qfirst + d.rows) then AttErr.rows
  else if d.hdim ≠ 64 ∧ d.hdim ≠ 128 ∧ d.hdim ≠ 256 then AttErr.hdim
  else if d.rot % 2 = 1 ∨ d.hdim < d.rot ∨ (d.rot ≠ 0 ∧ !(Val.num 1 0).lt (w32 d.base)) then AttErr.rotary
  else match attFmts s l d with
  | none => AttErr.format
  | some f =>
    if 2 ^ 20 < d.window then AttErr.window
    else if d.segs < 1 ∨ 4096 < d.segs then AttErr.segment
    else if (d.regions ∧ d.nkeys ≠ 0) ∨ (!d.regions ∧ (d.nkeys < 1 ∨ 2 ^ 20 < d.nkeys)) then AttErr.keys
    else if d.back ∧ d.regions then AttErr.mode
    else if !attAddrsOk s l k d f then AttErr.address
    else 0

/-! Memory of the engine. -/

/-- A record of the engine, with the operation at its head (R419). -/
def attRec (l k slot : Nat) (r : Rec) : M s0 Rec := do
  let x ← coreRec l k slot r
  return { x with flags := x.flags ||| 4, op := match (← getCore l).att with | y :: _ => y.op | [] => r.op }

/-- Record what an access of the engine met. -/
def attRecs (l k : Nat) (rs : List Rec) : M s0 Unit := do
  for r in rs do
    record (← attRec l k 3 r)

/-- A fault of the engine's own: its record, with the row where one is spoilt, and class D for the context (R214, R420). -/
def attFault (l k : Nat) (cause : Nat := 0xFFFF) (row : Option Nat := none) : M s0 Unit := do
  let w ← rdReg (R.ATT_STAT_BUSY.addr l 0)
  record (← attRec l k 3 { cls := 1, source := 0x03, unit := l, cause, syn := slice (leBytes 8 w.toNat) 0 32
                           detail := match row with | some r => slice (leBytes 2 r) 0 24 | none => [] })
  ctxFaultD l k

/-- Read bytes for the engine: what cannot be read is free, and whether that is so (R214). -/
def attRead (l k g n : Nat) : M s0 (List Byte × Bool) := do
  servedAt (g % 2 ^ 48) 3
  let (status, d, ev) ← modRead (g % 2 ^ 48) n
  attRecs l k ev
  if status = 0 then return (d, false)
  return (slice (← freeBytes (n + 7)) 0 n, true)

/-- Write bytes for the engine. -/
def attWrite (l k g : Nat) (bs : List Byte) : M s0 Unit := do
  servedAt (g % 2 ^ 48) 3
  let (status, ev) ← modWrite (g % 2 ^ 48) bs
  attRecs l k ev
  if status ≠ 0 then attFault l k status

/-! The row, its segments and the mask (R198, R202, R203). -/

/-- A segment entry. -/
structure AttSeg where
  region : Nat
  offset : Nat
  klen : Nat
  pfx : Nat
  steps : Nat
  rest : Nat
  deriving DecidableEq, Repr

/-- The segment entry that 32 bytes spell. -/
def segOf (b : List Byte) : AttSeg := ⟨fieldAt b 0 8, fieldAt b 8 4, fieldAt b 12 4, fieldAt b 16 4, fieldAt b 20 4, fieldAt b 24 8⟩

/-- The position of each slot from the segment numbers of the row: none for a pad (R202). -/
def positions (segs : List Nat) (offset : Nat → Nat) : List (Option Nat) :=
  (segs.foldl (fun (acc : List (Option Nat) × List (Nat × Nat)) σ =>
    if σ = 0xFFFF then (none :: acc.1, acc.2)
    else
      let n := ((acc.2.find? (fun c => c.1 == σ)).map (·.2)).getD 0
      (some (offset σ + n) :: acc.1, (σ, n + 1) :: acc.2.filter (fun c => c.1 != σ))) ([], [])).1.reverse

/-- visible of R203 for a query and a key of one segment. -/
def visibleAt (d : Desc) (pfx qpos kpos : Nat) : Bool :=
  let dist := (qpos : Int) - kpos
  if !d.causal then d.window == 0 || decide (dist.natAbs < d.window)
  else if dist < 0 then decide (kpos < pfx)
  else d.window == 0 || decide (dist < d.window)

/-- The checks on the segment entries that slots name (R198, R201, R224). -/
def segCheck (s : State) (d : Desc) (f : AttFmts) (e : AttSeg) : Nat :=
  if e.rest ≠ 0 ∨ (!d.regions ∧ (e.region ≠ 0 ∨ e.klen ≠ 0)) then AttErr.reserved
  else if 2 ^ 20 < e.klen ∨ 2 ^ 20 < e.pfx then AttErr.position
  else if d.regions then
    let o := e.region % 2 ^ 48
    match kvPlaceIn s o with
    | none => AttErr.address
    | some p =>
      let t := 2 ^ (FMap.get seq0 s.seqs p.seq).tshift
      if e.region / 2 ^ 48 ≠ chipIn s ∨ o < 0x800000000000 ∨ 0xC00000000000 ≤ o ∨ p.pos ≠ 0 ∨ t ≤ o % 65536 ∨
          t < o % t + pitchOf f.k d.hdim + pitchOf f.v d.hdim then AttErr.address
      else 0
  else 0

/-! Rows of elements. -/

/-- The first D elements of a stored row. -/
def rowElems (f : Fmt) (hdim : Nat) (bs : List Byte) : List Elem :=
  let (sc, cs) := unpackStorage f (rowElemsOf hdim) bs
  ((cs.take hdim).zipIdx).map (fun c => elemOf f (sc.getD (c.2 / 32) 0) c.1)

/-- A value as it enters the array in H16 (R205, R212). -/
def toH16 (v : Val) : Elem := { v := Fmt.h16.decode (Fmt.h16.encode 0 0 v).code }

/-- A row as it enters the array: in its own format, or rotated and in H16. -/
def operandRow (d : Desc) (rotate : Bool) (pos : Nat) (xs : List Elem) : List Elem × Bool :=
  if rotate && d.rot != 0 then
    let r := ropeRow false (ropeAngles d.base d.rot pos) (xs.map (·.v))
    (r.1.map toH16, r.2)
  else (xs, false)

/-- The array's sum of products in order (R140), in W32, and whether a sum saturated. -/
def arraySum (ps : List (Elem × Elem)) : BitVec 32 × Bool :=
  let r := ps.foldl (fun (a : BitVec 48 × Bool) p =>
    let x := accAdd a.1 (product p.1 p.2).1
    (x.1, a.2 || x.2.2)) (0, false)
  let w := toW32 (accVal r.1)
  (w.1, r.2 || w.2)

/-- The score of a visible pair (R207). -/
def scoreOf (d : Desc) (q k : List Elem) (qpos kpos : Nat) : BitVec 32 × Bool :=
  let a := arraySum (q.zip k)
  let s := wMul a.1 d.scale
  if d.bias then
    let b := toW32 ((w32 d.slope).mul (.num ((qpos : Int) - kpos).natAbs 0))
    let t := wSub s.1 b.1
    (t.1, a.2 || s.2 || b.2 || t.2)
  else (s.1, a.2 || s.2)

/-- A key that a query sees: its place in the order of keys, its operands, whether a part of it could not be read. -/
structure SeenKey where
  at' : Nat
  pos : Nat
  k : List Elem
  v : List Elem
  bad : Bool
  deriving DecidableEq, Repr

/-- The visible keys by key block, ascending (R208). -/
def keyBlocks (ks : List SeenKey) : List (List SeenKey) :=
  ((ks.map (fun x => x.at' / 256)).eraseDups).map (fun b => ks.filter (fun x => x.at' / 256 == b))

/-- The 256 lanes of a block: values at the places of keys. -/
def blockLanes (dflt : BitVec 32) (ks : List SeenKey) (vs : List (BitVec 32)) : List (BitVec 32) :=
  let ps := ks.zip vs
  (List.range 256).map (fun i => ((ps.find? (fun p => p.1.at' % 256 == i)).map (·.2)).getD dflt)

/-- The tree of R110 over 256 lanes. -/
def treeSum (xs : List (BitVec 32)) : BitVec 32 × Bool :=
  (treeOf (fun (x y : BitVec 32 × Bool) => let r := wAdd x.1 y.1; (r.1, x.2 || y.2 || r.2)) 8 (xs.map (fun x => (x, false)))).headD (0, false)
def treeMax (xs : List (BitVec 32)) : BitVec 32 := (treeOf wMax 8 xs).headD 0

/-! The forward pass. -/

/-- The running statistics of a row (R208). -/
structure Soft where
  m : BitVec 32
  l : BitVec 32
  o : List (BitVec 32)
  seen : Bool
  sat : Bool
  deriving DecidableEq, Repr

/-- One key block of a row (R208). -/
def softBlock (d : Desc) (pf : Fmt) (q : List Elem) (qpos : Nat) (x : Soft) (ks : List SeenKey) : Soft :=
  let ss := ks.map (fun k => scoreOf d q k.k qpos k.pos)
  let mb := treeMax (blockLanes (w32Top true) ks (ss.map (·.1)))
  let mnew := wMax x.m mb
  let es := ss.map (fun s => let t := wSub s.1 mnew; let e := sfuExp t.1; (e.1, t.2 || e.2))
  let ps := es.map (fun e => (pf.encode 0 0 (w32 e.1)).code)
  let lb := treeSum (blockLanes 0 ks (ps.map (fun p => (toW32 (pf.decode p)).1)))
  let pe := ps.map (fun p => ({ v := pf.decode p } : Elem))
  let pv := (List.range d.hdim).map (fun i => arraySum (pe.zip (ks.map (fun k => k.v.getD i elem0))))
  let sat := x.sat || ss.any (·.2) || es.any (·.2) || lb.2 || pv.any (·.2)
  if !x.seen then { m := mnew, l := lb.1, o := pv.map (·.1), seen := true, sat }
  else
    let t := wSub x.m mnew
    let alpha := sfuExp t.1
    let l := wFma x.l alpha.1 lb.1
    let o := (x.o.zip pv).map (fun p => wFma p.1 alpha.1 p.2.1)
    { m := mnew, l := l.1, o := o.map (·.1), seen := true, sat := sat || t.2 || l.2 || o.any (·.2) }

/-- A row that sees keys: its statistics. -/
def softRow (d : Desc) (pf : Fmt) (q : List Elem) (qpos : Nat) (ks : List SeenKey) : Soft :=
  (keyBlocks ks).foldl (softBlock d pf q qpos) ⟨0xFFFFFFFF, 0, [], false, false⟩

/-- The outputs of a row and whether it is a void row (R209, R211). -/
def softOut (x : Soft) : List Val × Bool × Bool :=
  let rl := sfuRcp x.l
  let os := x.o.map (fun o => wMul o rl.1)
  let void := (w32 x.m).isVoid || (w32 x.l).isVoid || os.any (fun o => (w32 o.1).isVoid)
  (if void then os.map (fun _ => .void) else os.map (fun o => w32 o.1), void, rl.2 || os.any (·.2))

/-- A row of outputs in its format, with its conversions (R199, R209); elements past D are zero. -/
def outRow (f : Fmt) (e : FmtEntry) (hdim : Nat) (rnd : Nat → Nat) (vs : List Val) : List Byte × List Enc :=
  let n := rowElemsOf hdim
  let r := encodeAll f (modeOf e) rnd 0 (vs ++ List.replicate (n - hdim) .zero)
  (packStorage f r.1 (r.2.map (·.code)), r.2)

/-- The random bits of value j of a row (R186, R209): the entry's seed, the descriptor's counter, the segment's step count. -/
def attRnd (s : State) (l : Nat) (d : Desc) (e : FmtEntry) (pos steps j : Nat) : Nat :=
  if e.round = 2 then mixBits (seedIn s l e) (d.rng / 2 ^ 48) ((d.rng + pos * d.stride + j) % 2 ^ 48) steps else 0

/-! Running an operation. -/

/-- What an operation has read before it computes: formats, segments of its slots, their positions and entries, queries, keys. -/
structure AttIn where
  f : AttFmts
  nums : List Nat
  pos : List (Option Nat)
  segs : List (Nat × AttSeg)
  /-- the token or segment table could not be read whole -/
  bad : Bool
  deriving DecidableEq, Repr

/-- The entry of a segment number. -/
def AttIn.entry (x : AttIn) (σ : Nat) : AttSeg := ((x.segs.find? (fun e => e.1 == σ)).map (·.2)).getD ⟨0, 0, 0, 0, 0, 0⟩

/-- Check an operation and read its tables (R201). -/
def attChecked (l k : Nat) (b : List Byte) : M s0 (Desc × AttIn) := do
  let s ← st
  let d := descOf b
  let c := descCheck s l k b d
  need (c == 0) (.code c)
  match attFmts s l d with
  | none => throw (.code AttErr.format)
  | some f =>
    let (tb, bad) ← attRead l k d.tok (2 * d.slots)
    let nums := (List.range d.slots).map (fun t => fieldAt tb (2 * t) 2)
    need (nums.all (fun n => decide (n < d.segs) || n == 0xFFFF)) (.code AttErr.segment)
    let mut segs : List (Nat × AttSeg) := []
    let mut bad := bad
    for σ in nums.eraseDups do
      if σ ≠ 0xFFFF then
        let (e, x) ← attRead l k (d.seg + 32 * σ) 32
        if x then bad := true
        segs := segs ++ [(σ, segOf e)]
    for e in segs do
      let c := segCheck s d f e.2
      need (c == 0) (.code c)
    let pos := positions nums (fun σ => ((segs.find? (fun e => e.1 == σ)).map (·.2.offset)).getD 0)
    need (pos.all (fun p => decide (p.getD 0 ≤ 2 ^ 20 - 1))) (.code AttErr.position)
    return (d, ⟨f, nums, pos, segs, bad⟩)

/-- The keys a query of a segment and position sees, ascending: the place of each and its position. -/
def seenBy (d : Desc) (x : AttIn) (σ qpos : Nat) : List (Nat × Nat) :=
  let e := x.entry σ
  let ks := if d.regions then (List.range e.klen).map (fun j => (j, j))
    else ((x.nums.zip x.pos).zipIdx.take d.nkeys).filterMap (fun t => if t.1.1 = σ then t.1.2.map (fun p => (t.2, p)) else none)
  ks.filter (fun y => visibleAt d e.pfx qpos y.2)

/-- Where a key and its value lie. -/
def keyPlace (s : State) (d : Desc) (x : AttIn) (σ j : Nat) : Nat × Nat :=
  if d.regions then
    let r := (x.entry σ).region
    let t := match kvPlaceIn s (r % 2 ^ 48) with | some p => 2 ^ (FMap.get seq0 s.seqs p.seq).tshift | none => 0
    (r + j * t, r + j * t + pitchOf x.f.k d.hdim)
  else (d.k + j * pitchOf x.f.k d.hdim, d.v + j * pitchOf x.f.v d.hdim)

/-- Read the keys of a list of (segment, place, position): each once. The second is whether a rotation saturated. -/
def readKeys (l k : Nat) (d : Desc) (x : AttIn) (ks : List (Nat × Nat × Nat)) : M s0 (List (Nat × SeenKey) × Bool) := do
  let mut out : List (Nat × SeenKey) := []
  let mut sat := false
  for y in ks do
    let (ka, va) := keyPlace (← st) d x y.1 y.2.1
    let (kb, b1) ← attRead l k ka (pitchOf x.f.k d.hdim)
    let (vb, b2) ← attRead l k va (pitchOf x.f.v d.hdim)
    let r := operandRow d d.krot y.2.2 (rowElems x.f.k d.hdim kb)
    if r.2 then sat := true
    out := out ++ [(y.1, ⟨y.2.1, y.2.2, r.1, rowElems x.f.v d.hdim vb, b1 || b2⟩)]
  return (out, sat)

/-- A query row: its number, segment, position, and the keys it sees. -/
structure AttRow where
  i : Nat
  seg : Nat
  pos : Nat
  keys : List (Nat × Nat)
  deriving DecidableEq, Repr

/-- The rows of an operation; the segment of a pad row is 0xFFFF. -/
def attRows (d : Desc) (x : AttIn) : List AttRow :=
  (List.range d.rows).map (fun i =>
    let σ := x.nums.getD (d.qfirst + i) 0xFFFF
    let p := (x.pos.getD (d.qfirst + i) none).getD 0
    ⟨i, σ, p, if σ = 0xFFFF then [] else seenBy d x σ p⟩)

/-- The keys an operation reads, each once: those that some row sees; where the keys are rotated, every key of the row (R205). -/
def allKeys (d : Desc) (x : AttIn) (rs : List AttRow) : List (Nat × Nat × Nat) :=
  let seen := rs.flatMap (fun r => r.keys.map (fun y => (r.seg, y.1, y.2)))
  let rotated :=
    if !d.krot || d.rot == 0 then []
    else if d.regions then x.segs.flatMap (fun e => (List.range e.2.klen).map (fun j => (e.1, j, j)))
    else ((x.nums.zip x.pos).zipIdx.take d.nkeys).filterMap (fun t => t.1.2.map (fun p => (t.1.1, t.2, p)))
  (seen ++ rotated).eraseDups

/-- What a pass leaves to be counted: its empty rows, whether the array ran, and whether a void took part in it. -/
structure AttCounts where
  empties : Nat
  ran : Bool
  voids : Bool
  deriving DecidableEq, Repr

/-- Whether a row of operands holds a void. -/
def anyVoid (es : List Elem) : Bool := es.any (fun e => e.v.isVoid)

/-- The keys of a row among those read. -/
def keysOf (r : AttRow) (ks : List (Nat × SeenKey)) : List SeenKey :=
  r.keys.filterMap (fun y => (ks.find? (fun z => z.1 == r.seg && z.2.at' == y.1)).map (·.2))

/-- A poisoned output row: a class D fault of the engine (R214, R420). -/
def poisonRow (l k row : Nat) : M s0 Unit := attFault l k (row := some row)

/-- The forward pass (R208 to R211): the empty rows. -/
def forwardPass (l k : Nat) (d : Desc) (x : AttIn) : M s0 AttCounts := do
  let a : At := ⟨l, k, 3, 0, 0⟩
  let rs := attRows d x
  let (ks, sat0) ← readKeys l k d x (allKeys d x rs)
  noteSat a sat0
  let mut voids := false
  let mut qs : List (List Elem × Bool) := []
  for r in rs do
    let (qb, bad) ← attRead l k (d.q + r.i * pitchOf x.f.q d.hdim) (pitchOf x.f.q d.hdim)
    let q := operandRow d true r.pos (rowElems x.f.q d.hdim qb)
    if r.seg ≠ 0xFFFF then noteSat a q.2
    qs := qs ++ [(q.1, bad)]
  let s ← st
  let mut empties := 0
  for r in rs do
    let mine := keysOf r ks
    let q := qs.getD r.i ([], false)
    let oAt := d.o + r.i * pitchOf x.f.o d.hdim
    if mine.isEmpty then
      attWrite l k oAt (List.replicate (pitchOf x.f.o d.hdim) 0)
      if d.stats then attWrite l k (d.stat + 8 * r.i) (leBytes 4 0xFFFFFFFF ++ leBytes 4 0)
      if r.seg ≠ 0xFFFF then
        empties := empties + 1
        countSat R.ATT_ROWS_EMPTY l
      if x.bad then poisonRow l k r.i
    else
      let y := softRow d x.f.p q.1 r.pos mine
      let (vs, void, sat) := softOut y
      let (bs, encs) := outRow x.f.o x.f.oe d.hdim (attRnd s l d x.f.oe r.pos (x.entry r.seg).steps) vs
      attWrite l k oAt bs
      if d.stats then
        attWrite l k (d.stat + 8 * r.i) (leBytes 4 (if void then 0x80000000 else y.m.toNat) ++ leBytes 4 (if void then 0x80000000 else y.l.toNat))
      noteConversion a d.ofm (encs.take d.hdim)
      noteSat a (y.sat || sat)
      if void then countSat R.ATT_ROWS_VOIDROWS l
      if x.bad || q.2 || mine.any (·.bad) then poisonRow l k r.i
      voids := voids || void || anyVoid q.1 || mine.any (fun y => anyVoid y.k || anyVoid y.v)
  return ⟨empties, rs.any (fun r => !(keysOf r ks).isEmpty), voids⟩

/-! The backward pass (R212, R213). -/

/-- What a row gives the gradients: its part of dQ by W32, and per key place the operands p and dS. -/
structure BackRow where
  dq : List (BitVec 32)
  parts : List (Nat × Elem × Elem)
  sat : Bool
  deriving DecidableEq, Repr

/-- The parts of a row with good statistics. -/
def backRow (d : Desc) (q dO : List Elem) (o g : List Val) (m l : BitVec 32) (qpos : Nat) (ks : List SeenKey) : BackRow :=
  let rl := sfuRcp l
  let prods := (List.range 256).map (fun i => if i < d.hdim then toW32 ((g.getD i .zero).mul (o.getD i .zero)) else (0, false))
  let delta := treeSum (prods.map (·.1))
  let parts := ks.map (fun k =>
    let s := scoreOf d q k.k qpos k.pos
    let t := wSub s.1 m
    let e := sfuExp t.1
    let p := wMul e.1 rl.1
    let dp := arraySum (dO.zip k.v)
    let u := wSub dp.1 delta.1
    let v := wMul p.1 u.1
    let ds := wMul v.1 d.scale
    (k, toH16 (w32 p.1), toH16 (w32 ds.1), s.2 || t.2 || e.2 || p.2 || dp.2 || u.2 || v.2 || ds.2))
  let blocks := (keyBlocks ks).map (fun b => parts.filter (fun p => b.any (fun k => k.at' == p.1.at')))
  let sums := blocks.map (fun b => (List.range d.hdim).map (fun i => arraySum (b.map (fun p => (p.2.2.1, p.1.k.getD i elem0)))))
  let dq : List (BitVec 32 × Bool) := match sums with
    | [] => (List.range d.hdim).map (fun _ => ((0 : BitVec 32), false))
    | f :: rest => rest.foldl (fun acc b => (acc.zip b).map (fun (p : (BitVec 32 × Bool) × (BitVec 32 × Bool)) =>
        let r := wAdd p.1.1 p.2.1
        (r.1, p.1.2 || p.2.2 || r.2))) f
  { dq := dq.map (·.1), parts := parts.map (fun p => (p.1.at', p.2.1, p.2.2.1)),
    sat := rl.2 || prods.any (·.2) || delta.2 || parts.any (fun p => p.2.2.2) || dq.any (·.2) }

/-- The parts of a bad-statistics row: void. -/
def badRow (d : Desc) (ks : List SeenKey) : BackRow :=
  { dq := List.replicate d.hdim 0x80000000, parts := ks.map (fun k => (k.at', { v := .void }, { v := .void })), sat := false }

/-- A W32 gradient row rotated back where it is rotated, and its bytes at the W32 pitch. -/
def gradRow (d : Desc) (rotate : Bool) (pos : Nat) (xs : List (BitVec 32)) : List (BitVec 32) × Bool :=
  if rotate && d.rot != 0 then
    let r := ropeRow true (ropeAngles d.base d.rot pos) (xs.map w32)
    (r.1.map (fun v => (toW32 v).1), r.2)
  else (xs, false)

/-- The bytes of a W32 row. -/
def w32Bytes (hdim : Nat) (xs : List (BitVec 32)) : List Byte :=
  slice (xs.flatMap (fun x => leBytes 4 x.toNat)) 0 (4 * rowElemsOf hdim)

/-- Stored elements decoded to W32 by their entry's mode, which rounds G8 and large I32 (R181, R184). A stochastic rounding takes the bits of
the output element at the same place, which the manual does not say (log entry 31). -/
def decodeRow (f : Fmt) (e : FmtEntry) (rnd : Nat → Nat) (hdim : Nat) (bs : List Byte) : List Val :=
  (rowElems f hdim bs).zipIdx.map (fun x => w32 (BitVec.ofNat 32 (Fmt.w32.encode (modeOf e) (rnd x.2) x.1.v).code))

/-- A gradient row of a key slot: written, or added to what is there. -/
def putGrad (l k : Nat) (d : Desc) (g : Nat) (xs : List (BitVec 32)) : M s0 Bool := do
  let n := 4 * rowElemsOf d.hdim
  if d.acc then
    let (old, bad) ← attRead l k g n
    let rs := xs.zipIdx.map (fun x => wAdd (BitVec.ofNat 32 (fieldAt old (4 * x.2) 4)) x.1)
    attWrite l k g (w32Bytes d.hdim (rs.map (·.1)))
    noteSat ⟨l, k, 3, 0, 0⟩ (rs.any (·.2))
    return bad
  attWrite l k g (w32Bytes d.hdim xs)
  return false

/-- The backward pass: the empty rows. -/
def backwardPass (l k : Nat) (d : Desc) (x : AttIn) : M s0 AttCounts := do
  let a : At := ⟨l, k, 3, 0, 0⟩
  let s ← st
  let rs := attRows d x
  let (ks, sat0) ← readKeys l k d x (allKeys d x rs)
  noteSat a sat0
  let de := match fmtEntryIn s l d.df with | some e => e.1 | none => x.f.oe
  let mut voids := false
  let mut work : List (AttRow × List Elem × List Elem × BackRow) := []
  let mut empties := 0
  let mut spoilt := x.bad
  for r in rs do
    let mine := keysOf r ks
    let (qb, b1) ← attRead l k (d.q + r.i * pitchOf x.f.q d.hdim) (pitchOf x.f.q d.hdim)
    let (gb, b2) ← attRead l k (d.do' + r.i * pitchOf x.f.d d.hdim) (pitchOf x.f.d d.hdim)
    let (ob, b3) ← attRead l k (d.o + r.i * pitchOf x.f.o d.hdim) (pitchOf x.f.o d.hdim)
    let (sb, b4) ← attRead l k (d.stat + 8 * r.i) 8
    let q := operandRow d true r.pos (rowElems x.f.q d.hdim qb)
    if r.seg ≠ 0xFFFF then noteSat a q.2
    if mine.isEmpty then
      if r.seg ≠ 0xFFFF then
        empties := empties + 1
        countSat R.ATT_ROWS_EMPTY l
      attWrite l k (d.dq + r.i * pitchOf .w32 d.hdim) (List.replicate (pitchOf .w32 d.hdim) 0)
      if x.bad then poisonRow l k r.i
    else
      let m := BitVec.ofNat 32 (fieldAt sb 0 4)
      let lv := BitVec.ofNat 32 (fieldAt sb 4 4)
      let dO := rowElems x.f.d d.hdim gb
      let steps := (x.entry r.seg).steps
      let o := decodeRow x.f.o x.f.oe (attRnd s l d x.f.oe r.pos steps) d.hdim ob
      let g := decodeRow x.f.d de (attRnd s l d de r.pos steps) d.hdim gb
      let good := (Val.num 0 0).lt (w32 lv)
      let y := if good then backRow d q.1 dO o g m lv r.pos mine else badRow d mine
      if !good then countSat R.ATT_ROWS_BADSTAT l
      let dq := if good then gradRow d true r.pos y.dq else (y.dq, false)
      attWrite l k (d.dq + r.i * pitchOf .w32 d.hdim) (w32Bytes d.hdim dq.1)
      noteSat a (y.sat || dq.2)
      voids := voids || !good || anyVoid q.1 || anyVoid dO || mine.any (fun z => anyVoid z.k || anyVoid z.v)
      if x.bad || b1 || b2 || b3 || b4 || mine.any (·.bad) then
        poisonRow l k r.i
        spoilt := true
      work := work ++ [(r, q.1, dO, y)]
  for j in List.range d.nkeys do
    let pos := (x.pos.getD j none).getD 0
    let parts := work.filterMap (fun w => (w.2.2.2.parts.find? (fun p => p.1 == j)).map (fun p => (w.2.1, w.2.2.1, p.2.1, p.2.2)))
    let dv := (List.range d.hdim).map (fun i => arraySum (parts.map (fun p => (p.2.2.1, p.2.1.getD i elem0))))
    let dk := (List.range d.hdim).map (fun i => arraySum (parts.map (fun p => (p.2.2.2, p.1.getD i elem0))))
    let dk' := gradRow d d.krot pos (dk.map (·.1))
    noteSat a (dv.any (·.2) || dk.any (·.2) || dk'.2)
    let b1 ← putGrad l k d (d.dv + j * pitchOf .w32 d.hdim) (dv.map (·.1))
    let b2 ← putGrad l k d (d.dk + j * pitchOf .w32 d.hdim) dk'.1
    if b1 || b2 then poisonRow l k j
  if spoilt then ctxFaultD l k
  return ⟨empties, rs.any (fun r => !(keysOf r ks).isEmpty), voids⟩

/-! The life of an operation (R192 to R196, R201). -/

/-- Show the operation at the head of the engine (R218). -/
def attShow (l : Nat) : M s0 Unit := do
  match (← getCore l).att with
  | [] => setF R.ATT_STAT_BUSY 0 l
  | x :: _ =>
    setF R.ATT_STAT_BUSY 1 l
    setF R.ATT_STAT_CHANNEL x.ch l
    setF R.ATT_STAT_OP (fieldAt x.desc 0 1) l
    setF R.ATT_STAT_CTX_ID (ctxIdIn (← st) l x.slot) l

/-- Free the channel of an operation. -/
def attFree (l ch : Nat) : M s0 Unit := do
  let d ← getDma l ch
  setDma l ch { d with state := 0 }

/-- Reject an operation: it writes nothing, its channel completes, and the tense is held (R201). -/
def attReject (l k ch cause : Nat) : M s0 Unit := do
  if (← getCore l).att.isEmpty then
    setF R.ATT_STAT_CHANNEL ch l
    setF R.ATT_STAT_CTX_ID (ctxIdIn (← st) l k) l
  setF R.ATT_STAT_CAUSE cause l
  setF R.ATT_STAT_REJECTED 1 l
  countSat R.ATT_CNT_REJECTS l
  let w ← rdReg (R.ATT_STAT_BUSY.addr l 0)
  record { ← attRec l k 3 { cls := 2, source := 0x03, unit := l, cause, syn := slice (leBytes 8 w.toNat) 0 32 } with op := (← getDma l ch).op }
  match (← getCtx l k).job with
  | some j => jobFaultH j 9
  | none => pure ()
  attFree l ch

/-- A descriptor has arrived whole on a channel: the operation starts, or waits in the engine behind the one that runs. -/
def attStart (l ch : Nat) (desc : List Byte) : M s0 Unit := do
  let d ← getDma l ch
  let c ← getCore l
  setCore l { c with att := c.att ++ [⟨ch, d.slot, desc, false, 0, false, d.op⟩] }
  if c.att.isEmpty then attShow l

/-- Word k of a descriptor arrives in ATT_CMD of a core: from the core's own DMA channel it is taken, and the last word starts
the operation; from elsewhere it is discarded and counted (R196). -/
def attWindowWrite (l : Nat) (by' : Agent) (k : Nat) (v : Word) : M s0 Unit := do
  match by' with
  | .dma m ch =>
    let d ← getDma l ch
    if m = l ∧ ch < 8 ∧ d.state = 1 ∧ d.kind = 1 ∧ d.len = 192 ∧ commandSource (← st) l d.src ∧
        d.dst % 2 ^ 48 = 0xC00000000000 + R.ATT_CMD_DESC.addr l 0 then
      wrReg (R.ATT_CMD_DESC.addr l k) v
      if k = 23 then
        let s ← st
        attStart l ch ((List.range 24).flatMap (fun i => leBytes 8 (FMap.get resetValue s.regs (R.ATT_CMD_DESC.addr l i)).toNat))
    else countSat R.ATT_CNT_DISCARDED l
  | .host => countSat R.ATT_CNT_DISCARDED l
  | .firmware => countSat R.ATT_CNT_DISCARDED l
  | .management => countSat R.ATT_CNT_DISCARDED l
  | .peer _ => countSat R.ATT_CNT_DISCARDED l
  | .core _ => countSat R.ATT_CNT_DISCARDED l

def execAttCmdWrite (core : Nat) (by' : Agent) (k : Nat) (v : Word) (s : State) : Host.Outcome State Fault Refusal :=
  .next <| run s do
  if core < 144 ∧ k < 24 then attWindowWrite core by' k v

/-- The array's comparisons of a pass that ran (R154 to R157, R214). How many rows it compares is not stated: a free number; with a void
among the operands a free number of rows is skipped. An armed injection makes one of those compared fail, which one is free; with a void
there may be none (log entry 31). -/
def attCompare (l k : Nat) (c : AttCounts) : M s0 Unit := do
  if !c.ran then return ()
  countWrap R.MX_CNT_COMPARED l (← freeWord).toNat
  if c.voids then countSat R.MX_CNT_SKIPPED l ((← freeWord).toNat % 2 ^ 16)
  let one ← (if c.voids then freeBool else return true)
  if one && (← getCore l).inject then
    modCore l (fun c => { c with inject := false })
    countSat R.MX_CNT_FAILED l
    let w ← freeWord
    let r ← attRec l k 6 { cls := 1, source := 0x02, unit := l, flags := 1
                           syn := slice (leBytes 1 (w.toNat % 128) ++ leBytes 1 (w.toNat / 128 % 2) ++ leBytes 4 (w.toNat / 256) ++ leBytes 1 0xFF) 0 32 }
    record r
    ctxFaultD l k

/-- Run the pass of an operation at the head of a core's engine. -/
def attPass (l op : Nat) : M s0 Unit := do
  if 144 ≤ l ∨ underResetIn (← st) l then return ()
  match (← getCore l).att with
  | [] => return ()
  | x :: rest =>
    let o := fieldAt x.desc 0 1
    if x.done || ((o == 1 || o == 2) && o != op) then return ()
    match ← attempt (attChecked l x.slot x.desc) with
    | .error (.code c) =>
      modCore l (fun y => { y with att := rest })
      setF R.ATT_STAT_BUSY 0 l
      attReject l x.slot x.ch c
      attShow l
    | .error _ => return ()
    | .ok (d, i) =>
      match ← attempt (if d.back then backwardPass l x.slot d i else forwardPass l x.slot d i) with
      | .ok n =>
        attCompare l x.slot n
        modCore l (fun y => { y with att := { x with done := true, empty := n.empties, ran := n.ran } :: rest })
      | .error _ => return ()

def execForwardPass (core : Nat) (s : State) : Host.Outcome State Fault Refusal := .next <| run s (attPass core 1)
def execBackwardPass (core : Nat) (s : State) : Host.Outcome State Fault Refusal := .next <| run s (attPass core 2)

/-- Both banks and the accumulator plane of a context are zero, bank A active (R195). -/
def clearArray (l k : Nat) : M s0 Unit := do
  let s ← st
  let key := ctxKey l k
  for x in s.banks do
    if inCtx key 65536 x.1 then eff (.bank x.1 0)
  for x in s.rowDescs do
    if inCtx key 256 x.1 then eff (.rowDesc x.1 {})
  for x in s.accs do
    if inCtx key 32896 x.1 then eff (.acc x.1 0)
  for x in s.accRows do
    if inCtx key 128 x.1 then eff (.accRow x.1 {})
  modCtx l k (fun c => { c with bankB := false })
  if (← runSlot l) = k then setF R.MX_STAT_ACTIVE 0 l

/-- The ramp after an operation whose passes ran on the array: how many steps it took is not stated; in LD7 mode the count returns to 0 at once (R195). -/
def attRamp (l : Nat) : M s0 Unit := do
  let ld7 := match clauseOfIn (← st) l with | some c => c.ld7 | none => false
  setF R.MX_STAT_RAMPDOWN 0 l
  if ld7 then setF R.MX_STAT_ENABLED 0 l
  else
    let e := (← freeWord).toNat % ((← getF R.MX_LIMIT_LIMIT) + 1)
    setF R.MX_STAT_ENABLED e l
    modCore l (fun c => { c with ramp := 2 * e })

/-- ATTENTION_COMPLETE: the empty rows are added to their word at its controller, and the channel is free. -/
def execAttentionComplete (core : Nat) (s : State) : Host.Outcome State Fault Refusal := .next <| run s do
  let l := core
  match (← getCore l).att with
  | [] => return ()
  | x :: rest =>
    if x.done then
      let d := descOf x.desc
      let (status, _, ev) ← modAtomic (d.empty % 2 ^ 48) (fun old => some (BitVec.ofNat 64 (min (old.toNat + x.empty) (2 ^ 64 - 1))))
      attRecs l x.slot ev
      if status ≠ 0 then attFault l x.slot status
      clearArray l x.slot
      if x.ran then attRamp l
      countWrap R.ATT_CNT_DONE l
      attFree l x.ch
      modCore l (fun y => { y with att := rest })
      attShow l

end Sys2Proof.Machine
end

