-- ==== Sys2Proof/Machine/GdCmds.lean ====
section
/-! DEFINITION. The commands of the GDDR7 controllers (R287 to R305) but for the failed state, which needs the resets. -/

namespace Sys2Proof.Machine

open Sys2Proof

variable {s0 : State}

/-- Whether a controller and a local block exist. -/
def gdHas (s : State) (k block : Nat) : Bool := decide (k < 32) && decide (block < gdBlocksIn s)

/-- BLOCK_READ: a controller reads and decodes one stored block. -/
def execBlockRead (k block : Nat) (f : BlockFaults) (s : State) : Host.Outcome State Fault Refusal := .next <| run s do
  if gdHas s k block then
    need (!gdWaitsIn s k block) .later
    let (_, evs) ← gdRead k block f
    recordAll evs

/-- A requester's write with what the device reported on the read of a partial write. -/
def gdWriteWith (k block off : Nat) (bytes : List Byte) (f : BlockFaults) : M s0 Unit := do
  if (← getF R.GD_STATUS_STATE k) = 3 then return ()
  if off = 0 ∧ bytes.length = 256 then recordAll (← gdStore k block bytes)
  else
    match ← gdRead k block f with
    | (none, evs) =>
      recordAll evs
      gdStorePoison k block
    | (some data, evs) =>
      recordAll evs
      recordAll (← gdStore k block (patch data off bytes))

/-- BLOCK_WRITE: a requester's write of at most a block. A burst that the device reports as failed keeps the write from
completing: it waits for its replays (R287). -/
def execBlockWrite (k block off : Nat) (bytes : List Byte) (f : BlockFaults) (s : State) : Host.Outcome State Fault Refusal :=
  .next <| run s do
  if gdHas s k block && decide (0 < bytes.length) && decide (off + bytes.length ≤ 256) then
    need (!gdWaitsIn s k block) .later
    let failed := ((f.writeFails.filter (fun u => decide (u < 17))).dedup).map (fun u => (u, 0))
    if failed.isEmpty then gdWriteWith k block off bytes f
    else
      let g ← getGd k
      setGd k { g with stuck := g.stuck ++ [⟨block, off, bytes, failed, f⟩] }

/-- The write of a block that waits for a burst of a unit. -/
def stuckAt (g : GdCtl) (block unit : Nat) : Option StuckWrite :=
  g.stuck.find? (fun w => w.block == block && w.units.any (fun u => u.1 == unit))

/-- A replayed burst was accepted: the write completes when no burst of it is left. -/
def acceptBurst (k unit : Nat) (w : StuckWrite) : M s0 Unit := do
  let g ← getGd k
  let left := w.units.filter (fun u => u.1 != unit)
  let rest := eraseFirst w g.stuck
  if left.isEmpty then
    setGd k { g with stuck := rest }
    gdWriteWith k w.block w.off w.bytes w.faults
  else setGd k { g with stuck := rest ++ [{ w with units := left }] }

/-- WRITE_CRC_REPLAY: one replay of a failed write burst, of at most three before the channel retrains (R287). -/
def execWriteCrcReplay (k block unit : Nat) (accepted : Bool) (s : State) : Host.Outcome State Fault Refusal := .next <| run s do
  match stuckAt (FMap.get gdctl0 s.gdctls k) block unit with
  | none => return ()
  | some w =>
    let tries := ((w.units.find? (fun u => u.1 == unit)).getD (unit, 0)).2
    if k < 32 ∧ tries < 3 then
      countSat R.GD_CNT1_RETRY k
      record (← gdRec k 0 block 0 0)
      if accepted then acceptBurst k unit w
      else
        let g ← getGd k
        setGd k { g with stuck := eraseFirst w g.stuck ++
          [{ w with units := w.units.map (fun u => if u.1 = unit then (u.1, u.2 + 1) else u) }] }

/-- The stored block a patrol or a write-back means: the place of an addressable block, or a spare. -/
def gdPlaceIn (s : State) (k block : Nat) : Nat := if block < gdBlocksIn s then gdPhysIn s k block else block

/-- GD_CORRECTION_WRITE_BACK: a corrected block is written back, unless a write has cancelled it (R291). -/
def execGdCorrectionWriteBack (k block : Nat) (s : State) : Host.Outcome State Fault Refusal := .next <| run s do
  let phys := gdPlaceIn s k block
  match (FMap.get gdctl0 s.gdctls k).writeBack.find? (fun p => p.1 == phys) with
  | none => return ()
  | some (_, data) =>
    need (!gdVisitWaitsIn s k phys) .later
    gdPutBlock k phys (storeBlock data)

/-- GD_PATROL_VISIT: the next stored block of the patrol, addressable blocks first and then the 16,384 spares (R294). -/
def execGdPatrolVisit (k : Nat) (f : BlockFaults) (s : State) : Host.Outcome State Fault Refusal := .next <| run s do
  if k < 32 ∧ fieldIn s R.GD_SCRUB_HOURS k 0 ≠ 0 ∧ fieldIn s R.GD_STATUS_STATE k 0 < 2 then
    let block := (FMap.get gdctl0 s.gdctls k).patrol
    need (!gdVisitWaitsIn s k (gdPlaceIn s k block)) .later
    let (_, evs) ← gdReadAt k block (gdPlaceIn s k block) f true
    recordAll evs
    let g ← getGd k
    if block + 1 < gdBlocksIn s + 16384 then setGd k { g with patrol := block + 1 }
    else
      setGd k { g with patrol := 0 }
      countWrap R.GD_SCRUB_PASSES k

/-- GD_TEMPERATURE_READ: the devices' temperatures as read (R281, R300). -/
def execGdTemperatureRead (k : Nat) (t0 t1 : Byte) (s : State) : Host.Outcome State Fault Refusal := .next <| run s do
  if k < 32 then
    setF R.GD_STATUS_TEMP0 t0.toNat k
    setF R.GD_STATUS_TEMP1 (if fieldIn s R.GD_STATUS_DEVICES k 0 = 2 then t1.toNat else 0) k

/-- REFRESH: the devices of a controller are refreshed; what they hold does not change (R281). -/
def execRefresh (k : Nat) (s : State) : Host.Outcome State Fault Refusal := .next <| run s do
  if k < 32 then
    let g ← getGd k
    setGd k { g with refreshes := g.refreshes + 1 }

/-- REMAP_WRITE: software's write of remap entry i (R295). With VALID it starts the copy. -/
def remapWrite (k i : Nat) (v : Word) : M s0 Unit := do
  let s ← st
  let block := bitsOf v 0 25
  let spare := bitsOf v 25 14
  let used (x : Nat) : Bool := x != i && (fieldIn s R.GD_REMAP_VALID k x == 1 || fieldIn s R.GD_REMAP_BUSY k x == 1)
  let clash := (List.range 16).any (fun x => used x &&
    (fieldIn s R.GD_REMAP_BLOCK k x == block || fieldIn s R.GD_REMAP_SPARE k x == spare))
  if k < 32 ∧ i < 16 ∧ fieldIn s R.GD_REMAP_VALID k i = 0 ∧ fieldIn s R.GD_REMAP_BUSY k i = 0 ∧ block < gdBlocksIn s ∧ !clash then
    wrReg (R.GD_REMAP_BLOCK.addr k i) (BitVec.ofNat 64 (block + spare * 2 ^ 25 + bitsOf v 39 1 * 2 ^ 40))

def execRemapWrite (k i : Nat) (v : Word) (s : State) : Host.Outcome State Fault Refusal := .next <| run s (remapWrite k i v)

/-- REMAP_COPY_COMPLETE: the block, or stored poison, is copied to the spare and the entry becomes valid (R295). -/
def execRemapCopyComplete (k i : Nat) (s : State) : Host.Outcome State Fault Refusal := .next <| run s do
  if k < 32 ∧ i < 16 ∧ fieldIn s R.GD_REMAP_BUSY k i = 1 then
    let block := fieldIn s R.GD_REMAP_BLOCK k i
    let spare := gdBlocksIn s + fieldIn s R.GD_REMAP_SPARE k i
    let g ← getGd k
    let (d, evs) ← (match g.copies.find? (fun p => p.1 == i) with
      | some p => return (some p.2, [])
      | none => gdReadAt k block block noFaults false)
    recordAll evs
    let g ← getGd k
    setGd k { g with copies := g.copies.filter (fun p => p.1 != i), writeBack := g.writeBack.filter (fun p => p.1 != block) }
    match d with
    | some data => gdPutBlock k spare (storeBlock data)
    | none =>
      gdPutBlock k spare poisonBlock
      setF R.GD_REMAP_POISONED 1 k i
    setF R.GD_REMAP_BUSY 0 k i
    setF R.GD_REMAP_VALID 1 k i

/-- Whether the mood permits fault-injection writes (R514). -/
def injectionAllowed (s : State) : Bool := moodAllows s [0, 1, 2] [2] 2

/-- GD_INJECT_ARM: a write of GD_FLIPC: discarded as a whole for an undefined unit (R299), and in other moods. -/
def gdInject (k : Nat) (v : Word) : M s0 Unit := do
  let s ← st
  if k < 32 ∧ injectionAllowed s ∧ bitsOf v 0 5 ≤ 16 then
    setF R.GD_FLIPC_UNIT (bitsOf v 0 5) k
    setF R.GD_FLIPC_HINT (bitsOf v 5 1) k
    setF R.GD_FLIPC_CRC (bitsOf v 6 1) k
    setF R.GD_FLIPC_MATCH (bitsOf v 9 1) k
    setF R.GD_FLIPC_BLOCK (bitsOf v 10 25) k
    if bitsOf v 7 1 = 1 then setF R.GD_FLIPC_ARMED 1 k

def execGdInjectArm (k : Nat) (v : Word) (s : State) : Host.Outcome State Fault Refusal := .next <| run s (gdInject k v)

end Sys2Proof.Machine
end

