-- ==== Sys2Proof/Machine/CxCmds.lean ====
section
/-! DEFINITION. The commands of the compression engines: ranges (R333 to R335), table loads (R345), and single blocks. -/

namespace Sys2Proof.Machine

open Sys2Proof

variable {s0 : State}

/-- The blocks of 4 KiB of a range as spans of local blocks of 256 B. -/
def rangeSpan (k base size : Nat) : List (Nat × Nat × Nat) := [(k, base * 16, (base + size) * 16)]

/-- The spans of the enabled ranges. -/
def enabledSpans (s : State) : List (Nat × Nat × Nat) :=
  ((List.range 16).filter (fun i => fieldIn s R.CX_RANGE_A_EN i 0 == 1)).flatMap (fun i =>
    rangeSpan (fieldIn s R.CX_RANGE_A_CTRL i 0) (fieldIn s R.CX_RANGE_A_BASE i 0) (fieldIn s R.CX_RANGE_A_SIZE i 0))

/-- The conditions of R334 on an enable. -/
def enableOk (s : State) (i : Nat) (v : Word) : Bool :=
  let k := bitsOf v 0 5
  let base := bitsOf v 12 21
  let size := bitsOf v 33 21
  let others := enabledSpans s
  let mine := rangeSpan k base size
  let side := fieldIn s R.CX_RANGE_B_SIDE i 0
  decide (k < 32) && decide ((base + size) * 16 ≤ gdBlocksIn s) && !spansMeet mine others && decide (bitsOf v 6 3 ≤ 4) &&
  side % 8 == 0 &&
  (match spanBlocks (gdBlocksIn s) side (size * 8) with
    | some sp => !spansMeet sp others && !spansMeet sp mine
    | none => false)

/-- RANGE_ENABLE: a write of CX_RANGEi_A with EN = 1. The fields of an enabled range stay as they are (R353). -/
def rangeOn (i : Nat) (v : Word) : M s0 Unit := do
  let s ← st
  if i < 16 ∧ fieldIn s R.CX_RANGE_A_EN i 0 = 0 ∧ bitsOf v 5 1 = 1 then
    let ok := enableOk s i v
    setF R.CX_RANGE_A_CTRL (bitsOf v 0 5) i
    setF R.CX_RANGE_A_ECLASS (bitsOf v 6 3) i
    setF R.CX_RANGE_A_BASE (bitsOf v 12 21) i
    setF R.CX_RANGE_A_SIZE (bitsOf v 33 21) i
    setF R.CX_RANGE_A_READY 0 i
    setF R.CX_RANGE_A_REJECT (if ok then 0 else 1) i
    setF R.CX_RANGE_A_EN (if ok then 1 else 0) i

def execRangeEnable (i : Nat) (v : Word) (s : State) : Host.Outcome State Fault Refusal := .next <| run s (rangeOn i v)

/-- Whether a block of a range, or its side table, lies behind a port that waits. -/
def rangePortsWait (s : State) (i : Nat) : Bool :=
  let k := fieldIn s R.CX_RANGE_A_CTRL i 0
  let base := fieldIn s R.CX_RANGE_A_BASE i 0
  let size := fieldIn s R.CX_RANGE_A_SIZE i 0
  let g := FMap.get gdctl0 s.gdctls k
  decide (0 < size) &&
  ((fieldIn s R.GD_STATUS_STATE k 0 == 2) ||
    (fieldIn s R.GD_STATUS_STATE k 0 != 3 &&
      (g.stuck.any (fun w => decide (base ≤ w.block / 16) && decide (w.block / 16 < base + size)) ||
        (List.range 16).any (fun e => fieldIn s R.GD_REMAP_BUSY k e == 1 &&
          decide (base ≤ fieldIn s R.GD_REMAP_BLOCK k e / 16) && decide (fieldIn s R.GD_REMAP_BLOCK k e / 16 < base + size)))) ||
    s.held.any (fun h => (blocksOfIn s h.1 h.2.length).any (fun p =>
      p.1 == k && decide (base ≤ p.2 / 16) && decide (p.2 / 16 < base + size))) ||
    spanWaitsIn s (fieldIn s R.CX_RANGE_B_SIDE i 0) (8 * size) true || heldMeets s (fieldIn s R.CX_RANGE_B_SIDE i 0) (8 * size))

/-- RANGE_READY: every side word of the range is written as raw with the agreement word of the block as it stands (R334).
The word of a block that cannot be read is left open. -/
def execRangeReady (i : Nat) (s : State) : Host.Outcome State Fault Refusal := .next <| run s do
  if i < 16 ∧ fieldIn s R.CX_RANGE_A_EN i 0 = 1 ∧ fieldIn s R.CX_RANGE_A_READY i 0 = 0 then
    let k := fieldIn s R.CX_RANGE_A_CTRL i 0
    let base := fieldIn s R.CX_RANGE_A_BASE i 0
    let c := fieldIn s R.CX_RANGE_A_ECLASS i 0
    need (!rangePortsWait s i) .later
    for x in List.range (fieldIn s R.CX_RANGE_A_SIZE i 0) do
      let (d, evs) ← readSectors k (base + x) 16
      recordAll evs
      let word ← (match d with
        | some bs => return (agree bs).toNat
        | none => do return (← freeWord).toNat % 2 ^ 32)
      recordAll (← sideWrite i (base + x) (15 + 2 ^ 4 + c * 2 ^ 13 + word * 2 ^ 16))
    setF R.CX_RANGE_A_READY 1 i

/-- Whether a block of a range is in its engine's queue, or held at its entrance. -/
def rangeBusyIn (s : State) (i : Nat) : Bool :=
  s.cx.held.any (fun h => rangeAtIn s h.1 h.2 == some i) || s.cx.queue.any (fun w => rangeAtIn s w.k w.block == some i)

/-- Ranges whose disable waited for the last of their blocks are disabled (R335); their side words leave the engine's cache. -/
def finishDisables : M s0 Unit := do
  for i in (← st).cx.disabling do
    let s ← st
    if !rangeBusyIn s i then
      eff (.cx { s.cx with
        disabling := s.cx.disabling.filter (· != i), side := s.cx.side.filter (fun x => rangeAtIn s x.1 x.2.1 != some i) })
      setF R.CX_RANGE_A_EN 0 i
      setF R.CX_RANGE_A_READY 0 i

/-- RANGE_DISABLE: a write of CX_RANGEi_A with EN = 0. An enabled range is disabled once the queue holds no block of it (R335); on
another the write sets the fields. -/
def rangeOff (i : Nat) (v : Word) : M s0 Unit := do
  let s ← st
  if i < 16 ∧ bitsOf v 5 1 = 0 then
    if fieldIn s R.CX_RANGE_A_EN i 0 = 1 then
      eff (.cx { s.cx with disabling := s.cx.disabling.filter (· != i) ++ [i] })
      finishDisables
    else
      setF R.CX_RANGE_A_CTRL (bitsOf v 0 5) i
      setF R.CX_RANGE_A_ECLASS (bitsOf v 6 3) i
      setF R.CX_RANGE_A_BASE (bitsOf v 12 21) i
      setF R.CX_RANGE_A_SIZE (bitsOf v 33 21) i

def execRangeDisable (i : Nat) (v : Word) (s : State) : Host.Outcome State Fault Refusal := .next <| run s (rangeOff i v)

/-! The engines' queues (R346). -/

/-- Show how many blocks each engine's queue holds (R354). -/
def showQueues : M s0 Unit := do
  let q := (← st).cx.queue
  for e in List.range 8 do
    setF R.CX_CNT_QUEUE ((q.filter (fun w => w.k / 4 == e)).length) e

/-- A block enters its engine's queue. -/
def enqueue (w : CxWork) : M s0 Unit := do
  let c := (← st).cx
  eff (.cx { c with queue := c.queue ++ [w] })
  showQueues

/-- An engine serves a block: it decodes it and checks its agreement word, or encodes and stores it. -/
def serveWork (w : CxWork) : M s0 Unit := do
  match rangeOfIn (← st) w.k w.block with
  | none => return ()
  | some i =>
    match w.bytes with
    | none =>
      let (_, _, _, evs) ← cxRead w.k w.block i
      recordAll evs
    | some bytes =>
      let (_, evs) ← cxWrite w.k w.block i bytes
      recordAll evs

/-- Held blocks enter as far as the queues have room, once no load waits. -/
def admitHeld : Nat → M s0 Unit
  | 0 => return ()
  | fuel + 1 => do
    let s ← st
    match s.cx.held, s.cx.load with
    | h :: hs, none =>
      if queueFullIn s h.1 then return ()
      eff (.cx { s.cx with held := hs })
      enqueue ⟨h.1, h.2, none⟩
      admitHeld fuel
    | _, _ => return ()

/-- The engines serve what their queues hold, each block in its order of arrival; what was held enters, and ranges whose last block has
left are disabled. A block whose sectors lie behind a port that waits stays. -/
def serveQueues : M s0 Unit := do
  for w in (← st).cx.queue do
    let s ← st
    if !(match rangeAtIn s w.k w.block with | some i => blockPortsIn s w.k w.block i | none => false) then
      serveWork w
      let c := (← st).cx
      eff (.cx { c with queue := eraseFirst w c.queue, snap := eraseFirst (w.k, w.block) c.snap })
  admitHeld (← st).cx.held.length
  showQueues
  finishDisables

/-- Engines are reset with their base-die I/O units: what they have not begun is abandoned, and their caches are empty; tables, ENCGEN and
ranges stay (R350). -/
def cxReset (hit : Nat → Bool) : M s0 Unit := do
  let c := (← st).cx
  eff (.cx { c with
    held := c.held.filter (fun h => !hit (h.1 / 4)), queue := c.queue.filter (fun w => !hit (w.k / 4))
    snap := c.snap.filter (fun x => !hit (x.1 / 4)), side := c.side.filter (fun x => !hit (x.1 / 4)) })
  showQueues
  finishDisables

/-- BLOCK_DECODE: a read of a block of an enabled range enters its engine's queue; a full queue lets it wait, and a range that is not
READY. While a table load waits, a block that names the load's slot is held at the entrance (R345 step 4). -/
def execBlockDecode (k block : Nat) (s : State) : Host.Outcome State Fault Refusal := .next <| run s do
  match rangeAtIn s k block with
  | none => return ()
  | some i =>
    need (fieldIn s R.CX_RANGE_A_READY i 0 == 1) .later
    match s.cx.load with
    | some (gen, _) =>
      if namesSlotIn s i block gen then
        eff (.cx { s.cx with held := s.cx.held ++ [(k, block)] })
        return ()
    | none => pure ()
    need (!queueFullIn s k) .later
    enqueue ⟨k, block, none⟩

/-- BLOCK_ENCODE: a whole-block write of an enabled range enters its engine's queue (R341, R347). -/
def execBlockEncode (k block : Nat) (bytes : List Byte) (s : State) : Host.Outcome State Fault Refusal := .next <| run s do
  match rangeAtIn s k block with
  | none => return ()
  | some i =>
    need (fieldIn s R.CX_RANGE_A_READY i 0 == 1 && !queueFullIn s k && !s.cx.held.contains (k, block)) .later
    if bytes.length = 4096 then enqueue ⟨k, block, some bytes⟩

/-! Table loads. -/

/-- The values of CX_TBL_STAT.ERR (R352). -/
def CxErr.busy : Nat := 1
def CxErr.table : Nat := 2
def CxErr.sameGen : Nat := 3
def CxErr.encSlot : Nat := 4
def CxErr.genMissing : Nat := 5
def CxErr.source : Nat := 6

/-- End a table load with a result. -/
def endTableLoad (err : Nat) : M s0 Unit := do
  setF R.CX_TBL_STAT_ERR err
  setF R.CX_TBL_STAT_DONE 1
  setF R.CX_TBL_STAT_BUSY (if (← st).cx.load.isSome then 1 else 0)

/-- TABLE_LOAD: a write of CX_TBL_CMD; START reads and checks the table at CX_TBL_SRC (R345 steps 1 and 2). -/
def tableCmd (v : Word) : M s0 Unit := do
  let s ← st
  setF R.CX_TBL_CMD_GEN (bitsOf v 0 8)
  if bitsOf v 8 1 = 1 then
    let gen := bitsOf v 0 8
    if s.cx.load.isSome then endTableLoad CxErr.busy
    else if gen % 4 = fieldIn s R.CX_CTRL_ENCGEN 0 0 % 4 then endTableLoad CxErr.encSlot
    else
      match ← readOwn (fieldIn s R.CX_TBL_SRC_ADDR 0 0) 64 with
      | none => endTableLoad CxErr.source
      | some bs =>
        if !tableValid bs then endTableLoad CxErr.table
        else if (tableOfIn s gen).isSome then endTableLoad CxErr.sameGen
        else
          let t ← st
          let now := bitsN (fieldIn t R.CX_SLOTS_GENS 0 0) (8 * (gen % 4)) 8
          let named (w : CxWork) : Bool := (match rangeAtIn t w.k w.block with
            | some i => w.bytes.isNone && !bitN (sidePeekIn t i w.block) 4 && bitsN (sidePeekIn t i w.block) 5 8 == now
            | none => false)
          eff (.cx { t.cx with load := some (gen, parseTable bs), snap := (t.cx.queue.filter named).map (fun w => (w.k, w.block)) })
          setF R.CX_TBL_STAT_BUSY 1

def execTableLoad (v : Word) (s : State) : Host.Outcome State Fault Refusal := .next <| run s (tableCmd v)

/-- TABLE_INSTALL: every engine's snapshot has drained; the table goes into its slot, and the held blocks enter (R345 step 5). -/
def execTableInstall (s : State) : Host.Outcome State Fault Refusal := .next <| run s do
  match s.cx.load with
  | none => return ()
  | some (gen, t) =>
    need s.cx.snap.isEmpty .later
    let i := gen % 4
    eff (.cx { s.cx with load := none, slots := s.cx.slots.set i (some t) })
    let g := fieldIn s R.CX_SLOTS_GENS 0 0
    setF R.CX_SLOTS_GENS (g - bitsN g (8 * i) 8 * 2 ^ (8 * i) + gen * 2 ^ (8 * i))
    setF R.CX_SLOTS_VALID (fieldIn s R.CX_SLOTS_VALID 0 0 ||| 2 ^ i)
    endTableLoad 0
    admitHeld s.cx.held.length

/-- TABLE_LOAD_TIMEOUT: a snapshot has not drained 1 ms after START; the slot keeps its table (R345 step 6). -/
def execTableLoadTimeout (s : State) : Host.Outcome State Fault Refusal := .next <| run s do
  if s.cx.load.isSome && !s.cx.snap.isEmpty then
    eff (.cx { s.cx with load := none, snap := [] })
    endTableLoad CxErr.genMissing
    admitHeld s.cx.held.length

end Sys2Proof.Machine
end

