-- ==== Sys2Proof/Machine/RegBase.lean ====
section
/-! DEFINITION. What a write of a 64-bit word does to a register by the types of its fields and the values they take (R8 to
R12, R542). -/

namespace Sys2Proof.Machine

open Sys2Proof

variable {s0 : State}

/-- A field after a word is written to its register: RW takes the value, a 1 clears a W1C bit, the others are unchanged. -/
def writtenField (v : Word) (w : Word) (f : FieldDef) : Word :=
  let x := bitsOf v f.lo f.width
  match f.ty with
  | .rw => withBits w f.lo f.width x
  | .w1c => withBits w f.lo f.width (bitsOf (w &&& ~~~v) f.lo f.width)
  | .ro => w
  | .wo => w
  | .rc => w

/-- Whether a written word sets every RW field to a value the field takes (R542). -/
def wordTaken (r : RegDef) (v : Word) : Bool :=
  r.fields.all (fun f => f.ty != .rw || f.legal.holds (bitsOf v f.lo f.width))

/-- Whether a word written at an offset is taken by the register there. -/
def takenAt (off : Nat) (v : Word) : Bool := match findReg off with | some (r, _, _) => wordTaken r v | none => false

/-- A register after a word is written to it. -/
def writtenWord (r : RegDef) (w v : Word) : Word := if wordTaken r v then r.fields.foldl (writtenField v) w else w

/-- Write a word to a register with no effect beside its fields'. -/
def plainWrite (off : Nat) (v : Word) : M s0 Unit := do
  match findReg off with
  | some (r, _, _) => wrReg off (writtenWord r (← rdReg off) v)
  | none => return ()

/-- What a register reads as, but for what is computed: WO fields and reserved bits are zero. -/
def shownWord (r : RegDef) (w : Word) : Word :=
  r.fields.foldl (fun x f => if f.ty = .wo then x else withBits x f.lo f.width (bitsOf w f.lo f.width)) 0

/-- What the register word at an offset shows: INT_TIME is computed (R536); an offset without a register shows zero (R11). -/
def regValueIn (s : State) (off : Nat) : Word :=
  if off = R.INT_TIME_NS.addr 0 0 then BitVec.ofNat 64 (fabricNsIn s)
  else match findReg off with
    | some (r, _, _) => shownWord r (FMap.get resetValue s.regs off)
    | none => 0

/-- A register after an aligned 64-bit read: its RC fields are zero (R8, R11). -/
def readWord (r : RegDef) (w : Word) : Word :=
  r.fields.foldl (fun x f => if f.ty = .rc then withBits x f.lo f.width 0 else x) w

end Sys2Proof.Machine
end

