-- ==== Sys2Proof/Machine/Integrity.lean ====
section
/-! DEFINITION. Proof-reading (R414 to R418), the record rings' registers (R421, R430), dictations but for a pass (R424 to R429,
R432) and the fault interrupt (R476). -/

namespace Sys2Proof.Machine

open Sys2Proof

variable {s0 : State}

/-! Proof-reading. -/

/-- The pieces of an output record, padded to `n` pieces of 4 KiB. -/
def proofPieces (n : Nat) (bs : List Byte) : List (List Byte) := (List.range n).map (fun i => slice bs (4096 * i) 4096)

/-- The first piece whose agreement words differ: its index and both words. -/
def firstDiffer (a b : List Byte) : Option (Nat × Nat × Nat) :=
  let n := (max a.length b.length + 4095) / 4096
  (((proofPieces n a).zip (proofPieces n b)).zipIdx.map (fun p => (p.2, (agree p.1.1).toNat, (agree p.1.2).toNat))).find?
    (fun p => p.2.1 != p.2.2)

/-- Take the record at the head of a field's queue; what waited for its comparison goes on (R418). -/
def takeProof (field : Nat) (act : ProofRec → M s0 Unit) : M s0 Unit := do
  let s ← st
  match s.proofs.find? (fun p => p.field == field) with
  | none => return ()
  | some p =>
    eff (.proofs (eraseFirst p s.proofs))
    act p
    settleBlocks p.job

/-- PROOF_COMPARE: the checker has executed the record at the head of its queue (R417, R419). -/
def execProofCompare (field : Nat) (original checker : List Byte) (s : State) : Host.Outcome State Fault Refusal :=
  .next <| run s do
  takeProof field fun p => do
    match firstDiffer original checker with
    | none => return ()
    | some (i, a, b) =>
      countSat R.INT_PROOF_MISMATCH
      let syn := slice (leBytes 4 a ++ leBytes 4 b ++ leBytes 4 i) 0 32
      let detail := slice (leBytes 1 p.checker ++ leBytes 1 p.field) 0 24
      record (← coreRec p.core p.slot 0xFF { cls := 1, source := 0x0B, unit := p.core, flags := 16, op := 0xFF + p.addr.toNat * 256, syn, detail })
      if (← getCtx p.core p.slot).job = some p.job then ctxFaultD p.core p.slot

/-- PROOF_LATE: the record at the head of a field's queue is abandoned. -/
def execProofLate (field : Nat) (s : State) : Host.Outcome State Fault Refusal := .next <| run s do
  takeProof field fun _ => countSat R.INT_PROOF_LATE

/-- FAULT_INTERRUPT: the message of a D-ring record, or the further one of an enable. -/
def execFaultInterrupt (s : State) : Host.Outcome State Fault Refusal := .next <| run s do
  if s.faultsDue ≠ 0 then
    eff (.faultsDue (s.faultsDue - 1))
    sendMsix 0

/-! Ring registers. -/

/-- A write of a ring's base register: BASE and SIZE keep their values while EN is 1 (R430). -/
def ringRegWrite (off : Nat) (v : Word) : M s0 Unit := do
  let w ← rdReg off
  if bitsOf w 53 1 = 1 then wrReg off (withBits w 53 1 (bitsOf v 53 1)) else plainWrite off v

/-- A write of INT_LOGD: on an enable the stored records go to the ring in order, with one further message (R421). -/
def logdWrite (v : Word) : M s0 Unit := do
  let before ← getF R.INT_LOGD_EN
  ringRegWrite (R.INT_LOGD_BASE.addr 0 0) v
  if before = 0 ∧ (← getF R.INT_LOGD_EN) = 1 then
    let kept := (← st).store
    eff (.store [])
    for bs in kept do
      let (written, owed) ← ringWrite R.INT_LOGD_BASE R.INT_LOGD_SIZE R.INT_LOGD_PTR_HEAD R.INT_LOGD_PTR_TAIL bs
      if !written then countSat R.INT_LOST_LOSTD
      recordAll owed
    if !kept.isEmpty then eff (.faultsDue ((← st).faultsDue + 1))

/-- D_RING_ENABLE: INT_LOGD is written with EN set. -/
def execDRingEnable (v : Word) (s : State) : Host.Outcome State Fault Refusal := .next <| run s do
  if bitsOf v 53 1 = 1 then logdWrite v

/-! Injection of a comparison failure. -/

/-- A write of MX_INJECT (R163). -/
def mxInject (v : Word) : M s0 Unit := do
  if moodAllows (← st) [0, 1, 2] [2] 2 ∧ bitsOf v 0 8 < 144 ∧ bitsOf v 8 1 = 1 then
    modCore (bitsOf v 0 8) (fun c => { c with inject := true })

def execMxInjectArm (v : Word) (s : State) : Host.Outcome State Fault Refusal := .next <| run s (mxInject v)

/-! Dictations. -/

/-- The codes of INT_DSTAT.ERR (R426). -/
def DictErr.none : Nat := 0x00
def DictErr.busy : Nat := 0x01
def DictErr.power : Nat := 0x02
def DictErr.mood : Nat := 0x03
def DictErr.source : Nat := 0x04
def DictErr.size : Nat := 0x05
def DictErr.keyUnknown : Nat := 0x06
def DictErr.signature : Nat := 0x07
def DictErr.header : Nat := 0x08
def DictErr.target : Nat := 0x09
def DictErr.duplicate : Nat := 0x0A
def DictErr.test : Nat := 0x0B
def DictErr.area : Nat := 0x0C

/-- The units of a test, ascending. -/
def unitsOfTest (map : Nat) : List Nat := (List.range 192).filter (bitN map)

/-- Test entry i of a bundle (R425). -/
def dictTest (d : List Byte) (i : Nat) : DictTest :=
  let e := slice d (128 + 64 * i) 64
  ⟨fieldAt e 0 1, fieldAt e 1 1, fieldAt e 4 4, fieldAt e 8 24, fieldAt e 32 4, fieldAt e 36 4, BitVec.ofNat 64 (fieldAt e 40 8),
    BitVec.ofNat 32 (fieldAt e 48 4)⟩

/-- Whether a test entry keeps R425; a payload lies between the test table and the signature. -/
def dictTestOk (d : List Byte) (i : Nat) : Bool :=
  let e := slice d (128 + 64 * i) 64
  let t := dictTest d i
  decide (1 ≤ t.kind) && decide (t.kind ≤ 3) && (t.action == 0 || (t.action == 1 && t.kind != 3)) && fieldAt e 2 2 == 0 &&
  fieldAt e 52 12 == 0 &&
  (t.kind != 1 || (t.poff % 64 == 0 && t.plen % 32 == 0 && decide (128 + 64 * fieldAt d 7 1 ≤ t.poff) &&
    decide (t.poff + t.plen ≤ d.length - 64) && decide (1 ≤ t.steps) && decide (t.steps ≤ 1048576)))

/-- A quarter of the dictation area: 0 without one. -/
def dictQuarterIn (s : State) : Nat := fieldIn s R.INT_DICT_MIB 0 0 * 2 ^ 20 / 4

/-- Check a bundle (R426): the code of its first failed check, 0 when there is none. The mood is checked as soon as SIGNER is
read. -/
def dictCheck (s : State) (d : List Byte) : Nat :=
  let n := d.length
  let signer := fieldAt d 6 1
  let tests := fieldAt d 7 1
  let key := if signer = 0 then keyNamed (roleKeysIn s 0) (fieldAt d 24 8) else if signer = 1 then keyNamed s.sec.operator (fieldAt d 24 8) else none
  if signer = 1 ∧ fieldIn s R.DEV_MOOD_SEC 0 0 ≠ 2 then DictErr.mood
  else if n < 256 ∨ 4194304 < n ∨ n % 64 ≠ 0 ∨ fieldAt d 8 4 ≠ n then DictErr.size
  else
    match key with
    | none => DictErr.keyUnknown
    | some (_, k) =>
      if !signedBy k d then DictErr.signature
      else if fieldAt d 0 4 ≠ 0x54434944 ∨ fieldAt d 4 2 ≠ 1 ∨ tests < 1 ∨ 64 < tests ∨ fieldAt d 44 84 ≠ 0 ∨
          n < 192 + 64 * tests ∨ fieldAt d 16 8 = 0 ∨ fieldAt d 40 2 = 0 ∨ 4 ≤ fieldAt d 14 1 then DictErr.header
      else if fieldAt d 12 2 ≠ fieldIn s R.DEV_ID_PRODUCT 0 0 ∨
          !bitN (fieldAt d 14 1) (if fieldIn s R.DEV_ID_ORDER 0 0 = 2 then 1 else 0) ∨
          fieldIn s R.DEV_ID_STEPPING 0 0 < fieldAt d 15 1 then DictErr.target
      else if (List.range 4).any (fun i =>
          let x := FMap.get dict0 s.dicts i
          x.used && x.signer == signer && x.serial.toNat == fieldAt d 16 8) then DictErr.duplicate
      else if !(List.range tests).all (dictTestOk d) then DictErr.test
      else if dictQuarterIn s < n + 64 * ((List.range tests).map (fun i => (unitsOfTest (dictTest d i).units).length)).sum then
        DictErr.area
      else DictErr.none

/-- The offset of a slot's quarter of the area. -/
def dictBase (s : State) (k : Nat) : Nat := fieldIn s R.INT_DICT_BASE 0 0 + k * dictQuarterIn s

/-- Set the bits of INT_DSTAT.USED. -/
def showUsed : M s0 Unit := do
  let s ← st
  setF R.INT_DSTAT_USED (((List.range 4).map (fun k => if (FMap.get dict0 s.dicts k).used then 2 ^ k else 0)).sum)

/-- Whether something is being read from another module for the control complex: 0 a signed command, 1 a bundle. -/
def readRunsIn (s : State) (which : Nat) : Bool := s.rst.reads.any (fun f => f.which == which)

/-- The first free dictation slot. -/
def dictFreeIn (s : State) : Option Nat := (List.range 4).find? (fun k => !(FMap.get dict0 s.dicts k).used)

/-- Whether the mood does not permit the dictations of the bundle's signer (R514). -/
def dictMoodBars (s : State) (d : List Byte) : Bool := fieldAt d 6 1 == 1 && fieldIn s R.DEV_MOOD_SEC 0 0 != 2

/-- Take an accepted bundle into a slot (R426): its results are not there yet, which their entries show as not run. -/
def dictAccept (k : Nat) (d : List Byte) : M s0 Unit := do
  let tests := (List.range (fieldAt d 7 1)).map (dictTest d)
  let results := tests.zipIdx.flatMap (fun t => (unitsOfTest t.1.units).map (fun u => (⟨t.2, u, 4, 0, 0, 0, 0, 0, none, none⟩ : DictRes)))
  let slot : DictSlot := {
    used := true, signer := fieldAt d 6 1, serial := BitVec.ofNat 64 (fieldAt d 16 8)
    notAfter := BitVec.ofNat 64 (fieldAt d 32 8), repeat' := fieldAt d 40 2, period := fieldAt d 42 2, length := d.length
    tests, bytes := d, results }
  eff (.dict k slot)
  let _ ← wrGddr (dictBase (← st) k) d
  showUsed
  noteChange 4 (if slot.signer = 0 then 0 else 2) (fieldAt d 24 8) (streamDigest d).toNat
    (leBytes 1 slot.signer ++ leBytes 8 slot.serial.toNat)

/-- End a load of a bundle with its code, which INT_DSTAT shows. -/
def dictEnd (code : Nat) : M s0 Nat := do
  setF R.INT_DSTAT_ERR code
  setF R.INT_DSTAT_LOADED 1
  sendMsix 3
  return code

/-- A load of a bundle whose bytes were read, or could not be (R426): its code. POWER is for a load that the power state alone refuses
(R514): one whose signer the mood bars ends with MOOD where the signer is known. -/
def dictTake (bytes : Option (List Byte)) : M s0 Nat := do
  let s ← st
  let off := decide (3 ≤ fieldIn s R.DEV_MOOD_POWER 0 0)
  match bytes, dictFreeIn s with
  | _, none => dictEnd DictErr.busy
  | none, _ => dictEnd (if off then DictErr.power else DictErr.source)
  | some d, some k =>
    let code := if off && !dictMoodBars s d then DictErr.power else dictCheck s d
    if code = 0 then dictAccept k d
    dictEnd code

/-- Whether a load is refused with BUSY: one runs, or no slot is free (R426). -/
def dictBusyIn (s : State) : Bool := readRunsIn s 1 || (dictFreeIn s).isNone

/-- A load of a bundle that is read here. -/
def dictLoad (bytes : M s0 (Option (List Byte))) : M s0 Nat := do
  if dictBusyIn (← st) then dictEnd DictErr.busy else dictTake (← bytes)

/-- Read from another module for the control complex: whether there is a route. -/
def beginRead (f : Fetch) (n : Nat) : M s0 Bool := do
  let x := (← st).rst
  eff (.rst { x with reads := x.reads.filter (fun y => y.which != f.which) ++ [f] })
  if (← sendRead f.addr n 0xFFFF (fun skip len first => .fetch f.which skip len first)).isSome then return true
  let x := (← st).rst
  eff (.rst { x with reads := x.reads.filter (fun y => y.which != f.which) })
  return false

/-- A bundle that is not of the length named with it, cut so that it is of a wrong SIZE. -/
def sizedBundle (given : Option Nat) (d : List Byte) : List Byte :=
  match given with
  | some n => if fieldAt d 8 4 = n then d else d.take 128
  | none => d

/-- The bytes of a bundle at a global address of this module: its LENGTH is read first. In P3 the memory sleeps, and nothing is read. -/
def bundleAt (g : Nat) : M s0 (Option (List Byte)) := do
  if 3 ≤ (← getF R.DEV_MOOD_POWER) then return none
  match ← localOffset g with
  | none => return none
  | some o =>
    match ← attempt (rdMem o 128) with
    | .ok (0, h) =>
      let n := fieldAt h 8 4
      if n < 256 ∨ 4194304 < n then return some h
      else
        match ← attempt (rdMem o n) with
        | .ok (0, d) => return some d
        | _ => return none
    | _ => return none

/-- A load from a global address (R426): its code; or none where the bundle lies on another module, is being read and the load ends when it
has come. `given` is the length that a message named with it: another than the bundle's own is a wrong SIZE. -/
def dictLoadAt (g : Nat) (given : Option Nat) : M s0 (Option Nat) := do
  let s ← st
  if (← localOffset g).isNone && !dictBusyIn s && decide (fieldIn s R.DEV_MOOD_POWER 0 0 < 3) then
    if ← beginRead { which := 1, addr := g, given, header := true } 128 then return none
    return some (← dictTake none)
  return some (← dictLoad (do return (← bundleAt g).map (sizedBundle given)))

/-- A load by the registers. -/
def dictLoadRegs : M s0 Unit := do
  let g ← getF R.INT_DSRC_ADDR
  let _ ← dictLoadAt g none

/-- CANCEL of a slot: it is free, and what runs of it stops (R428). -/
def dictCancel (k : Nat) : M s0 Unit := do
  eff (.dict k {})
  showUsed

/-- A write of INT_DCMD. -/
def dcmdWrite (v : Word) : M s0 Unit := do
  setF R.INT_DCMD_SLOT (bitsOf v 2 2)
  if bitsOf v 1 1 = 1 then dictCancel (bitsOf v 2 2)
  if bitsOf v 0 1 = 1 then dictLoadRegs

/-- CANCEL: INT_DCMD is written with CANCEL. -/
def execCancel (v : Word) (s : State) : Host.Outcome State Fault Refusal := .next <| run s do
  if bitsOf v 1 1 = 1 then dcmdWrite v

/-- The field of a test's unit: a core's own, or the one on the base die of a controller (R18, R419). -/
def dictField (t : DictTest) (unit : Nat) : Nat := if t.kind = 3 then unit / 4 else unit / 19

/-- The readings at the end of a pass: fabric time, TJ, VCORE and RATE (R419, R429). -/
def stampIn (s : State) (t : DictTest) (unit : Nat) : Nat × Nat × Nat × Nat :=
  let f := dictField t unit
  if f < 8 then (fabricNsIn s, fieldIn s R.PWR_VREQ_TJ f 0, s.pwr.rail.getD f 0, fieldIn s R.DEV_STEP_RATE_RATE (f / 4) 0)
  else (fabricNsIn s, 0xFFFF, 0xFFFF, 0xFFFF)

/-- The bytes of a result entry (R429). Before the first pass has ended the verdict is not run, and there are no readings (DESIGN CHOICE, log
entry 36). -/
def resultBytes (r : DictRes) : List Byte :=
  let (time, tj, vcore, rate) := r.stamp.getD (0, 0xFFFF, 0xFFFF, 0xFFFF)
  leBytes 1 r.test ++ leBytes 1 (min r.verdict 3) ++ leBytes 2 r.unit ++ leBytes 4 r.passes ++ leBytes 4 r.fails ++ leBytes 4 r.observed ++
  leBytes 8 time ++ leBytes 2 tj ++ leBytes 2 vcore ++ leBytes 2 rate ++ leBytes 2 r.abandoned ++ leBytes 4 r.corrected ++ leBytes 28 0

/-- Whether every test of a slot has had its passes on its units, or is not run there. -/
def dictDone (x : DictSlot) : Bool := x.results.all (fun e => e.verdict == 3 || decide (x.repeat' ≤ e.passes))

/-- Put a result entry in its place: the slot's table and the entry after the bundle copy. When with it every test has had its
passes, the slot is done (R428). -/
def putResult (k i : Nat) (r : DictRes) : M s0 Unit := do
  let x ← getDict k
  let y := { x with results := x.results.set i r }
  eff (.dict k y)
  let s ← st
  let _ ← wrGddr (dictBase s k + y.length + 64 * i) (resultBytes r)
  if dictDone y ∧ !dictDone x then
    setF R.INT_DSTAT_DONE ((← getF R.INT_DSTAT_DONE) ||| 2 ^ k)
    sendMsix 3

/-- The result entry of a test on a unit of a slot. -/
def resultAt (x : DictSlot) (test unit : Nat) : Option (Nat × DictRes) :=
  (x.results.zipIdx.find? (fun e => e.1.test == test && e.1.unit == unit)).map (fun e => (e.2, e.1))

end Sys2Proof.Machine
end

