-- ==== Sys2Proof/Machine/Host.lean ====
section
/-! DEFINITION. The host interface but for BAR2 and commands: queues and doorbells (R466, R479, R481, R482), the MSI-X table
(R458, R476), configuration space (R455, R458, R479), the link (R456) and what a reset of unit 112 does (R478). -/

namespace Sys2Proof.Machine

open Sys2Proof

variable {s0 : State}

/-- The boot phase (R451): 4 is READY. -/
def phaseIn (s : State) : Nat := fieldIn s R.RST_STATUS_PHASE 0 0

/-- Whether the memory BARs are the function's to answer: the link is up, Memory Space Enable is set and the power state is D0 (R455, R458). -/
def barsOnIn (s : State) : Bool := fieldIn s R.HOST_LINK_UP 0 0 == 1 && s.pcie.memEnable && !s.pcie.d3hot

/-! Queues. -/

/-- Completion entries that waited for room in a queue are lost (R478, R479). -/
def loseEntries (c : Nat) : M s0 Unit := do
  let s ← st
  countSat R.HOST_CNT_LOST 0 (s.pcie.waiting.filter (fun w => w.1 == c)).length
  eff (.pcie { s.pcie with waiting := s.pcie.waiting.filter (fun w => w.1 != c) })

/-- A write of HOST_SQA_q: an enabled queue takes EN only; enabling empties the ring (R481). -/
def sqaWrite (q : Nat) (v : Word) : M s0 Unit := do
  let off := R.HOST_SQA_BASE.addr q 0
  let was ← getF R.HOST_SQA_EN q
  if was = 1 then setF R.HOST_SQA_EN (bitsOf v 53 1) q else plainWrite off v
  let now ← getF R.HOST_SQA_EN q
  if was = 0 ∧ now = 1 then
    setF R.HOST_SQA_STATE 1 q
    setF R.HOST_SQB_HEAD 0 q
    setF R.HOST_SQB_TAIL 0 q
    setF R.HOST_SQB_ERR 0 q
  if was = 1 ∧ now = 0 then setF R.HOST_SQA_STATE 0 q

/-- A write of HOST_CQA_q: discarded while the queue is enabled (R482). -/
def cqaWrite (q : Nat) (v : Word) : M s0 Unit := do
  if (← getF R.HOST_CQB_EN q) = 0 then plainWrite (R.HOST_CQA_BASE.addr q 0) v

/-- A write of HOST_CQB_q. -/
def cqbWrite (q : Nat) (v : Word) : M s0 Unit := do
  let was ← getF R.HOST_CQB_EN q
  if was = 1 then setF R.HOST_CQB_EN (bitsOf v 4 1) q else plainWrite (R.HOST_CQB_SIZE.addr q 0) v
  let now ← getF R.HOST_CQB_EN q
  if was = 0 ∧ now = 1 then
    setF R.HOST_CQB_HEAD 0 q
    setF R.HOST_CQB_TAIL 0 q
    setF R.HOST_CQB_PHASE 1 q
  if was = 1 ∧ now = 0 then loseEntries q

/-- The queue and kind of a queue register's offset: 0 HOST_SQA, 1 HOST_SQB, 2 HOST_CQA, 3 HOST_CQB. -/
def queueReg (off : Nat) : Option (Nat × Nat) :=
  if 0x2101000 ≤ off ∧ off < 0x2101400 then some (off % 16 / 8, (off - 0x2101000) / 16)
  else if 0x2101400 ≤ off ∧ off < 0x2101800 then some (2 + off % 16 / 8, (off - 0x2101400) / 16)
  else none

/-- A write of a queue register. -/
def queueRegWrite (off : Nat) (v : Word) : M s0 Unit :=
  match queueReg off with
  | some (0, q) => sqaWrite q v
  | some (2, q) => cqaWrite q v
  | some (3, q) => cqbWrite q v
  | _ => pure ()

/-- QUEUE_ENABLE: a write of HOST_SQA_q or HOST_CQB_q. -/
def execQueueEnable (off : Nat) (v : Word) (s : State) : Host.Outcome State Fault Refusal := .next <| run s do
  if phaseIn s = 4 ∧ off % 8 = 0 then
    match queueReg off with
    | some (0, q) => sqaWrite q v
    | some (3, q) => cqbWrite q v
    | _ => pure ()

/-- Put a submission queue in error with BAD_DOORBELL. -/
def badDoorbell (q : Nat) : M s0 Unit := do
  setF R.HOST_SQA_STATE 2 q
  setF R.HOST_SQB_ERR 1 q

/-- SQ_DOORBELL: a new tail, which may not pass the head (R466). -/
def execSqDoorbell (q : Nat) (v : Word) (s : State) : Host.Outcome State Fault Refusal := .next <| run s do
  if phaseIn s = 4 ∧ barsOnIn s ∧ q < 64 then
    let t := bitsOf v 0 16
    let n := 2 ^ fieldIn s R.HOST_SQA_SIZE q 0
    let h := fieldIn s R.HOST_SQB_HEAD q 0
    let old := fieldIn s R.HOST_SQB_TAIL q 0
    if fieldIn s R.HOST_SQA_STATE q 0 ≠ 1 then countSat R.HOST_CNT_DISCARDED
    else if n ≤ t ∨ (t + n - h) % n < (old + n - h) % n then badDoorbell q
    else setF R.HOST_SQB_TAIL t q

/-- CQ_DOORBELL: a new head, which may not pass the tail. A completion queue has no STATE of its own: a bad head puts the
enabled submission queues bound to it in error. -/
def execCqDoorbell (q : Nat) (v : Word) (s : State) : Host.Outcome State Fault Refusal := .next <| run s do
  if phaseIn s = 4 ∧ barsOnIn s ∧ q < 64 then
    let t := bitsOf v 0 16
    let n := cqSizeIn s q
    let h := fieldIn s R.HOST_CQB_HEAD q 0
    let tail := fieldIn s R.HOST_CQB_TAIL q 0
    if fieldIn s R.HOST_CQB_EN q 0 = 0 then countSat R.HOST_CNT_DISCARDED
    else if n ≤ t ∨ (tail + n - h) % n < (t + n - h) % n then
      for x in List.range 64 do
        if fieldIn s R.HOST_SQA_EN x 0 = 1 ∧ fieldIn s R.HOST_SQA_CQ x 0 = q then badDoorbell x
    else
      setF R.HOST_CQB_HEAD t q
      drainEntries q 65536

/-! MSI-X. -/

/-- The 16 bytes of a vector's entry in the MSI-X table. -/
def msixBytes (e : MsixEntry) : List Byte := leBytes 8 e.addr.toNat ++ leBytes 4 e.data.toNat ++ leBytes 4 (bit e.mask)

/-- A byte of BAR4 as it reads: the MSI-X table and the pending-bit array, and zero elsewhere (R458). -/
def bar4Byte (s : State) (off : Nat) : Byte :=
  if 0xF0000 ≤ off ∧ off < 0xF0400 then (msixBytes (FMap.get msix0 s.msix ((off - 0xF0000) / 16))).getD (off % 16) 0
  else if 0xF8000 ≤ off ∧ off < 0xF8008 then
    BitVec.ofNat 8 (((List.range 8).map (fun i => if (FMap.get msix0 s.msix (8 * (off - 0xF8000) + i)).pend then 2 ^ i else 0)).sum)
  else 0

/-- What a read of BAR4 gives (R458). No row of the table reads BAR4, so that no command answers it. -/
def bar4Read (s : State) (off n : Nat) : List Byte := (List.range n).map (fun i => bar4Byte s (off + i))

/-- Send the messages of the pending vectors that nothing masks any more (R476). -/
def releaseMsix : M s0 Unit := do
  let s ← st
  if s.pcie.sends && fieldIn s R.HOST_LINK_UP 0 0 == 1 then
    for n in List.range 64 do
      let e := FMap.get msix0 s.msix n
      if e.pend && !e.mask then
        eff (.msix n { e with pend := false })
        emit (.msix n)

/-- MSIX_TABLE_WRITE: a write of 4 or 8 bytes at an offset of BAR4 within the table; unmasking a pending vector sends its
message. -/
def execMsixTableWrite (off size : Nat) (v : Word) (s : State) : Host.Outcome State Fault Refusal := .next <| run s do
  let o := off - 0xF0000
  if phaseIn s = 4 ∧ barsOnIn s ∧ 0xF0000 ≤ off ∧ off < 0xF0400 ∧ (size = 4 ∨ size = 8) ∧ off % size = 0 then
    let n := o / 16
    let e := FMap.get msix0 s.msix n
    let new := patch (msixBytes e) (o % 16) (leBytes size v.toNat)
    let mask := fieldAt new 12 1 % 2 == 1
    let entry : MsixEntry := { addr := BitVec.ofNat 64 (fieldAt new 0 8), data := BitVec.ofNat 32 (fieldAt new 8 4), mask, pend := e.pend }
    if e.pend && !mask && s.pcie.sends && fieldIn s R.HOST_LINK_UP 0 0 == 1 then
      eff (.msix n { entry with pend := false })
      emit (.msix n)
    else eff (.msix n entry)

/-- CONFIGURATION_WRITE: 0 the BAR2 size by its log₂, 1 Memory Space Enable, 2 Device Control 2, 3 the power state, 4 the code of the
payload size, 5 MSI-X Message Control (bit 15 enable, bit 14 Function Mask), 6 bits of the Uncorrectable Error Status to be cleared
(R455, R458; what a bit is where the manual names the feature only, PRESUMED from the PCI Express specification, log entry 42). -/
def execConfigurationWrite (item value : Nat) (s : State) : Host.Outcome State Fault Refusal := .next <| run s do
  match item with
  | 0 => if !s.pcie.memEnable ∧ 30 ≤ value ∧ value ≤ 39 then eff (.pcie { s.pcie with bar2 := value })
  | 1 => eff (.pcie { s.pcie with memEnable := value % 2 == 1 })
  | 2 => eff (.pcie { s.pcie with control2 := value % 2 ^ 16 })
  | 3 =>
    eff (.pcie { s.pcie with d3hot := value % 4 == 3 })
    releaseMsix
  | 4 => if value ≤ 2 then eff (.pcie { s.pcie with maxPayload := value })
  | 5 =>
    eff (.pcie { s.pcie with msixEnable := bitN value 15, msixMask := bitN value 14 })
    releaseMsix
  | 6 => eff (.pcie { s.pcie with aer := s.pcie.aer &&& ~~~(BitVec.ofNat 32 value) })
  | _ => pure ()

/-! The link and unit 112. -/

/-- A command already taken runs to its end, and its entries are lost (R478). -/
def KvReply.lose : KvReply → KvReply
  | .queue _ _ => .lost
  | r => r

def KvItem.lose : KvItem → KvItem
  | .command c r => .command c r.lose
  | x => x

def LoadFrom.lose : LoadFrom → LoadFrom
  | .queue _ _ src len h => .unanswered src len h
  | x => x

/-- The commands taken and not ended lose their entries, and host reads of other modules their completions: the packets are still answered,
to nobody (R478). -/
def loseAnswers : M s0 Unit := do
  let s ← st
  eff (.kv { s.kv with work := s.kv.work.map (fun w => { w with reply := w.reply.lose }), queue := s.kv.queue.map KvItem.lose })
  match s.load with
  | some x => eff (.load (some { x with source := x.source.lose }))
  | none => pure ()
  eff (.reqs (s.reqs.map (fun r => match r.purpose with
    | .hostRead _ _ _ => { r with purpose := .agent }
    | _ => r)))

/-- Unit 112 resets (R478): its registers, configuration space and MSI-X table take their reset values, every queue is
disabled, and completion entries not yet written are lost. BAR accesses in flight are performed, their completions lost. DOWNS counts since
power-on. A fault interrupt still due goes with the link (R476). -/
def linkReset : M s0 Unit := do
  let s ← st
  let downs := fieldIn s R.HOST_LINK_DOWNS 0 0 + fieldIn s R.HOST_LINK_UP 0 0
  let lost := s.pcie.waiting.length
  eff (.clearRegs 0x2100000 0x2200000)
  setF R.HOST_LINK_DOWNS downs
  countSat R.HOST_CNT_LOST 0 lost
  for n in List.range 64 do
    eff (.msix n {})
  let fresh : Pcie := { resetDue := s.pcie.resetDue, turn := s.pcie.turn, host := s.pcie.host.map (fun x => { x with lost := true }) }
  eff (.pcie fresh)
  loseAnswers
  eff (.faultsDue 0)

/-- LINK_TRAINING: the lanes that train and the rate decide the width (R456). PERST# and a reset of unit 112 hold the link down; in a warm
module reset the controller is reset at its start and the link may be up before the module is READY (R445). -/
def execLinkTraining (lanesOk : BitVec 8) (speed : BitVec 4) (s : State) : Host.Outcome State Fault Refusal := .next <| run s do
  let width := if lanesOk = 0xFF then 8 else if lanesOk.toNat % 16 = 15 then 4 else 1
  if s.pins.pwrgd ∧ !s.pins.perst ∧ !s.rst.running.contains (4, 112) ∧ fieldIn s R.HOST_LINK_UP 0 0 = 0 ∧
      lanesOk.toNat % 2 = 1 ∧ 1 ≤ speed.toNat ∧ speed.toNat ≤ 7 then
    setF R.HOST_LINK_WIDTH width
    setF R.HOST_LINK_SPEED speed.toNat
    setF R.HOST_LINK_UP 1
    eff (.pcie { (← st).pcie with ready := true, resetDue := false })
    if width ≠ 8 then
      setF R.HOST_LINK_DEGRADED 1
      record { cls := 0, source := 0x07, unit := 255, lane := 0xFF }
    if s.pcie.resetDue then sendMsix 4

end Sys2Proof.Machine
end

