-- ==== Sys2Proof/Machine/Power.lean ====
section
/-! DEFINITION. The power controller but for what resets the module or changes its power state: grants (R489, R490), capping
(R491), temperature (R492), the warning band (R486 to R488), readings (R29, R493) and alerts (R496, R497). -/

namespace Sys2Proof.Machine

open Sys2Proof

variable {s0 : State}

/-- The power state, 0 to 3 for P0 to P3 (R499). -/
def powerIn (s : State) : Nat := fieldIn s R.PWR_STATE_STATE 0 0

/-- Set the power state and show it in the mood. -/
def setPower (p : Nat) : M s0 Unit := do
  setF R.PWR_STATE_STATE p
  setF R.DEV_MOOD_POWER p
  showMood

/-! Alerts. -/

/-- Drive ALERT# by the causes that are set and enabled (R496). -/
def showAlert : M s0 Unit := do
  let s ← st
  let a := bitsOf (FMap.get resetValue s.regs (R.PWR_ALERT_WARN.addr 0 0)) 0 4
  let on := decide (a &&& fieldIn s R.PWR_ALERT_EN_EN 0 0 ≠ 0)
  eff (.pins { s.pins with alert := on })
  setF R.MGT_STATUS_ALERT (bit on)

/-- A cause of PWR_ALERT becomes set: 0 WARN, 1 THERM, 2 CAPPED, 3 CURRENT. A cause newly set sends a platform event and, when
it is enabled, the message of vector 5 (R496, R533). -/
def setAlert (c : Nat) : M s0 Bool := do
  let off := R.PWR_ALERT_WARN.addr 0 0
  let w ← rdReg off
  if bitsOf w c 1 = 1 then return false
  wrReg off (withBits w c 1 1)
  showAlert
  if bitN (← getF R.PWR_ALERT_EN_EN) c then sendMsix 5
  emit (.message .mctp (Config.standardReply 4 [BitVec.ofNat 8 c] []))
  return true

/-- A record of source 0x0D (R497). -/
def powerRecord (cause lowest duration : Nat) : M s0 Unit := do
  let s ← st
  let syn := leBytes 2 cause ++ leBytes 2 lowest ++ leBytes 4 duration ++ leBytes 2 (fieldIn s R.PWR_CAP_EFFECTIVE 0 0) ++
    leBytes 1 (fieldIn s R.MX_LIMIT_LIMIT 0 0)
  record { cls := 0, source := 0x0D, unit := 255, cause, syn }

/-- A record of source 0x0E. -/
def thermalRecord (cause field sensor reading : Nat) : M s0 Unit := do
  let g ← (if field < 8 then getF R.PWR_VREQ_GRANT field else return 0xFFFF)
  let syn := leBytes 2 cause ++ leBytes 1 field ++ leBytes 1 sensor ++ leBytes 2 reading ++ leBytes 2 g
  record { cls := 0, source := 0x0E, unit := field, cause, field, syn }

/-! Grants. -/

/-- The least of the terms of a grant, and which of the capping and thermal grants and the warning floor it is, below the
request (R490). -/
def grantOf (request cap therm : Nat) (warn : Bool) : Nat × Bool × Bool × Bool :=
  let w := if warn then 650 else 850
  let g := max 650 (min request (min cap (min therm w)))
  (g, decide (g = cap) && decide (cap < request), decide (g = therm) && decide (therm < request),
    warn && decide (650 < request))

/-- Whether the cap is what keeps the module in P1 (R490, R501): the capping grant of a field is what lowers it, or the capping loop has
lowered the ramp's ceiling, in P0 or P1. -/
def cappedIn (s : State) : Bool :=
  decide (powerIn s < 2) && ((List.range 8).any (fun f => fieldIn s R.PWR_VREQ_BY_CAP f 0 == 1) ||
    (s.pwr.limCap && decide (fieldIn s R.MX_LIMIT_LIMIT 0 0 < 16)))

/-- Capping has begun, which sets CAPPED, or has ended: each has its record (R497, R501). -/
def noteCapping : M s0 Unit := do
  let s ← st
  let now := cappedIn s
  if now && !s.pwr.capping then
    let vin := fieldIn s R.PWR_INPUT_VIN 0 0
    eff (.pwr { s.pwr with capping := true, capLow := vin })
    let _ ← setAlert 2
    powerRecord 3 vin 0
  if !now && s.pwr.capping then
    eff (.pwr { s.pwr with capping := false })
    powerRecord 4 s.pwr.capLow 0

/-- Compute every grant afresh. P1 is entered or left by them (R490); P2 and P3 set the rails themselves (R494, R498). -/
def regrant : M s0 Unit := do
  let s ← st
  let p := powerIn s
  let warn := fieldIn s R.PWR_ALERT_WARN 0 0 == 1
  for f in List.range 8 do
    if p < 2 then
      let req := fieldIn s R.PWR_VREQ_REQUEST f 0
      let (g, a, b, c) := grantOf req (s.pwr.capGrant.getD f 850) (s.pwr.thermGrant.getD f 850) warn
      setF R.PWR_VREQ_GRANT g f
      setF R.PWR_VREQ_BY_CAP (bit a) f
      setF R.PWR_VREQ_BY_THERMAL (bit b) f
      setF R.PWR_VREQ_BY_WARN (bit c) f
    else
      setF R.PWR_VREQ_GRANT (if p = 2 then 550 else 0) f
      setF R.PWR_VREQ_BY_CAP 0 f
      setF R.PWR_VREQ_BY_THERMAL 0 f
      setF R.PWR_VREQ_BY_WARN 0 f
  if p < 2 then
    let t ← st
    let low := (List.range 8).any (fun f => decide (fieldIn t R.PWR_VREQ_GRANT f 0 < fieldIn t R.PWR_VREQ_REQUEST f 0)) ||
      decide (fieldIn t R.MX_LIMIT_LIMIT 0 0 < 16)
    setPower (if low then 1 else 0)
  noteCapping

/-- VREQ_WRITE: a request for a field's core voltage (R489). -/
def vreqWrite (f : Nat) (v : Word) : M s0 Unit := do
  if f < 8 then
    plainWrite (R.PWR_VREQ_REQUEST.addr f 0) v
    regrant

def execVreqWrite (f : Nat) (v : Word) (s : State) : Host.Outcome State Fault Refusal := .next <| run s do
  if phaseIn s = 4 then vreqWrite f v

/-- The effective cap at an input voltage in mV (R491). -/
def effectiveCap (s : State) (vin : Nat) : Nat :=
  let soft := fieldIn s R.PWR_CAP_SOFT 0 0
  let c := min (fieldIn s R.PWR_CAP_INSTALLED 0 0) (65 * vin / 1000)
  if soft ≠ 0 then min c soft else c

/-- PWR_CAP.EFFECTIVE shows the effective cap at the input voltage last read. -/
def showCap : M s0 Unit := do
  let s ← st
  let v := fieldIn s R.PWR_INPUT_VIN 0 0
  setF R.PWR_CAP_EFFECTIVE (effectiveCap s (if v = 0 then s.pins.vin else v))

/-- Set the ceiling of the ramp; no array has more rows enabled than it (R147). -/
def setLimit (v : Nat) : M s0 Unit := do
  setF R.MX_LIMIT_LIMIT v
  for l in List.range 144 do
    if v < (← getF R.MX_STAT_ENABLED l) then setF R.MX_STAT_ENABLED v l

/-- Lower the ceiling of the ramp by one (R491). -/
def lowerLimit : M s0 Unit := do setLimit (max 1 ((← getF R.MX_LIMIT_LIMIT) - 1))

/-- Every grant of a list 10 mV higher, to 0.85 V. -/
def raised (grants : List Nat) : List Nat := grants.map (fun g => min 850 (g + 10))

/-- An input voltage has been read: the lowest of a warning and of capping under way are kept (R497). -/
def noteInput (vin : Nat) : M s0 Unit := do
  let s ← st
  let low := if fieldIn s R.PWR_ALERT_WARN 0 0 = 1 then min s.pwr.lowest vin else s.pwr.lowest
  eff (.pwr { s.pwr with lowest := low, capLow := if s.pwr.capping then min s.pwr.capLow vin else s.pwr.capLow })

/-- Whether the ceiling may rise: heat that has lowered it must be gone for 10 ms (R492). -/
def Pwr.limitFree (p : Pwr) : Bool := !p.limHeat || decide (100 ≤ p.cool)

/-- The ceiling rises by one (R491); at its maximum nothing keeps it low any more. -/
def raiseLimit : M s0 Unit := do
  let lim ← getF R.MX_LIMIT_LIMIT
  setF R.MX_LIMIT_LIMIT (lim + 1)
  if 15 ≤ lim then eff (.pwr { (← st).pwr with limCap := false, limHeat := false })

/-- What the comparison of power and cap does (R491). Above the cap the capping grants fall, or, where they are at the floor or a warning
holds every rail there (R498), the ceiling does; after 1 ms below 97 percent of it the ceiling rises, then the capping grants. -/
def capStep (power cap : Nat) : M s0 Unit := do
  let s ← st
  let p := s.pwr
  if cap < power then
    if p.capGrant.all (· ≤ 650) || fieldIn s R.PWR_ALERT_WARN 0 0 == 1 then
      lowerLimit
      eff (.pwr { p with below := 0, limCap := true })
    else eff (.pwr { p with capGrant := p.capGrant.map (fun g => max 650 (g - 10)), below := 0 })
  else if 100 * power < 97 * cap then
    eff (.pwr { p with below := min (p.below + 1) 10 })
    if 9 ≤ p.below then
      if (← getF R.MX_LIMIT_LIMIT) < 16 then (if p.limitFree then raiseLimit else pure ())
      else eff (.pwr { (← st).pwr with capGrant := raised p.capGrant })
  else eff (.pwr { p with below := 0 })

/-- CAPPING_TICK: 100 µs have passed at an average power in W and an input voltage in mV. -/
def cappingTick (power vin : Nat) : M s0 Unit := do
  setF R.PWR_INPUT_VIN vin
  setF R.PWR_INPUT_PIN power
  noteInput vin
  let cap := effectiveCap (← st) vin
  setF R.PWR_CAP_EFFECTIVE cap
  capStep power cap
  regrant

/-- FAST_CURRENT_LIMIT: more than 65 A for 5 µs. -/
def execFastCurrentLimit (s : State) : Host.Outcome State Fault Refusal := .next <| run s do
  setLimit (min 8 (fieldIn s R.MX_LIMIT_LIMIT 0 0))
  let _ ← setAlert 3
  powerRecord 5 (fieldIn s R.PWR_INPUT_VIN 0 0) 0
  regrant

/-! Temperature. -/

/-- A reading of 16 bits in two's complement. -/
def tempOf (t : BitVec 16) : Int := t.toInt

/-- The highest of a field's nine sensors, with its index. -/
def fieldTemp (temps : List (BitVec 16)) (f : Nat) : Int × Nat :=
  (List.range 9).foldl (fun (m : Int × Nat) i =>
    let t := tempOf (temps.getD (9 * f + i) 0)
    if m.1 < t then (t, i) else m) (tempOf (temps.getD (9 * f) 0), 0)

/-- THERMAL_TICK: 100 µs have passed at these readings (R492). Recovery is as R491 has it: the ceiling first, which the capping loop raises
when power has stayed below the cap too, then the thermal grants (DEDUCED, log entry 18). -/
def execThermalTick (temps : List (BitVec 16)) (s : State) : Host.Outcome State Fault Refusal := .next <| run s do
  let ts := (List.range 8).map (fieldTemp temps)
  let p := s.pwr
  for f in List.range 8 do
    setF R.PWR_VREQ_TJ (wrapN (ts.getD f (0, 0)).1 16) f
  let hot := (List.range 8).filter (fun f => decide (1050 < (ts.getD f (0, 0)).1))
  let floor := hot.any (fun f => decide (p.thermGrant.getD f 850 ≤ 650))
  if floor then lowerLimit
  let down := p.thermGrant.zipIdx.map (fun g => if 1030 ≤ (ts.getD g.2 (0, 0)).1 then max 650 (g.1 - 10) else g.1)
  let cold := ts.all (fun t => decide (t.1 < 1000))
  let up := if cold ∧ 99 ≤ p.cool ∧ 16 ≤ fieldIn s R.MX_LIMIT_LIMIT 0 0 then raised down else down
  eff (.pwr { p with
    thermGrant := up, cool := if cold then min (p.cool + 1) 100 else 0, hot := if cold then [] else (p.hot ++ hot).dedup
    limHeat := p.limHeat || floor })
  if !hot.isEmpty then
    if ← setAlert 1 then countSat R.PWR_CNT_THERMAL
  regrant
  for f in hot do
    if !p.hot.contains f then
      let (t, i) := ts.getD f (0, 0)
      thermalRecord 1 f i (wrapN t 16)
  if cold ∧ !p.hot.isEmpty then thermalRecord 2 0xFF 0xFF 0xFFFF

/-! The warning band. -/

/-- WARNING_ENTERED: the input has fallen below 38.0 V. -/
def execWarningEntered (vin : BitVec 16) (s : State) : Host.Outcome State Fault Refusal := .next <| run s do
  if s.pins.pwrgd ∧ 34000 ≤ vin.toNat ∧ vin.toNat < 38000 then
    setF R.PWR_INPUT_VIN vin.toNat
    if fieldIn s R.PWR_ALERT_WARN 0 0 = 1 then noteInput vin.toNat
    else
      eff (.pwr { s.pwr with lowest := vin.toNat })
      showCap
      let _ ← setAlert 0
      countSat R.PWR_CNT_WARNINGS
      regrant
      powerRecord 1 vin.toNat 0
      for j in List.range 16 do
        if (← getJob j).isOpen then touchJob j

/-- WARNING_CLEARED: the input has been above 39.0 V for 10 ms. -/
def execWarningCleared (durationUs : BitVec 32) (s : State) : Host.Outcome State Fault Refusal := .next <| run s do
  if fieldIn s R.PWR_ALERT_WARN 0 0 = 1 then
    setF R.PWR_ALERT_WARN 0
    showAlert
    powerRecord 2 s.pwr.lowest durationUs.toNat
    regrant

/-! Readings. -/

/-- The least, and the greatest, of four readings of a die. -/
def dieLow (xs : List Nat) (d : Nat) : Nat := (List.range 4).foldl (fun m i => min m (xs.getD (4 * d + i) 0)) (xs.getD (4 * d) 0)
def dieHigh (xs : List (BitVec 16)) (d : Nat) : Int :=
  (List.range 4).foldl (fun m i => max m (tempOf (xs.getD (4 * d + i) 0))) (tempOf (xs.getD (4 * d) 0))

/-- Whether a core of a compute die issues: RUN shows it running (R29). -/
def dieIssuesIn (s : State) (d : Nat) : Bool :=
  (List.range 72).any (fun i => boundIn s (72 * d + i) && fieldIn s R.CORE_STATUS_RUN (72 * d + i) 0 == 1)

/-- The readings of R29 and R493; a die of which no core issues has the rate 0. -/
def sample (x : Samples) : M s0 Unit := do
  let s ← st
  if s.pins.pwrgd then
    noteInput x.vin.toNat
    setF R.PWR_INPUT_VIN x.vin.toNat
    setF R.PWR_INPUT_IIN x.iin.toNat
    setF R.PWR_INPUT_PIN x.pin.toNat
    setF R.PWR_INPUT_V5 x.v5.toNat
    let rails := (List.range 8).map (fun f => (x.rail.getD f 0).toNat)
    eff (.pwr { (← st).pwr with rail := rails })
    for f in List.range 8 do
      setF R.PWR_VREQ_TJ (x.temp.getD f 0).toNat f
    for d in List.range 2 do
      setF R.DEV_STEP_RATE_RATE (if dieIssuesIn s d then (x.rate.getD d 0).toNat else 0) d
      setF R.DEV_STEP_RATE_VCORE (dieLow rails d) d
      setF R.DEV_STEP_RATE_TJ (wrapN (dieHigh x.temp d) 16) d
    showCap

end Sys2Proof.Machine
end

