-- ==== Sys2Proof/Machine/Reset.lean ====
section
/-! DEFINITION. Reset domains (R433 to R437, R445, R446), the heartbeat monitor and hang detection (R438 to R441), retirement
(R22), and a controller's failed state (R287, R296). -/

namespace Sys2Proof.Machine

open Sys2Proof

variable {s0 : State}

/-! Units of a domain (R433, R434). -/

/-- The units a reset of a domain and target resets, by number: cores from 0, the control complex 1000, base-die units from
2000, the binding of a clause from 3000, the mesh of a die from 4000. -/
def resetUnits (s : State) (d t : Nat) : List Nat :=
  match d with
  | 1 => [t]
  | 2 => (3000 + t) :: (match s.stream with
      | some x => (match x.clauses.find? (fun c => c.num == t) with | some c => c.cores | none => [])
      | none => [])
  | 3 => [1000]
  | 4 => [2000 + t]
  | 5 => (4000 + t) :: ((List.range 72).map (72 * t + ·) ++ (match s.stream with
      | some x => (x.clauses.filter (fun c => c.cores.all (fun l => l / 72 == t))).map (fun c => 3000 + c.num)
      | none => []))
  | _ => []

/-- Whether a reset covers every unit of another: a warm module reset covers all. -/
def coversIn (s : State) (a b : Nat × Nat) : Bool :=
  a.1 == 6 || (b.1 != 6 && (resetUnits s b.1 b.2).all (fun u => (resetUnits s a.1 a.2).contains u))

/-- The units a compute die, or anything else, holds a valid target for (R436). -/
def targetValid (s : State) (d t : Nat) : Bool :=
  match d with
  | 1 => boundIn s t
  | 2 => (match s.stream with | some x => x.clauses.any (fun c => c.num == t) | none => false)
  | 3 => true
  | 4 => decide (t < 48) || (decide (64 ≤ t) && decide (t < 104)) || t == 112 || t == 113
  | 5 => decide (t < 2)
  | 6 => true
  | _ => false

/-- The cores a reset covers. -/
def coresOf (s : State) (d t : Nat) : List Nat :=
  (if d = 6 then List.range 144 else resetUnits s d t).filter (fun u => decide (u < 144))

/-- The cores of a reset that no other running one covers: one reset of each unit runs at a time (R434), where a clause over two dies and a
die meet (DEDUCED, log entry 33). -/
def ownCoresOf (s : State) (d t : Nat) : List Nat :=
  (coresOf s d t).filter (fun l => !(s.rst.running.filter (· != (d, t))).any (fun r => (coresOf s r.1 r.2).contains l))

/-! Binding (R20, R22, R28). -/

/-- The usable positions of a field, ascending. -/
def usableIn (s : State) (f : Nat) : List Nat := (List.range 19).filter (bitN (fieldIn s R.DEV_FIELD_MAP_USABLE f 0))

/-- Bind a field's logical numbers to its usable positions and name its spare (R20). A logical number left without a position is unavailable
(R21); CORE_STATUS.PCORE of it shows the position it last had, which the manual leaves open (log entry 33). -/
def bindField (f : Nat) : M s0 Unit := do
  let ps := usableIn (← st) f
  for i in List.range 18 do
    match ps[i]? with
    | some p => setF R.CORE_STATUS_PCORE (19 * f + p) (18 * f + i)
    | none => pure ()
  setF R.DEV_FIELD_MAP_SPARE_POS (ps.getD 18 31) f
  setF R.DEV_FIELD_MAP_PENDING 0 f

/-- Show how many logical cores are available (R27). -/
def showEnabled : M s0 Unit := do
  let s ← st
  setF R.DEV_ID_CORES_ENABLED ((List.range 144).filter (boundIn s)).length

/-! What each domain does. -/

/-- A core's parts are reset (R433, R128): the registers of its running context, its buffers and caches, its array, attention
engine and channels; the scratchpad, the save areas, CORE_RETIRED, CORE_SWITCHES and the counts since power-on of rows compared and of
attention operations (R164, R219) are kept, and the binding. The attempt's part of its contexts is over, and no other core of theirs gets past
a barrier or a conjunction (R125, R437). -/
def resetCore (l : Nat) : M s0 Unit := do
  let s ← st
  let run := fieldIn s R.CORE_STATUS_SLOT l 0
  let pcore := fieldIn s R.CORE_STATUS_PCORE l 0
  let on := decide (fieldIn s R.CORE_STATUS_RUN l 0 ≠ 0)
  eff (.clearRegs (R.CORE_STATUS_RUN.addr l 0) (R.CORE_STATUS_RUN.addr l 0 + 8))
  eff (.clearRegs (R.CORE_TRAP0_VALID.addr l 0) (R.CORE_TRAP0_VALID.addr l 0 + 24))
  eff (.clearRegs (R.CORE_CTX_CSTATE.addr l 0) (R.CORE_CTX_CSTATE.addr l 0 + 128))
  setF R.CORE_STATUS_PCORE pcore l
  setF R.MX_CNT_FAILED 0 l
  setF R.MX_CNT_SKIPPED 0 l
  setF R.MX_STAT_ENABLED 0 l
  setF R.MX_STAT_BUSY 0 l
  setF R.MX_STAT_RAMPDOWN 0 l
  setF R.MX_STAT_ACTIVE 0 l
  let done ← getF R.ATT_CNT_DONE l
  eff (.clearRegs (R.ATT_STAT_BUSY.addr l 0) (R.ATT_STAT_BUSY.addr l 0 + 24))
  setF R.ATT_CNT_DONE done l
  if on then eff (.clearCtx (ctxKey l run))
  for k in List.range 16 do
    let c ← getCtx l k
    let kept : Ctx := { job := c.job, entry := c.entry, tag := c.tag, saved := c.saved, savedAt := c.savedAt, stopped := c.job.isSome }
    setCtx l k kept
    if c.job.isSome then stopWaiters l k
  let c ← getCore l
  let core : CoreSt := { resident := c.resident, touched := c.touched, eligible := c.eligible, quotas := c.quotas }
  setCore l core
  for ch in List.range 8 do
    setDma l ch {}
  cacheEmpty l
  eff (.partials ((← st).partials.filter (fun p => p.core != l)))
  eff (.reqs ((← st).reqs.filter (fun r => match r.purpose with
    | .load m _ _ _ _ => m != l
    | .store m _ _ _ _ => m != l
    | .dmaRead m _ _ _ _ => m != l
    | .dmaWrite m _ _ => m != l
    | _ => true)))

/-- Whether a reset of a core or a clause meets a job: one with a runnable context on the core; one that the clause serves, if an attempt of
it is open (R437). -/
def metIn (s : State) (d : Nat) (cores : List Nat) (j : Nat) : Bool :=
  cores.any (fun l => (List.range 16).any (fun k => (FMap.get ctx0 s.ctxs (ctxKey l k)).job == some j && runnableIn s l k)) ||
  (d == 2 && (FMap.get job0 s.jobs j).isOpen && (partsIn s j).any (fun p => cores.contains p.1))

/-- The jobs that a reset of a core or a clause meets: their attempt fails, and they roll back when the reset has ended (R437). -/
def affectJobs (d t : Nat) (cores : List Nat) : M s0 Unit := do
  for j in List.range 16 do
    if metIn (← st) d cores j then
      jobFaultD j
      let r := (← st).rst
      eff (.rst { r with affected := r.affected.filter (· != (j, d, t)) ++ [(j, d, t)] })

/-- Every lane that is UP sends the two reset notices (R369). -/
def sendNotices : M s0 Unit := do
  let s ← st
  for i in List.range 48 do
    if laneUp s i then
      sendControl i 2 (chipIn s) (fieldIn s R.FAB_ID_INC 0 0)
      sendControl i 2 (chipIn s) (fieldIn s R.FAB_ID_INC 0 0)

/-- A controller completes what it has accepted and goes into self-refresh; a remap copy under way leaves its entry invalid
(R295, R297). -/
def gdSleep (k : Nat) : M s0 Unit := do
  let g ← getGd k
  setGd k { g with stuck := [], copies := [] }
  for w in g.stuck do
    gdWriteWith k w.block w.off w.bytes w.faults
  for i in List.range 16 do
    if (← getF R.GD_REMAP_BUSY k i) = 1 then setF R.GD_REMAP_BUSY 0 k i
  if (← getF R.GD_STATUS_STATE k) ≠ 3 then setF R.GD_STATUS_STATE 2 k

/-- A controller that is reset goes through self-refresh whatever its state was; of its registers only GD_FLIPC.ARMED is cleared. -/
def gdReset (k : Nat) : M s0 Unit := do
  gdSleep k
  setF R.GD_STATUS_STATE 2 k
  setF R.GD_FLIPC_ARMED 0 k

/-- A lane's transmitter is idle and its state is gone. -/
def laneOff (i : Nat) : M s0 Unit := do
  let x ← getLane i
  let y : Lane := { txInv := x.txInv, rxInv := x.rxInv, peerPort := x.peerPort }
  setLane i y
  setF R.FAB_LSTAT_STATE 0 i

/-- The monitor is disarmed (R438). -/
def disarm : M s0 Unit := do
  setF R.RST_MON_ARMED 0
  setF R.RST_MON_MISSED 0
  let r := (← st).rst
  eff (.rst { r with awaiting := false, beat := false })

/-- The management port is reset (R531, R535): its addresses and messages in flight are gone, and an armed time. Its registers take
their reset values, but what shows the pins, that fabric time is set, which is kept elsewhere, and the count of target resets. -/
def mgtPortReset : M s0 Unit := do
  let set ← getF R.MGT_TIME_SET
  let resets ← getF R.MGT_CNT_RESETS
  eff (.clearRegs (R.MGT_TIME_SET.addr 0 0) (R.MGT_CNT_MESSAGES.addr 0 0 + 8))
  setF R.MGT_TIME_SET set
  setF R.MGT_CNT_RESETS resets
  setF R.MGT_STATUS_DADDR 0
  setF R.MGT_STATUS_EID 0
  setF R.MGT_STATUS_PPS 0
  eff (.mgt { (← st).mgt with armed := none })

/-- Jobs that wait on a controller that has failed hold (R296, R50). At which port a sentence waits no state shows: each job of which a
sentence or a transfer is under way counts as one that waits (DESIGN CHOICE, log entry 9). The controller's record is the fault's. -/
def holdWaiters : M s0 Unit := do
  let s ← st
  let waits (p : Nat × Nat × JobCtx) : Bool :=
    (FMap.get ctx0 s.ctxs (ctxKey p.1 p.2.1)).sentence.isSome ||
    (List.range 8).any (fun ch => let d := FMap.get dma0 s.dmas (8 * p.1 + ch); d.slot == p.2.1 && d.state == 1)
  for j in List.range 16 do
    if (FMap.get job0 s.jobs j).isOpen && (partsIn s j).any waits then holdJob j 9 (← ownChip) (noted := true)

/-- A controller has failed: every access of it completes with POISON until its unit is reset, which is recorded (R287, R296). -/
def failController (k block : Nat) : M s0 Unit := do
  setF R.GD_STATUS_STATE 3 k
  let g ← getGd k
  setGd k { g with stuck := [] }
  record (← gdRec k 3 block 0 0)
  holdWaiters

/-- A base-die I/O unit is reset. -/
def resetUnit (u : Nat) : M s0 Unit := do
  if u < 48 then
    laneDown u
    let role ← getF R.FAB_LSTAT_ROLE u
    eff (.clearRegs (R.FAB_LSTAT_STATE.addr u 0) (R.FAB_LSTAT_STATE.addr u 0 + 0x28))
    setF R.FAB_LSTAT_ROLE role u
    if role ≠ 0 ∧ (← getF R.CJ_COORD_SET) = 1 then startTraining u true 0
    else rerouteQueue u
  else if u < 96 then gdReset (u - 64)
  else if 96 ≤ u ∧ u < 104 then cxReset (· == u - 96)
  else if u = 112 then linkReset
  else if u = 113 then mgtPortReset

/-- A firmware check that a reset meets is dropped: the ROM waits for firmware again (DESIGN CHOICE, log entry 33). -/
def dropCheck : M s0 Unit := do
  if phaseIn (← st) = 2 then
    setF R.RST_FW_STAT_BUSY 0
    setF R.RST_STATUS_PHASE 1

/-- What the control complex loses in any reset of it: the monitor is disarmed, a load, a signed command and what was being read for them are
given up, responders forget their connections (R87, R438, R521), and hang watching starts afresh (R440). -/
def controlLost : M s0 Unit := do
  disarm
  abandonLoad
  dropCheck
  eff (.spdm [0, 0])
  setF R.SEC_CSTAT_BUSY 0
  let x := (← st).rst
  eff (.rst { x with reads := [] })
  eff (.reqs ((← st).reqs.filter (fun r => match r.purpose with | .fetch _ _ _ _ => false | _ => true)))
  for l in List.range 144 do
    modCore l (fun c => { c with watched := none })

/-- What a warm module reset clears beside its cores (R433 domain 6, R383, R445): that coordinates are set and the incarnation, the lanes' links, the module's
requests and buffers, the debug state, and the requests and the soft cap of power. Other registers keep their values. -/
def resetModule : M s0 Unit := do
  sendNotices
  for k in List.range 32 do
    gdReset k
  for i in List.range 48 do
    laneOff i
  cxReset (fun _ => true)
  kvInterrupt
  eff (.kv {})
  eff (.reqs [])
  eff (.blockBufs [])
  eff (.sent [])
  setTent []
  eff (.tentDone [])
  eff (.cache [])
  eff (.partials [])
  eff (.proofs [])
  linkReset
  mgtPortReset
  let inc ← ownInc
  if inc ≠ 0 then setF R.CJ_COORD_PREVINC inc
  setF R.CJ_COORD_SET 0
  setF R.FAB_ID_INC 0
  setDebug 0
  let p := (← st).pwr
  let fresh : Pwr := { lowest := p.lowest, conversion := p.conversion, rail5 := p.rail5, rail := p.rail }
  eff (.pwr fresh)
  setF R.MX_LIMIT_LIMIT 16
  setF R.PWR_CAP_SOFT 0
  showCap
  eff (.clearRegs (R.PWR_VREQ_REQUEST.addr 0 0) (R.PWR_VREQ_REQUEST.addr 8 0))
  regrant
  setF R.RST_STATUS_PHASE 3

/-- A core or more lose what they hold. -/
def resetCores (ls : List Nat) : M s0 Unit := do
  for l in ls do
    resetCore l

/-- The effects at the start of a reset. -/
def resetEffects (d t : Nat) : M s0 Unit := do
  let cores := ownCoresOf (← st) d t
  match d with
  | 1 =>
    affectJobs d t cores
    resetCores cores
  | 2 =>
    affectJobs d t cores
    resetCores cores
  | 3 =>
    controlLost
    holdAll 5 (finish := true)
  | 4 => resetUnit t
  | 5 =>
    disarm
    holdAll 5
    kvInterrupt
    resetCores cores
  | 6 =>
    controlLost
    let chip ← ownChip
    resetModule
    resetCores cores
    holdInReset chip
  | _ => pure ()

/-- Add one to the count of a domain's resets, which stops at 0xFF (R453). -/
def countReset (d : Nat) : M s0 Unit := do
  let v ← getF R.RST_CNT_DOMAINS
  if bitsN v (8 * (d - 1)) 8 < 255 then setF R.RST_CNT_DOMAINS (v + 2 ^ (8 * (d - 1)))

/-- Begin a reset unless a running one covers it (R434). Jobs that wait for the end of a reset it covers wait for its own end, or
are held by it (R437). -/
def startReset (d t cause : Nat) : M s0 Bool := do
  let s ← st
  if s.rst.running.any (fun r => coversIn s r (d, t)) then
    countSat R.RST_CNT_ABSORBED
    return false
  let small := s.rst.running.filter (fun r => coversIn s (d, t) r)
  countSat R.RST_CNT_ABSORBED 0 small.length
  let moved := s.rst.affected.map (fun a => if coversIn s (d, t) a.2 then (a.1, d, t) else a)
  eff (.rst { s.rst with
    running := s.rst.running.filter (fun r => !coversIn s (d, t) r) ++ [(d, t)]
    affected := if d = 5 ∨ d = 6 then moved.filter (fun a => a.2 != (d, t)) else moved.dedup })
  setF R.RST_STATUS_LAST d
  setF R.RST_STATUS_CAUSE cause
  setF R.RST_STATUS_BUSY 1
  countReset d
  resetEffects d t
  return true

/-- Begin a reset; the third of the control complex within 1 s escalates to a warm module reset (R439). -/
def beginReset (d t cause : Nat) : M s0 Unit := do
  let began ← startReset d t cause
  if d = 3 ∧ began then
    let s ← st
    let recent := s.rst.recent.filter (fun x => decide (s.ms < x + 1000)) ++ [s.ms]
    eff (.rst { s.rst with recent })
    countSat R.RST_MON_CCRESETS
    setF R.RST_MON_RECENT (min recent.length 15)
    if 3 ≤ recent.length then
      let _ ← startReset 6 0 6

/-- The retained image is checked and restarted, or the module waits for one from the host (R439). Restarted firmware takes up the register of
changes afresh (R518). -/
def restartFirmware : M s0 Unit := do
  rebuildLog
  let r := (← st).rst
  match r.image with
  | some d =>
    if sha512 (d.take (d.length - 64)) = r.imageDigest then eff (.rst { r with awaiting := true })
    else setF R.RST_STATUS_PHASE 1
  | none => setF R.RST_STATUS_PHASE 1

/-- A controller leaves self-refresh and retrains, which is counted; where its training fails it is in the failed state, in which every access
completes with POISON until BASE_DIE_IO_RESET resets its unit (R296, R297). Which is not for the module to choose: a free choice. -/
def gdWake (k : Nat) : M s0 Bool := do
  if (← getF R.GD_STATUS_STATE k) = 2 then
    if ← freeBool then
      setF R.GD_STATUS_STATE 1 k
      countSat R.GD_STATUS_RETRAINS k
      return true
    failController k 0
    return false
  return true

/-- Jobs whose core or clause reset has ended: their contexts' part of the attempt is over and the member votes (R437). Where a
core stays unbound, the clause stays held and its jobs are class H (R21, R69). -/
def releaseAffected (d t : Nat) : M s0 Unit := do
  let s ← st
  eff (.rst { s.rst with affected := s.rst.affected.filter (fun a => !(a.2.1 == d && a.2.2 == t)) })
  for a in s.rst.affected do
    if a.2.1 = d ∧ a.2.2 = t then
      jobFaultD a.1
      memberVoteJob a.1

/-- Clauses with an unbound core: AQ_STATUS.DEGRADED, and a class H fault of every job they serve (R69). -/
def degrade : M s0 Unit := do
  let s ← st
  match s.stream with
  | none => return ()
  | some x =>
    for c in x.clauses do
      if c.cores.any (fun l => !boundIn s l) then
        setF R.AQ_STATUS_DEGRADED 1
        for j in List.range 16 do
          let v ← getJob j
          if v.ctxs.any (fun e => e.clause == c.num) then
            if v.isOpen then
              recordConj j 2 9
              jobFaultH j 9
            else holdJob j 9 (← ownChip)

/-- The effects at the end of a reset. -/
def resetEnds (d t : Nat) : M s0 Unit := do
  let s ← st
  match d with
  | 1 =>
    for l in ownCoresOf s 1 t do
      wakeCore l
    releaseAffected d t
  | 2 =>
    for f in ((coresOf s 2 t).map (· / 18)).dedup do
      bindField f
    degrade
    for l in ownCoresOf s 2 t do
      wakeCore l
    releaseAffected d t
  | 3 => restartFirmware
  | 4 =>
    if 64 ≤ t ∧ t < 96 ∧ powerIn s < 3 then
      if !(← gdWake (t - 64)) then eff (.clearGd (t - 64))
  | 5 =>
    for f in List.range 4 do
      bindField (4 * t + f)
    restoreConfig
    degrade
  | 6 =>
    if powerIn s < 3 then
      for k in List.range 32 do
        let _ ← gdWake k
    for f in List.range 8 do
      bindField f
    restoreConfig
    degrade
    -- an image that was accepted and has not finished its INIT starts it again
    if !s.rst.accepted then setF R.RST_STATUS_PHASE 4
    restartFirmware
    if phaseIn (← st) ≠ 4 then pure ()
    else if (← getF R.HOST_LINK_UP) = 1 then sendMsix 4
    else
      let p := (← st).pcie
      eff (.pcie { p with resetDue := true })
  | _ => pure ()

/-- RESET_COMPLETE: a reset that runs ends. -/
def endReset (d t : Nat) : M s0 Unit := do
  let s ← st
  if s.rst.running.contains (d, t) then
    let left := eraseFirst (d, t) s.rst.running
    eff (.rst { s.rst with running := left })
    setF R.RST_STATUS_BUSY (bit (!left.isEmpty))
    resetEnds d t
    -- the way from P3 to P0 ends with the resets of both compute dies (R495)
    if !left.any (fun r => r.1 == 5 || r.1 == 6) then setF R.PWR_STATE_BUSY 0

def execResetComplete (domain target : Nat) (s : State) : Host.Outcome State Fault Refusal := .next <| run s (endReset domain target)

/-! The management port's vendor messages (R532, R534). -/

/-- The completions of R534. -/
def Done.ok : Nat := 0
def Done.notReady : Nat := 1
def Done.format : Nat := 2
def Done.busy : Nat := 3
def Done.refused : Nat := 4

/-- Whether the management port runs: the module is powered and no reset holds unit 113 (R433, R535). -/
def portUpIn (s : State) : Bool :=
  s.pins.pwrgd && s.pwr.conversion && !s.rst.running.any (fun r => r.1 == 6 || (r.1 == 4 && r.2 == 113))

/-- Whether a load or a signed command runs (R508, R534). -/
def loadOrCommandIn (s : State) : Bool := fieldIn s R.SEC_CSTAT_BUSY 0 0 == 1 || s.load.isSome || readRunsIn s 1

/-- A vendor message of a code: it is counted; before READY it is answered NOT_READY, while a load or a signed command runs
BUSY; otherwise with what the command gives, at once, or later where it gives nothing yet. -/
def vendorLater (code : Nat) (cmd : M s0 (Option (Nat × Nat × List Byte))) : M s0 Unit := do
  let s ← st
  if portUpIn s then
    countWrap R.MGT_CNT_MESSAGES
    if phaseIn s ≠ 4 then emit (.mgmt code Done.notReady 0 [])
    else if loadOrCommandIn s then emit (.mgmt code Done.busy 0 [])
    else
      match ← cmd with
      | some (c, r, d) => emit (.mgmt code c r d)
      | none => return ()

def vendor (code : Nat) (cmd : M s0 (Nat × Nat × List Byte)) : M s0 Unit := vendorLater code (some <$> cmd)

/-! Orders (R436, R450, R514). -/

/-- Whether the module is powered (R513, R528). -/
def poweredIn (s : State) : Bool := s.pins.pwrgd && s.pwr.conversion

/-- A reset order of RST_CTRL or of the management port: answers whether it was taken. The mood alone permits it (R436, R514), before READY
too. -/
def resetOrder (d t : Nat) : M s0 Bool := do
  let s ← st
  if !poweredIn s ∨ !moodAllows s [0, 1, 2] [0, 1, 2] (if d = 1 ∨ d = 2 ∨ d = 5 then 2 else 3) then return false
  if targetValid s d t then
    beginReset d (if d = 3 ∨ d = 6 then 0 else t) 1
    return true
  setF R.RST_STATUS_BADORDER 1
  return false

/-- A write of RST_CTRL. -/
def rstCtrlWrite (v : Word) : M s0 Unit := do
  if bitsOf v 11 1 = 1 then
    let _ ← resetOrder (bitsOf v 0 3) (bitsOf v 3 8)

/-- An order of a source: through RST_CTRL, or a RESET of the management port, which gives domains 3, 4 and 6 only. The manual
gives a refusal of that command no code: a free value. -/
def orderedReset (d t : Nat) (source : ResetBy) : M s0 Unit := do
  match source with
  | .own => pure ()
  | .register =>
    let _ ← resetOrder d t
  | .management =>
    vendor 0x07 do
      if d = 3 ∨ d = 4 ∨ d = 6 then
        if ← resetOrder d t then return (Done.ok, 0, [])
      return (Done.refused, (← freeWord).toNat % 256, [])

/-- CORE_RESET: by a hang, or by an order. -/
def execCoreReset (core : Nat) (source : ResetBy) (s : State) : Host.Outcome State Fault Refusal := .next <| run s do
  if source = .own ∧ boundIn s core then beginReset 1 core 3
  orderedReset 1 core source

/-- CLAUSE_RESET: by a retirement, or by an order. -/
def execClauseReset (clause : Nat) (source : ResetBy) (s : State) : Host.Outcome State Fault Refusal := .next <| run s do
  if source = .own ∧ targetValid s 2 clause then beginReset 2 clause 4
  orderedReset 2 clause source

/-- CONTROL_COMPLEX_RESET: by the monitor, or by an order. -/
def execControlComplexReset (source : ResetBy) (s : State) : Host.Outcome State Fault Refusal := .next <| run s do
  if source = .own then beginReset 3 0 2
  orderedReset 3 0 source

/-- BASE_DIE_IO_RESET: by an order, or with the cause of R451: 5 a failed controller, 7 and 9 of unit 112, 10 of unit 113. -/
def execBaseDieIoReset (unit : Nat) (source : ResetBy) (cause : Nat) (s : State) : Host.Outcome State Fault Refusal :=
  .next <| run s do
  if source = .own ∧
      ((cause = 5 ∧ 64 ≤ unit ∧ unit < 96 ∧ fieldIn s R.GD_STATUS_STATE (unit - 64) 0 = 3) ∨ ((cause = 7 ∨ cause = 9) ∧ unit = 112) ∨ (cause = 10 ∧ unit = 113)) then
    beginReset 4 unit cause
  orderedReset 4 unit source

/-- COMPUTE_DIE_RESET: by an order. -/
def execComputeDieReset (die : Nat) (source : ResetBy) (s : State) : Host.Outcome State Fault Refusal := .next <| run s do
  orderedReset 5 die source

/-- WARM_MODULE_RESET: by escalation, or by an order. -/
def execWarmModuleReset (source : ResetBy) (s : State) : Host.Outcome State Fault Refusal := .next <| run s do
  if source = .own then beginReset 6 0 6
  orderedReset 6 0 source

/-- Everything but what flash holds is lost (R433 domain 7, R485). The installed cap is rebuilt from the register of changes
(R505); entries kept in memory for a flash that failed are lost. RST_STATUS.CAUSE reads 0, its reset value: the module holds no record of the
cause (R451, R485). -/
def powerOnResetNow : M s0 Unit := do
  let cap ← getF R.PWR_CAP_INSTALLED
  eff .powerOn
  wrReg (R.PWR_CAP_INSTALLED.addr 0 0) (BitVec.ofNat 64 (cap + cap * 2 ^ 32))
  let s ← st
  eff (.sec { s.sec with unwritten := [], grantKey := none })
  setF R.SEC_LOG_FAULT 0
  setF R.SEC_LOG_PENDING 0
  setF R.DEV_MOOD_DEBUG 0
  setF R.DEV_MOOD_POWER 0
  setF R.DEV_MOOD_IDFAIL 0
  showMood
  setF R.MGT_STATUS_PWRGD (bit s.pins.pwrgd)
  setF R.MGT_STATUS_PERST (bit s.pins.perst)
  eff (.pins { s.pins with alert := false })

def execPowerOnReset (s : State) : Host.Outcome State Fault Refusal := .next <| run s powerOnResetNow

/-! The heartbeat monitor (R438, R439). -/

/-- A write of RST_HEART: a heartbeat of the firmware, or counted and discarded. -/
def heartbeatWrite (by' : Agent) (v : Word) : M s0 Unit := do
  if by' = .firmware then
    let s ← st
    if !s.rst.running.any (fun r => r.1 == 3 || r.1 == 6) then
      setF R.RST_HEART_BEAT (bitsOf v 0 32)
      setF R.RST_MON_ARMED 1
      setF R.RST_MON_MISSED 0
      eff (.rst { s.rst with beat := true, awaiting := false })
  else countSat R.RST_MON_FOREIGN

def execHeartbeat (by' : Agent) (v : Word) (s : State) : Host.Outcome State Fault Refusal := .next <| run s (heartbeatWrite by' v)

/-- HEARTBEAT_PERIOD: 1 ms of the fabric clock has passed. -/
def execHeartbeatPeriod (s : State) : Host.Outcome State Fault Refusal := .next <| run s do
  eff .ms
  let t ← st
  let recent := t.rst.recent.filter (fun x => decide (t.ms < x + 1000))
  eff (.rst { t.rst with beat := false, recent })
  setF R.RST_MON_RECENT (min recent.length 15)
  if powerIn s = 1 then countSat R.PWR_CNT_CAPPED_MS
  if t.mgt.edgeMs + 1500 ≤ t.ms then setF R.MGT_STATUS_PPS 0
  if fieldIn s R.RST_MON_ARMED 0 0 = 1 then
    if s.rst.beat then setF R.RST_MON_MISSED 0
    else
      let n := fieldIn s R.RST_MON_MISSED 0 0 + 1
      setF R.RST_MON_MISSED n
      if 4 ≤ n then
        record { cls := 3, source := 0x0F, unit := 3, cause := 2, syn := [3, 2] }
        beginReset 3 0 2

/-- FIRST_HEARTBEAT_TIMEOUT: 20 ms after its restart the firmware has not beaten. -/
def execFirstHeartbeatTimeout (s : State) : Host.Outcome State Fault Refusal := .next <| run s do
  if s.rst.awaiting then
    record { cls := 3, source := 0x0F, unit := 6, cause := 6, syn := [6, 6] }
    beginReset 6 0 6

/-! Retirement and hangs (R22, R440, R441). -/

/-- The logical core bound to a physical one. -/
def logicalOf (s : State) (p : Nat) : Option Nat :=
  (List.range 144).find? (fun l => boundIn s l && fieldIn s R.CORE_STATUS_PCORE l 0 == p)

/-- A run-time retirement: the port is fenced, the clause is held, the change is noted and the clause is reset (R22). -/
def retireCore (p : Nat) : M s0 Unit := do
  let s ← st
  let f := p / 19
  if p < 152 ∧ bitN (fieldIn s R.DEV_FIELD_MAP_USABLE f 0) (p % 19) then
    let l := logicalOf s p
    eff (.rst { s.rst with fenced := s.rst.fenced ++ [p] })
    setF R.DEV_FIELD_MAP_USABLE (fieldIn s R.DEV_FIELD_MAP_USABLE f 0 - 2 ^ (p % 19)) f
    countSat R.DEV_FIELD_MAP_RETIRED f
    showPasses
    noteChange 7 0xFF 0 0 (leBytes 8 p)
    setF R.DEV_FIELD_MAP_PENDING 1 f
    match l with
    | none => if fieldIn s R.DEV_FIELD_MAP_SPARE_POS f 0 = p % 19 then setF R.DEV_FIELD_MAP_SPARE_POS 31 f
    | some l =>
      degrade
      match clauseOfIn s l with
      | some c => beginReset 2 c.num 4
      | none => pure ()
    showEnabled

def execCoreRetirement (pcore : Nat) (s : State) : Host.Outcome State Fault Refusal := .next <| run s (retireCore pcore)

/-- Whether firmware watches a core (R440). -/
def watchedIn (s : State) (l : Nat) : Bool :=
  let k := fieldIn s R.CORE_STATUS_SLOT l 0
  fieldIn s R.CORE_STATUS_RUN l 0 == 1 && fieldIn s R.CORE_STATUS_WAIT_CJ l 0 == 0 && !underResetIn s l &&
  (match clauseOfIn s l with
    | some c => c.cores.all (fun m => fieldIn s R.CORE_STATUS_RUN m 0 != 3)
    | none => true) &&
  (match (FMap.get ctx0 s.ctxs (ctxKey l k)).job with
    | some j => fieldIn s R.CJ_JOBA_STATE j 0 != 3
    | none => true)

/-- CORE_HANG_CHECK: 10 ms of watching end. A core whose count has stood still since the last check is hung. -/
def execCoreHangCheck (core : Nat) (s : State) : Host.Outcome State Fault Refusal := .next <| run s do
  if boundIn s core ∧ phaseIn s = 4 ∧ !s.rst.running.any (fun r => r.1 == 3) then
    let n := fieldIn s R.CORE_RETIRED_COUNT core 0
    let c := FMap.get core0 s.cores core
    if !watchedIn s core then setCore core { c with watched := none }
    else if c.watched = some n then
      let p := fieldIn s R.CORE_STATUS_PCORE core 0
      record (← coreRec core (fieldIn s R.CORE_STATUS_SLOT core 0) 0x0F { cls := 3, source := 0x0F, unit := 1, cause := 3, syn := [1, 3] })
      setCore core { c with watched := none }
      let h := s.rst.hangs ++ [(p, s.ms)]
      let r := (← st).rst
      eff (.rst { r with hangs := h })
      countSat R.RST_HANGCFG_HANGS
      beginReset 1 core 3
      let lim := fieldIn s R.RST_HANGCFG_LIMIT 0 0
      let win := fieldIn s R.RST_HANGCFG_WINDOW 0 0
      let near := h.filter (fun x => x.1 == p && decide (s.ms < x.2 + 1000 * win))
      if lim ≠ 0 ∧ lim ≤ near.length then retireCore p
    else setCore core { c with watched := some n }

/-! A channel that retrains (R287). -/

/-- CHANNEL_RETRAIN: after three failed replays of a burst the channel retrains and replays it up to three more times; where
those fail too the controller has failed. How many of them it took is not for the module to choose: a free number. -/
def execChannelRetrain (k block unit : Nat) (replaysFail : Bool) (s : State) : Host.Outcome State Fault Refusal := .next <| run s do
  match stuckAt (FMap.get gdctl0 s.gdctls k) block unit with
  | none => return ()
  | some w =>
    let tries := ((w.units.find? (fun u => u.1 == unit)).getD (unit, 0)).2
    if k < 32 ∧ 3 ≤ tries then
      countSat R.GD_STATUS_RETRAINS k
      let n ← (if replaysFail then return 3 else return 1 + (← freeWord).toNat % 3)
      countSat R.GD_CNT1_RETRY k n
      for _ in List.range n do
        record (← gdRec k 0 block 0 0)
      if replaysFail then failController k block
      else acceptBurst k unit w

end Sys2Proof.Machine
end

