-- ==== Sys2Proof/Machine/PowerCmds.lean ====
section
/-! DEFINITION. Power states (R494, R495, R498), power-up and power-down (R528 to R530), resets of the PCI Express unit (R478,
R540), and the firmware's start (R442 to R444). -/

namespace Sys2Proof.Machine

open Sys2Proof

variable {s0 : State}

/-! Power states. -/

/-- Whether every job is idle, held or stood down (R495). -/
def jobsQuiet (s : State) : Bool :=
  (List.range 16).all (fun j =>
    let x := jobStateIn s j
    x == 0 || x == 3 || x == 4 || idleIn s j)

/-- Leave P3 (R495): the controllers wake, and both compute dies are reset, which re-applies the stream and trains the lanes; the transition
runs until those resets have ended (R499). -/
def leaveP3 : M s0 Unit := do
  setF R.PWR_STATE_BUSY 1
  setPower 0
  regrant
  for k in List.range 32 do
    let _ ← gdWake k
  beginReset 5 0 1
  beginReset 5 1 1

/-- Enter P3: cores stop, controllers sleep, lanes are off with no notice, the scratchpads are lost. -/
def enterP3 : M s0 Unit := do
  for k in List.range 32 do
    gdSleep k
  for i in List.range 48 do
    laneOff i
  for l in List.range 144 do
    eff (.clearSpad l)
  setPower 3
  regrant

/-- An order of PWR_CTRL (R495, R499, R514). -/
def powerOrder (target : Nat) : M s0 Unit := do
  let s ← st
  let p := powerIn s
  let code := if fieldIn s R.PWR_STATE_BUSY 0 0 = 1 ∨ ((target = 2 ∨ target = 3) ∧ !jobsQuiet s) then 1
    else if target ≠ 0 ∧ target ≠ 2 ∧ target ≠ 3 ∨ (target = 2 ∧ p = 3) then 2
    else if target = 3 ∧ fieldIn s R.DEV_MOOD_DEBUG 0 0 = 2 then 3 else 0
  setF R.PWR_STATE_ERR code
  if code = 0 then
    match target with
    | 0 =>
      if p = 3 then leaveP3
      else if p = 2 then
        setPower 0
        regrant
    | 2 =>
      setPower 2
      regrant
    | _ => if p ≠ 3 then enterP3

/-- A write of PWR_CTRL. -/
def pwrCtrlWrite (v : Word) : M s0 Unit := do
  if bitsOf v 3 1 = 1 then powerOrder (bitsOf v 0 3)

def execToP0 (s : State) : Host.Outcome State Fault Refusal := .next <| run s do
  if phaseIn s = 4 then powerOrder 0

def execToP2 (s : State) : Host.Outcome State Fault Refusal := .next <| run s do
  if phaseIn s = 4 then powerOrder 2

def execToP3 (s : State) : Host.Outcome State Fault Refusal := .next <| run s do
  if phaseIn s = 4 then powerOrder 3

/-! Power-up and power-down. -/

/-- Act on a reading of the input: above 50.0 V the conversion stages stop, the 5.0 V rail leaves regulation and the module is reset
(R485). -/
def withInput (vin : Nat) (act : M s0 Unit) : M s0 Unit := do
  if 50000 < vin ∧ poweredIn (← st) then powerOnResetNow else act

def execCappingTick (power vin : BitVec 16) (s : State) : Host.Outcome State Fault Refusal :=
  .next <| run s (withInput vin.toNat (cappingTick power.toNat vin.toNat))

def execSensorSample (x : Samples) (s : State) : Host.Outcome State Fault Refusal := .next <| run s (withInput x.vin.toNat (sample x))

/-- The boot ROM derives the identity key from the start-up pattern (R519), notes the power-on (R516 kind 1), draws the
proof key (R414) and waits for firmware (R443). -/
def bootRom (pattern : List Byte) : M s0 Unit := do
  let s ← st
  eff (.pwr { s.pwr with conversion := true, rail5 := true })
  eff (.sec { s.sec with pattern })
  rebuildLog
  setF R.MGT_STATUS_PWRGD 1
  match Config.fuzzyCorrect pattern s.sec.helper with
  | some good =>
    let priv := BitVec.ofNat 256 (sha512 good).toNat
    let pub := ed25519Public priv
    eff (.sec { s.sec with priv, pattern })
    setF R.SEC_FPRINT_FPRINT (keyIdOf pub)
    for i in List.range 4 do
      setF R.SEC_ID_KEY (bitsN pub.toNat (64 * i) 64) i
    setF R.DEV_MOOD_IDFAIL 0
    noteChange 1 0xFF 0 (sha512 (keyBytes pub)).toNat (leBytes 8 Config.bootRomVersion.toNat)
  | none => setF R.DEV_MOOD_IDFAIL 1
  eff (.proofKey (← freeWord))
  showKeys
  regrant
  setF R.RST_STATUS_PHASE 1

/-- PWRGD_ASSERT: it takes effect only at 39.0 V or more (R528), and not above 50.0 V, where the conversion stages stop (R485). -/
def execPwrgdAssert (vin : BitVec 16) (pattern : List Byte) (s : State) : Host.Outcome State Fault Refusal := .next <| run s do
  if !s.pins.pwrgd then
    eff (.pins { s.pins with pwrgd := true, vin := vin.toNat })
    setF R.MGT_STATUS_PERST (bit s.pins.perst)
    if 39000 ≤ vin.toNat ∧ vin.toNat ≤ 50000 then bootRom pattern

/-- VIN_REACHES_39V: a power-up that waited for the input takes effect; not while THERMTRIP# is asserted (R492, R530). -/
def execVinReaches39v (pattern : List Byte) (s : State) : Host.Outcome State Fault Refusal := .next <| run s do
  if s.pins.pwrgd ∧ !s.pwr.conversion ∧ !s.pins.thermtrip then
    eff (.pins { s.pins with vin := 39000 })
    bootRom pattern

/-- PWRGD_DEASSERT: a power-on reset; THERMTRIP# is released (R492, R529). -/
def execPwrgdDeassert (s : State) : Host.Outcome State Fault Refusal := .next <| run s do
  if s.pins.pwrgd then
    eff (.pins { s.pins with pwrgd := false, thermtrip := false })
    powerOnResetNow

/-- INPUT_BELOW_RESET: the input is below 34.0 V (R486). -/
def execInputBelowReset (s : State) : Host.Outcome State Fault Refusal := .next <| run s powerOnResetNow

/-- RAIL_OUT_OF_REGULATION: the 5.0 V rail has left 4.70 V to 5.30 V (R485). -/
def execRailOutOfRegulation (mv : BitVec 16) (s : State) : Host.Outcome State Fault Refusal := .next <| run s do
  if mv.toNat < 4700 ∨ 5300 < mv.toNat then powerOnResetNow

/-- THERMTRIP: a sensor reads 115 °C or above (R492). -/
def execThermtrip (s : State) : Host.Outcome State Fault Refusal := .next <| run s do
  eff (.pins { s.pins with thermtrip := true })
  powerOnResetNow

/-! Unit 112. -/

/-- End a firmware check: PHASE returns to WAIT_FW with an error (R443, R444, R540). -/
def endCheck (err : Nat) : M s0 Unit := do
  setF R.RST_FW_STAT_BUSY 0
  setF R.RST_FW_STAT_DONE 1
  setF R.RST_FW_STAT_ERR err
  setF R.RST_STATUS_PHASE 1

/-- PERST: PERST# is asserted: unit 112 is held in reset; a firmware image being read is lost (R540). -/
def execPerst (s : State) : Host.Outcome State Fault Refusal := .next <| run s do
  eff (.pins { s.pins with perst := true })
  setF R.MGT_STATUS_PERST 1
  beginReset 4 112 7
  if phaseIn s = 2 then endCheck 2

/-- PERST_RELEASE: the reset of unit 112 ends. -/
def execPerstRelease (s : State) : Host.Outcome State Fault Refusal := .next <| run s do
  eff (.pins { s.pins with perst := false })
  setF R.MGT_STATUS_PERST 0
  endReset 4 112

def execFunctionLevelReset (s : State) : Host.Outcome State Fault Refusal := .next <| run s (beginReset 4 112 9)
def execHotReset (s : State) : Host.Outcome State Fault Refusal := .next <| run s (beginReset 4 112 9)
def execLinkDisable (s : State) : Host.Outcome State Fault Refusal := .next <| run s (beginReset 4 112 9)
def execSurpriseLinkDown (s : State) : Host.Outcome State Fault Refusal := .next <| run s (beginReset 4 112 9)

/-! Firmware. -/

/-- A write of RST_FW_CMD: START begins a check in WAIT_FW, is BUSY in FW_CHECK, and is discarded in INIT and READY. -/
def fwCmdWrite (v : Word) : M s0 Unit := do
  if bitsOf v 0 1 = 1 then
    match phaseIn (← st) with
    | 1 =>
      setF R.RST_STATUS_PHASE 2
      setF R.RST_FW_STAT_BUSY 1
    | 2 => setF R.RST_FW_STAT_ERR 1
    | _ => pure ()

/-- The first failed check of an image whose read ended with a status (R442 to R444): 0 when there is none. -/
def imageCheck (s : State) (len status : Nat) (d : List Byte) : Nat :=
  if status ≠ 0 then 2
  else if len % 64 ≠ 0 ∨ len < 4096 ∨ 4194304 < len ∨ fieldAt d 8 4 ≠ len then 3
  else if fieldAt d 0 4 ≠ 0x4D524946 ∨ fieldAt d 4 2 ≠ 1 ∨ fieldAt d 6 2 ≠ 0 ∨ fieldAt d 32 96 ≠ 0 ∨ len - 64 ≤ fieldAt d 20 4 ∨
      4 ≤ fieldAt d 14 1 then 4
  else if fieldAt d 12 2 ≠ fieldIn s R.DEV_ID_PRODUCT 0 0 ∨
      !bitN (fieldAt d 14 1) (if fieldIn s R.DEV_ID_ORDER 0 0 = 2 then 1 else 0) ∨
      fieldIn s R.DEV_ID_STEPPING 0 0 < fieldAt d 15 1 then 5
  else
    match keyNamed (roleKeysIn s 0) (fieldAt d 24 8) with
    | none => 6
    | some (_, k) => if signedBy k d then 0 else 7

/-- FIRMWARE_START: the ROM reads the image of RST_FW_SRC over PCI Express and checks it. -/
def execFirmwareStart (host : HostRead) (s : State) : Host.Outcome State Fault Refusal := .next <| run s do
  if phaseIn s = 1 then fwCmdWrite 1
  if phaseIn (← st) = 2 then
    let len ← getF R.RST_FW_LEN_LENGTH
    let (status, d) ← hostFetch (← getF R.RST_FW_SRC_ADDR) len host
    match imageCheck s len status d with
    | 0 =>
      setF R.RST_FW_STAT_BUSY 0
      setF R.RST_FW_STAT_DONE 1
      setF R.RST_FW_STAT_ERR 0
      setF R.RST_FW_STAT_FWVER (fieldAt d 16 4)
      setF R.RST_STATUS_PHASE 3
      let r := (← st).rst
      eff (.rst { r with image := some d, imageDigest := sha512 (d.take (len - 64)), accepted := true })
    | e => endCheck e

/-- FIRMWARE_ACCEPTED: the accepted image runs (R443 steps 7 and 8): controllers trained, cores tested and bound, the image
noted, the module READY. -/
def execFirmwareAccepted (usable : List (BitVec 19)) (trained : BitVec 32) (s : State) : Host.Outcome State Fault Refusal :=
  .next <| run s do
  if phaseIn s = 3 ∧ s.rst.accepted ∧ !s.rst.running.any (fun r => r.1 == 3 || r.1 == 6) then
    setF R.RST_MON_ARMED 1
    setF R.RST_MON_MISSED 0
    for f in List.range 8 do
      let u := (usable.getD f 0).toNat
      setF R.DEV_FIELD_MAP_USABLE u f
      setF R.DEV_FIELD_MAP_RETIRED ((List.range 19).filter (fun p => !bitN u p)).length f
      bindField f
    showEnabled
    for k in List.range 32 do
      setF R.GD_STATUS_STATE (if trained.getLsbD k then 1 else 3) k
    let d := s.rst.image.getD []
    noteChange 2 0 (fieldAt d 24 8) s.rst.imageDigest.toNat (leBytes 4 (fieldAt d 16 4))
    let r := (← st).rst
    eff (.rst { r with accepted := false })
    setF R.RST_STATUS_PHASE 4
    for k in List.range 32 do
      if !trained.getLsbD k then
        record (← gdRec k 3 0 0 0)

end Sys2Proof.Machine
end

