-- ==== Sys2Proof/Machine/Security.lean ====
section
/-! DEFINITION. Signed commands (R504 to R511), halting (R514), the copy and the retry of the register of changes (R517, R518),
and SPDM (R477, R519 to R523). -/

namespace Sys2Proof.Machine

open Sys2Proof

variable {s0 : State}

/-! Signed commands. -/

/-- The values of SEC_CSTAT.ERR (R525). -/
def SecErr.busy : Nat := 1
def SecErr.source : Nat := 2
def SecErr.size : Nat := 3
def SecErr.header : Nat := 4
def SecErr.target : Nat := 5
def SecErr.keyUnknown : Nat := 6
def SecErr.signature : Nat := 7
def SecErr.replay : Nat := 8
def SecErr.mood : Nat := 9
def SecErr.jobs : Nat := 10
def SecErr.argument : Nat := 11
def SecErr.log : Nat := 12

/-- The operations of R507. -/
def SecOp.repairUnlock : Nat := 0x01
def SecOp.repairLock : Nat := 0x02
def SecOp.installerKey : Nat := 0x03
def SecOp.certificate : Nat := 0x04
def SecOp.operatorKey : Nat := 0x10
def SecOp.powerCap : Nat := 0x11
def SecOp.site : Nat := 0x12
def SecOp.seal : Nat := 0x13
def SecOp.unseal : Nat := 0x14
def SecOp.debug : Nat := 0x20
def SecOp.grant : Nat := 0x21

/-- Every operation that has a meaning. -/
def secOps : List Nat := [0x01, 0x02, 0x03, 0x04, 0x10, 0x11, 0x12, 0x13, 0x14, 0x20, 0x21]

/-- The roles that may sign an operation: 0 maker, 1 installer, 2 operator. -/
def rolesOf (op : Nat) : List Nat :=
  if op ≤ 0x02 ∨ op = 0x04 then [0]
  else if op = 0x03 then [0, 1]
  else if op ≤ 0x14 then [1]
  else if op = 0x20 then [0, 1, 2]
  else [2]

/-- The security states in which a role may have an operation done. -/
def statesOf (op role : Nat) : List Nat :=
  match op with
  | 0x01 => [0, 1, 2]
  | 0x02 => [0]
  | 0x03 => if role = 0 then [0] else [1, 2]
  | 0x04 => [0]
  | 0x10 => [1, 2]
  | 0x11 => [1, 2]
  | 0x12 => [1]
  | 0x13 => [1]
  | 0x14 => [2]
  | 0x20 => [role]
  | _ => [2]

/-- Whether an operation wants every job slot free. -/
def wantsFree (op : Nat) : Bool := op == SecOp.repairUnlock || op == SecOp.unseal

/-- The payload of a command. -/
def secPayload (d : List Byte) : List Byte := slice d 64 (d.length - 128)

/-- The public key in a key command's payload. -/
def payloadKey (p : List Byte) : BitVec 256 := BitVec.ofNat 256 (fieldAt p 8 32)

/-- Whether every byte of a payload from an offset on is zero. -/
def padded (p : List Byte) (off : Nat) : Bool := zeros p off (p.length - off)

/-- The identity public key that helper data yields for the start-up pattern (R519). -/
def identityOf (pattern helper : List Byte) : Option (BitVec 256) :=
  (Config.fuzzyCorrect pattern helper).map (fun good => ed25519Public (BitVec.ofNat 256 (sha512 good).toNat))

/-- Nanoseconds of 24 hours. -/
def dayNs : Nat := 86400000000000

/-- Whether the payload and the state keep the conditions whose failure is ARGUMENT (R507, R511). -/
def payloadOk (s : State) (op : Nat) (p : List Byte) : Bool :=
  let slot := fieldAt p 0 1
  let key := payloadKey p
  match op with
  | 0x01 => padded p 0
  | 0x02 => padded p 0 && s.sec.installer.any (· != 0)
  | 0x03 =>
    decide (40 ≤ p.length) && decide (slot < 4) && zeros p 1 7 && padded p 40 &&
    (key != 0 || s.sec.installer.getD slot 0 == 0 || (s.sec.installer.zipIdx.any (fun k => k.1 != 0 && k.2 != slot)))
  | 0x04 =>
    decide (2048 < p.length) &&
    (match identityOf s.sec.pattern (p.take 2048) with
      | some k => Config.leafKey (p.drop 2048) == some k
      | none => false)
  | 0x10 => decide (40 ≤ p.length) && decide (slot < 16) && zeros p 1 7 && padded p 40
  | 0x11 => decide (500 ≤ fieldAt p 0 2) && decide (fieldAt p 0 2 ≤ 2600) && padded p 2
  | 0x12 => decide (72 ≤ p.length) && decide (fieldAt p 1 1 ≤ 7) && zeros p 4 4 && padded p 72
  | 0x13 => padded p 0 && s.sec.site.isSome && s.sec.operator.any (· != 0)
  | 0x14 => padded p 0
  | 0x20 => decide (slot ≤ 2) && padded p 1 && !(slot == 2 && fieldIn s R.DEV_MOOD_SEC 0 0 == 2)
  | _ =>
    let now := fabricNsIn s
    decide (now < fieldAt p 0 8) && decide (fieldAt p 0 8 ≤ now + dayNs) && decide (fieldIn s R.MGT_TIME_SET 0 0 = 1) && padded p 8

/-- Whether the mood permits an operation of a role (R507, R514). -/
def secMoodOk (s : State) (op role : Nat) (p : List Byte) : Bool :=
  let max := if op = SecOp.grant ∨ (op = SecOp.debug ∧ fieldAt p 0 1 = 2) then 2 else 3
  moodAllows s (statesOf op role) [0, 1, 2] max

/-- The checks of R508 steps 1 and 2 on a command of `len` bytes: the code of the first that fails, 0 when none does. -/
def secCheck (s : State) (d : List Byte) (len : Nat) : Nat :=
  let op := fieldAt d 7 1
  let role := fieldAt d 6 1
  let p := secPayload d
  if len % 64 ≠ 0 ∨ len < 128 ∨ 4096 < len ∨ fieldAt d 8 4 ≠ len then SecErr.size
  else if fieldAt d 0 4 ≠ 0x444D4353 ∨ fieldAt d 4 2 ≠ 1 ∨ !secOps.contains op ∨ !(rolesOf op).contains role ∨ !zeros d 12 4 ∨
      !zeros d 40 24 then SecErr.header
  else if fieldIn s R.DEV_MOOD_IDFAIL 0 0 = 1 ∨ fieldAt d 16 8 ≠ fieldIn s R.SEC_FPRINT_FPRINT 0 0 then SecErr.target
  else
    match keyNamed (roleKeysIn s role) (fieldAt d 32 8) with
    | none => SecErr.keyUnknown
    | some (_, k) =>
      if fieldAt d 24 8 ≤ fieldIn s R.SEC_SEQ_SEQ role 0 then SecErr.replay
      else if !signedBy k d then SecErr.signature
      else if !payloadOk s op p then SecErr.argument
      else if !secMoodOk s op role p then SecErr.mood
      else if wantsFree op && (List.range 16).any (fun j => jobStateIn s j != 0) then SecErr.jobs
      else 0

/-- The security and debug states after an operation. -/
def moodAfter (s : State) (op : Nat) (p : List Byte) : Nat × Nat :=
  let sec := fieldIn s R.DEV_MOOD_SEC 0 0
  let dbg := fieldIn s R.DEV_MOOD_DEBUG 0 0
  match op with
  | 0x01 => (0, 0)
  | 0x02 => (1, 0)
  | 0x10 =>
    (sec, if s.sec.grantKey = some (fieldAt p 0 1) ∧ payloadKey p ≠ s.sec.operator.getD (fieldAt p 0 1) 0 then 0 else dbg)
  | 0x13 => (2, 0)
  | 0x14 => (1, 0)
  | 0x20 => (sec, fieldAt p 0 1)
  | 0x21 => (sec, 2)
  | _ => (sec, dbg)

/-- A grant ends by expiry or by the revocation of its key (R511, R516 kind 6). -/
def endGrant : M s0 Unit := do
  setDebug 0
  noteChange 6 0xFF 0 0 [0]

/-- Apply an operation (R508 step 4): its payload, and the operator key slot of the signer. -/
def secApply (op : Nat) (p : List Byte) (signer : Nat) : M s0 Unit := do
  let s ← st
  let slot := fieldAt p 0 1
  match op with
  | 0x01 =>
    eff (.sec { s.sec with installer := [], operator := [], site := none })
    setSecurity 0
  | 0x02 => setSecurity 1
  | 0x03 => eff (.sec { s.sec with installer := setSlot s.sec.installer 4 slot (payloadKey p) })
  | 0x04 => eff (.sec { s.sec with helper := p.take 2048, chain := p.drop 2048 })
  | 0x10 =>
    eff (.sec { s.sec with operator := setSlot s.sec.operator 16 slot (payloadKey p) })
    if s.sec.grantKey = some slot ∧ payloadKey p ≠ s.sec.operator.getD slot 0 then endGrant
  | 0x11 => do
    setF R.PWR_CAP_INSTALLED (fieldAt p 0 2)
    showCap
  | 0x12 => eff (.sec { s.sec with site := some (p.take 72) })
  | 0x13 => setSecurity 2
  | 0x14 => setSecurity 1
  | 0x20 => setDebug slot
  | _ =>
    setDebug 2
    setF R.SEC_GRANT_NOT_AFTER (fieldAt p 0 8)
    eff (.sec { (← st).sec with grantKey := some signer })
  showKeys

/-- Run the checker on a command's bytes, or on none that could be read (R508): its code. A command that needs an entry in the
register of changes is refused with LOG when that cannot be written, and changes nothing. -/
def secRun (bytes : Option (List Byte)) (len : Nat) : M s0 Nat := do
  match bytes with
  | none => return SecErr.source
  | some d =>
    let s ← st
    if 128 ≤ d.length then setF R.SEC_CSTAT_OP (fieldAt d 7 1)
    let e := secCheck s d len
    if e ≠ 0 then return e
    let op := fieldAt d 7 1
    let role := fieldAt d 6 1
    let p := secPayload d
    let (sec, dbg) := moodAfter s op p
    let mood := moodOf sec dbg (fieldIn s R.DEV_MOOD_POWER 0 0)
    let ok ← writeChange (entryBody 5 role mood (fieldAt d 32 8) (streamDigest d).toNat (leBytes 1 op ++ leBytes 8 (fieldAt d 24 8) ++ slice p 0 16))
    if !ok then return SecErr.log
    wrReg (R.SEC_SEQ_SEQ.addr role 0) (BitVec.ofNat 64 (fieldAt d 24 8))
    secApply op p (match keyNamed s.sec.operator (fieldAt d 32 8) with | some (i, _) => i | none => 0)
    return 0

/-- Show how a signed command ended. -/
def secEnd (code : Nat) : M s0 Unit := do
  setF R.SEC_CSTAT_ERR code
  setF R.SEC_CSTAT_DONE 1

/-- A write of SEC_CCMD: START begins a command, or is refused while another, a stream load or a dictation load runs (R508). -/
def secStart : M s0 Unit := do
  if loadOrCommandIn (← st) then secEnd SecErr.busy
  else setF R.SEC_CSTAT_BUSY 1

def ccmdWrite (v : Word) : M s0 Unit := do
  if bitsOf v 0 1 = 1 then secStart

/-- The bytes the command registers name. -/
def secBytes : M s0 (Option (List Byte)) := do
  match ← localOffset (← getF R.SEC_CSRC_ADDR) with
  | none => return none
  | some o =>
    match ← attempt (rdMem o (← getF R.SEC_CLEN_LENGTH)) with
    | .ok (0, d) => return some d
    | _ => return none

/-- The command that the registers started has been read, or could not be: it is checked and ends (R508). -/
def secFinish (bytes : Option (List Byte)) (len : Nat) : M s0 Unit := do
  let code ← secRun bytes len
  setF R.SEC_CSTAT_BUSY 0
  secEnd code

/-- Begin to read a command that lies on another module (R525): it ends when it has come, or at once where nothing is to be read or there is no
route. -/
def secReadAway : M s0 Unit := do
  let len ← getF R.SEC_CLEN_LENGTH
  if len = 0 then secFinish (some []) 0
  else if !(← beginRead { which := 0, addr := ← getF R.SEC_CSRC_ADDR, given := some len, header := false } len) then secFinish none len

/-- A bundle has been read from another module, or could not be: its load ends; a message that asked for it is answered (R426, R534). -/
def dictFinish (f : Fetch) (bytes : Option (List Byte)) : M s0 Unit := do
  let code ← dictTake (bytes.map (sizedBundle f.given))
  if f.given.isSome then emit (.mgmt 0x06 (if code = 0 then Done.ok else Done.refused) code [])

/-- A read of the control complex has ended: a bundle's header gives the length of the whole, which is read then. -/
def readEnded (f : Fetch) (bytes : Option (List Byte)) : M s0 Unit := do
  if f.which = 0 then secFinish bytes (f.given.getD 0)
  else
    match f.header, bytes with
    | true, some h =>
      let n := fieldAt h 8 4
      if n < 256 ∨ 4194304 < n then dictFinish f (some h)
      else if !(← beginRead { f with header := false, result := none } n) then dictFinish f none
    | _, _ => dictFinish f bytes

/-- Go on with the reads of the control complex that have ended. -/
def serveReads : M s0 Unit := do
  for f in (← st).rst.reads do
    match f.result with
    | some bytes =>
      let x := (← st).rst
      eff (.rst { x with reads := x.reads.filter (· != f) })
      readEnded f bytes
    | none => pure ()

/-- Whether a command's bytes are for another row of the table than this operation. -/
def otherOp (op : Nat) (bytes : Option (List Byte)) : Bool :=
  match bytes with
  | some d => decide (128 ≤ d.length) && secOps.contains (fieldAt d 7 1) && fieldAt d 7 1 != op
  | none => false

/-- A signed command of an operation, by the registers or by a management message (R508, R534, R535). -/
def signedCommand (op : Nat) (src : CmdSource) : M s0 Unit := do
  let s ← st
  match src with
  | .registers =>
    if phaseIn s = 4 then
      if fieldIn s R.SEC_CSTAT_BUSY 0 0 = 0 then secStart
      if (← getF R.SEC_CSTAT_BUSY) = 1 ∧ !readRunsIn (← st) 0 then
        if (← localOffset (← getF R.SEC_CSRC_ADDR)).isNone then secReadAway
        else
          let bytes ← secBytes
          if !otherOp op bytes then secFinish bytes (← getF R.SEC_CLEN_LENGTH)
  | .management bs =>
    if !otherOp op (some bs) then
      vendor 0x03 do
        let code ← secRun (some bs) bs.length
        secEnd code
        return (if code = 0 then Done.ok else Done.refused, code, [])
  | .queue _ _ _ => pure ()

def execRepairUnlock (src : CmdSource) (s : State) : Host.Outcome State Fault Refusal := .next <| run s (signedCommand SecOp.repairUnlock src)
def execRepairLock (src : CmdSource) (s : State) : Host.Outcome State Fault Refusal := .next <| run s (signedCommand SecOp.repairLock src)
def execInstallerKey (src : CmdSource) (s : State) : Host.Outcome State Fault Refusal := .next <| run s (signedCommand SecOp.installerKey src)
def execCertificate (src : CmdSource) (s : State) : Host.Outcome State Fault Refusal := .next <| run s (signedCommand SecOp.certificate src)
def execOperatorKey (src : CmdSource) (s : State) : Host.Outcome State Fault Refusal := .next <| run s (signedCommand SecOp.operatorKey src)
def execPowerCap (src : CmdSource) (s : State) : Host.Outcome State Fault Refusal := .next <| run s (signedCommand SecOp.powerCap src)
def execSite (src : CmdSource) (s : State) : Host.Outcome State Fault Refusal := .next <| run s (signedCommand SecOp.site src)
def execSeal (src : CmdSource) (s : State) : Host.Outcome State Fault Refusal := .next <| run s (signedCommand SecOp.seal src)
def execUnseal (src : CmdSource) (s : State) : Host.Outcome State Fault Refusal := .next <| run s (signedCommand SecOp.unseal src)
def execDebug (src : CmdSource) (s : State) : Host.Outcome State Fault Refusal := .next <| run s (signedCommand SecOp.debug src)
def execGrant (src : CmdSource) (s : State) : Host.Outcome State Fault Refusal := .next <| run s (signedCommand SecOp.grant src)

/-- GRANT_END: fabric time has reached NOT_AFTER (R511). -/
def execGrantEnd (s : State) : Host.Outcome State Fault Refusal := .next <| run s do
  let t := fieldIn s R.SEC_GRANT_NOT_AFTER 0 0
  if t ≠ 0 ∧ t ≤ fabricNsIn s then endGrant

/-! Halting (R514). -/

/-- A write of SEC_HALT_L. A core between sentences stops at once, another when its sentence ends; a trapped core stays
trapped. -/
def haltWrite (l : Nat) (v : Word) : M s0 Unit := do
  let s ← st
  if l < 144 ∧ moodAllows s [0, 1, 2] [2] 2 then
    if bitsOf v 0 1 = 0 then (if fieldIn s R.SEC_HALT_HALT l 0 = 1 then resumeCore l else pure ())
    else
      setF R.SEC_HALT_HALT 1 l
      if (← getCtx l (← runSlot l)).sentence.isNone then
        setF R.SEC_HALT_HALTED 1 l
        if (← getF R.CORE_STATUS_RUN l) < 2 then setF R.CORE_STATUS_RUN 2 l
      if bitsOf v 1 1 = 1 then modCore l (fun c => { c with stepping := true })

def execHalt (core : Nat) (v : Word) (s : State) : Host.Outcome State Fault Refusal := .next <| run s (haltWrite core v)

/-! The register of changes. -/

/-- A write of SEC_LOGRD_DST: GO copies the entries asked for that are held (R517); a write that is discarded does nothing (R542), and so does
one to a module without power (R513). -/
def logCopy (v : Word) : M s0 Unit := do
  let s ← st
  if poweredIn s then plainWrite (R.SEC_LOGRD_DST_ADDR.addr 0 0) v
  if poweredIn s ∧ bitsOf v 48 1 = 1 ∧ takenAt (R.SEC_LOGRD_DST_ADDR.addr 0 0) v then
    let s ← st
    let first := fieldIn s R.SEC_LOGRD_IDX_INDEX 0 0
    let n := fieldIn s R.SEC_LOGRD_IDX_COUNT 0 0
    let dst := fieldIn s R.SEC_LOGRD_DST_ADDR 0 0
    setF R.SEC_LOGRD_DST_MISSING (bit (decide (first < s.sec.firstHeld) && decide (0 < n)))
    for e in ((s.log.zipIdx.drop (max first s.sec.firstHeld)).takeWhile (fun e => decide (e.2 < first + n))) do
      let _ ← wrGddr (dst + 256 * (e.2 - first)) e.1

def execLogCopy (v : Word) (s : State) : Host.Outcome State Fault Refusal := .next <| run s (logCopy v)

/-- Append what the flash had not taken, oldest first. -/
def writeKept : List (List Byte) → M s0 Unit
  | [] => return ()
  | b :: bs => do
    startSegment
    sealEntry b
    writeKept bs

/-- LOG_RETRY: 1 s has passed; the flash takes the entries that were kept, or fails again (R518). -/
def execLogRetry (flashOk : Bool) (s : State) : Host.Outcome State Fault Refusal := .next <| run s do
  if s.pins.pwrgd ∧ s.pwr.conversion then
    eff (.sec { s.sec with flashBad := !flashOk })
    if flashOk then
      writeKept s.sec.unwritten
      eff (.sec { (← st).sec with unwritten := [] })
      setF R.SEC_LOG_PENDING 0

/-! SPDM (R477, R521 to R523). -/

/-- Which published form a message has: the first argument of `Config.standardReply` (log entry 3). -/
def Std.spdm : Nat := 1
def Std.spdmError : Nat := 2
def Std.mctpControl : Nat := 3
def Std.pldmEvent : Nat := 4
def Std.pldm : Nat := 5
def Std.doeDiscovery : Nat := 6
def Std.signedPart : Nat := 7
def Std.pldmNotReady : Nat := 8
def Std.chunk : Nat := 9

/-- Send an answer of the responder: one that is longer than an object of the mailbox goes by SPDM chunking (R477). -/
def sendReply (t : Transport) (bytes : List Byte) : M s0 Unit := do
  if t = .doe ∧ 16384 < bytes.length then
    for p in (chunks 16000 (bytes.length / 16000 + 1) bytes).zipIdx do
      emit (.message t (Config.standardReply Std.chunk (leBytes 4 p.2) p.1))
  else emit (.message t bytes)

/-- The bytes of a register. -/
def regBytes (s : State) (off : Nat) : List Byte := leBytes 8 (FMap.get resetValue s.regs off).toNat

/-- The contents of the measurement blocks 1 to 8 (R522). -/
def measurements (s : State) : List (List Byte) :=
  let key (k : BitVec 256) : List Byte := keyBytes k
  [digestBytes Config.bootRomDigest,
   digestBytes s.rst.imageDigest,
   (List.range 8).flatMap (fun i => regBytes s (R.AQ_DIGEST_DIGEST.addr i 0)),
   (List.range 8).flatMap (fun i => regBytes s (R.SEC_HEAD_HEAD.addr i 0)) ++ leBytes 8 (fieldIn s R.SEC_LOG_INDEX 0 0),
   regBytes s (R.DEV_MOOD_SEC.addr 0 0) ++ regBytes s (R.SEC_GRANT_NOT_AFTER.addr 0 0),
   digestBytes (sha512 ((List.range 4).flatMap (fun i => key (s.sec.installer.getD i 0)) ++
     (List.range 16).flatMap (fun i => key (s.sec.operator.getD i 0)))),
   slice (s.sec.site.getD []) 0 72 ++ leBytes 2 (fieldIn s R.PWR_CAP_INSTALLED 0 0),
   regBytes s (R.DEV_ID_PRODUCT.addr 0 0) ++ (List.range 8).flatMap (fun f => regBytes s (R.DEV_FIELD_MAP_USABLE.addr f 0))]

/-- The capabilities of the responder (R521): CTExponent 15, and CERT_CAP, CHAL_CAP and MEAS_CAP with signatures at their bits of the published
Flags field. -/
def spdmCapabilities : List Byte := leBytes 1 15 ++ leBytes 4 (2 ^ 1 + 2 ^ 2 + 2 * 2 ^ 3)

/-- The algorithms it agrees to (R521): Ed25519, and SHA-512 for hashes and for measurements, at their bits of the published fields. -/
def spdmAlgorithms : List Byte := leBytes 4 (2 ^ 10) ++ leBytes 4 (2 ^ 2) ++ leBytes 4 (2 ^ 3)

/-- What the responder reports on: its capabilities, its algorithms, slot 0 and its certificate chain for a request that asks for it, the
measurement blocks for another. -/
def spdmState (s : State) (kind : Nat) : List Byte :=
  if kind = 2 then spdmCapabilities
  else if kind = 3 then spdmAlgorithms
  else if kind = 4 ∨ kind = 5 ∨ kind = 6 then leBytes 1 1 ++ s.sec.chain ++ (measurements s).flatten
  else if kind = 7 then (measurements s).flatten
  else []

/-- The certificate slot a request names, in the low bits of its third byte (GET_CERTIFICATE, CHALLENGE). -/
def spdmSlot (kind : Nat) (req : List Byte) : Nat := if kind = 5 ∨ kind = 6 then fieldAt req 2 1 % 16 else 0

/-- The transport's place in the connection state. -/
def portOf : Transport → Nat | .doe => 0 | .mctp => 1

/-- A message arrives on a transport: counted on the management port; it reaches the responder only while the port runs. -/
def spdmHeard (t : Transport) : M s0 Bool := do
  let s ← st
  match t with
  | .mctp =>
    if portUpIn s then
      countWrap R.MGT_CNT_MESSAGES
      return true
    return false
  | .doe =>
    eff (.pcie { s.pcie with doeBusy := false })
    return s.pins.pwrgd && s.pwr.conversion

/-- The kinds in order: 1 GET_VERSION, 2 GET_CAPABILITIES, 3 NEGOTIATE_ALGORITHMS, 4 GET_DIGESTS, 5 GET_CERTIFICATE, 6 CHALLENGE,
7 GET_MEASUREMENTS. The connection state is the highest of the first three that were answered in order. A request that needs the
identity key is answered with ERROR when there is none, and so is one that comes before the exchanges it follows, and one for another
certificate slot than 0 (R521; where the published forms have these fields and codes, PRESUMED, log entry 3). -/
def spdmServe (t : Transport) (kind : Nat) (signed : Bool) (req : List Byte) : M s0 Unit := do
  if ← spdmHeard t then
    let s ← st
    let i := portOf t
    let stage := s.spdm.getD i 0
    let err (code : Nat) : M s0 Unit := sendReply t (Config.standardReply Std.spdmError [BitVec.ofNat 8 code] req)
    if phaseIn s < 3 then err 0x03
    else if signed ∧ fieldIn s R.DEV_MOOD_IDFAIL 0 0 = 1 then err 0x05
    else if kind ≠ 1 ∧ stage < min kind 4 - 1 then err 0x04
    else if spdmSlot kind req ≠ 0 then err 0x01
    else
      if kind ≤ 3 then eff (.spdm (s.spdm.set i kind))
      let about := spdmState s kind
      let body := Config.standardReply Std.spdm (BitVec.ofNat 8 kind :: about) req
      let sig := if signed then
          ed25519Sign s.sec.priv (Config.standardReply Std.signedPart (BitVec.ofNat 8 kind :: about) req)
        else []
      sendReply t (body ++ sig)

def execGetVersion (t : Transport) (req : List Byte) (s : State) : Host.Outcome State Fault Refusal := .next <| run s (spdmServe t 1 false req)
def execGetCapabilities (t : Transport) (req : List Byte) (s : State) : Host.Outcome State Fault Refusal :=
  .next <| run s (spdmServe t 2 false req)
def execNegotiateAlgorithms (t : Transport) (req : List Byte) (s : State) : Host.Outcome State Fault Refusal :=
  .next <| run s (spdmServe t 3 false req)
def execGetDigests (t : Transport) (req : List Byte) (s : State) : Host.Outcome State Fault Refusal := .next <| run s (spdmServe t 4 false req)
def execGetCertificate (t : Transport) (req : List Byte) (s : State) : Host.Outcome State Fault Refusal :=
  .next <| run s (spdmServe t 5 false req)
def execChallenge (t : Transport) (req : List Byte) (s : State) : Host.Outcome State Fault Refusal := .next <| run s (spdmServe t 6 true req)

/-- GET_MEASUREMENTS: signed when bit 0 of the request's third byte asks for it. -/
def execGetMeasurements (t : Transport) (req : List Byte) (s : State) : Host.Outcome State Fault Refusal :=
  .next <| run s (spdmServe t 7 (bitN (fieldAt req 2 1) 0) req)

/-- DOE_OBJECT: an object of discovery is answered at once, one of SPDM makes the mailbox busy until its request is served; an
object that arrives meanwhile is refused with the Busy bit. Larger objects than 16 KiB, other protocols and other vendors' get no answer. -/
def execDoeObject (bytes : List Byte) (s : State) : Host.Outcome State Fault Refusal := .next <| run s do
  if s.pins.pwrgd ∧ s.pwr.conversion ∧ fieldIn s R.HOST_LINK_UP 0 0 = 1 then
    if s.pcie.doeBusy then emit .doeBusy
    else if bytes.length ≤ 16384 ∧ fieldAt bytes 0 2 = 1 then
      match fieldAt bytes 2 1 with
      | 0 => emit (.message .doe (Config.standardReply Std.doeDiscovery [] bytes))
      | 1 => eff (.pcie { s.pcie with doeBusy := true })
      | _ => pure ()

end Sys2Proof.Machine
end

