-- ==== Sys2Proof/Machine/SpCmds.lean ====
section
/-! DEFINITION. The commands of the scratchpads (R264, R272, R274, R279). -/

namespace Sys2Proof.Machine

open Sys2Proof

variable {s0 : State}

/-- SP_CORRECTION_WRITE_BACK: the corrected word is stored with its check bits, unless a write has cancelled it (R272). -/
def execSpCorrectionWriteBack (core word : Nat) (s : State) : Host.Outcome State Fault Refusal := .next <| run s do
  match (FMap.get spctl0 s.spctls core).writeBack.find? (fun p => p.1 == word) with
  | none => return ()
  | some (_, v) =>
    spPutRaw core word v (checkFor (activationIn s core (word * 8)) v)
    spTouch core word

/-- ARBITRATION_PROMOTION: a requester of groups 3 to 7 that has waited 256 steps is served ahead of all others: until it has been, an access
of another group to the core's banks waits; of several promoted ones the lowest group is first. Of requesters that none is promoted of, each is
served when its command is given (R264, log entry 34). -/
def execArbitrationPromotion (core group waited : Nat) (s : State) : Host.Outcome State Fault Refusal := .next <| run s do
  if core < 144 ∧ 3 ≤ group ∧ group ≤ 7 ∧ 256 ≤ waited then
    let p ← getSp core
    if !p.promoted.contains group then
      setSp core { p with promoted := (p.promoted ++ [group]).insertionSort (fun a b => a ≤ b) }

/-- Bank lines of a scratchpad: 16,384 of 128 words, each 1,024 consecutive addresses (R257, R258). -/
def spLines : Nat := 16384

/-- The first line from `n` that the patrol does not skip. -/
def patrolLineIn (s : State) (l n : Nat) : Option Nat :=
  ((List.range (spLines - n)).map (fun i => n + i)).find? (fun i => !activationIn s l (i * 1024))

/-- SP_PATROL_VISIT: the next bank line of the patrol is read, its dirty words in the gather buffer written back first, and its single
errors are corrected; the patrol wraps round at the end, which completes a pass (R267, R274). -/
def execSpPatrolVisit (core : Nat) (s : State) : Host.Outcome State Fault Refusal := .next <| run s do
  if boundIn s core ∧ fieldIn s R.SP_SCRUB_INTERVAL 0 0 ≠ 0 then
    let from' := (FMap.get spctl0 s.spctls core).patrol
    match (patrolLineIn s core from').orElse (fun _ => patrolLineIn s core 0) with
    | none => return ()
    | some line =>
      spServed core 7
      gbFlushLine core line
      for i in List.range 128 do
        let (_, evs) ← spReadWord core (line * 128 + i) true
        recordAll evs
      let q ← getSp core
      let wrapped := if line < from' then 1 else 0
      match patrolLineIn s core (line + 1) with
      | some _ => setSp core { q with patrol := line + 1, passes := q.passes + wrapped }
      | none => setSp core { q with patrol := 0, passes := q.passes + wrapped + 1 }
      showPasses

/-- SP_INJECT_ARM: a write of SP_FLIPC, in the moods that permit fault injection (R279, R514). -/
def spInject (core : Nat) (v : Word) : M s0 Unit := do
  let s ← st
  if core < 144 ∧ injectionAllowed s then
    setF R.SP_FLIPC_CHECK (bitsOf v 0 8) core
    setF R.SP_FLIPC_MATCH (bitsOf v 10 1) core
    setF R.SP_FLIPC_ADDR (bitsOf v 32 24) core
    if bitsOf v 8 1 = 1 then setF R.SP_FLIPC_ARMED 1 core

def execSpInjectArm (core : Nat) (v : Word) (s : State) : Host.Outcome State Fault Refusal := .next <| run s (spInject core v)

end Sys2Proof.Machine
end

