-- ==== Sys2Proof/Machine/RegWrite.lean ====
section
/-! DEFINITION. Writes and reads of BAR0 registers (R8 to R12, R443, R542): which registers respond, what a write does beside
its fields', and what a read clears. -/

namespace Sys2Proof.Machine

open Sys2Proof

variable {s0 : State}

/-- Whether an offset responds: nothing does without power (R513); until READY only the DEV and RST blocks do (R443); the firmware is the module's
own. -/
def responds (s : State) (by' : Agent) (off : Nat) : Bool :=
  poweredIn s && (phaseIn s == 4 || by' == .firmware || decide (off < 0x100000) || (decide (0x1E00000 ≤ off) && decide (off < 0x1F00000)))

/-- A write of AQ_CTRL: KIND, and START (R81). -/
def aqCtrlWrite (v : Word) : M s0 Unit := do
  setF R.AQ_CTRL_KIND (bitsOf v 1 1)
  if bitsOf v 0 1 = 1 then
    let _ ← startLoad (.registers (← getF R.AQ_SRC_ADDR) (← getF R.AQ_LEN_LENGTH)) (bitsOf v 1 1 == 1) (← getF R.AQ_LEN_LENGTH)

/-- A W1C write of a context's flags: at once for the running context, else when it is next switched in (R129). -/
def ctxFlagWrite (l k : Nat) (v : Word) : M s0 Unit := do
  if (← runSlot l) = k then plainWrite (R.CORE_CTX_DIVZ.addr l k) v
  else modCtx l k (fun c => { c with clear := c.clear ||| BitVec.ofNat 2 (bitsOf v 28 2) })

/-- Whether a sequence is open (R247, R249). -/
def anySeqOpen (s : State) : Bool := s.seqs.any (fun q => q.2.isOpen)

/-- A write of KV_POOL: the sequence table lies at the pool's start with every sequence free, and the pool's frames are free but for the
engine area and what prefix nodes hold (R229, R247, R248, R251). A write that is discarded changes nothing. -/
def kvPoolWrite (v : Word) : M s0 Unit := do
  let off := R.KV_POOL_BASE.addr 0 0
  if !anySeqOpen (← st) && takenAt off v then
    plainWrite off v
    let s ← st
    let base := fieldIn s R.KV_POOL_BASE 0 0 * 65536
    let (lo, hi) := poolIn s
    setF R.KV_SEQTAB_ADDR base
    setF R.KV_STATUS_FREE (hi - lo - (s.frames.filter (fun p => decide (lo ≤ p.1) && decide (p.1 < hi))).length)
    if lo < hi then
      for i in List.range 512 do
        let _ ← wrGddr (base + 4096 * i) (List.replicate 4096 0)

/-- A write of KV_PFX. A table at another place or of another size starts empty, and its bytes are zero: the nodes of the one before give up
their references (log entry 29). -/
def kvPfxWrite (v : Word) : M s0 Unit := do
  let off := R.KV_PFX_BASE.addr 0 0
  if !anySeqOpen (← st) && takenAt off v then
    let before ← rdReg off
    plainWrite off v
    if (← rdReg off) ≠ before then
      for p in (← st).nodes do
        decRefs p.2.frames
        eff (.node p.1 {})
      for i in List.range (4 * 2 ^ (← getF R.KV_PFX_BBITS)) do
        putNode i {}
      kvCached

/-- A write of CX_RANGEi_B: a field of an enabled range stays (R353). -/
def rangeSideWrite (i : Nat) (v : Word) : M s0 Unit := do
  if (← getF R.CX_RANGE_A_EN i) = 0 then plainWrite (R.CX_RANGE_B_SIDE.addr i 0) v

/-- A write of FAB_LCTRL_i (R376). -/
def laneCtrlWrite (i : Nat) (v : Word) : M s0 Unit := do
  if bitsOf v 0 1 = 1 then laneRetrain i
  if bitsOf v 1 1 = 1 then laneRevive i

/-- A write of INT_DICT: discarded while a slot is in use (R430). -/
def dictAreaWrite (v : Word) : M s0 Unit := do
  if !(← st).dicts.any (fun d => d.2.used) then plainWrite (R.INT_DICT_BASE.addr 0 0) v

/-- A write of a register whose cap or alert follows from it: the fields, then what they show. -/
def alertWrite (off : Nat) (v : Word) : M s0 Unit := do
  plainWrite off v
  showAlert

/-- A write of PWR_CAP: SOFT takes part in the effective cap (R491). -/
def capWrite (v : Word) : M s0 Unit := do
  if takenAt (R.PWR_CAP_SOFT.addr 0 0) v then
    plainWrite (R.PWR_CAP_SOFT.addr 0 0) v
    showCap

/-- A write of the injection masks: in the moods that permit fault injection (R279, R299). -/
def maskWrite (off : Nat) (v : Word) : M s0 Unit := do
  if injectionAllowed (← st) then plainWrite off v

/-- The effect of a word written to a register with behaviour of its own, named by the first offset of its array. -/
def specialWrite (by' : Agent) (base i j off : Nat) (v : Word) : Option (M s0 Unit) :=
  match base with
  | 0x100010 => some (aqCtrlWrite v)
  | 0x200040 => some (ctxFlagWrite i j v)
  | 0xC00010 => some (maskWrite off v)
  | 0xC00018 => some (spInject i v)
  | 0xD00008 => some (mxInject v)
  | 0xE00000 => some (attWindowWrite i by' j v)
  | 0xF00000 => some (kvPoolWrite v)
  | 0xF00010 => some (kvPfxWrite v)
  | 0xF01000 => some (kvWindowWrite i by' j v)
  | 0x1000180 => some (maskWrite off v)
  | 0x1000188 => some (maskWrite off v)
  | 0x1000190 => some (gdInject i v)
  | 0x1000100 => some (remapWrite i j v)
  | 0x1800010 => some (tableCmd v)
  | 0x1800100 => some (if bitsOf v 5 1 = 1 then rangeOn i v else rangeOff i v)
  | 0x1800108 => some (rangeSideWrite i v)
  | 0x1900010 => some (laneCtrlWrite i v)
  | 0x1D00000 => some (logdWrite v)
  | 0x1D00010 => some (ringRegWrite off v)
  | 0x1D00048 => some (dictAreaWrite v)
  | 0x1D00058 => some (dcmdWrite v)
  | 0x1E00000 => some (rstCtrlWrite v)
  | 0x1E00010 => some (heartbeatWrite by' v)
  | 0x1E00110 => some (fwCmdWrite v)
  | 0x1F00008 => some (pwrCtrlWrite v)
  | 0x1F00018 => some (capWrite v)
  | 0x1F00020 => some (alertWrite off v)
  | 0x1F00028 => some (alertWrite off v)
  | 0x1F00100 => some (vreqWrite i v)
  | 0x2000010 => some (ccmdWrite v)
  | 0x20000D0 => some (logCopy v)
  | 0x2001000 => some (haltWrite i v)
  | 0x2101000 => some (queueRegWrite off v)
  | 0x2101008 => some (queueRegWrite off v)
  | 0x2101400 => some (queueRegWrite off v)
  | 0x2101408 => some (queueRegWrite off v)
  | _ => none

/-- A write of an aligned 64-bit word to BAR0. -/
def regWrite (by' : Agent) (off : Nat) (v : Word) : M s0 Unit := do
  if responds (← st) by' off then
    match findReg off with
    | none => return ()
    | some (r, i, j) =>
      match specialWrite by' r.base i j off v with
      | some m => m
      | none => plainWrite off v

/-- A write of any size and alignment: only an aligned word is taken (R11). -/
def regWriteAny (by' : Agent) (off size : Nat) (v : Word) : M s0 Unit :=
  if size = 8 ∧ off % 8 = 0 then regWrite by' off v else pure ()

/-- The word at an aligned offset as it is shown to an agent. -/
def shownAt (s : State) (by' : Agent) (off : Nat) : Word := if responds s by' off then regValueIn s off else 0

/-- The bytes of a read of any size and alignment; an aligned word's read clears its RC fields (R8, R11). -/
def regRead (by' : Agent) (off size : Nat) : M s0 (List Byte) := do
  let s ← st
  if size = 8 ∧ off % 8 = 0 then
    if responds s by' off then
      match findReg off with
      | some (r, _, _) => wrReg off (readWord r (← rdReg off))
      | none => pure ()
    return leBytes 8 (shownAt s by' off).toNat
  else
    return (List.range size).map (fun i => BitVec.ofNat 8 ((shownAt s by' ((off + i) / 8 * 8)).toNat / 2 ^ (8 * ((off + i) % 8))))

/-- Whether a host access of this module's registers waits in the BAR2 window: a BAR0 access keeps its place behind it (R309). -/
def hostQueuedIn (s : State) : Bool :=
  s.pcie.host.any (fun x => x.addr / 2 ^ 48 == chipIn s && (match windowOf (x.addr % 2 ^ 48) with | .registers _ => true | _ => false))

/-- An access through BAR0: the host's by a function that answers it (R455, R458), each in the order in which they came (R309). -/
def bar0Ready (by' : Agent) : M s0 Unit := do
  let s ← st
  if by' = .host then
    need (!hostQueuedIn s) .later
    need (barsOnIn s)

/-- REGISTER_WRITE. -/
def execRegisterWrite (by' : Agent) (off size : Nat) (v : Word) (s : State) : Host.Outcome State Fault Refusal :=
  .next <| run s do
  bar0Ready by'
  regWriteAny by' off size v

/-- REGISTER_READ: reads of 1, 2, 4 or 8 bytes (R11). -/
def execRegisterRead (by' : Agent) (off size : Nat) (s : State) : Host.Outcome State Fault Refusal := .next <| run s do
  bar0Ready by'
  let d ← regRead by' off (min size 8)
  emit (.regReply by' (BitVec.ofNat 64 (leNat d)))

end Sys2Proof.Machine
end

