-- ==== Sys2Proof/Machine/Bus.lean ====
section
/-! DEFINITION. Accesses of agents to global addresses, register space among them (R306 to R309, R311, R316, R364), and the
host's accesses through BAR2 (R327, R459 to R461). -/

namespace Sys2Proof.Machine

open Sys2Proof

variable {s0 : State}

/-! The module's own offset window. -/

/-- Whether an offset lies in a command window, ATT_CMD or KV_CMD, which takes a whole command (R192, R196, R225). -/
def commandWindow (off : Nat) : Bool :=
  (decide (0xE00000 ≤ off) && decide (off < 0xF00000) && (match findReg off with | some (r, _, _) => r.base == 0xE00000 | none => false)) ||
  (decide (0xF01000 ≤ off) && decide (off < 0xF01000 + 0x40 * 144))

/-- Write a span of register space: an aligned word is taken, another size or alignment is discarded (R11, R309). What reaches a command
window does so word by word, for the window to take or discard. -/
def regSpanWrite (by' : Agent) (off : Nat) (bs : List Byte) : M s0 Unit := do
  if off % 8 = 0 ∧ bs.length = 8 then quiet (regWrite by' off (BitVec.ofNat 64 (fieldAt bs 0 8)))
  else
    for w in spanWords off bs.length do
      if commandWindow (8 * w) then
        quiet (regWrite by' (8 * w) (BitVec.ofNat 64 (if off ≤ 8 * w then fieldAt bs (8 * w - off) 8 else fieldAt bs 0 8)))

/-- The pieces in which a span of the window is performed: one whole access to register space (R309), other windows in 4 KiB. -/
def windowPieces (o n : Nat) : List (Nat × Nat) :=
  match windowOf o with
  | .registers off => if off + n ≤ 0x4000000 then [(o, n)] else spanPieces 4096 (n / 4096 + 2) o n
  | _ => spanPieces 4096 (n / 4096 + 2) o n

/-- The group of scratchpad requesters an agent belongs to at an offset: a DMA channel, a core's own slot at its own banks, or an access through
the window (R264). -/
def groupOf (by' : Agent) (o : Nat) : Nat :=
  match by' with
  | .dma _ _ => 5
  | .core m => match windowOf o with
    | .scratchpad l _ => if m = l then 1 else 6
    | _ => 1
  | .host => 6
  | .firmware => 6
  | .management => 6
  | .peer _ => 6

/-- Read a span of the module's window. -/
def busRead (by' : Agent) (o n : Nat) : M s0 (Nat × List Byte × List Rec) := do
  let mut status := Status.ok
  let mut bytes : List Byte := []
  let mut evs : List Rec := []
  for p in windowPieces o n do
    servedAt p.1 (groupOf by' p.1)
    let (s, d, ev) ← (match windowOf p.1 with
      | .registers off => do return (Status.ok, ← regRead by' off p.2, [])
      | _ => modRead p.1 p.2)
    if status = Status.ok then status := s
    bytes := bytes ++ d
    evs := evs ++ ev
  return (status, bytes, evs)

/-- Write a span of the module's window, with the release tag the store carries. -/
def busWrite (by' : Agent) (o : Nat) (bs : List Byte) (tag : Option RelTag := none) : M s0 (Nat × List Rec) := do
  let mut status := Status.ok
  let mut evs : List Rec := []
  for p in windowPieces o bs.length do
    let d := slice bs (p.1 - o) p.2
    servedAt p.1 (groupOf by' p.1)
    let (s, ev) ← (match windowOf p.1 with
      | .registers off => do
        regSpanWrite by' off d
        return (Status.ok, [])
      | _ => modWrite p.1 d tag)
    if status = Status.ok then status := s
    evs := evs ++ ev
  return (status, evs)

/-! Reads of another module (R364). -/

/-- The JOB field of a packet of a context. -/
def jobFieldIn (s : State) (l k : Nat) : Nat :=
  match (FMap.get ctx0 s.ctxs (ctxKey l k)).job with
  | some j => fieldIn s R.CJ_JOBA_JOB j 0
  | none => 0xFFFF

/-! Writes of contexts (R316, R371). -/

/-- A posted write of a context on this module that was not performed: counted as well (R317, R367). -/
def localFault (l k status g op : Nat) : M s0 Unit := do
  if status ≠ 0 then
    countStatus status (← ownChip)
    storeFault l k status g op

/-- Whether two offsets of one module may name one word by paths that keep no order between them (R314, R363): the interleaved and the
direct range of a block, or the KV window and GDDR7. -/
def otherPath (s : State) (x y : Nat) : Bool :=
  x / 4096 != y / 4096 &&
  (match windowOf x, windowOf y with
    | .gddr, .gddr => (gddrAt (gdBlocksIn s) x).isSome && gddrAt (gdBlocksIn s) x == gddrAt (gdBlocksIn s) y
    | .gddr, .kv => true
    | .kv, .gddr => true
    | _, _ => false)

/-- Whether a span of bytes meets the word at a global address, by its own path or another (R311). -/
def meetsWord (s : State) (g n w : Nat) : Bool :=
  g / 2 ^ 48 == w / 2 ^ 48 &&
  ((spanWords g n).contains (w / 8) || (spanPieces 256 (n / 256 + 2) (g % 2 ^ 48) n).any (fun p => otherPath s (w % 2 ^ 48) p.1))

/-- Whether an access of a context to a span of another module waits for posted stores of it that are out: register accesses take effect
in program order (R309), and so do its accesses to one word by different paths (R314, R321). -/
def accessWaits (s : State) (l k g n : Nat) : Bool :=
  s.reqs.any (fun r => match r.purpose with
    | .store l' k' _ _ _ => l' == l && k' == k && r.chip.toNat == g / 2 ^ 48 &&
      (match windowOf r.addr, windowOf (g % 2 ^ 48) with
        | .registers _, .registers _ => true
        | _, _ => (spanPieces 256 (n / 256 + 2) (g % 2 ^ 48) n).any (fun p => otherPath s r.addr p.1))
    | _ => false)

/-- A store or a DMA write of a context at a global address, with its operation and how many sentences the context had issued: here, or by
packets split at 256 B. A store of the core that was performed updates its read cache (R324). -/
def postWrite (l k g : Nat) (bs : List Byte) (tag : Option RelTag) (by' : Agent) (purpose : Option Nat → Purpose) (op issue : Nat) :
    M s0 Unit := do
  match ← localOffset g with
  | some o =>
    let (status, ev) ← busWrite by' o bs tag
    coreRecs l k 3 op ev
    if by' = .core l ∧ status = 0 then cacheStore l o bs
    localFault l k status g op
  | none =>
    for p in spanPieces 256 (bs.length / 256 + 2) g bs.length do
      postRemote l k p.1 (slice bs (p.1 - g) p.2) purpose op issue tag

/-! Transfers of whole blocks (R348, R371, R412). -/

/-- Whether a transfer moves whole 4 KiB blocks. -/
def blockTransfer (d : Dma) : Bool := d.kind == 0 && d.src % 4096 == 0 && d.dst % 4096 == 0 && d.len % 4096 == 0

/-- The side word of a block that is not compressed (R336, R371). -/
def rawSide (word : Nat) : Nat := 15 + 2 ^ 4 + word * 2 ^ 16

/-- Send a block to another module: its stored bytes and its side word (R371). -/
def sendBlock (l ch g : Nat) (bytes : List Byte) (side : Nat) : M s0 Unit := do
  let d ← getDma l ch
  let (p, serial) := tentIn (← st) l d.slot
  let dst := BitVec.ofNat 14 (g / 2 ^ 48)
  let segs := chunks 256 16 bytes
  match serial with
  | some x => noteSent l d.slot dst (g % 2 ^ 48) x true segs.length d.issue
  | none => pure ()
  for q in segs.zipIdx do
    let last := q.2 + 1 == segs.length
    let flags := 8 + bit (!bitN side 4) * 2 + bit last * 4 + p.flags.toNat
    let r ← sendRequest { p with
      typ := Ty.pwr, flags := BitVec.ofNat 8 flags, len := 256, dst, aux := BitVec.ofNat 8 q.2
      addr := BitVec.ofNat 64 (g % 2 ^ 48 + 256 * q.2), data := slice q.1 0 256
      trailer := if last then some (BitVec.ofNat 64 side) else none } (.dmaWrite l ch serial)
    if r.isNone then
      storeFault l d.slot Status.noRoute g d.op
      match (← getCtx l d.slot).job, serial with
      | some j, some x => noteAnswer j x dst Status.noRoute
      | _, _ => pure ()
    else
      let e ← getDma l ch
      setDma l ch { e with outstanding := e.outstanding + 1 }

/-- Write a block that is not compressed: the carried word is checked before the write (R412). -/
def storeBlockAt (l ch g : Nat) (bytes : List Byte) (word : Nat) : M s0 Unit := do
  let d ← getDma l ch
  match ← localOffset g with
  | none => sendBlock l ch g bytes (rawSide word)
  | some _ =>
    if ← agreeCheck word bytes then postWrite l d.slot g bytes none (.dma l ch) (fun x => .dmaWrite l ch x) d.op d.issue
    else
      record (← coreRec l d.slot 3 { agreeRec 1 l word g (d.pos / 4096) bytes with op := d.op })
      localFault l d.slot Status.checkFail g d.op

/-- Bytes a DMA channel has read are written at their destination; a remote write is outstanding in turn. -/
def dmaStore (l ch dst : Nat) (bs : List Byte) : M s0 Unit := do
  let d ← getDma l ch
  if blockTransfer d then storeBlockAt l ch dst bs (agree bs).toNat
  else
    let before := (← st).reqs.length
    postWrite l d.slot dst bs none (.dma l ch) (fun x => .dmaWrite l ch x) d.op d.issue
    let d ← getDma l ch
    setDma l ch { d with outstanding := d.outstanding + ((← st).reqs.length - before) }

/-! The host's window. -/

/-- Whether an access through BAR2 is the function's: the link is up, Memory Space Enable is set and the power state is D0. -/
def bar2In (s : State) (off size : Nat) : Bool := barsOnIn s && decide (off + size ≤ 2 ^ s.pcie.bar2)

/-- The global address of a BAR2 offset (R459). -/
def bar2Addr (s : State) (off : Nat) : Nat :=
  (fieldIn s R.HOST_WIN_BASE 0 0 / 2 ^ s.pcie.bar2 * 2 ^ s.pcie.bar2 + off) % 2 ^ 62

/-- Whether a write of the host is on its way to another module. -/
def hostWriteOut (s : State) : Bool := s.reqs.any (fun r => r.purpose == .hostWrite)

/-- Whether a host access is outstanding at another module. -/
def hostOutIn (s : State) : Bool := s.reqs.any (fun r => match r.purpose with
  | .hostWrite => true
  | .hostRead _ _ _ => true
  | _ => false)

/-- The answer to a host access, where its completion is not lost (R478). -/
def hostAnswer (x : HostOp) (status : Nat) (bs : List Byte) : M s0 Unit := do
  if !x.lost then hostReply status bs x.data.isSome x.addr

/-- Perform a host access. -/
def hostPerform (x : HostOp) : M s0 Unit := do
  match ← localOffset x.addr, x.data with
  | some o, none =>
    let (status, d, ev) ← busRead .host o x.size
    recordAll ev
    hostAnswer x status d
  | some o, some bs =>
    let (status, ev) ← busWrite .host o bs
    recordAll ev
    hostAnswer x status []
  | none, none =>
    let r ← sendRead x.addr x.size 0xFFFF (fun skip n first => if x.lost then .agent else .hostRead skip n first)
    if r.isNone then hostAnswer x Status.noRoute (List.replicate x.size 0)
  | none, some bs =>
    let r ← sendRequest { emptyPacket with
      typ := Ty.wr, len := BitVec.ofNat 16 bs.length, dst := BitVec.ofNat 14 (x.addr / 2 ^ 48)
      addr := BitVec.ofNat 64 (x.addr % 2 ^ 48), data := bs } .hostWrite
    if r.isNone then hostAnswer x Status.noRoute []

/-- Perform a host access whole or, where it waits for a row of the KV window or at a port, not at all: whether it has been. -/
def hostServed (x : HostOp) : M s0 Bool := ifReady do
  match ← attempt (hostPerform x) with
  | .error .wait => throw .later
  | _ => return ()

/-- Perform the host's accesses in the order they came, each after those before it are performed (R309, R314, R327); one that waits stays
where it is; `fuel` bounds them. -/
def serveHost : Nat → M s0 Unit
  | 0 => return ()
  | fuel + 1 => do
    let s ← st
    if hostOutIn s then return ()
    match s.pcie.host with
    | [] => return ()
    | x :: xs =>
      if ← hostServed x then
        eff (.pcie { (← st).pcie with host := xs })
        serveHost fuel

/-- HOST_BAR2_READ: until READY it reads zero (R461). -/
def execHostBar2Read (off size : Nat) (s : State) : Host.Outcome State Fault Refusal := .next <| run s do
  if bar2In s off size then
    if phaseIn s ≠ 4 then emit (.barReply 0 (List.replicate size 0))
    else
      eff (.pcie { s.pcie with host := s.pcie.host ++ [{ addr := bar2Addr s off, size, data := none }] })
      serveHost (s.pcie.host.length + 1)
      pumpAll

/-- HOST_BAR2_WRITE: until READY it is discarded. A write of this module's registers is one access, whatever its size (R11, R309). -/
def execHostBar2Write (off : Nat) (bytes : List Byte) (s : State) : Host.Outcome State Fault Refusal := .next <| run s do
  if bar2In s off bytes.length ∧ phaseIn s = 4 then
    let g := bar2Addr s off
    let whole := decide (g / 2 ^ 48 = chipIn s) && (match windowOf (g % 2 ^ 48) with | .registers _ => true | _ => false)
    let ops := (if whole then [(g, bytes.length)] else spanPieces 256 (bytes.length / 256 + 2) g bytes.length).map (fun p =>
      ({ addr := p.1, size := p.2, data := some (slice bytes (p.1 - g) p.2) } : HostOp))
    eff (.pcie { s.pcie with host := s.pcie.host ++ ops })
    serveHost (s.pcie.host.length + ops.length)
    pumpAll

/-! Answers. -/

/-- The answer to an outstanding request has come: what its sender does with the bytes, or with the failure (R367). -/
def arrived (r : Req) (status : Nat) (data : List Byte) : M s0 Unit := do
  match r.purpose with
  | .dmaRead l ch dst skip len =>
    if status = 0 then
      eff (.reqs (eraseFirst r (← st).reqs))
      gatherOr r data (fun bs => dmaStore l ch dst (slice bs skip len))
      dmaAnswered l ch
    else endReq r status data
  | .hostWrite =>
    endReq r status data
    serveHost (← st).pcie.host.length
  | .hostRead _ _ _ =>
    endReq r status data
    serveHost (← st).pcie.host.length
  | .fetch _ _ _ _ =>
    endReq r status data
    serveReads
  | _ => endReq r status data

end Sys2Proof.Machine
end

