-- ==== Sys2Proof/Machine/Address.lean ====
section
/-! DEFINITION. The address/move slot (R105 to R107, R262): loads, stores, atomics, address arithmetic and DMA starts, with
scopes, releases, acquires and the read cache (R316 to R326); and DMA transfers (R124, R192, R225, R348). -/

namespace Sys2Proof.Machine

open Sys2Proof

variable {s0 : State}

/-- The effective address and what a[AD] becomes with POSTINC (R105); bits [63:62] trap ADDR. -/
def eaOf (a : At) (f : AddrF) : M s0 (Nat × Option Word) := do
  let base ← rdA a f.ad.toNat
  let moved := base + f.offset.signExtend 64
  let ea := if f.postinc then base else moved
  need (decide (ea.toNat < 2 ^ 62)) (.trap Trap.addr 0 ea.toNat)
  return (ea.toNat, if f.postinc then some moved else none)

/-- The address register after the access. -/
def setAfter (a : At) (f : AddrF) (after : Option Word) : M s0 Unit :=
  match after with
  | some v => wrA a f.ad.toNat v
  | none => pure ()

/-- Bytes of a scalar access. -/
def sizeOf (f : AddrF) : Nat := 2 ^ f.size.toNat

/-- Whether a slot that takes effect runs: the encoding first, then the predicate (R543). -/
def whenTaken (a : At) (f : AddrF) (enc : Bool) (op : M s0 Unit) : M s0 Unit := do
  encOk enc
  if ← predHolds a f.pred f.pneg then op

/-- Alignment and region rules of a scalar access or atomic (R107): a scoped access and an atomic are aligned words; a span of
the core's own scratchpad lies in the context's regions. DESIGN CHOICE: R107 and R126 do not say which trap is taken where several hold; here
ADDR comes first, then ALIGN, then REGION (log entry 41). -/
def checkAccess (a : At) (ea n : Nat) (word : Bool) : M s0 Unit := do
  need (!word || (n == 8 && ea % 8 == 0)) (.trap Trap.align 0 ea)
  let s ← st
  match ownAddrIn s a.l ea with
  | some x => need (spanAllowedIn s a.l a.k x n) (.trap Trap.region 0 ea)
  | none => pure ()

/-- A load or atomic that completes with a status other than OK traps XSTATUS (R107, R126). -/
def statusTrap (ea status : Nat) : M s0 Unit :=
  need (status == 0) (.trap Trap.xstatus status (ea % 2 ^ 62 + status % 4 * 2 ^ 62))

/-- The answer to a request this slot has sent: none while it has sent none; it waits while the answer is out. -/
def answerOf (a : At) : M s0 (Option (Nat × List Byte)) := do
  let c ← getCtx a.l a.k
  match c.wait, c.answer with
  | .response _, _ => throw .wait
  | _, some r =>
    setCtx a.l a.k { c with answer := none }
    return some r
  | _, none => return none

/-- Wait for the answer to a request whose first packet has this tag; without a route the status is NO_ROUTE. -/
def awaitAnswer (a : At) (t : Option Nat) : M s0 (Nat × List Byte) := do
  match t with
  | none => return (Status.noRoute, [])
  | some tag =>
    modCtx a.l a.k (fun c => { c with wait := .response tag })
    throw .wait

/-! Loads ahead of their turn. A plain or volatile load of a context may be performed before an earlier one of a different word, back to its
last acquire (R322, R330, R332): at a load, a free choice may read a free word ahead, and the load of that word then takes what was read. -/

/-- What a context has read ahead, or asked for, of the words of a span is not used: it accesses them itself (R314). -/
def dropEarlyAt (a : At) (g n : Nat) : M s0 Unit := do
  let s ← st
  let c := FMap.get ctx0 s.ctxs (ctxKey a.l a.k)
  if c.early.any (fun e => meetsWord s g n e.1) then setCtx a.l a.k { c with early := none }
  let hit (r : Req) : Bool := r.purpose == .early a.l a.k && meetsWord s g n (r.chip.toNat * 2 ^ 48 + r.addr)
  if s.reqs.any hit then eff (.reqs (s.reqs.map (fun r => if hit r then { r with purpose := .agent } else r)))

/-- A plain or volatile load of bytes within a word that has been read ahead takes that word, once. -/
def takeEarly (a : At) (g n : Nat) (vol : Bool) : M s0 (Option (List Byte)) := do
  let c ← getCtx a.l a.k
  match c.early with
  | none => return none
  | some (w, d, tags) =>
    if w ≤ g ∧ g + n ≤ w + 8 then
      setCtx a.l a.k { c with early := none, seen := c.seen ++ tags }
      match ← localOffset g with
      | some o =>
        if vol then cacheDrop a.l o else cachePass a.l a.k o n
      | none => pure ()
      return some (slice d (g - w) n)
    else return none

/-- A context that loads a span may read a word ahead: none of the span, of its own scratchpad or of register space (log entry 17). -/
def readAhead (a : At) (g n : Nat) : M s0 Unit := do
  let s ← st
  let c := FMap.get ctx0 s.ctxs (ctxKey a.l a.k)
  if c.early.isNone && !s.reqs.any (fun r => r.purpose == .early a.l a.k) then
    if ← freeBool then
      let w := (← freeWord).toNat % 2 ^ 62 / 8 * 8
      let free := (match windowOf (w % 2 ^ 48) with
        | .registers _ => false
        | .scratchpad m _ => decide (w / 2 ^ 48 ≠ chipIn s) || m != a.l
        | _ => true)
      if free && !meetsWord s g n w then
        match ← localOffset w with
        | some o =>
          match ← peek (modRead o 8) with
          | some (0, d, _) =>
            let tags := if tagsKept s then tagsOf s o 8 else []
            modCtx a.l a.k (fun c => { c with early := some (w, d, tags) })
          | _ => pure ()
        | none =>
          if !accessWaits s a.l a.k w 8 then
            let _ ← sendRead w 8 (jobFieldIn s a.l a.k) (fun _ _ _ => .early a.l a.k)

/-- Read a span of another module. -/
def remoteLoad (a : At) (g n scope : Nat) : M s0 (Nat × List Byte) := do
  match ← answerOf a with
  | some r => return r
  | none =>
    if scope = 0 then readAhead a g n
    if accessWaits (← st) a.l a.k g n then throw .wait
    awaitAnswer a (← sendRead g n (jobFieldIn (← st) a.l a.k) (fun skip len first => .load a.l a.k skip len first))

/-- Read a span of this module for a load: its path depends on where it lies, its scope and VOL (R266, R267, R320, R324,
R326). -/
def localLoad (a : At) (ea o n : Nat) (scope : Nat) (vol : Bool) : M s0 (Nat × List Byte × List Rec) := do
  let s ← st
  let tags := tagsOf s o n
  if scope ≠ 0 ∨ vol then
    if vol then
      cacheDrop a.l o
      cacheDrop a.l (o + n - 1)
    if scope = 0 ∧ (ownAddrIn s a.l ea).isNone then readAhead a ea n
    let (status, d, ev) ← busRead (.core a.l) o n
    cachePass a.l a.k o n
    if status = 0 ∧ scope ≠ 0 then testTags a scope tags
    else if tagsKept s then modCtx a.l a.k (fun c => { c with seen := c.seen ++ tags })
    return (status, d, ev)
  else
    if tagsKept s then modCtx a.l a.k (fun c => { c with seen := c.seen ++ tags })
    match ownAddrIn s a.l ea with
    | some x =>
      spServed a.l 1
      match ← gbLoad a.l x n with
      | (some d, ev) => return (Status.ok, d, ev)
      | (none, ev) => return (Status.poison, List.replicate n 0, ev)
    | none =>
      match windowOf o with
      | .registers _ => busRead (.core a.l) o n
      | _ =>
        readAhead a ea n
        cacheLoad a.l a.k o n

/-- The bytes of a scalar load at an address: checked, taken from what was read ahead, or read here or in another module, its status
trapped on, and the acquire of a scoped load made. -/
def loadAt (a : At) (f : AddrF) (ea n : Nat) : M s0 (List Byte) := do
  let scope := f.scope.toNat
  checkAccess a ea n (scope != 0)
  if scope ≠ 0 then acquireWait a
  match ← (if scope = 0 then takeEarly a ea n f.vol else return none) with
  | some d => return d
  | none =>
    dropEarlyAt a ea n
    let (status, d) ← (match ← localOffset ea with
      | some o => do
        let (status, d, ev) ← localLoad a ea o n scope f.vol
        slotRecs a ev
        return (status, d)
      | none => do
        let (status, d) ← remoteLoad a ea n scope
        if status = 0 then noteForeign a scope
        return (status, d))
    statusTrap ea status
    if scope ≠ 0 then acquireCache a scope
    return d

/-- The number a load's bytes spell, zero- or sign-extended. -/
def loadWord (signed : Bool) (n : Nat) (d : List Byte) : Word :=
  if signed then BitVec.ofInt 64 (signedN (leNat d) (8 * n)) else BitVec.ofNat 64 (leNat d)

/-- LD and LDS. -/
def opLoad (signed : Bool) (a : At) (f : AddrF) : M s0 Unit := whenTaken a f (scopeOk f.scope) do
  let (ea, after) ← eaOf a f
  let d ← loadAt a f ea (sizeOf f)
  setAfter a f after
  wrS a f.reg (loadWord signed (sizeOf f) d)

def opLd (a : At) (f : AddrF) : M s0 Unit := opLoad false a f
def opLds (a : At) (f : AddrF) : M s0 Unit := opLoad true a f

/-- LDA: with POSTINC and REG = AD the loaded value stays (R107). -/
def opLda (a : At) (f : AddrF) : M s0 Unit := whenTaken a f (scopeOk f.scope) do
  let (ea, after) ← eaOf a f
  let d ← loadAt a f ea 8
  setAfter a f after
  wrA a (f.reg.toNat % 32) (BitVec.ofNat 64 (leNat d))

/-- Store bytes at an address (R107, R316, R319, R323): a scoped store waits for the context's posted stores and carries its own
scope, and at the own scratchpad bypasses the gather buffer, whose dirty line is written back first (R266); a plain store carries the scope
of the span it lies in. -/
def storeAt (a : At) (f : AddrF) (ea : Nat) (bs : List Byte) : M s0 Unit := do
  let scope := f.scope.toNat
  checkAccess a ea bs.length (scope != 0)
  if scope ≠ 0 then releaseWait a
  let s ← st
  if ea / 2 ^ 48 ≠ chipIn s ∧ accessWaits s a.l a.k ea bs.length then throw .wait
  dropEarlyAt a ea bs.length
  let c ← getCtx a.l a.k
  let tag ← tagAt a (if scope ≠ 0 then scope else c.span.toNat)
  match ownAddrIn (← st) a.l ea, decide (scope = 0) with
  | some x, true =>
    spServed a.l 1
    let ev ← gbStore a.l x bs
    slotRecs a ev
    setTags (ea % 2 ^ 48) bs.length tag
  | own, _ =>
    match own with
    | some x => gbFlushLine a.l (x / 1024)
    | none => pure ()
    let op ← opWord a
    postWrite a.l a.k ea bs tag (.core a.l) (fun x => .store a.l a.k x (scope != 0) op) op c.issued

/-- ST. -/
def opSt (a : At) (f : AddrF) : M s0 Unit := whenTaken a f (scopeOk f.scope) do
  let (ea, after) ← eaOf a f
  storeAt a f ea (leBytes (sizeOf f) (← rdS a f.reg).toNat)
  setAfter a f after

/-- STA. -/
def opSta (a : At) (f : AddrF) : M s0 Unit := whenTaken a f (scopeOk f.scope) do
  let (ea, after) ← eaOf a f
  storeAt a f ea (leBytes 8 (← rdA a (f.reg.toNat % 32)).toNat)
  setAfter a f after

/-! Vectors and the core's own scratchpad (R106, R107, R262, R273). -/

/-- The own-scratchpad address of a vector access: aligned, and elsewhere REGION. DESIGN CHOICE: of an address that is neither, REGION is
taken (log entry 41). -/
def ownEa (a : At) (ea align : Nat) : M s0 Nat := do
  let x ← need? (ownAddrIn (← st) a.l ea) (.trap Trap.region 0 ea)
  need (decide (ea % align = 0)) (.trap Trap.align 0 ea)
  return x

/-- The address of LDV and STV: 1,024 B of a linear region, or outside every two-dimensional one, that the context may
address. -/
def linearEa (a : At) (ea : Nat) : M s0 Nat := do
  let x ← ownEa a ea 1024
  let s ← st
  let flat := match allowedIn s a.l a.k x with
    | some r => !r.twoDim
    | none => false
  need (spanAllowedIn s a.l a.k x 1024 && flat) (.trap Trap.region 0 ea)
  return x

/-- The lanes of 1,024 bytes. -/
def lanesOf (d : List Byte) : List (BitVec 32) := (List.range 256).map (fun i => BitVec.ofNat 32 (fieldAt d (4 * i) 4))

/-- Read words of the own scratchpad at the banks; a failing one traps XSTATUS with POISON. It is a plain load: the tags of its words are
noted for a later fence (R320, R323). -/
def readOwnWords (a : At) (ea : Nat) (words : List Nat) : M s0 (List Byte) := do
  spServed a.l 1
  let s ← st
  if tagsKept s then
    let tags := words.filterMap (fun w => tagOfWordIn s (0x400000000000 + a.l * 0x1000000 + w * 8))
    modCtx a.l a.k (fun c => { c with seen := c.seen ++ tags })
  let mut out : List Byte := []
  let mut status := Status.ok
  for w in words do
    let (d, ev) ← spRead a.l (w * 8) 8
    slotRecs a ev
    match d with
    | some b => out := out ++ b
    | none => status := Status.poison
  statusTrap ea status
  return out

/-- LDV. -/
def opLdv (a : At) (f : AddrF) : M s0 Unit := whenTaken a f true do
  let (ea, after) ← eaOf a f
  let x ← linearEa a ea
  let d ← readOwnWords a ea (spanWords x 1024)
  setAfter a f after
  wrVreg a.l a.k f.reg.toNat (lanesOf d)

/-- STV. -/
def opStv (a : At) (f : AddrF) : M s0 Unit := whenTaken a f true do
  let (ea, after) ← eaOf a f
  let x ← linearEa a ea
  let v ← rdVreg a.l a.k f.reg.toNat
  spServed a.l 1
  let (_, ev) ← spWrite a.l x (v.flatMap (fun e => leBytes 4 e.toNat))
  slotRecs a ev
  setTags (ea % 2 ^ 48) 1024 (← tagAt a (← getCtx a.l a.k).span.toNat)
  setAfter a f after

/-- The words of one row or one column of 128 words from an element of a two-dimensional region (R258, R262). -/
def lineWords (r : Region) (x : Nat) (column : Bool) : Option (List Nat) :=
  let i := (x - r.base * 65536) / 8
  let row := i / r.cols
  let col := i % r.cols
  if column then
    if row + 128 ≤ regionRows r then some ((List.range 128).map (fun k => r.base * 8192 + (row + k) * r.cols + col)) else none
  else if col + 128 ≤ r.cols then some ((List.range 128).map (fun k => r.base * 8192 + i + k)) else none

/-- LDVR and LDVC. -/
def opLine (column : Bool) (a : At) (f : AddrF) : M s0 Unit := whenTaken a f true do
  let (ea, after) ← eaOf a f
  let x ← ownEa a ea 8
  let r ← need? (allowedIn (← st) a.l a.k x) (.trap Trap.region 0 ea)
  need r.twoDim (.trap Trap.region 0 ea)
  let ws ← need? (lineWords r x column) (.trap Trap.region 0 ea)
  let d ← readOwnWords a ea ws
  setAfter a f after
  wrVreg a.l a.k f.reg.toNat (lanesOf d)

def opLdvr (a : At) (f : AddrF) : M s0 Unit := opLine false a f
def opLdvc (a : At) (f : AddrF) : M s0 Unit := opLine true a f

/-! Address arithmetic. DESIGN CHOICE: these three make no access, so a SCOPE of 7 in them does not trap (R107, log entry 41). -/

def opAadd (a : At) (f : AddrF) : M s0 Unit := whenTaken a f true do
  wrA a (f.reg.toNat % 32) ((← rdA a f.ad.toNat) + f.offset.signExtend 64)

def opAfroms (a : At) (f : AddrF) : M s0 Unit := whenTaken a f true do
  wrA a f.ad.toNat ((← rdS a f.reg) + f.offset.signExtend 64)

def opAtos (a : At) (f : AddrF) : M s0 Unit := whenTaken a f true do
  wrS a f.reg ((← rdA a f.ad.toNat) + f.offset.signExtend 64)

/-! Atomics (R106, R309, R310, R315). -/

/-- The operations in the order of R106 and R365: 0 ADD, 1 SWAP, 2 CAS, 3 MINS, 4 MAXS, 5 MINU, 6 MAXU. The new value of the
word, or none where a CAS does not write. -/
def atomicFn (op : Nat) (x y old : Word) : Option Word :=
  match op with
  | 0 => some (old + x)
  | 1 => some x
  | 2 => if old = x then some y else none
  | 3 => some (if x.slt old then x else old)
  | 4 => some (if old.slt x then x else old)
  | 5 => some (if x.ult old then x else old)
  | _ => some (if old.ult x then x else old)

/-- An atomic at an address of this module. -/
def localAtomic (a : At) (o op scope : Nat) (x y : Word) : M s0 (Nat × Word) := do
  let tags := tagsOf (← st) o 8
  cacheDrop a.l o
  servedAt o (groupOf (.core a.l) o)
  let (status, old, ev) ← modAtomic o (atomicFn op x y)
  slotRecs a ev
  if status = 0 ∧ scope ≠ 0 then testTags a scope tags
  return (status, old)

/-- An atomic on a word of another module: an AT packet and its answer. -/
def remoteAtomic (a : At) (g op : Nat) (x y : Word) : M s0 (Nat × List Byte) := do
  match ← answerOf a with
  | some r => return r
  | none =>
    let s ← st
    if accessWaits s a.l a.k g 8 then throw .wait
    let data := leBytes 8 x.toNat ++ (if op = 2 then leBytes 8 y.toNat else [])
    awaitAnswer a (← sendRequest { emptyPacket with
      typ := Ty.at, len := BitVec.ofNat 16 data.length, dst := BitVec.ofNat 14 (g / 2 ^ 48)
      job := BitVec.ofNat 16 (jobFieldIn s a.l a.k), aux := BitVec.ofNat 8 op, addr := BitVec.ofNat 64 (g % 2 ^ 48), data }
      (.load a.l a.k 0 8 (nextTagIn s)))

/-- An atomic: the old value returns to s[REG]. -/
def opAtomic (op : Nat) (a : At) (f : AddrF) : M s0 Unit :=
  whenTaken a f (scopeOk f.scope && (op != 2 || f.reg.toNat % 2 == 0)) do
  let (ea, after) ← eaOf a f
  checkAccess a ea 8 true
  if f.scope ≠ 0 then acquireWait a
  dropEarlyAt a ea 8
  let x ← rdS a f.reg
  let y ← rdS a (f.reg + 1)
  let (status, old) ← (match ← localOffset ea with
    | some o => localAtomic a o op f.scope.toNat x y
    | none => do
      let (status, d) ← remoteAtomic a ea op x y
      if status = 0 ∧ f.scope ≠ 0 then noteForeign a f.scope.toNat
      return (status, BitVec.ofNat 64 (leNat d)))
  statusTrap ea status
  if f.scope ≠ 0 then acquireCache a f.scope.toNat
  setAfter a f after
  wrS a f.reg old

def opAtAdd (a : At) (f : AddrF) : M s0 Unit := opAtomic 0 a f
def opAtSwap (a : At) (f : AddrF) : M s0 Unit := opAtomic 1 a f
def opAtCas (a : At) (f : AddrF) : M s0 Unit := opAtomic 2 a f
def opAtMins (a : At) (f : AddrF) : M s0 Unit := opAtomic 3 a f
def opAtMaxs (a : At) (f : AddrF) : M s0 Unit := opAtomic 4 a f
def opAtMinu (a : At) (f : AddrF) : M s0 Unit := opAtomic 5 a f
def opAtMaxu (a : At) (f : AddrF) : M s0 Unit := opAtomic 6 a f

/-! DMA (R106, R124). -/

/-- Whether a DMA length is one of R106. -/
def dmaLength (f : AddrF) : Bool := decide (8 ≤ f.offset.toInt) && f.offset.toNat % 8 == 0

/-- What a destination makes of a transfer: 1 in the ATT block, 2 in a KV command window, 0 otherwise (R192, R196, R225). -/
def dmaKind (s : State) (dst : Nat) : Nat :=
  if dst / 2 ^ 48 ≠ chipIn s then 0
  else match windowOf (dst % 2 ^ 48) with
    | .registers off =>
      if 0xE00000 ≤ off ∧ off < 0xF00000 then 1
      else if 0xF01000 ≤ off ∧ off < 0xF01000 + 0x40 * 144 then 2 else 0
    | _ => 0

/-- DMA: a start on a channel that is busy or halted waits until it is free (R107, R124). -/
def opDma (a : At) (f : AddrF) : M s0 Unit := whenTaken a f (dmaLength f) do
  let ch := f.scope.toNat
  let src ← rdA a f.ad.toNat
  let dst ← rdA a (f.reg.toNat % 32)
  need (decide (src.toNat < 2 ^ 62)) (.trap Trap.addr 0 src.toNat)
  need (decide (dst.toNat < 2 ^ 62)) (.trap Trap.addr 0 dst.toNat)
  let d ← getDma a.l ch
  if d.state ≠ 0 then
    modCtx a.l a.k (fun c => { c with wait := .channel ch })
    throw .wait
  let n := (← getCore a.l).transfers + 1
  modCore a.l (fun c => { c with transfers := n })
  modCtx a.l a.k (fun c => { c with wait := .none, lastDma := c.lastDma.filter (fun x => x.1 != ch) ++ [(ch, n)] })
  setDma a.l ch {
    state := 1, slot := a.k, number := n, src := src.toNat, dst := dst.toNat, len := f.offset.toNat
    kind := dmaKind (← st) dst.toNat, op := ← opWord a, issue := (← getCtx a.l a.k).issued }

/-- Whether an end of a transfer lies in register space, which takes an access whole (R11, R309). -/
def registerEnd (d : Dma) : Bool :=
  (match windowOf (d.src % 2 ^ 48) with | .registers _ => true | _ => false) ||
  (match windowOf (d.dst % 2 ^ 48) with | .registers _ => true | _ => false)

/-- Bytes of the next piece of a transfer: a whole block, the whole of a command or of an access to registers, or what lies within 256 B at
both ends. -/
def pieceOf (d : Dma) : Nat :=
  if d.kind ≠ 0 || registerEnd d then d.len
  else if blockTransfer d then 4096
  else min (min (256 - (d.src + d.pos) % 256) (256 - (d.dst + d.pos) % 256)) (d.len - d.pos)

/-- Note that a transfer's read has failed at an address. -/
def dmaFail (l ch g : Nat) : M s0 Unit := do
  let d ← getDma l ch
  setDma l ch { d with failed := if d.failed.isSome then d.failed else some g }

/-- Move a block between enabled ranges of this module in its stored form (R348), when both ends lie in one. -/
def takeBlock (l ch src dst : Nat) : M s0 Bool := do
  let d ← getDma l ch
  match ← localOffset src with
  | none => return false
  | some o =>
    match ← directRange o with
    | none => return false
    | some (k, b, i) =>
      portWait o 4096 true
      match ← localOffset dst with
      | none =>
        let (status, bytes, side, ev) ← cxTake k b i
        coreRecs l d.slot 3 d.op ev
        if status ≠ 0 then dmaFail l ch src else sendBlock l ch dst bytes side
        return true
      | some p =>
        match ← directRange p with
        | none => return false
        | some (k2, b2, i2) =>
          let (status, bytes, side, ev) ← cxTake k b i
          coreRecs l d.slot 3 d.op ev
          if status ≠ 0 then dmaFail l ch src
          else
            need (!putWaitsIn (← st) k2 b2 side) .later
            let (status, ev) ← cxPut k2 b2 i2 bytes side
            setTags p 4096 none
            coreRecs l d.slot 3 d.op ev
            localFault l d.slot status dst d.op
          return true

/-- Bytes a read of a transfer takes at a time at an offset, so that a failing one is named by its address (R126). -/
def readUnit (o n : Nat) : M s0 Nat := do
  match windowOf o with
  | .scratchpad _ _ => return 8
  | .gddr => return if (← directRange (o / 4096 * 4096)).isSome then 4096 else 256
  | .kv => return 256
  | _ => return n + o % 4096 + 1

/-- Read a piece of a transfer on this module: the bytes, the records owed, and the first status other than OK with its offset. -/
def readPiece (l ch o n : Nat) : M s0 (List Byte × List Rec × Option (Nat × Nat)) := do
  let u ← readUnit o n
  let mut bytes : List Byte := []
  let mut evs : List Rec := []
  let mut bad : Option (Nat × Nat) := none
  for p in spanPieces u (n / u + 2) o n do
    let (status, d, ev) ← busRead (.dma l ch) p.1 p.2
    bytes := bytes ++ d
    evs := evs ++ ev
    if bad.isNone ∧ status ≠ 0 then bad := some (status, p.1)
  return (bytes, evs, bad)

/-- Move one piece of a transfer: read here and written, or asked of the other module. Whether it has been done. -/
def dmaPiece (l ch : Nat) : M s0 Bool := do
  let d ← getDma l ch
  let n := pieceOf d
  let src := d.src + d.pos
  let dst := d.dst + d.pos
  let done ← (if blockTransfer d then takeBlock l ch src dst else return false)
  if !done then
    match ← localOffset src with
    | some o =>
      match ← attempt (readPiece l ch o n) with
      | .error _ => return false
      | .ok (bs, ev, bad) =>
        coreRecs l d.slot 3 d.op ev
        match bad with
        | some (_, x) => dmaFail l ch ((← ownChip) * 2 ^ 48 + x)
        | none => dmaStore l ch dst bs
    | none =>
      let before := (← st).reqs.length
      let r ← sendRead src n (jobFieldIn (← st) l d.slot) (fun skip len _ => .dmaRead l ch dst skip len)
      if r.isNone then
        storeFault l d.slot Status.noRoute src d.op
        dmaFail l ch src
      else
        let e ← getDma l ch
        setDma l ch { e with outstanding := e.outstanding + ((← st).reqs.length - before) }
  let e ← getDma l ch
  setDma l ch { e with pos := e.pos + n }
  return true

/-- Move the pieces of a transfer that are left, until one fails or waits; `fuel` bounds them. -/
def dmaPieces (l ch : Nat) : Nat → M s0 Unit
  | 0 => return ()
  | fuel + 1 => do
    let d ← getDma l ch
    if d.pos < d.len ∧ d.failed.isNone then
      if ← dmaPiece l ch then dmaPieces l ch fuel
    else setDma l ch { d with sent := true }

/-- Whether the engine of the starting core rejects a transfer into the ATT block, and its cause (R192, R196, R201). A source that is not
the own scratchpad nor the module's GDDR7 breaks the address rules (log entry 28). -/
def attWrong (s : State) (l : Nat) (d : Dma) : Option Nat :=
  if d.kind ≠ 1 then none
  else if d.dst % 2 ^ 48 ≠ 0xC00000000000 + R.ATT_CMD_DESC.addr l 0 ∨ !commandSource s l d.src then some 0x0C
  else if d.len ≠ 192 then some 0x0D else none

/-- DMA_TRANSFER_COMPLETE: a transfer makes its way and ends when all its writes have been performed, or halts its channel on
an uncorrectable error. A channel that carries an attention operation or a KV command ends with that. -/
def execDmaTransferComplete (core ch : Nat) (s : State) : Host.Outcome State Fault Refusal := .next <| run s do
  let d ← getDma core ch
  if core < 144 ∧ ch < 8 ∧ d.state = 1 then
    match attWrong s core d with
    | some cause => attReject core d.slot ch cause
    | none =>
      if !d.sent then dmaPieces core ch (d.len / 8 + 4)
      let d ← getDma core ch
      let own := (d.kind == 1 && d.failed.isNone) || (d.kind == 2 && d.failed.isNone && d.len == 64 &&
        commandSource (← st) core d.src && d.dst % 2 ^ 48 == 0xC00000000000 + R.KV_CMD_CMD.addr core 0)
      if d.state = 1 ∧ d.sent ∧ d.outstanding = 0 ∧ !own then
        setDma core ch { d with state := if d.failed.isSome then 2 else 0 }
    pumpAll

/-! Slots. -/

/-- The operation of an address/move code (R106); none for an undefined one. -/
def addrOp (op : Nat) : Option (At → AddrF → M s0 Unit) :=
  match op with
  | 0x01 => some opLd | 0x02 => some opLds | 0x03 => some opSt | 0x04 => some opLdv | 0x05 => some opStv
  | 0x06 => some opLdvr | 0x07 => some opLdvc | 0x08 => some opLda | 0x09 => some opSta | 0x0A => some opAadd
  | 0x0B => some opAfroms | 0x0C => some opAtos | 0x18 => some opAtAdd | 0x19 => some opAtSwap | 0x1A => some opAtCas
  | 0x1B => some opAtMins | 0x1C => some opAtMaxs | 0x1D => some opAtMinu | 0x1E => some opAtMaxu | 0x20 => some opDma
  | _ => none

/-- An address/move slot commanded alone. -/
def soleAddr (op : Nat) (g : {s : State} → At → AddrF → M s Unit) (core : Nat) (f : AddrF) (s : State) :
    Host.Outcome State Fault Refusal := soleSlot s core 3 (addrBits op f) (fun a => g a f)

def execLd (core : Nat) (f : AddrF) (s : State) : Host.Outcome State Fault Refusal := soleAddr 0x01 opLd core f s
def execLds (core : Nat) (f : AddrF) (s : State) : Host.Outcome State Fault Refusal := soleAddr 0x02 opLds core f s
def execSt (core : Nat) (f : AddrF) (s : State) : Host.Outcome State Fault Refusal := soleAddr 0x03 opSt core f s
def execLdv (core : Nat) (f : AddrF) (s : State) : Host.Outcome State Fault Refusal := soleAddr 0x04 opLdv core f s
def execStv (core : Nat) (f : AddrF) (s : State) : Host.Outcome State Fault Refusal := soleAddr 0x05 opStv core f s
def execLdvr (core : Nat) (f : AddrF) (s : State) : Host.Outcome State Fault Refusal := soleAddr 0x06 opLdvr core f s
def execLdvc (core : Nat) (f : AddrF) (s : State) : Host.Outcome State Fault Refusal := soleAddr 0x07 opLdvc core f s
def execLda (core : Nat) (f : AddrF) (s : State) : Host.Outcome State Fault Refusal := soleAddr 0x08 opLda core f s
def execSta (core : Nat) (f : AddrF) (s : State) : Host.Outcome State Fault Refusal := soleAddr 0x09 opSta core f s
def execAadd (core : Nat) (f : AddrF) (s : State) : Host.Outcome State Fault Refusal := soleAddr 0x0A opAadd core f s
def execAfroms (core : Nat) (f : AddrF) (s : State) : Host.Outcome State Fault Refusal := soleAddr 0x0B opAfroms core f s
def execAtos (core : Nat) (f : AddrF) (s : State) : Host.Outcome State Fault Refusal := soleAddr 0x0C opAtos core f s
def execAtAdd (core : Nat) (f : AddrF) (s : State) : Host.Outcome State Fault Refusal := soleAddr 0x18 opAtAdd core f s
def execAtSwap (core : Nat) (f : AddrF) (s : State) : Host.Outcome State Fault Refusal := soleAddr 0x19 opAtSwap core f s
def execAtCas (core : Nat) (f : AddrF) (s : State) : Host.Outcome State Fault Refusal := soleAddr 0x1A opAtCas core f s
def execAtMins (core : Nat) (f : AddrF) (s : State) : Host.Outcome State Fault Refusal := soleAddr 0x1B opAtMins core f s
def execAtMaxs (core : Nat) (f : AddrF) (s : State) : Host.Outcome State Fault Refusal := soleAddr 0x1C opAtMaxs core f s
def execAtMinu (core : Nat) (f : AddrF) (s : State) : Host.Outcome State Fault Refusal := soleAddr 0x1D opAtMinu core f s
def execAtMaxu (core : Nat) (f : AddrF) (s : State) : Host.Outcome State Fault Refusal := soleAddr 0x1E opAtMaxu core f s
def execDma (core : Nat) (f : AddrF) (s : State) : Host.Outcome State Fault Refusal := soleAddr 0x20 opDma core f s

end Sys2Proof.Machine
end

