-- ==== Sys2Proof/Machine/Sync.lean ====
section
/-! DEFINITION. The sync/branch slot (R113, R114, R125, R325, R397). -/

namespace Sys2Proof.Machine

open Sys2Proof

variable {s0 : State}

/-- The target of a relative branch. -/
def branchTarget (a : At) (f : SyncF) : Nat := wrapN ((a.addr : Int) + f.imm.toInt * 32) 48

def opBr (a : At) (f : SyncF) : M s0 Unit := do
  if ← predHolds a f.pred f.pneg then setNext a (branchTarget a f)

/-- BRI: an address that is not a multiple of 32 traps ALIGN. -/
def opBri (a : At) (f : SyncF) : M s0 Unit := do
  if ← predHolds a f.pred f.pneg then
    let t ← rdS a f.rs
    need (decide (t.toNat % 32 = 0)) (.trap Trap.align 0 t.toNat)
    setNext a t.toNat

def opCall (a : At) (f : SyncF) : M s0 Unit := do
  if ← predHolds a f.pred f.pneg then
    wrS a f.rs (BitVec.ofNat 64 a.follow)
    setNext a (branchTarget a f)

def opLoop (a : At) (f : SyncF) : M s0 Unit := do
  if ← predHolds a f.pred f.pneg then
    let t ← rdS a f.rs
    wrS a f.rs (t - 1)
    if t - 1 ≠ 0 then setNext a (branchTarget a f)

/-- The scope of a fence: 0 and 7 are faults of encoding. -/
def fenceScope (f : SyncF) : M s0 Nat := do
  encOk (f.scope != 0 && f.scope != 7)
  return f.scope.toNat

def opFenceRel (a : At) (f : SyncF) : M s0 Unit := do
  let sc ← fenceScope f
  if ← predHolds a f.pred f.pneg then fenceRelease a sc

def opFenceAcq (a : At) (f : SyncF) : M s0 Unit := do
  let sc ← fenceScope f
  if ← predHolds a f.pred f.pneg then
    acquireWait a
    fenceAcquire a sc

def opFenceAr (a : At) (f : SyncF) : M s0 Unit := do
  let sc ← fenceScope f
  if ← predHolds a f.pred f.pneg then
    fenceRelease a sc
    fenceAcquire a sc

/-- A core stops at a barrier or a conjunction without passing it (R125). -/
def stopHere (a : At) : M s0 Unit := modCtx a.l a.k (fun c => { c with stopped := true, wait := .none, sentence := none })

/-- Whether another core of the context has trapped or stopped in this attempt. -/
def peersLostIn (s : State) (a : At) : Bool :=
  match clauseOfIn s a.l with
  | none => false
  | some c => c.cores.any (fun m => decide (cstateIn s m a.k = 3) || (FMap.get ctx0 s.ctxs (ctxKey m a.k)).stopped)

/-- BAR: a release and an acquire at clause scope; nobody passes until every core of the clause has reached it (R325). -/
def opBar (a : At) (f : SyncF) : M s0 Unit := do
  if ← predHolds a f.pred f.pneg then
    let s ← st
    if peersLostIn s a then stopHere a
    else
      releaseWait a
      let others := (match clauseOfIn s a.l with | some c => c.cores | none => []).filter (· != a.l)
      let here (m : Nat) : Bool := (FMap.get ctx0 s.ctxs (ctxKey m a.k)).wait == .barrier f.id.toNat
      if others.all here then
        for m in others do
          resumeCtx m a.k
          let b := { a with l := m }
          modCtx m a.k (fun c => { c with span := 3 })
          fenceAcquire b 3
        modCtx a.l a.k (fun c => { c with span := 3 })
        fenceAcquire a 3
      else
        modCtx a.l a.k (fun c => { c with wait := .barrier f.id.toNat })
        throw .wait

/-- An access of a collective operation has failed: a fault of the job by the status' class. -/
def collFault (j id status : Nat) : M s0 Unit := do
  recordConj j (if statusClassD status then 1 else 2) status [] id
  if statusClassD status then jobFaultD j else jobFaultH j 9

/-- A contribution that cannot be read: a fault, and elements that nothing constrains. -/
def badContribution (j id status count : Nat) : M s0 (List (BitVec 32)) := do
  collFault j id status
  freeElems count

/-- The elements of a contribution at a global address on this module, 64 B aligned (R397): none of a barrier, and of a broadcast those of the
member ROOT only, whose s[RS] alone counts. -/
def readContribution (j id : Nat) (e : OpEntry) (g : Nat) : M s0 (List (BitVec 32)) := do
  if e.kind = 1 ∨ (e.kind = 3 ∧ e.root ≠ fieldIn (← st) R.CJ_JOBA_NODE j 0) then return []
  match ← localOffset g with
  | none => badContribution j id Status.noRoute e.count
  | some o =>
    if o % 64 ≠ 0 then badContribution j id Status.noRoute e.count
    else
      let (status, d) ← rdMem o (4 * e.count)
      if status ≠ 0 then badContribution j id status e.count
      else return (chunks 4 e.count d).map (fun b => BitVec.ofNat 32 (leNat b))

/-- The CJWAITs of an operation that a core has issued in the attempt, by any of its contexts of the job (R398). -/
def cjCountIn (s : State) (l j id : Nat) : Nat :=
  ((List.range 16).map (fun k =>
    let c := FMap.get ctx0 s.ctxs (ctxKey l k)
    if c.job = some j then ((c.cjs.find? (fun p => p.1 == id)).map (·.2)).getD 0 else 0)).sum

/-- CJWAIT: a release at domain scope, the contribution, and the wait; an undefined operation traps ILLEGAL (R396, R398). -/
def opCjwait (a : At) (f : SyncF) : M s0 Unit := do
  if ← predHolds a f.pred f.pneg then
    let c ← getCtx a.l a.k
    let id := f.id.toNat
    match c.job with
    | none => illegal
    | some j =>
      if peersLostIn (← st) a then stopHere a
      else
        releaseWait a
        let (status, e?) ← readOp j id
        if status ≠ 0 then
          collFault j id status
          stopHere a
        else
          match e? with
          | none => illegal
          | some e =>
            let xs ← readContribution j id e (← rdS a f.rs).toNat
            let inst := cjCountIn (← st) a.l j id
            modCtx a.l a.k (fun x => { x with cjs := x.cjs.filter (fun p => p.1 != id) ++ [(id, ((x.cjs.find? (fun p => p.1 == id)).map (·.2)).getD 0 + 1)] })
            let slotBefore := (← getCtx a.l a.k).sentence
            if ← contribute a.l a.k j id inst e xs then
              modCtx a.l a.k (fun x => { x with wait := .none, sentence := slotBefore })
              acquireCache a 6
            else throw .wait

/-- DMAWAIT: the last transfer the context started on the channel; its return is an acquire at core scope (R113, R124, R324). -/
def opDmawait (a : At) (f : SyncF) : M s0 Unit := do
  if ← predHolds a f.pred f.pneg then
    let ch := f.imm.toNat % 8
    let c ← getCtx a.l a.k
    let d ← getDma a.l ch
    let mine := c.lastDma.any (fun p => p.1 == ch && p.2 == d.number) && d.slot == a.k
    if mine && d.state == 1 then
      modCtx a.l a.k (fun x => { x with wait := .dmaWait ch })
      throw .wait
    modCtx a.l a.k (fun x => { x with wait := .none })
    if mine && d.state == 2 then
      setDma a.l ch { d with state := 0, failed := none }
      throw (.trap Trap.dmaUe ch ((d.failed.getD 0) % 2 ^ 62))
    acquireWait a
    acquireCache a 2

/-- YIELD. -/
def opYield (a : At) (f : SyncF) : M s0 Unit := do
  if ← predHolds a f.pred f.pneg then modCtx a.l a.k (fun c => { c with yielded := true })

/-- TRAP. -/
def opTrap (a : At) (f : SyncF) : M s0 Unit := do
  if ← predHolds a f.pred f.pneg then throw (.trap Trap.soft 0 (f.imm.toNat % 2 ^ 16))

/-- The operation of a sync/branch code (R113); none for an undefined one. -/
def syncOp (op : Nat) : Option (At → SyncF → M s0 Unit) :=
  match op with
  | 0x01 => some opBr | 0x02 => some opBri | 0x03 => some opCall | 0x04 => some opLoop | 0x08 => some opFenceRel
  | 0x09 => some opFenceAcq | 0x0A => some opFenceAr | 0x10 => some opBar | 0x11 => some opCjwait | 0x12 => some opDmawait
  | 0x18 => some opYield | 0x1E => some opTrap
  | _ => none

/-- A sync/branch slot commanded alone. -/
def soleSync (op : Nat) (g : {s : State} → At → SyncF → M s Unit) (core : Nat) (f : SyncF) (s : State) :
    Host.Outcome State Fault Refusal := soleSlot s core 7 (syncBits op f) (fun a => g a f)

def execBr (core : Nat) (f : SyncF) (s : State) : Host.Outcome State Fault Refusal := soleSync 0x01 opBr core f s
def execBri (core : Nat) (f : SyncF) (s : State) : Host.Outcome State Fault Refusal := soleSync 0x02 opBri core f s
def execCall (core : Nat) (f : SyncF) (s : State) : Host.Outcome State Fault Refusal := soleSync 0x03 opCall core f s
def execLoop (core : Nat) (f : SyncF) (s : State) : Host.Outcome State Fault Refusal := soleSync 0x04 opLoop core f s
def execFenceRel (core : Nat) (f : SyncF) (s : State) : Host.Outcome State Fault Refusal := soleSync 0x08 opFenceRel core f s
def execFenceAcq (core : Nat) (f : SyncF) (s : State) : Host.Outcome State Fault Refusal := soleSync 0x09 opFenceAcq core f s
def execFenceAr (core : Nat) (f : SyncF) (s : State) : Host.Outcome State Fault Refusal := soleSync 0x0A opFenceAr core f s
def execBar (core : Nat) (f : SyncF) (s : State) : Host.Outcome State Fault Refusal := soleSync 0x10 opBar core f s
def execCjwait (core : Nat) (f : SyncF) (s : State) : Host.Outcome State Fault Refusal := soleSync 0x11 opCjwait core f s
def execDmawait (core : Nat) (f : SyncF) (s : State) : Host.Outcome State Fault Refusal := soleSync 0x12 opDmawait core f s
def execYield (core : Nat) (f : SyncF) (s : State) : Host.Outcome State Fault Refusal := soleSync 0x18 opYield core f s
def execTrap (core : Nat) (f : SyncF) (s : State) : Host.Outcome State Fault Refusal := soleSync 0x1E opTrap core f s

end Sys2Proof.Machine
end

