-- ==== Sys2Proof/Machine/Sentence.lean ====
section
/-! DEFINITION. Sentences: fetch and header (R95 to R101, R126), the slots in order (R115, R116, R543), END (R100), switches
(R119 to R121), the reduction of a joined drain (R158, R159), the selection of proof-reading (R414 to R416), and single steps of
a halted core (R514). -/

namespace Sys2Proof.Machine

open Sys2Proof

variable {s0 : State}

/-! Slots. -/

/-- A slot whose bits are those of its fields: reserved bits are zero (R543). -/
def whole (bits : Nat) (again : Nat) (op : M s0 Unit) : M s0 Unit := do
  encOk (again == bits)
  op

/-- The effect of a slot's bits: operation code 0 does nothing; an undefined code and a nonzero reserved bit are faults of
encoding. -/
def slotEffect (a : At) (bits : Nat) : M s0 Unit :=
  let op := bits % 256
  match a.n with
  | 1 => whole bits (scalarBits op (scalarOf bits)) (if op = 0 then pure () else
      match scalarOp op with | some g => g a (scalarOf bits) | none => illegal)
  | 2 => whole bits (scalarBits op (scalarOf bits)) (if op = 0 then pure () else
      match scalarOp op with | some g => g a (scalarOf bits) | none => illegal)
  | 3 => whole bits (addrBits op (addrOf bits)) (if op = 0 then pure () else
      match addrOp op with | some g => g a (addrOf bits) | none => illegal)
  | 4 => whole bits (vecBits op (vecOf bits)) (if op = 0 then pure () else
      match vecOp op with | some g => g a (vecOf bits) | none => illegal)
  | 5 => whole bits (vecBits op (vecOf bits)) (if op = 0 then pure () else
      match vecOp op with | some g => g a (vecOf bits) | none => illegal)
  | 6 => whole bits (matBits op (matOf bits)) (if op = 0 then pure () else
      match matOp op with | some g => g a (matOf bits) | none => illegal)
  | _ => whole bits (syncBits op (syncOf bits)) (if op = 0 then pure () else
      match syncOp op with | some g => g a (syncOf bits) | none => illegal)

/-- Bytes of a sentence by its length class. -/
def sentenceSize (raw : BitVec 512) : Nat := if raw.toNat % 4 = 1 then 32 else 64

/-- The place of the slot a sentence has come to. -/
def placeOfSlot (l k : Nat) (q : Sentence) : At :=
  ⟨l, k, q.slot, q.addr.toNat, q.addr.toNat + sentenceSize q.raw⟩

/-- Run the slots of a context's sentence from the one it has come to, in slot number order: whether all have completed; `fuel`
bounds them. Vector and matrix slots are held while the context's attention operation runs (R194). -/
def runSlots (l k : Nat) : Nat → M s0 Bool
  | 0 => return true
  | fuel + 1 => do
    let c ← getCtx l k
    match c.sentence with
    | none => return false
    | some q =>
      if 8 ≤ q.slot then return true
      else
        if bitN q.raw.toNat (12 + q.slot) then
          if vecOrMat q.slot && attRunsIn (← st) l k then
            setF R.CORE_STATUS_WAITING 1 l
            return false
          let bits := slotBits q.raw q.slot
          let a := placeOfSlot l k q
          if !(← runOne a bits (slotEffect a bits)) then return false
        modCtx l k (fun c => { c with sentence := c.sentence.map (fun x => { x with slot := q.slot + 1 }) })
        runSlots l k fuel

/-! Proof-reading (R99, R414 to R416). -/

/-- Whether an address/move slot keeps its sentence out of proof-reading: an atomic, a DMA start, a release or acquire, or an
access outside the core's own scratchpad (R99). -/
def addrBars (s : State) (l k bits : Nat) : Bool :=
  let op := bits % 256
  let f := addrOf bits
  let base := FMap.get zeroWord s.aregs (ctxKey l k * 32 + f.ad.toNat)
  let ea := if f.postinc then base else base + f.offset.signExtend 64
  decide (0x18 ≤ op) || (decide (1 ≤ op) && decide (op ≤ 9) &&
    (((op ≤ 3 || 8 ≤ op) && f.scope != 0) || (ownAddrIn s l ea.toNat).isNone))

/-- Whether a sync/branch slot does: a release, an acquire, a barrier or a conjunction wait; the return of a DMAWAIT is an
acquire (R320). -/
def syncBars (bits : Nat) : Bool :=
  let op := bits % 256
  (decide (8 ≤ op) && decide (op ≤ 0xA)) || (decide (0x10 ≤ op) && decide (op ≤ 0x12))

/-- Whether a sentence is eligible (R99, R414). -/
def eligibleIn (s : State) (l k : Nat) (raw : BitVec 512) : Bool :=
  bitN raw.toNat 2 && !(bitN raw.toNat 15 && addrBars s l k (slotBits raw 3)) && !(bitN raw.toNat 19 && syncBars (slotBits raw 7))

/-- Whether the n-th eligible sentence of a core is selected (R414). -/
def selectedIn (s : State) (l n : Nat) : Bool :=
  let sh := match s.stream with | some x => x.proofShift | none => 0
  sh != 0 && (mix64 s.proofKey l (n % 2 ^ 48) 0).toNat / 2 ^ (64 - sh) == 0

/-- Count an eligible sentence; whether it is selected. -/
def selectProof (l k : Nat) (raw : BitVec 512) : M s0 Bool := do
  let s ← st
  if eligibleIn s l k raw then
    let n := (← getCore l).eligible
    modCore l (fun c => { c with eligible := n + 1 })
    if selectedIn s l n then
      countWrap R.INT_PROOF_SAMPLED
      return true
  return false

/-- The checker of a field: the idle spare, or the lowest position whose logical core is in no clause (R416). -/
def checkerIn (s : State) (f : Nat) : Option Nat :=
  let spare := fieldIn s R.DEV_FIELD_MAP_SPARE_POS f 0
  if spare ≠ 31 then some (19 * f + spare)
  else
    ((List.range 19).find? (fun p => match logicalOf s (19 * f + p) with
      | some l => (clauseOfIn s l).isNone
      | none => false)).map (19 * f + ·)

/-- Bytes of an accumulator row with what goes with it: 257 accumulators of 48 bits, the magnitude sum, the inexact bit. -/
def accRowBytes : Nat := 257 * 6 + 6 + 1

/-- Bytes that a matrix slot reads and writes, each value in whole bytes of its width (R415): what it streams, the stationary rows it streams
them through or loads, and the accumulator rows. -/
def matCapture (s : State) (l bits : Nat) : Nat :=
  let f := matOf bits
  let row (n : Nat) : Nat := match fmtEntryIn s l f.fmt.toNat with | some e => e.2.storage n | none => 0
  let stat := passOf f * rowsOf f * row 256
  let acc := accRowBytes * (if f.acc then 2 else 1)
  match bits % 256 with
  | 0x01 => 1024 + row 256
  | 0x02 => 2 * countOf f * row 256
  | 0x04 => 1024 + stat + acc
  | 0x05 => countOf f * row 128 + stat + countOf f * acc
  | 0x06 => countOf f * (accRowBytes + 1024)
  | 0x07 => countOf f * (accRowBytes + 1024)
  | 0x08 => 1024 + acc
  | _ => 0

/-- Bytes that a sentence's slots read and write (R415, R416). No slot but a matrix one comes to more than four vectors and a predicate. The
layout of a proof record is not the manual's: that it holds the values and no more is DEDUCED (log entry 34). -/
def captureBytes (s : State) (l : Nat) (raw : BitVec 512) : Nat :=
  ((List.range 8).map (fun n =>
    if n = 0 ∨ !bitN raw.toNat (12 + n) then 0
    else if n = 6 then matCapture s l (slotBits raw 6)
    else if n = 4 ∨ n = 5 then 4 * 1024 + 32
    else if n = 3 then 2 * 1024 + 16 else 32)).sum

/-- A selected sentence has completed: its proof record is queued for the field's checker, or it is skipped (R416). -/
def captureProof (l k : Nat) (q : Sentence) : M s0 Unit := do
  let s ← st
  let f := l / 18
  let fits := decide (captureBytes s l q.raw ≤ 2 ^ 20)
  match checkerIn s f, (← getCtx l k).job with
  | some p, some j =>
    if fits ∧ (s.proofs.filter (fun r => r.field == f)).length < 4 then
      eff (.proofs (s.proofs ++ [⟨f, l, k, j, BitVec.ofNat 32 (fieldIn s R.CJ_JOBB_TENSE j 0), q.addr, p, (← getCtx l k).issued⟩]))
    else countSat R.INT_PROOF_SKIPPED
  | _, _ => countSat R.INT_PROOF_SKIPPED

/-! The boundary. -/

/-- A halted core stops at a boundary (R514). -/
def haltHere (l : Nat) : M s0 Unit := do
  if haltedIn (← st) l then
    setF R.SEC_HALT_HALTED 1 l
    setF R.CORE_STATUS_RUN 2 l

/-- The core of a held job stops at a boundary (R40). -/
def holdHere (l k : Nat) : M s0 Unit := do
  match (← getCtx l k).job with
  | some j => if (← getF R.CJ_JOBA_STATE j) = 3 ∧ !(← getJob j).finishing then setF R.CORE_STATUS_RUN 2 l
  | none => return ()

/-- Whether a context's transfers have all ended, and the lowest channel that halted. -/
def channelsDoneIn (s : State) (l k : Nat) : Bool :=
  (List.range 8).all (fun ch => let d := FMap.get dma0 s.dmas (l * 8 + ch); !(d.slot == k && d.state == 1))
def haltedChannelIn (s : State) (l k : Nat) : Option Nat :=
  (List.range 8).find? (fun ch => let d := FMap.get dma0 s.dmas (l * 8 + ch); d.slot == k && d.state == 2)

/-- Every slot of a context's sentence has taken effect: it retires, and the address that follows is the next; with END the
context has finished its part, and a trap of it names that sentence (R100, R128). -/
def finishSentence (l k : Nat) (q : Sentence) : M s0 Unit := do
  let c ← getCtx l k
  let ended := !q.lone && bitN q.raw.toNat 4
  setCtx l k { c with sentence := none, wait := .none, saddr := if ended then q.addr else q.next, ended }
  if ended then setF R.CORE_CTX_CSTATE 2 l k
  setF R.CORE_STATUS_WAITING (bit (ended && !channelsDoneIn (← st) l k)) l
  setF R.CORE_STATUS_WAIT_CJ 0 l
  if !q.lone then
    countWrap R.CORE_RETIRED_COUNT l
    if q.proof then captureProof l k q
  holdHere l k
  haltHere l

/-- Run the sentence of a context as far as it goes. -/
def advanceSentence (l k : Nat) : M s0 Unit := do
  setF R.CORE_STATUS_WAITING 0 l
  setF R.CORE_STATUS_WAIT_CJ 0 l
  if ← runSlots l k 8 then
    match (← getCtx l k).sentence with
    | some q => finishSentence l k q
    | none => return ()

/-- A fault of a whole sentence names slot 0 (R125). -/
def faultOf (l k cause detail : Nat) : M s0 Unit := takeTrap l k 0 cause 0 detail 0

/-- Pieces of 32 B that an instruction cache of 64 KiB holds (R23). -/
def icachePieces : Nat := 2048

/-- Fetch 32 bytes of a sentence through the core's instruction cache: the status of the fetch and the bytes (R95, R101). Which pieces
the cache still holds is not defined: a free choice. -/
def fetchAt (l k addr : Nat) : M s0 (Nat × List Byte) := do
  let held := (← getCore l).icache.find? (fun x => x.1 == addr)
  let keep ← (if held.isSome then freeBool else return false)
  match held, keep with
  | some x, true => return (Status.ok, x.2)
  | _, _ =>
    let (status, d) ← rdGddr addr 32 (← getCtx l k).job
    if status = 0 then
      modCore l (fun c =>
        let rest := c.icache.filter (fun x => x.1 != addr)
        { c with icache := rest.drop (rest.length - (icachePieces - 1)) ++ [(addr, d)] })
    return (status, d)

/-- Whether a 32 B piece of a sentence lies in the GDDR7 part of the window. -/
def fetchable (s : State) (addr : Nat) : Bool := addr % 32 == 0 && (gddrAt (gdBlocksIn s) addr).isSome

/-- The code tag a sentence must carry: none where its own is zero (R97). -/
def tagWrong (raw : BitVec 512) (want : BitVec 8) : Bool := bitsN raw.toNat 5 8 != 0 && bitsN raw.toNat 5 8 != want.toNat

/-- Whether a header is at fault: its length class or reserved bits, slots the short form lacks, or bits past it (R95 to R98). -/
def headerBad (raw : BitVec 512) : Bool :=
  decide (2 ≤ raw.toNat % 4) || bitsN raw.toNat 20 12 != 0 ||
  (raw.toNat % 4 == 1 && (bitsN raw.toNat 15 4 != 0 || bitsN raw.toNat 224 32 != 0))

/-- Fetch the sentence at a context's address; none after a trap. The manual does not order the faults of a whole sentence that hold
together: a long sentence is fetched whole before its header is checked, and the header is checked before the code tag. FETCH_UE names
the failing address as a global one, with the chip number (log entry 27). -/
def fetchSentence (l k : Nat) : M s0 (Option (BitVec 512)) := do
  let c ← getCtx l k
  let addr := c.saddr.toNat
  let chip ← ownChip
  if !fetchable (← st) addr then
    faultOf l k Trap.fetchRange addr
    return none
  let (status, d) ← fetchAt l k addr
  if status ≠ 0 then
    faultOf l k Trap.fetchUe (chip * 2 ^ 48 + addr)
    return none
  let mut bytes := d
  if fieldAt d 0 1 % 4 = 0 then
    if !fetchable (← st) (addr + 32) then
      faultOf l k Trap.fetchRange addr
      return none
    let (status, e) ← fetchAt l k (addr + 32)
    if status ≠ 0 then
      faultOf l k Trap.fetchUe (chip * 2 ^ 48 + addr + 32)
      return none
    bytes := d ++ e
  let raw := BitVec.ofNat 512 (leNat bytes)
  if headerBad raw then
    faultOf l k Trap.illegal (raw.toNat % 2 ^ 64)
    return none
  if tagWrong raw c.tag then
    faultOf l k Trap.codeTag (bitsN raw.toNat 5 8 + c.tag.toNat * 256)
    return none
  return some raw

/-- Another context a core would switch to. -/
def otherIn (s : State) (l k : Nat) : Option Nat := (nextRunnableIn s l k).filter (fun x => x != k)

/-- Whether a switch is due at the running context's boundary (R120); also where R125 has stopped it, or its job is held, which R120 does not
list (DESIGN CHOICE, log entry 41). -/
def switchDueIn (s : State) (l k : Nat) : Bool :=
  (otherIn s l k).isSome && (!runnableIn s l k || fieldIn s R.CORE_CTX_QUOTA_LEFT l k == 0 ||
    (FMap.get ctx0 s.ctxs (ctxKey l k)).yielded)

/-- Whether a core may work at all: bound, under no reset, its clause not held. -/
def worksIn (s : State) (l : Nat) : Bool := boundIn s l && !underResetIn s l && !clauseHeldIn s l

/-- Issue the next sentence of a context and run it as far as it goes; its quota is set again where a switch was due and no other context
was runnable (R120). -/
def issueNext (l k : Nat) : M s0 Unit := do
  let s ← st
  modCore l (fun c => { c with stepping := false })
  if fieldIn s R.CORE_CTX_QUOTA_LEFT l k = 0 ∨ (FMap.get ctx0 s.ctxs (ctxKey l k)).yielded then
    setF R.CORE_CTX_QUOTA_LEFT (← coreQuota l k) l k
  modCtx l k (fun c => { c with yielded := false })
  if !haltedIn s l then setF R.CORE_STATUS_RUN 1 l
  match ← fetchSentence l k with
  | none => haltHere l
  | some raw =>
    let addr := (← getCtx l k).saddr
    let proof ← selectProof l k raw
    setF R.CORE_CTX_QUOTA_LEFT ((← getF R.CORE_CTX_QUOTA_LEFT l k) - 1) l k
    let next := addr + BitVec.ofNat 48 (sentenceSize raw)
    modCtx l k (fun c => { c with sentence := some ⟨raw, addr, 1, next, false, proof⟩, wait := .none, issued := c.issued + 1 })
    advanceSentence l k

/-- Whether a sentence that waits may go on: what it waits for is not another core's doing nor a packet that is out. -/
def mayGoOn (w : Wait) : Bool :=
  match w with
  | .none => true
  | .channel _ => true
  | .dmaWait _ => true
  | .join => true
  | .response _ => false
  | .barrier _ => false
  | .conjunction _ _ => false

/-- Whether a context's sentence under way goes on: a hold of its job stops it at the boundary only (R40). -/
def underWayIn (s : State) (l k : Nat) : Bool :=
  let c := FMap.get ctx0 s.ctxs (ctxKey l k)
  c.sentence.isSome && c.job.isSome && cstateIn s l k == 1 && !c.stopped && !c.ended

/-- The core goes on: with the sentence that waits, or with the next one, which does not issue while the rail is too low (R25). -/
def issueSentence (l : Nat) : M s0 Unit := do
  let s ← st
  let k := fieldIn s R.CORE_STATUS_SLOT l 0
  let c := FMap.get ctx0 s.ctxs (ctxKey l k)
  if worksIn s l then
    match c.sentence with
    | some _ => if underWayIn s l k ∧ mayGoOn c.wait then advanceSentence l k
    | none => if !lowVoltageIn s l ∧ runnableIn s l k ∧ !switchDueIn s l k ∧ (!haltedIn s l ∨ (FMap.get core0 s.cores l).stepping) then issueNext l k

/-- SENTENCE_ISSUE. -/
def execSentenceIssue (core : Nat) (s : State) : Host.Outcome State Fault Refusal := .next <| run s (issueSentence core)

/-- NOP: operation code 0 in any slot. -/
def execNop (core slot : Nat) (s : State) : Host.Outcome State Fault Refusal := soleSlot s core slot 0 (fun _ => pure ())

/-- CONTEXT_SWITCH: at a boundary the core switches to the next runnable context when one of the conditions of R120 holds; it
waits for an attention operation of the outgoing context (R194). -/
def execContextSwitch (core : Nat) (s : State) : Host.Outcome State Fault Refusal := .next <| run s do
  let k := fieldIn s R.CORE_STATUS_SLOT core 0
  if worksIn s core ∧ (FMap.get ctx0 s.ctxs (ctxKey core k)).sentence.isNone ∧ switchDueIn s core k ∧ !attRunsIn s core k ∧
      (!haltedIn s core ∨ (FMap.get core0 s.cores core).stepping) then
    match otherIn s core k with
    | some n => switchTo core (some k) n
    | none => return ()

/-- CONTEXT_DONE: a context that has reached END and whose transfers have ended traps on a halted channel, or reports its part
of the tense done, its flag updates merged first (R100, R124, R190). -/
def execContextDone (core : Nat) (s : State) : Host.Outcome State Fault Refusal := .next <| run s do
  match (List.range 16).find? (fun k => (FMap.get ctx0 s.ctxs (ctxKey core k)).ended && channelsDoneIn s core k) with
  | none => return ()
  | some k =>
    match haltedChannelIn s core k with
    | some ch =>
      let d ← getDma core ch
      setDma core ch { d with state := 0, failed := none }
      takeTrap core k 0 Trap.dmaUe ch ((d.failed.getD 0) % 2 ^ 62) 0
    | none =>
      mergeFlags core k
      setF R.CORE_CTX_CSTATE 2 core k
      modCtx core k (fun c => { c with ended := false })
      if (← runSlot core) = k then setF R.CORE_STATUS_WAITING 0 core
      if (← runSlot core) = k ∧ (otherIn (← st) core k).isNone then
        if !haltedIn s core then setF R.CORE_STATUS_RUN 0 core

/-- JOIN_REDUCE: the partials that the drain of member (0, j) waits for have come: it reduces and checks them, and goes on. -/
def execJoinReduce (core : Nat) (s : State) : Host.Outcome State Fault Refusal := .next <| run s do
  let k := fieldIn s R.CORE_STATUS_SLOT core 0
  let c := FMap.get ctx0 s.ctxs (ctxKey core k)
  if worksIn s core ∧ underWayIn s core k ∧ c.wait = .join then advanceSentence core k

/-- STEP: one sentence of a halted core is issued, in the moods that permit writes of SEC_HALT_L (R514). -/
def execHaltStep (core : Nat) (s : State) : Host.Outcome State Fault Refusal := .next <| run s do
  if core < 144 ∧ haltedIn s core ∧ moodAllows s [0, 1, 2] [2] 2 then
    modCore core (fun c => { c with stepping := true })
    issueSentence core

end Sys2Proof.Machine
end

