-- ==== Sys2Proof/Machine/Dictation.lean ====
section
/-! DEFINITION. Dictations: the load of a bundle by its three paths (R426, R468, R534) and the passes of its tests (R425, R427
to R429). -/

namespace Sys2Proof.Machine

open Sys2Proof

variable {s0 : State}

/-- The status and DETAIL of a DICTATION command whose load ended with a code (R470, R514). -/
def dictStatus (code : Nat) : Nat × Nat :=
  if code = 0 then (Cmd.ok, 0) else if code = DictErr.mood then (Cmd.mood, 0) else if code = DictErr.source then (Cmd.source, 0)
  else (Cmd.failed, code)

/-- DICTATION_LOAD: by INT_DSRC; by a message with the global address and the length; by a queue's command, whose payload is the
bundle. A message whose length is not the bundle's is refused with SIZE. -/
def execDictationLoad (src : CmdSource) (s : State) : Host.Outcome State Fault Refusal := .next <| run s do
  match src with
  | .registers =>
    if phaseIn s = 4 then dictLoadRegs
  | .management b =>
    vendorLater 0x06 do
      if b.length ≠ 12 then return some (Done.format, 0, [])
      match ← dictLoadAt (fieldAt b 0 8) (some (fieldAt b 8 4)) with
      | some code => return some (if code = 0 then Done.ok else Done.refused, code, [])
      | none => return none
  | .queue q cid b =>
    if phaseIn s = 4 ∧ q < 64 then
      let code ← dictLoad (return some b)
      let (status, detail) := dictStatus code
      complete q cid.toNat 1 status detail

/-! Which unit may run which test. -/

/-- Whether no tense is released to a core's clause and none of its contexts is runnable (R427). -/
def clauseIdleIn (s : State) (l : Nat) : Bool :=
  match clauseOfIn s l with
  | none => true
  | some c =>
    c.cores.all (fun m => (List.range 16).all (fun k => !runnableIn s m k)) &&
    (List.range 16).all (fun j =>
      let v := FMap.get job0 s.jobs j
      !(jobStateIn s j != 0 && v.released && v.ctxs.any (fun e => e.clause == c.num)))

/-- Whether a physical core is available: bound, or its field's spare. -/
def coreHereIn (s : State) (p : Nat) : Bool :=
  decide (p < 152) && ((logicalOf s p).isSome || fieldIn s R.DEV_FIELD_MAP_SPARE_POS (p / 19) 0 == p % 19) && !s.rst.fenced.contains p

/-- Whether a controller is there: it has not failed. -/
def controllerHereIn (s : State) (k : Nat) : Bool := decide (k < 32) && fieldIn s R.GD_STATUS_STATE k 0 != 3

/-- Whether a reset that runs has a field's spare in it: of the module, or of the spare's die (R433). -/
def spareResetIn (s : State) (u : Nat) : Bool := s.rst.running.any (fun r => r.1 == 6 || (r.1 == 5 && r.2 == u / 76))

/-- Whether a unit of a test is idle. -/
def unitIdleIn (s : State) (kind u : Nat) : Bool :=
  decide (fieldIn s R.DEV_MOOD_POWER 0 0 ≤ 1) && s.pins.pwrgd &&
  (if kind = 3 then fieldIn s R.GD_STATUS_STATE u 0 == 1 && (FMap.get gdctl0 s.gdctls u).stuck.isEmpty
   else !s.proofs.any (fun r => r.checker == u) &&
    (match logicalOf s u with
      | some l => clauseIdleIn s l && !underResetIn s l
      | none => !spareResetIn s u))

/-- Whether a test of a slot has passes left on a unit. -/
def passesLeft (x : DictSlot) (r : DictRes) : Bool := r.verdict != 3 && decide (r.passes < x.repeat')

/-- Whether a test's turn on a unit has come: no lower slot has passes left there, and in this slot no test has had fewer, nor
an earlier one as few. -/
def turnIn (s : State) (slot : Nat) (r : DictRes) (core : Bool) : Bool :=
  let on (x : DictSlot) : List DictRes :=
    if x.used then x.results.filter (fun e => e.unit == r.unit && ((x.tests.getD e.test ⟨0, 0, 0, 0, 0, 0, 0, 0⟩).kind != 3) == core && passesLeft x e)
    else []
  (List.range slot).all (fun k => (on (FMap.get dict0 s.dicts k)).isEmpty) &&
  (on (FMap.get dict0 s.dicts slot)).all (fun e => decide (r.passes < e.passes) || (r.passes == e.passes && decide (r.test ≤ e.test)))

/-- Whether the least time between the starts of two passes has gone by (R424 PERIOD). -/
def periodOver (s : State) (x : DictSlot) (r : DictRes) : Bool :=
  match r.started with | some t => decide (t + 1000 * x.period ≤ s.ms) | none => true

/-! Kind 1: a program on an idle core. -/

/-- Issue one sentence of a dictation program, whose addresses are offsets of its payload, on a core that has nothing but its own
registers. -/
def dictSentence (code : List Byte) (s : State) : State := run s do
  let c ← getCtx 0 0
  match c.sentence with
  | some _ => advanceSentence 0 0
  | none =>
    let a := c.saddr.toNat
    let n := if fieldAt code a 1 % 4 = 0 then 64 else 32
    if a % 32 ≠ 0 ∨ code.length < a + n then faultOf 0 0 Trap.fetchRange a
    else
      let raw := BitVec.ofNat 512 (leNat (slice code a n))
      if headerBad raw then faultOf 0 0 Trap.illegal (raw.toNat % 2 ^ 64)
      else
        modCtx 0 0 (fun c => { c with sentence := some ⟨raw, c.saddr, 1, c.saddr + BitVec.ofNat 48 n, false, false⟩, wait := .none })
        advanceSentence 0 0

/-- Whether a dictation program has ended: END, or a trap. -/
def dictOver (s : State) : Bool := (FMap.get ctx0 s.ctxs 0).ended || cstateIn s 0 0 == 3

/-- Run a dictation program for at most so many sentences, one a step. -/
def dictRun (code : List Byte) : Nat → State → State
  | 0, s => s
  | fuel + 1, s => if dictOver s then s else dictRun code fuel (dictSentence code s)

/-- The 4,096 bytes of v0 to v3. -/
def dictVectors (s : State) : List Byte := (List.range 1024).flatMap (fun i => leBytes 4 (FMap.get zeroLane s.vregs i).toNat)

/-- Run a kind 1 test: its verdict and the agreement word found. -/
def dictProgram (t : DictTest) (bytes : List Byte) : M s0 (Nat × Nat) := do
  let s ← st
  let last := dictRun (slice bytes t.poff t.plen) t.steps { State.reset with fresh := s.fresh }
  for _ in List.range (last.fresh - s.fresh) do
    eff .fresh
  let found := (agree (dictVectors last)).toNat
  let verdict :=
    if cstateIn last 0 0 = 3 then (if fieldIn last R.CORE_TRAP0_CAUSE 0 0 = Trap.soft then 1 else 2)
    else if (FMap.get ctx0 last.ctxs 0).ended ∧ found = t.expect.toNat then 0 else 1
  return (verdict, found)

/-! Kinds 2 and 3 write their pattern in the words they may touch, and read it back. -/

/-- Failing and corrected items that a pass has met. -/
structure Seen where
  failing : Nat := 0
  corrected : Nat := 0
  deriving DecidableEq, Repr

/-- An item has been read: its data, where it could be, the data wanted, and whether it was corrected. -/
def Seen.note {α : Type} [DecidableEq α] (x : Seen) (got : Option α) (want : α) (fixed : Bool) : Seen :=
  { failing := x.failing + bit (got ≠ some want), corrected := x.corrected + bit (fixed && got.isSome) }

/-- Write a word of a bound core's scratchpad with the pattern and read it back (R425). -/
def marchCore (l w : Nat) (v : Word) (x : Seen) : M s0 Seen := do
  let _ ← spWrite l (8 * w) (leBytes 8 v.toNat)
  let (got, evs) ← spReadWord l w
  recordAll evs
  return x.note got v (!evs.isEmpty)

/-- Write a word of a spare's SRAM with the pattern and read it back. The SRAM of the spare of field f stands in State beside the scratchpads as
that of core 144 + f; no address reaches it (DESIGN CHOICE, log entry 36). -/
def marchSpare (f w : Nat) (v : Word) (x : Seen) : M s0 Seen := do
  spPutRaw (144 + f) w v (secdedCheck v)
  let raw := readCells (← st).spad (spKey (144 + f) w) 9
  match decodeWord false (BitVec.ofNat 64 (leNat (raw.take 8))) (raw.getD 8 0) with
  | .good y => return x.note (some y) v false
  | .fixed y _ => return x.note (some y) v true
  | .bad _ => return x.note none v false

/-- A pass of kind 2: every word of a spare's SRAM, or of a bound core's scratchpad that no region holds (R425). -/
def marchPass (t : DictTest) (u pass : Nat) : M s0 Seen := do
  let s ← st
  let mut x : Seen := {}
  for w in List.range (2 ^ 21) do
    let v := mix64 t.seed u w pass
    match logicalOf s u with
    | none => x ← marchSpare (u / 19) w v x
    | some l => if !(regionsIn s l).any (fun r => inRegion r (8 * w)) then x ← marchCore l w v x
  return x

/-- The bytes of the pattern of a pass in a spare block: the words of the spares are numbered on from one spare to the next (DEDUCED, log
entry 36). -/
def sparePattern (t : DictTest) (u n pass : Nat) : List Byte :=
  (List.range 32).flatMap (fun i => leBytes 8 (mix64 t.seed u (32 * n + i) pass).toNat)

/-- A pass of kind 3: every spare block of a controller that no remap entry holds is written and read back (R425). -/
def sparePass (t : DictTest) (u pass : Nat) : M s0 Seen := do
  let s ← st
  let mut x : Seen := {}
  for n in List.range 16384 do
    if !(List.range 16).any (fun i => (fieldIn s R.GD_REMAP_VALID u i == 1 || fieldIn s R.GD_REMAP_BUSY u i == 1) && fieldIn s R.GD_REMAP_SPARE u i == n) then
      let d := sparePattern t u n pass
      let at' := gdBlocksIn s + n
      gdPutBlock u at' (storeBlock d)
      let (got, evs) ← gdReadAt u at' at' noFaults false
      recordAll evs
      x := x.note got d (!evs.isEmpty)
  return x

/-- DICTATION_PASS: an idle unit has run a pass of a test. What the cells of the hardware did to the words or blocks of kinds 2 and 3 beside what
State shows is given: failing and corrected items more. -/
def execDictationPass (slot test unit failing corrected : Nat) (s : State) : Host.Outcome State Fault Refusal :=
  .next <| run s do
  let x := FMap.get dict0 s.dicts slot
  let t := x.tests.getD test ⟨0, 0, 0, 0, 0, 0, 0, 0⟩
  match resultAt x test unit with
  | none => return ()
  | some (i, r) =>
    if slot < 4 ∧ x.used ∧ passesLeft x r then
      let late := x.notAfter ≠ 0 ∧ fieldIn s R.MGT_TIME_SET 0 0 = 1 ∧ x.notAfter.toNat < fabricNsIn s
      if late ∨ !(if t.kind = 3 then controllerHereIn s unit else coreHereIn s unit) then putResult slot i { r with verdict := 3 }
      else if unitIdleIn s t.kind unit ∧ turnIn s slot r (t.kind != 3) ∧ periodOver s x r then
        let (verdict, observed, seen) ← (
          if t.kind = 1 then do
            let (v, found) ← dictProgram t x.bytes
            return (v, found, 0)
          else do
            let y ← (if t.kind = 2 then marchPass t unit (r.passes % 2 ^ 32) else sparePass t unit (r.passes % 2 ^ 32))
            let bad := y.failing + failing
            let fixed := y.corrected + corrected
            return (bit (bad ≠ 0 ∨ (t.kind = 2 ∧ fixed ≠ 0)), bad % 2 ^ 32, fixed))
        let r' := { r with verdict, passes := r.passes + 1, fails := r.fails + bit (verdict = 1), observed
                           corrected := min (r.corrected + seen) (2 ^ 32 - 1), started := some s.ms, stamp := some (stampIn (← st) t unit) }
        putResult slot i r'
        if verdict ≠ 0 then
          let retire := verdict = 1 ∧ t.action = 1
          record {
            cls := if retire then 3 else 0, source := 0x10, unit, cause := verdict
            pcore := if t.kind = 3 then 0xFF else unit, field := dictField t unit
            ctrl := if t.kind = 3 then unit else 0xFF
            syn := slice (resultBytes r') 0 32, detail := slice (leBytes 8 x.serial.toNat) 0 24 }
          if retire then retireCore unit

/-- DICTATION_ABANDON: a running pass or portion is given up and will start again (R427): its turn and time had come, so that it may have run,
and its unit is no longer idle, for the unit's own work, a proof record, a reset or the power state. -/
def execDictationAbandon (slot test unit : Nat) (s : State) : Host.Outcome State Fault Refusal := .next <| run s do
  let x := FMap.get dict0 s.dicts slot
  let t := x.tests.getD test ⟨0, 0, 0, 0, 0, 0, 0, 0⟩
  match resultAt x test unit with
  | none => return ()
  | some (i, r) =>
    if slot < 4 ∧ x.used ∧ passesLeft x r ∧ turnIn s slot r (t.kind != 3) ∧ periodOver s x r ∧ !unitIdleIn s t.kind unit then
      putResult slot i { r with abandoned := min (r.abandoned + 1) 65535 }

end Sys2Proof.Machine
end

