-- ==== Sys2Proof/Machine/Packets.lean ====
section
/-! DEFINITION. Packets received: the check of incarnations (R366, R388), requests performed at this module (R364, R372 to
R374, R412), conjunction messages (R390 to R395), responses (R365, R367), packets forwarded for others (R387), and the
agreement's own commands: votes, timeouts and sweeps (R39, R43, R45, R374). -/

namespace Sys2Proof.Machine

open Sys2Proof

variable {s0 : State}

/-! Which packets are acted on. -/

/-- The incarnation the module map accepts from a chip (R388); 0 accepts nothing. -/
def moduleMapInc (chip : Nat) : M s0 Nat := do
  if (← getF R.CJ_MMAP_VALID) = 0 then return 0
  let (status, b) ← rdGddr ((← getF R.CJ_MMAP_ADDR) + 2 * chip) 2
  return if status = 0 then leNat b else 0

/-- The job slot a packet's JOB names, if the module serves that job. -/
def servedIn (s : State) (p : Packet) : Option Nat := if p.job = 0xFFFF then none else jobSlotIn s p.job.toNat

/-- The outstanding request a response answers (R365). -/
def answeredIn (s : State) (p : Packet) : Option Req :=
  s.reqs.find? (fun r => r.tag == p.tag.toNat && r.chip == p.src && (responseType (BitVec.ofNat 8 r.typ)) == p.typ)

/-- A packet an LS4 originates that is accepted without the check: it came on a local lane (R366). -/
def unchecked (s : State) (lane : Nat) (p : Packet) : Bool :=
  !laneGlobal lane &&
  ((p.typ == Ty.msg && p.aux == 1 && p.addr.toNat % 65536 == Msg.peerReset) ||
   (isResponse p.typ && p.inc == 0 && (p.status.toNat == Status.noRoute || p.status.toNat == Status.peerReset) &&
    (answeredIn s p).isSome))

/-- The check of R366. -/
def incOk (lane : Nat) (p : Packet) : M s0 Bool := do
  let s ← st
  if unchecked s lane p then return true
  let want ← (match servedIn s p with
    | some j => return ((((FMap.get job0 s.jobs j).map.find? (fun e => e.1 == p.src)).map (·.2.toNat)).getD 0)
    | none => moduleMapInc p.src.toNat)
  return want != 0 && want == p.inc.toNat

/-- A packet leaves the receive buffer: its units are free for the far end again (R362). -/
def freePacket (lane : Nat) (p : Packet) : M s0 Unit := modLane lane (fun x =>
  let v := p.vl.toNat
  { x with received := eraseFirst p x.received, freed := x.freed.set v (x.freed.getD v 0 + packetUnits p) })

/-- Whether a packet is in a receive buffer with no earlier one of its flow (R363). -/
def firstOfFlow : List Packet → Packet → Bool
  | [], _ => false
  | q :: qs, p => q == p || (!sameFlow q p && firstOfFlow qs p)

/-- Act on a packet of a lane's receive buffer that is for this module: the check first; one that must wait stays. -/
def receive (lane : Nat) (p : Packet) (typ : BitVec 8) (act : M s0 Unit) : M s0 Unit := do
  if lane < 48 ∧ p.typ = typ ∧ p.dst.toNat = (← ownChip) ∧ firstOfFlow (← getLane lane).received p then
    if ← incOk lane p then
      match ← attempt act with
      | .error .wait => pure ()
      | _ => freePacket lane p
    else
      countSat R.FAB_STALE_DROPPED
      record (← laneEvent lane 0 (← getF R.FAB_LSTAT_CAUSE lane))
      setF R.FAB_STALE_CHIP p.src.toNat
      setF R.FAB_STALE_INC p.inc.toNat
      if isNonPosted p.typ then sendResponse p Status.stale [] p.inc.toNat
      freePacket lane p
    pumpAll

/-- Whether a packet that must name a job in progress is answered HELD: the job is held or stood down, or is not one the
module serves (R53, R366, R367). A RETR of a held job is performed. -/
def answeredHeld (s : State) (p : Packet) : Bool :=
  match servedIn s p with
  | none => true
  | some j => p.typ != Ty.retr && (jobStateIn s j == 3 || jobStateIn s j == 4)

/-! Reads, writes and atomics. -/

/-- The release tags of words go with the response to a request for them, in the debug states that keep tags (R323). -/
def answerTagsOut (p : Packet) (rels : List RelTag) : M s0 Unit := do
  if !rels.isEmpty then emit (.relTags p.src p.tag.toNat rels)

/-- RD. -/
def actRead (p : Packet) : M s0 Unit := do
  let o := p.addr.toNat % 2 ^ 48
  let s ← st
  let rels := if tagsKept s then tagsOf s o p.len.toNat else []
  let (status, d, ev) ← busRead (.peer p.src) o p.len.toNat
  recordAll ev
  sendResponse p status d
  answerTagsOut p rels

/-- AT: an operation of AUX; one the manual does not define leaves a value nothing constrains. -/
def actAtomic (p : Packet) : M s0 Unit := do
  let o := p.addr.toNat % 2 ^ 48 / 8 * 8
  let x := BitVec.ofNat 64 (fieldAt p.data 0 8)
  let y := BitVec.ofNat 64 (fieldAt p.data 8 8)
  let op := p.aux.toNat
  let w ← (if 6 < op then freeWord else return x)
  let s ← st
  let rels := if tagsKept s then tagsOf s o 8 else []
  servedAt o 6
  let (status, old, ev) ← modAtomic o (atomicFn (if 6 < op then 1 else op) w y)
  recordAll ev
  sendResponse p status (leBytes 8 old.toNat)
  answerTagsOut p rels

/-- The entry a tentative packet takes in the tentative table. -/
def tentOf (p : Packet) : TentEntry := ⟨p.src, p.job, p.tense, p.serial, (Packet.blk p)⟩

/-- Record a tentative block or write that was performed (R372). -/
def noteTent (p : Packet) : M s0 Unit := do
  if Packet.tent p then setTent ((← st).tent ++ [tentOf p])

/-- Write a block that has arrived whole (R348, R371, R372, R412): its status. A compressed block for memory outside every
enabled range is decoded here. -/
def performBlock (lane base : Nat) (p : Packet) (bytes : List Byte) (side : Nat) : M s0 Nat := do
  let checked (bs : List Byte) (go : M s0 (Nat × List Rec)) : M s0 Nat := do
    if ← agreeCheck (bitsN side 16 32) bs then
      let (status, ev) ← go
      recordAll ev
      return status
    else
      record { agreeRec 0 lane (bitsN side 16 32) ((← ownChip) * 2 ^ 48 + base) p.serial.toNat bs with lane }
      return Status.checkFail
  let sectors := bytes.length / 256
  if sectors ≠ (if Packet.cmp p then bitsN side 0 4 + 1 else 16) then return Status.sizeMismatch
  match ← directRange base, (Packet.cmp p) with
  | some (k, b, i), true =>
    need (!putWaitsIn (← st) k b side) .later
    let (status, ev) ← cxPut k b i bytes side
    setTags base 4096 none
    recordAll ev
    return status
  | some (k, b, i), false =>
    portWait base 4096 false
    let status ← checked bytes (cxWrite k b i bytes)
    setTags base 4096 none
    if status = Status.checkFail then countSat R.CX_CNT_CHECK (k / 4)
    return status
  | none, false => checked bytes (busWrite (.peer p.src) base bytes)
  | none, true =>
    match tableOfIn (← st) (bitsN side 5 8) with
    | none => return Status.genMissing
    | some t =>
      match decodeSectors t (bitsN side 13 3) bytes with
      | none =>
        countSat R.INT_AGREE_FAILED
        return Status.sizeMismatch
      | some out => checked out (busWrite (.peer p.src) base out)

/-- The block buffer a segment belongs to. -/
def blockOf (p : Packet) (b : BlockBuf) : Bool :=
  b.src == p.src && b.job == p.job && b.tense == p.tense && b.serial == p.serial && b.addr == p.addr.toNat % 2 ^ 48 - 256 * p.aux.toNat

/-- A block for the open attempt of a job here has failed its check: the member's part of the tense has too (R39). -/
def receivedBad (p : Packet) : M s0 Unit := do
  let s ← st
  match servedIn s p with
  | some j => if ofAttemptIn s j p.tense.toNat then jobFaultD j else pure ()
  | none => pure ()

/-- A segment of a block: held until the trailer arrives; then the block is performed, or refused, as a whole, and every
segment has the block's one status. The first segment of a block waits while no block buffer is free (R372). -/
def actSegment (lane : Nat) (p : Packet) : M s0 Unit := do
  let base := p.addr.toNat % 2 ^ 48 - 256 * p.aux.toNat
  let s ← st
  need (s.blockBufs.any (blockOf p) || s.blockBufs.isEmpty || decide (s.blockBufs.length < Config.blockBuffers)) .wait
  let b := (s.blockBufs.find? (blockOf p)).getD ⟨p.src, p.job, p.tense, p.serial, base, (Packet.cmp p), [], []⟩
  let b := { b with segs := b.segs.filter (fun x => x.1 != p.aux.toNat) ++ [(p.aux.toNat, slice p.data 0 256)], tags := b.tags ++ [p.tag] }
  let rest := s.blockBufs.filter (fun x => !blockOf p x)
  if !(Packet.trail p) then eff (.blockBufs (rest ++ [b]))
  else
    let bytes := ((b.segs.insertionSort (fun x y => x.1 ≤ y.1)).map (·.2)).flatten
    let status ← performBlock lane base p bytes (match p.trailer with | some w => w.toNat | none => 0)
    eff (.blockBufs rest)
    if status = 0 then noteTent p
    if status = Status.checkFail then receivedBad p
    for t in b.tags do
      sendResponse { p with tag := t } status []

/-- WR and PWR: a block's segment, or a write by itself, with the release tag it carries. A tentative one waits while the tentative table
is full. -/
def actWrite (lane : Nat) (p : Packet) (rel : Option RelTag := none) : M s0 Unit := do
  let s ← st
  if (Packet.tent p) ∧ answeredHeld s p then sendResponse p Status.held []
  else
    need (!((Packet.tent p) && decide (65536 ≤ s.tent.length) && (!(Packet.blk p) || (Packet.trail p)))) .wait
    if Packet.blk p then actSegment lane p
    else
      let (status, ev) ← busWrite (.peer p.src) (p.addr.toNat % 2 ^ 48) p.data (if tagsKept s then rel else none)
      recordAll ev
      if status = 0 then noteTent p
      sendResponse p status []

def execRd (lane : Nat) (p : Packet) (s : State) : Host.Outcome State Fault Refusal := .next <| run s do
  receive lane p Ty.rd (actRead p)
def execWr (lane : Nat) (p : Packet) (s : State) : Host.Outcome State Fault Refusal := .next <| run s do
  receive lane p Ty.wr (actWrite lane p)
def execPwr (lane : Nat) (p : Tagged) (s : State) : Host.Outcome State Fault Refusal := .next <| run s do
  receive lane p.packet Ty.pwr (actWrite lane p.packet (if p.packet.data.length ≤ 8 then p.rels.head? else none))
def execAtReq (lane : Nat) (p : Packet) (s : State) : Host.Outcome State Fault Refusal := .next <| run s do
  receive lane p Ty.at (actAtomic p)

/-! Confirmations and retractions (R46, R47, R373, R374). -/

/-- The entries a CONF or RETR covers: the block's, or every other write at or below its SERIAL. -/
def coveredBy (p : Packet) (t : TentEntry) : Bool :=
  t.src == p.src && t.job == p.job && t.tense == p.tense && t.isBlock == (Packet.blk p) &&
  (if Packet.blk p then t.serial == p.serial else decide (t.serial.toNat ≤ p.serial.toNat))

/-- CONF and RETR. One for a tense no longer open is dropped and counted; one that covers nothing recorded is ignored, and
counted unless it is a duplicate or the CONF of a block. -/
def actSettle (p : Packet) : M s0 Unit := do
  let s ← st
  match servedIn s p with
  | none => sendResponse p Status.held []
  | some j =>
    if answeredHeld s p then sendResponse p Status.held []
    else
      if p.tense.toNat ≠ nextTenseIn s j then countSat R.FAB_TENT_LATE
      else
        let hit := s.tent.filter (coveredBy p)
        if hit.isEmpty then
          if !s.tentDone.contains (tentOf p) ∧ !((Packet.blk p) ∧ p.typ = Ty.conf) then countSat R.FAB_TENT_UNKNOWN
        else
          setTent (s.tent.filter (fun t => !coveredBy p t))
          eff (.tentDone (s.tentDone ++ [tentOf p]))
          if p.typ = Ty.retr then retracted j p.tense.toNat hit else settleBlocks j
      sendResponse p Status.ok []

def execConf (lane : Nat) (p : Packet) (s : State) : Host.Outcome State Fault Refusal := .next <| run s do
  receive lane p Ty.conf (actSettle p)
def execRetr (lane : Nat) (p : Packet) (s : State) : Host.Outcome State Fault Refusal := .next <| run s do
  receive lane p Ty.retr (actSettle p)

/-! Segments and messages (R390 to R400). -/

/-- SEG. A segment of no open attempt has no instance to join. -/
def actSeg (p : Packet) : M s0 Unit := do
  let s ← st
  if answeredHeld s p then sendResponse p Status.held []
  else
    match servedIn s p with
    | some j => if ofAttemptIn s j p.tense.toNat then quiet (onSeg j p.src.toNat (p.addr.toNat % 2048) (p.addr.toNat / 65536 % 65536) p.data)
    | none => pure ()
    sendResponse p Status.ok []

def execSeg (lane : Nat) (p : Packet) (s : State) : Host.Outcome State Fault Refusal := .next <| run s do
  receive lane p Ty.seg (actSeg p)

/-- A conjunction message of a code and class: the unit sees that of a held job too, to count or keep it, and it is answered
HELD. -/
def message (lane : Nat) (p : Packet) (code : Nat) (act : Nat → M s0 Unit) : M s0 Unit := do
  if p.addr.toNat % 65536 = code ∧ p.aux = (if code < 0x100 then 0 else 1) then
    receive lane p Ty.msg (do
      let s ← st
      match servedIn s p with
      | some j => quiet (act j)
      | none => pure ()
      sendResponse p (if answeredHeld s p then Status.held else Status.ok) [])

def execVote (lane : Nat) (p : Packet) (s : State) : Host.Outcome State Fault Refusal := .next <| run s do
  message lane p Msg.vote (fun j => onVote j p.src.toNat p.tense.toNat p.data)
def execDecideMsg (lane : Nat) (p : Packet) (s : State) : Host.Outcome State Fault Refusal := .next <| run s do
  message lane p Msg.decide (fun j => onDecide j p.src.toNat p.tense.toNat p.data)
def execMapup (lane : Nat) (p : Packet) (s : State) : Host.Outcome State Fault Refusal := .next <| run s do
  message lane p Msg.mapup (fun j => onMapup j p.src.toNat p.tense.toNat p.data)
def execMapdown (lane : Nat) (p : Packet) (s : State) : Host.Outcome State Fault Refusal := .next <| run s do
  message lane p Msg.mapdown (fun j => onMapdown j p.src.toNat p.tense.toNat p.data)
def execArrive (lane : Nat) (p : Packet) (s : State) : Host.Outcome State Fault Refusal := .next <| run s do
  message lane p Msg.arrive (fun j => onArrive j p.src.toNat p.tense.toNat p.data)
def execRelease (lane : Nat) (p : Packet) (s : State) : Host.Outcome State Fault Refusal := .next <| run s do
  message lane p Msg.release (fun j => onRelease j p.src.toNat p.tense.toNat p.data)
def execJoinMsg (lane : Nat) (p : Packet) (s : State) : Host.Outcome State Fault Refusal := .next <| run s do
  message lane p Msg.join (fun j => onJoin j p.src.toNat p.data)
def execStart (lane : Nat) (p : Packet) (s : State) : Host.Outcome State Fault Refusal := .next <| run s do
  message lane p Msg.start (fun j => onStart j p.src.toNat p.data)
def execHoldMsg (lane : Nat) (p : Packet) (s : State) : Host.Outcome State Fault Refusal := .next <| run s do
  message lane p Msg.hold (fun j => onHold j p.src.toNat p.data)

/-- PEER_RESET: SRC and INC name the chip that was reset. Its answer goes to that chip, as every request has one (R364). -/
def execPeerReset (lane : Nat) (p : Packet) (s : State) : Host.Outcome State Fault Refusal := .next <| run s do
  if p.addr.toNat % 65536 = Msg.peerReset ∧ p.aux = 1 then
    receive lane p Ty.msg (do
      peerReset p.src.toNat p.inc.toNat
      sendResponse p Status.ok [])

/-! Responses (R365 to R367). -/

/-- The tags of the words that a load or atomic of a context is answered for (R323). -/
def noteAnswerTags (r : Req) (rels : List RelTag) : M s0 Unit := do
  let p := tagsKept (← st)
  match r.purpose with
  | .load l k _ _ _ =>
    if p && !rels.isEmpty then modCtx l k (fun c => { c with answerTags := c.answerTags ++ rels })
  | .early l k => modCtx l k (fun c => { c with earlyTags := if p then rels else [] })
  | _ => return ()

/-- A response: dropped and counted when no request matches it, as one that comes late, or when its STATUS is none of R367, which counts
as TIMEOUT. One that says this module's present incarnation is stale holds every job (R59). -/
def actResponse (p : Packet) (rels : List RelTag := []) : M s0 Unit := do
  let status := p.status.toNat
  let s ← st
  match answeredIn s p with
  | none =>
    eff (.lateDrops (s.lateDrops + 1))
    if 9 < status then countStatus Status.timeout p.src.toNat
  | some r =>
    if 9 < status then countStatus Status.timeout p.src.toNat
    else
      if status = Status.stale ∧ p.addr.toNat % 65536 = (← ownInc) then
        record { cls := 2, source := 0x08, unit := p.src.toNat, cause := status
                 syn := slice (leBytes 2 status ++ leBytes 2 p.src.toNat ++ leBytes 8 r.addr) 0 32 }
        holdAll 6 (noted := true)
      noteAnswerTags r rels
      arrived r status p.data

def execRdr (lane : Nat) (p : Tagged) (s : State) : Host.Outcome State Fault Refusal := .next <| run s do
  receive lane p.packet Ty.rdr (actResponse p.packet p.rels)
def execAck (lane : Nat) (p : Packet) (s : State) : Host.Outcome State Fault Refusal := .next <| run s do
  receive lane p Ty.ack (actResponse p)
def execAtr (lane : Nat) (p : Tagged) (s : State) : Host.Outcome State Fault Refusal := .next <| run s do
  receive lane p.packet Ty.atr (actResponse p.packet p.rels)

/-- TRANSACTION_TIMEOUT: a request has had no response within FAB_TIMEOUT. -/
def execTransactionTimeout (tag : BitVec 16) (s : State) : Host.Outcome State Fault Refusal := .next <| run s do
  match s.reqs.find? (fun r => r.tag == tag.toNat) with
  | some r =>
    arrived r Status.timeout []
    pumpAll
  | none => return ()

/-! Forwarding (R387). -/

/-- PACKET_FORWARD: a packet for another chip leaves on the lane its route names, or completes with NO_ROUTE. -/
def execPacketForward (lane : Nat) (p : Packet) (s : State) : Host.Outcome State Fault Refusal := .next <| run s do
  if lane < 48 ∧ p.dst.toNat ≠ chipIn s ∧ firstOfFlow (← getLane lane).received p then
    if (← sendPacket p (some lane)).isNone then forwardedNoRoute p
    freePacket lane p
    pumpAll

/-! The agreement's own commands. -/

/-- MEMBER_VOTE. -/
def execMemberVote (j : Nat) (s : State) : Host.Outcome State Fault Refusal := .next <| run s do
  if j < 16 then
    memberVoteJob j
    pumpAll

/-- STEP_HOLD_TIMEOUT: a member that waits for an order of the tree has had none within the timeout (R43, R231, R392). -/
def execStepHoldTimeout (j : Nat) (s : State) : Host.Outcome State Fault Refusal := .next <| run s do
  if j < 16 ∧ (FMap.get job0 s.jobs j).waits then
    holdJob j 2 (← ownChip)
    pumpAll

/-- SWEEP_SEND: one sweep to a chip covers the writes that have been answered, up to the first that has not; a confirming one, up to
the first that cannot be confirmed yet (R374). -/
def execSweepSend (j : Nat) (chip : BitVec 14) (s : State) : Host.Outcome State Fault Refusal := .next <| run s do
  if j < 16 ∧ (FMap.get job0 s.jobs j).isOpen then
    let us := (sweepable (unsettledIn s j) chip).takeWhile (fun e => e.status.isSome)
    if us.any (failedIn s) then sweep false us else sweep true (us.takeWhile (confirmableIn s))
    pumpAll

/-- TENTATIVE_BOUND_EXPIRY: the bound of R45 has come for a block or a write whose ACK has not, or an input of which is still tentative:
it is retracted, and the member's checks on the tense have failed (R45, R373, R374; log entry 24). While checks of the member are not
complete it sends neither. -/
def execTentativeBoundExpiry (j : Nat) (serial : BitVec 32) (s : State) : Host.Outcome State Fault Refusal := .next <| run s do
  match (unsettledIn s j).find? (fun e => e.serial == serial.toNat) with
  | some e =>
    if e.status.isNone || (!proofsIn s j && !confirmableIn s e) then
      recordConj j 1 (e.status.getD Status.timeout)
      jobFaultD j
      if e.isBlock then settleBlock false e
      else sweep false ((sweepable (unsettledIn s j) e.dst).filter (fun x => decide (x.serial ≤ e.serial)))
      pumpAll
  | none => return ()

end Sys2Proof.Machine
end

