-- ==== Sys2Proof/Machine/Commands.lean ====
section
/-! DEFINITION. Commands of the submission queues: which is taken (R473, R474), its form (R467, R470), and what it does (R468 to
R472, R226). -/

namespace Sys2Proof.Machine

open Sys2Proof

variable {s0 : State}

/-! The commands of jobs. -/

/-- Whether commands are served: the module is READY and the queue exists. -/
def servesIn (s : State) (q : Nat) : Bool := phaseIn s == 4 && decide (q < 64)

/-- A JOB command with its payload. -/
def jobOrderOf (q cid : Nat) (payload : List Byte) : M s0 Unit := do
  let status ← jobStart q payload
  complete q cid 1 status 0 (fieldAt payload 0 2)

/-- An ADVANCE command. -/
def advanceOf (q cid job arg : Nat) : M s0 Unit := do
  let status ← jobAdvance job arg
  complete q cid 1 status 0 job

/-- An END command. -/
def endOf (q cid job : Nat) : M s0 Unit := do
  let status ← jobEnd job
  complete q cid 1 status 0 job

def execJobOrder (q : Nat) (cid : BitVec 16) (payload : List Byte) (s : State) : Host.Outcome State Fault Refusal :=
  .next <| run s do
  if servesIn s q then
    jobOrderOf q cid.toNat payload
    pumpAll

def execAdvance (q : Nat) (cid job : BitVec 16) (arg : BitVec 32) (s : State) : Host.Outcome State Fault Refusal :=
  .next <| run s do
  if servesIn s q then
    advanceOf q cid.toNat job.toNat arg.toNat
    pumpAll

def execEndJob (q : Nat) (cid job : BitVec 16) (s : State) : Host.Outcome State Fault Refusal := .next <| run s do
  if servesIn s q then
    endOf q cid.toNat job.toNat
    pumpAll

/-! Control commands as they lie in a ring (R467). -/

/-- Whether a command's reserved and unused fields are zero and its source is aligned. -/
def formOk (e : List Byte) : Bool :=
  let op := fieldAt e 0 1
  let payload := op == 1 || op == 2 || op == 4 || op == 6
  zeros e 18 2 && zeros e 24 40 && decide (fieldAt e 1 1 ≤ 1) &&
  (if payload then fieldAt e 8 8 % 64 == 0 && zeros e 16 2 else zeros e 1 1 && zeros e 4 12) &&
  (if op = 1 then decide (fieldAt e 20 4 ≤ 1) else if op = 3 then fieldAt e 20 4 != 0 else zeros e 20 4)

/-- The payload of a command, in host memory or at a global address on this module (R467): none where it could not be read. -/
def payloadOf (e : List Byte) (host : HostRead) : M s0 (Option (List Byte)) := do
  let n := fieldAt e 4 4
  if fieldAt e 1 1 = 1 then
    let (status, d) ← hostFetch (fieldAt e 8 8) n host
    return if status = 0 then some d else none
  else
    match ← localOffset (fieldAt e 8 8) with
    | none => return none
    | some o =>
      match ← attempt (rdMem o n) with
      | .ok (0, d) => return some d
      | _ => return none

/-- Run a control command. A load that the mood refuses completes with MOOD, one whose payload could not be read with SOURCE, another that
fails with FAILED and the load's own code (R470, R514). -/
def controlCommand (q : Nat) (e : List Byte) (host : HostRead) : M s0 Unit := do
  let op := fieldAt e 0 1
  let cid := fieldAt e 2 2
  let job := fieldAt e 16 2
  let refuse (status : Nat) : M s0 Unit := complete q cid 1 status
  if op = 0 ∨ 6 < op then refuse Cmd.opcode
  else if !formOk e then refuse Cmd.format
  else if op = 1 then
    match ← startLoad (.queue q (BitVec.ofNat 16 cid) (fieldAt e 8 8) (fieldAt e 4 4) (fieldAt e 1 1 == 1)) (fieldAt e 20 4 == 1)
        (fieldAt e 4 4) with
    | some x => if x = AqErr.mood then refuse Cmd.mood else complete q cid 1 Cmd.failed x
    | none => complete q cid 0 Cmd.ok
  else if op = 3 then advanceOf q cid job (fieldAt e 20 4)
  else if op = 5 then endOf q cid job
  else if op = 6 then
    let asleep := fieldAt e 1 1 ≠ 1 ∧ 3 ≤ (← getF R.DEV_MOOD_POWER)
    let code ← dictLoad (if asleep then return none else payloadOf e host)
    let (status, detail) := dictStatus code
    complete q cid 1 status detail
  else
    match ← payloadOf e host with
    | none => refuse Cmd.source
    | some p =>
      if op = 2 then jobOrderOf q cid p
      else
        let (status, detail) ← orderRun p
        complete q cid 1 status detail (fieldAt p 4 2)

/-- A command of a KV queue (R226, R228): the engine runs it, and the entry carries its completion word. -/
def kvQueueCommand (q : Nat) (e : List Byte) : M s0 Unit := do
  kvCommand e (.queue q (fieldAt e 2 2))

/-- Whether a submission queue has an entry to be taken. -/
def waitingIn (s : State) (q : Nat) : Bool :=
  fieldIn s R.HOST_SQA_EN q 0 == 1 && fieldIn s R.HOST_SQA_STATE q 0 == 1 && fieldIn s R.HOST_SQB_HEAD q 0 != fieldIn s R.HOST_SQB_TAIL q 0

/-- Whether the completion queue a submission queue is bound to has no room. -/
def noRoomIn (s : State) (q : Nat) : Bool :=
  let c := fieldIn s R.HOST_SQA_CQ q 0
  fieldIn s R.HOST_CQB_EN c 0 == 1 && (cqFullIn s c || s.pcie.waiting.any (fun w => w.1 == c))

/-- The queues in the order of this turn. -/
def turnOrder (s : State) : List Nat := (List.range 64).map (fun i => (s.pcie.turn + i) % 64)

/-- The waits for room met before the queue that is served, each of them counted (R473). -/
def countFull : List Nat → M s0 (Option Nat)
  | [] => return none
  | q :: qs => do
    let s ← st
    if waitingIn s q then
      if noRoomIn s q then
        countSat R.HOST_CNT_CQFULL
        countFull qs
      else return some q
    else countFull qs

/-- COMMAND_TAKE: the next command, queue by queue in ascending order, one of each in its turn. A doorbell is a release of the
host's writes before it, so none is taken while one of those is on its way (R327). -/
def execCommandTake (payload : HostRead) (s : State) : Host.Outcome State Fault Refusal := .next <| run s do
  if phaseIn s = 4 ∧ !hostWriteOut s ∧ s.pcie.host.all (fun x => x.data.isNone) then
    match ← countFull (turnOrder s) with
    | none => return ()
    | some q =>
      let h := fieldIn s R.HOST_SQB_HEAD q 0
      let (status, e) ← rdGddr (fieldIn s R.HOST_SQA_BASE q 0 / 4096 * 4096 + 64 * h) 64
      eff (.pcie { (← st).pcie with turn := (q + 1) % 64 })
      if status ≠ 0 then
        setF R.HOST_SQA_STATE 2 q
        setF R.HOST_SQB_ERR 2 q
      else
        setF R.HOST_SQB_HEAD ((h + 1) % 2 ^ fieldIn s R.HOST_SQA_SIZE q 0) q
        if fieldIn s R.HOST_SQA_KIND q 0 = 1 then kvQueueCommand q e else controlCommand q e payload
        pumpAll

end Sys2Proof.Machine
end

