-- ==== Sys2Proof/Machine/Mgt.lean ====
section
/-! DEFINITION. The management port (R531 to R536): addresses, MCTP control, PLDM, the vendor commands, and fabric time; and the
orders for held jobs (R402). -/

namespace Sys2Proof.Machine

open Sys2Proof

variable {s0 : State}

/-! Addresses (R531). -/

/-- The provisioned ID: the maker's ID in bits [47:33], 0 in bit 32, the part ID, and the low bits of the fingerprint. -/
def provisionedId (s : State) : Nat :=
  Config.mipiId.toNat * 2 ^ 33 + 0x0009 * 2 ^ 16 + fieldIn s R.SEC_FPRINT_FPRINT 0 0 % 2 ^ 16

/-- ENTDAA: the port answers with its provisioned ID and takes a dynamic address. -/
def execEntdaa (daddr : BitVec 7) (s : State) : Host.Outcome State Fault Refusal := .next <| run s do
  if portUpIn s then
    emit (.provisioned (provisionedId s))
    setF R.MGT_STATUS_DADDR daddr.toNat

/-- SETDASA: only the static address 0x30 is the port's. -/
def execSetdasa (static daddr : BitVec 7) (s : State) : Host.Outcome State Fault Refusal := .next <| run s do
  if portUpIn s ∧ static = 0x30 then setF R.MGT_STATUS_DADDR daddr.toNat

/-- TARGET_RESET: unit 113 only is reset. -/
def execTargetReset (s : State) : Host.Outcome State Fault Refusal := .next <| run s do
  if s.pins.pwrgd ∧ s.pwr.conversion then
    countSat R.MGT_CNT_RESETS
    beginReset 4 113 10

/-! MCTP control and PLDM (R532, R533). -/

/-- MCTP_CONTROL: command 0x01 sets the endpoint ID, in the second byte of its argument; every command is answered. -/
def execMctpControl (cmd : Byte) (arg : List Byte) (s : State) : Host.Outcome State Fault Refusal := .next <| run s do
  if portUpIn s then
    countWrap R.MGT_CNT_MESSAGES
    if cmd = 0x01 then setF R.MGT_STATUS_EID (fieldAt arg 1 1)
    emit (.message .mctp (Config.standardReply Std.mctpControl (leBytes 1 (← getF R.MGT_STATUS_EID)) (cmd :: arg)))

/-- The readings of the numeric sensors, in the order of their table (R533). -/
def sensorReadings (s : State) : List (Nat × Nat) :=
  [(1, fieldIn s R.PWR_INPUT_VIN 0 0), (2, fieldIn s R.PWR_INPUT_IIN 0 0), (3, fieldIn s R.PWR_INPUT_PIN 0 0),
   (4, fieldIn s R.PWR_INPUT_V5 0 0)] ++
  (List.range 8).map (fun f => (16 + f, fieldIn s R.PWR_VREQ_TJ f 0)) ++
  (List.range 8).map (fun f => (32 + f, fieldIn s R.PWR_VREQ_GRANT f 0)) ++
  (List.range 32).map (fun k => (48 + k,
    wrapN (max (signedN (fieldIn s R.GD_STATUS_TEMP0 k 0) 8) (signedN (fieldIn s R.GD_STATUS_TEMP1 k 0) 8)) 8))

/-- What PLDM reports on: every sensor's number and reading, and the certificate chain with the order code, stepping and
serial number. -/
def pldmState (s : State) : List Byte := (sensorReadings s).flatMap (fun x => leBytes 1 x.1 ++ leBytes 2 x.2) ++ s.sec.chain

/-- PLDM_REQUEST: answered from PHASE INIT on, ERROR_NOT_READY before. -/
def execPldmRequest (typ : Byte) (arg : List Byte) (s : State) : Host.Outcome State Fault Refusal := .next <| run s do
  if portUpIn s then
    countWrap R.MGT_CNT_MESSAGES
    let reply := if phaseIn s < 3 then Config.standardReply Std.pldmNotReady [] (typ :: arg)
      else Config.standardReply Std.pldm (pldmState s) (typ :: arg)
    emit (.message .mctp reply)

/-! Vendor commands (R534, R535). -/

/-- COORDINATES (R383). The manual gives a rejection no code: a free value. -/
def execCoordinates (bytes : List Byte) (s : State) : Host.Outcome State Fault Refusal := .next <| run s <|
  vendor 0x01 do
    if ← coordinatesOrder bytes then return (Done.ok, 0, [])
    return (Done.refused, (← freeWord).toNat % 256, [])

/-- Whether a span of offsets lies in the module's GDDR7 ranges (R283). -/
def inGddr (s : State) (off n : Nat) : Bool :=
  (List.range ((n + 255) / 256 + 1)).all (fun i =>
    let o := min (off + 256 * i) (off + n - 1)
    decide (windowOf o = .gddr) && (gddrAt (gdBlocksIn s) o).isSome)

/-- MEM_WRITE. A write that was not performed is refused with its status. -/
def execMemWrite (off : Nat) (bytes : List Byte) (s : State) : Host.Outcome State Fault Refusal := .next <| run s <|
  vendor 0x04 do
    if bytes = [] ∨ 4096 < bytes.length ∨ !inGddr (← st) off bytes.length then return (Done.format, 0, [])
    let status ← wrMem off bytes
    return (if status = 0 then Done.ok else Done.refused, status, [])

/-- MEM_READ. -/
def execMemRead (off len : Nat) (s : State) : Host.Outcome State Fault Refusal := .next <| run s <|
  vendor 0x05 do
    if len = 0 ∨ 4096 < len ∨ !inGddr (← st) off len then return (Done.format, 0, [])
    let (status, d) ← rdMem off len
    return if status = 0 then (Done.ok, 0, d) else (Done.refused, status, [])

/-- TIME_SET: a value is armed for the next edge; a later one replaces it (R540). -/
def execTimeSet (t : Word) (s : State) : Host.Outcome State Fault Refusal := .next <| run s <|
  vendor 0x08 do
    eff (.mgt { (← st).mgt with armed := some t })
    setF R.MGT_TIME_ARMED 1
    return (Done.ok, 0, [])

/-- STATUS: eight registers. -/
def execStatus (s : State) : Host.Outcome State Fault Refusal := .next <| run s <|
  vendor 0x09 do
    let s ← st
    let offs := [R.DEV_MOOD_SEC.addr 0 0, R.RST_STATUS_PHASE.addr 0 0, R.PWR_STATE_STATE.addr 0 0, R.PWR_ALERT_WARN.addr 0 0,
      R.CJ_COORD_GROUP.addr 0 0, R.INT_TIME_NS.addr 0 0, R.AQ_STATUS_STATE.addr 0 0, R.INT_LOGD_PTR_HEAD.addr 0 0]
    return (Done.ok, 0, offs.flatMap (fun o => leBytes 8 (regValueIn s o).toNat))

/-! Orders for held jobs (R402, R403). -/

/-- Whether the bytes are an order of another kind. -/
def otherKind (kind : Nat) (p : List Byte) : Bool :=
  decide (0 < p.length) && (fieldAt p 0 1 == 1 || fieldAt p 0 1 == 2) && fieldAt p 0 1 != kind

/-- An order of a kind from a queue, completed there, or from the management port. -/
def heldOrder (kind : Nat) (src : CmdSource) : M s0 Unit := do
  match src with
  | .registers => pure ()
  | .queue q cid p =>
    if phaseIn (← st) = 4 ∧ q < 64 ∧ !otherKind kind p then
      let (status, detail) ← orderRun p
      complete q cid.toNat 1 status detail
  | .management p =>
    if !otherKind kind p then
      vendor 0x02 do
        let (status, _) ← orderRun p
        return (if status = 0 then Done.ok else Done.refused, status, [])

def execReformOrder (src : CmdSource) (s : State) : Host.Outcome State Fault Refusal := .next <| run s (heldOrder 1 src)
def execStandDownOrder (src : CmdSource) (s : State) : Host.Outcome State Fault Refusal := .next <| run s (heldOrder 2 src)

/-! Fabric time (R536). -/

/-- TIME_SET_EXPIRY: 2 s have passed without an edge. -/
def execTimeSetExpiry (s : State) : Host.Outcome State Fault Refusal := .next <| run s do
  if s.mgt.armed.isSome then
    eff (.mgt { s.mgt with armed := none })
    setF R.MGT_TIME_ARMED 0
    setF R.MGT_TIME_EXPIRED 1

/-- The nearest whole second minus a time in ns. -/
def toSecond (now : Nat) : Int :=
  let r := now % 1000000000
  if r < 500000000 then -(r : Int) else 1000000000 - (r : Int)

/-- PPS_EDGE: an armed value becomes the time; a later edge slews it by at most 10 µs, or is counted and ignored. -/
def execPpsEdge (s : State) : Host.Outcome State Fault Refusal := .next <| run s do
  if s.pins.pwrgd ∧ s.pwr.conversion then
    setF R.MGT_STATUS_PPS 1
    let m := { s.mgt with edgeMs := s.ms }
    match s.mgt.armed with
    | some t =>
      eff (.mgt { m with time := t.toNat * 781250, armed := none, slewCycles := 0, slewNs := 0 })
      setF R.MGT_TIME_SET 1
      setF R.MGT_TIME_ARMED 0
    | none =>
      if fieldIn s R.MGT_TIME_SET 0 0 = 0 then eff (.mgt m)
      else
        let d := toSecond (fabricNsIn s)
        setF R.MGT_TIME_LASTD (wrapN d 32)
        if d.natAbs ≤ 10000 then eff (.mgt { m with slewCycles := 156250, slewNs := d })
        else
          eff (.mgt m)
          countSat R.MGT_TIME_BADPPS

end Sys2Proof.Machine
end

