-- ==== Sys2Proof/Machine/Dispatch.lean ====
section
/-! DEFINITION. The meaning of every command: one call each. -/

namespace Sys2Proof.Machine

open Sys2Proof

/-- What a command does to everything but the queue. -/
def exec (i : Instr) (s : State) : Host.Outcome State Fault Refusal :=
  match i with
  | .nop core slot => Sys2Proof.Machine.execNop core slot s
  | .sentenceIssue core => Sys2Proof.Machine.execSentenceIssue core s
  | .contextSwitch core => Sys2Proof.Machine.execContextSwitch core s
  | .contextDone core => Sys2Proof.Machine.execContextDone core s
  | .add core u f => Sys2Proof.Machine.execAdd core u f s
  | .sub core u f => Sys2Proof.Machine.execSub core u f s
  | .mul core u f => Sys2Proof.Machine.execMul core u f s
  | .mulhs core u f => Sys2Proof.Machine.execMulhs core u f s
  | .mulhu core u f => Sys2Proof.Machine.execMulhu core u f s
  | .divs core u f => Sys2Proof.Machine.execDivs core u f s
  | .divu core u f => Sys2Proof.Machine.execDivu core u f s
  | .rems core u f => Sys2Proof.Machine.execRems core u f s
  | .remu core u f => Sys2Proof.Machine.execRemu core u f s
  | .andOp core u f => Sys2Proof.Machine.execAnd core u f s
  | .orOp core u f => Sys2Proof.Machine.execOr core u f s
  | .xorOp core u f => Sys2Proof.Machine.execXor core u f s
  | .shl core u f => Sys2Proof.Machine.execShl core u f s
  | .shr core u f => Sys2Proof.Machine.execShr core u f s
  | .sar core u f => Sys2Proof.Machine.execSar core u f s
  | .rotl core u f => Sys2Proof.Machine.execRotl core u f s
  | .mins core u f => Sys2Proof.Machine.execMins core u f s
  | .maxs core u f => Sys2Proof.Machine.execMaxs core u f s
  | .minu core u f => Sys2Proof.Machine.execMinu core u f s
  | .maxu core u f => Sys2Proof.Machine.execMaxu core u f s
  | .clz core u f => Sys2Proof.Machine.execClz core u f s
  | .popc core u f => Sys2Proof.Machine.execPopc core u f s
  | .sel core u f => Sys2Proof.Machine.execSel core u f s
  | .li core u f => Sys2Proof.Machine.execLi core u f s
  | .lih core u f => Sys2Proof.Machine.execLih core u f s
  | .cmpeq core u f => Sys2Proof.Machine.execCmpeq core u f s
  | .cmpne core u f => Sys2Proof.Machine.execCmpne core u f s
  | .cmplts core u f => Sys2Proof.Machine.execCmplts core u f s
  | .cmpltu core u f => Sys2Proof.Machine.execCmpltu core u f s
  | .cmples core u f => Sys2Proof.Machine.execCmples core u f s
  | .cmpleu core u f => Sys2Proof.Machine.execCmpleu core u f s
  | .fadd core u f => Sys2Proof.Machine.execFadd core u f s
  | .fsub core u f => Sys2Proof.Machine.execFsub core u f s
  | .fmul core u f => Sys2Proof.Machine.execFmul core u f s
  | .fmin core u f => Sys2Proof.Machine.execFmin core u f s
  | .fmax core u f => Sys2Proof.Machine.execFmax core u f s
  | .fcmplt core u f => Sys2Proof.Machine.execFcmplt core u f s
  | .fcmpeq core u f => Sys2Proof.Machine.execFcmpeq core u f s
  | .fcvti core u f => Sys2Proof.Machine.execFcvti core u f s
  | .fcvtf core u f => Sys2Proof.Machine.execFcvtf core u f s
  | .rdspec core u f => Sys2Proof.Machine.execRdspec core u f s
  | .ld core f => Sys2Proof.Machine.execLd core f s
  | .lds core f => Sys2Proof.Machine.execLds core f s
  | .st core f => Sys2Proof.Machine.execSt core f s
  | .ldv core f => Sys2Proof.Machine.execLdv core f s
  | .stv core f => Sys2Proof.Machine.execStv core f s
  | .ldvr core f => Sys2Proof.Machine.execLdvr core f s
  | .ldvc core f => Sys2Proof.Machine.execLdvc core f s
  | .lda core f => Sys2Proof.Machine.execLda core f s
  | .sta core f => Sys2Proof.Machine.execSta core f s
  | .aadd core f => Sys2Proof.Machine.execAadd core f s
  | .afroms core f => Sys2Proof.Machine.execAfroms core f s
  | .atos core f => Sys2Proof.Machine.execAtos core f s
  | .atAdd core f => Sys2Proof.Machine.execAtAdd core f s
  | .atSwap core f => Sys2Proof.Machine.execAtSwap core f s
  | .atCas core f => Sys2Proof.Machine.execAtCas core f s
  | .atMins core f => Sys2Proof.Machine.execAtMins core f s
  | .atMaxs core f => Sys2Proof.Machine.execAtMaxs core f s
  | .atMinu core f => Sys2Proof.Machine.execAtMinu core f s
  | .atMaxu core f => Sys2Proof.Machine.execAtMaxu core f s
  | .dma core f => Sys2Proof.Machine.execDma core f s
  | .dmaTransferComplete core ch => Sys2Proof.Machine.execDmaTransferComplete core ch s
  | .vaddi core u f => Sys2Proof.Machine.execVaddi core u f s
  | .vsubi core u f => Sys2Proof.Machine.execVsubi core u f s
  | .vmuli core u f => Sys2Proof.Machine.execVmuli core u f s
  | .vand core u f => Sys2Proof.Machine.execVand core u f s
  | .vor core u f => Sys2Proof.Machine.execVor core u f s
  | .vxor core u f => Sys2Proof.Machine.execVxor core u f s
  | .vshl core u f => Sys2Proof.Machine.execVshl core u f s
  | .vshr core u f => Sys2Proof.Machine.execVshr core u f s
  | .vsar core u f => Sys2Proof.Machine.execVsar core u f s
  | .vmini core u f => Sys2Proof.Machine.execVmini core u f s
  | .vmaxi core u f => Sys2Proof.Machine.execVmaxi core u f s
  | .vaddf core u f => Sys2Proof.Machine.execVaddf core u f s
  | .vsubf core u f => Sys2Proof.Machine.execVsubf core u f s
  | .vmulf core u f => Sys2Proof.Machine.execVmulf core u f s
  | .vfma core u f => Sys2Proof.Machine.execVfma core u f s
  | .vminf core u f => Sys2Proof.Machine.execVminf core u f s
  | .vmaxf core u f => Sys2Proof.Machine.execVmaxf core u f s
  | .vcmpeqi core u f => Sys2Proof.Machine.execVcmpeqi core u f s
  | .vcmplti core u f => Sys2Proof.Machine.execVcmplti core u f s
  | .vcmplei core u f => Sys2Proof.Machine.execVcmplei core u f s
  | .vcmpeqf core u f => Sys2Proof.Machine.execVcmpeqf core u f s
  | .vcmpltf core u f => Sys2Proof.Machine.execVcmpltf core u f s
  | .vcmplef core u f => Sys2Proof.Machine.execVcmplef core u f s
  | .vsel core u f => Sys2Proof.Machine.execVsel core u f s
  | .vbcast core u f => Sys2Proof.Machine.execVbcast core u f s
  | .vperm core u f => Sys2Proof.Machine.execVperm core u f s
  | .vredaddf core u f => Sys2Proof.Machine.execVredaddf core u f s
  | .vredaddi core u f => Sys2Proof.Machine.execVredaddi core u f s
  | .vredmaxf core u f => Sys2Proof.Machine.execVredmaxf core u f s
  | .vexp core u f => Sys2Proof.Machine.execVexp core u f s
  | .vrcp core u f => Sys2Proof.Machine.execVrcp core u f s
  | .vrsqrt core u f => Sys2Proof.Machine.execVrsqrt core u f s
  | .vlog2 core u f => Sys2Proof.Machine.execVlog2 core u f s
  | .vcvt core u f => Sys2Proof.Machine.execVcvt core u f s
  | .vext core u f => Sys2Proof.Machine.execVext core u f s
  | .vins core u f => Sys2Proof.Machine.execVins core u f s
  | .mldr core f => Sys2Proof.Machine.execMldr core f s
  | .mldsp core f => Sys2Proof.Machine.execMldsp core f s
  | .mswap core f => Sys2Proof.Machine.execMswap core f s
  | .mstr core f => Sys2Proof.Machine.execMstr core f s
  | .mstrsp core f => Sys2Proof.Machine.execMstrsp core f s
  | .mdrn core f => Sys2Proof.Machine.execMdrn core f s
  | .mdrnsp core f => Sys2Proof.Machine.execMdrnsp core f s
  | .mew core f => Sys2Proof.Machine.execMew core f s
  | .joinReduce core => Sys2Proof.Machine.execJoinReduce core s
  | .rampDown core => Sys2Proof.Machine.execRampDown core s
  | .br core f => Sys2Proof.Machine.execBr core f s
  | .bri core f => Sys2Proof.Machine.execBri core f s
  | .call core f => Sys2Proof.Machine.execCall core f s
  | .loopOp core f => Sys2Proof.Machine.execLoop core f s
  | .fenceRel core f => Sys2Proof.Machine.execFenceRel core f s
  | .fenceAcq core f => Sys2Proof.Machine.execFenceAcq core f s
  | .fenceAr core f => Sys2Proof.Machine.execFenceAr core f s
  | .bar core f => Sys2Proof.Machine.execBar core f s
  | .cjwait core f => Sys2Proof.Machine.execCjwait core f s
  | .dmawait core f => Sys2Proof.Machine.execDmawait core f s
  | .yieldOp core f => Sys2Proof.Machine.execYield core f s
  | .trap core f => Sys2Proof.Machine.execTrap core f s
  | .proofCompare field original checker => Sys2Proof.Machine.execProofCompare field original checker s
  | .proofLate field => Sys2Proof.Machine.execProofLate field s
  | .attCmdWrite core by' k v => Sys2Proof.Machine.execAttCmdWrite core by' k v s
  | .forwardPass core => Sys2Proof.Machine.execForwardPass core s
  | .backwardPass core => Sys2Proof.Machine.execBackwardPass core s
  | .attentionComplete core => Sys2Proof.Machine.execAttentionComplete core s
  | .kvCmdWrite core by' k v => Sys2Proof.Machine.execKvCmdWrite core by' k v s
  | .openSeq cmd => Sys2Proof.Machine.execOpenSeq cmd s
  | .grow cmd => Sys2Proof.Machine.execGrow cmd s
  | .exclude cmd => Sys2Proof.Machine.execExclude cmd s
  | .closeSeq cmd => Sys2Proof.Machine.execCloseSeq cmd s
  | .tenseOpen j => Sys2Proof.Machine.execTenseOpen j s
  | .spillComplete seq row outcome => Sys2Proof.Machine.execSpillComplete seq row outcome s
  | .fetchComplete seq row outcome pages => Sys2Proof.Machine.execFetchComplete seq row outcome pages s
  | .fetchRetry seq row => Sys2Proof.Machine.execFetchRetry seq row s
  | .tenseRelease j => Sys2Proof.Machine.execTenseRelease j s
  | .memberVote j => Sys2Proof.Machine.execMemberVote j s
  | .stepHoldTimeout j => Sys2Proof.Machine.execStepHoldTimeout j s
  | .tentativeBoundExpiry j serial => Sys2Proof.Machine.execTentativeBoundExpiry j serial s
  | .vote lane p => Sys2Proof.Machine.execVote lane p s
  | .decideMsg lane p => Sys2Proof.Machine.execDecideMsg lane p s
  | .mapup lane p => Sys2Proof.Machine.execMapup lane p s
  | .mapdown lane p => Sys2Proof.Machine.execMapdown lane p s
  | .arrive lane p => Sys2Proof.Machine.execArrive lane p s
  | .release lane p => Sys2Proof.Machine.execRelease lane p s
  | .joinMsg lane p => Sys2Proof.Machine.execJoinMsg lane p s
  | .start lane p => Sys2Proof.Machine.execStart lane p s
  | .holdMsg lane p => Sys2Proof.Machine.execHoldMsg lane p s
  | .peerReset lane p => Sys2Proof.Machine.execPeerReset lane p s
  | .reformOrder src => Sys2Proof.Machine.execReformOrder src s
  | .standDownOrder src => Sys2Proof.Machine.execStandDownOrder src s
  | .fullLoad host => Sys2Proof.Machine.execFullLoad host s
  | .partialLoad host => Sys2Proof.Machine.execPartialLoad host s
  | .loadComplete => Sys2Proof.Machine.execLoadComplete s
  | .spCorrectionWriteBack core word => Sys2Proof.Machine.execSpCorrectionWriteBack core word s
  | .spPatrolVisit core => Sys2Proof.Machine.execSpPatrolVisit core s
  | .arbitrationPromotion core group waited => Sys2Proof.Machine.execArbitrationPromotion core group waited s
  | .spInjectArm core v => Sys2Proof.Machine.execSpInjectArm core v s
  | .blockRead k block f => Sys2Proof.Machine.execBlockRead k block f s
  | .blockWrite k block off bytes f => Sys2Proof.Machine.execBlockWrite k block off bytes f s
  | .gdCorrectionWriteBack k block => Sys2Proof.Machine.execGdCorrectionWriteBack k block s
  | .writeCrcReplay k block unit accepted => Sys2Proof.Machine.execWriteCrcReplay k block unit accepted s
  | .channelRetrain k block unit replaysFail => Sys2Proof.Machine.execChannelRetrain k block unit replaysFail s
  | .gdPatrolVisit k f => Sys2Proof.Machine.execGdPatrolVisit k f s
  | .gdTemperatureRead k t0 t1 => Sys2Proof.Machine.execGdTemperatureRead k t0 t1 s
  | .refresh k => Sys2Proof.Machine.execRefresh k s
  | .remapWrite k idx v => Sys2Proof.Machine.execRemapWrite k idx v s
  | .remapCopyComplete k idx => Sys2Proof.Machine.execRemapCopyComplete k idx s
  | .gdInjectArm k v => Sys2Proof.Machine.execGdInjectArm k v s
  | .rangeEnable idx v => Sys2Proof.Machine.execRangeEnable idx v s
  | .rangeReady idx => Sys2Proof.Machine.execRangeReady idx s
  | .rangeDisable idx v => Sys2Proof.Machine.execRangeDisable idx v s
  | .blockDecode k block => Sys2Proof.Machine.execBlockDecode k block s
  | .blockEncode k block bytes => Sys2Proof.Machine.execBlockEncode k block bytes s
  | .tableLoad v => Sys2Proof.Machine.execTableLoad v s
  | .tableInstall => Sys2Proof.Machine.execTableInstall s
  | .tableLoadTimeout => Sys2Proof.Machine.execTableLoadTimeout s
  | .fullTraining lane rxinv => Sys2Proof.Machine.execFullTraining lane rxinv s
  | .fastRetrain lane rxinv => Sys2Proof.Machine.execFastRetrain lane rxinv s
  | .trainingStepTimeout lane => Sys2Proof.Machine.execTrainingStepTimeout lane s
  | .identity lane id => Sys2Proof.Machine.execIdentity lane id s
  | .flitReceive lane rx => Sys2Proof.Machine.execFlitReceive lane rx s
  | .nakRepeat lane => Sys2Proof.Machine.execNakRepeat lane s
  | .ackTimer lane => Sys2Proof.Machine.execAckTimer lane s
  | .recovery lane lost lastSeq => Sys2Proof.Machine.execRecovery lane lost lastSeq s
  | .laneLossTimeout lane => Sys2Proof.Machine.execLaneLossTimeout lane s
  | .resetNotice lane chip inc => Sys2Proof.Machine.execResetNotice lane chip inc s
  | .fecrateCheck lane => Sys2Proof.Machine.execFecrateCheck lane s
  | .packetForward lane p => Sys2Proof.Machine.execPacketForward lane p s
  | .rd lane p => Sys2Proof.Machine.execRd lane p s
  | .wr lane p => Sys2Proof.Machine.execWr lane p s
  | .pwr lane p => Sys2Proof.Machine.execPwr lane p s
  | .atReq lane p => Sys2Proof.Machine.execAtReq lane p s
  | .seg lane p => Sys2Proof.Machine.execSeg lane p s
  | .conf lane p => Sys2Proof.Machine.execConf lane p s
  | .retr lane p => Sys2Proof.Machine.execRetr lane p s
  | .rdr lane p => Sys2Proof.Machine.execRdr lane p s
  | .ack lane p => Sys2Proof.Machine.execAck lane p s
  | .atr lane p => Sys2Proof.Machine.execAtr lane p s
  | .sweepSend j chip => Sys2Proof.Machine.execSweepSend j chip s
  | .transactionTimeout tag => Sys2Proof.Machine.execTransactionTimeout tag s
  | .retrainWrite lane => Sys2Proof.Machine.execRetrainWrite lane s
  | .reviveWrite lane => Sys2Proof.Machine.execReviveWrite lane s
  | .coordinates bytes => Sys2Proof.Machine.execCoordinates bytes s
  | .faultInterrupt => Sys2Proof.Machine.execFaultInterrupt s
  | .dRingEnable v => Sys2Proof.Machine.execDRingEnable v s
  | .dictationLoad src => Sys2Proof.Machine.execDictationLoad src s
  | .cancel v => Sys2Proof.Machine.execCancel v s
  | .dictationPass slot test unit failing corrected => Sys2Proof.Machine.execDictationPass slot test unit failing corrected s
  | .dictationAbandon slot test unit => Sys2Proof.Machine.execDictationAbandon slot test unit s
  | .mxInjectArm v => Sys2Proof.Machine.execMxInjectArm v s
  | .coreReset core source => Sys2Proof.Machine.execCoreReset core source s
  | .clauseReset clause source => Sys2Proof.Machine.execClauseReset clause source s
  | .controlComplexReset source => Sys2Proof.Machine.execControlComplexReset source s
  | .baseDieIoReset unit source cause => Sys2Proof.Machine.execBaseDieIoReset unit source cause s
  | .computeDieReset die source => Sys2Proof.Machine.execComputeDieReset die source s
  | .warmModuleReset source => Sys2Proof.Machine.execWarmModuleReset source s
  | .powerOnReset => Sys2Proof.Machine.execPowerOnReset s
  | .resetComplete domain target => Sys2Proof.Machine.execResetComplete domain target s
  | .heartbeat by' v => Sys2Proof.Machine.execHeartbeat by' v s
  | .heartbeatPeriod => Sys2Proof.Machine.execHeartbeatPeriod s
  | .firstHeartbeatTimeout => Sys2Proof.Machine.execFirstHeartbeatTimeout s
  | .coreHangCheck core => Sys2Proof.Machine.execCoreHangCheck core s
  | .coreRetirement pcore => Sys2Proof.Machine.execCoreRetirement pcore s
  | .firmwareStart host => Sys2Proof.Machine.execFirmwareStart host s
  | .firmwareAccepted usable trained => Sys2Proof.Machine.execFirmwareAccepted usable trained s
  | .sqDoorbell q v => Sys2Proof.Machine.execSqDoorbell q v s
  | .cqDoorbell q v => Sys2Proof.Machine.execCqDoorbell q v s
  | .commandTake payload => Sys2Proof.Machine.execCommandTake payload s
  | .jobOrder q cid payload => Sys2Proof.Machine.execJobOrder q cid payload s
  | .advance q cid job arg => Sys2Proof.Machine.execAdvance q cid job arg s
  | .endJob q cid job => Sys2Proof.Machine.execEndJob q cid job s
  | .hostBar2Read off size => Sys2Proof.Machine.execHostBar2Read off size s
  | .hostBar2Write off bytes => Sys2Proof.Machine.execHostBar2Write off bytes s
  | .registerWrite by' off size v => Sys2Proof.Machine.execRegisterWrite by' off size v s
  | .linkTraining lanesOk speed => Sys2Proof.Machine.execLinkTraining lanesOk speed s
  | .perst => Sys2Proof.Machine.execPerst s
  | .functionLevelReset => Sys2Proof.Machine.execFunctionLevelReset s
  | .hotReset => Sys2Proof.Machine.execHotReset s
  | .linkDisable => Sys2Proof.Machine.execLinkDisable s
  | .surpriseLinkDown => Sys2Proof.Machine.execSurpriseLinkDown s
  | .doeObject bytes => Sys2Proof.Machine.execDoeObject bytes s
  | .warningEntered vin => Sys2Proof.Machine.execWarningEntered vin s
  | .warningCleared durationUs => Sys2Proof.Machine.execWarningCleared durationUs s
  | .inputBelowReset => Sys2Proof.Machine.execInputBelowReset s
  | .railOutOfRegulation mv => Sys2Proof.Machine.execRailOutOfRegulation mv s
  | .cappingTick power vin => Sys2Proof.Machine.execCappingTick power vin s
  | .fastCurrentLimit => Sys2Proof.Machine.execFastCurrentLimit s
  | .thermalTick temps => Sys2Proof.Machine.execThermalTick temps s
  | .thermtrip => Sys2Proof.Machine.execThermtrip s
  | .sensorSample x => Sys2Proof.Machine.execSensorSample x s
  | .toP0 => Sys2Proof.Machine.execToP0 s
  | .toP2 => Sys2Proof.Machine.execToP2 s
  | .toP3 => Sys2Proof.Machine.execToP3 s
  | .vreqWrite f v => Sys2Proof.Machine.execVreqWrite f v s
  | .repairUnlock src => Sys2Proof.Machine.execRepairUnlock src s
  | .repairLock src => Sys2Proof.Machine.execRepairLock src s
  | .installerKey src => Sys2Proof.Machine.execInstallerKey src s
  | .certificate src => Sys2Proof.Machine.execCertificate src s
  | .operatorKey src => Sys2Proof.Machine.execOperatorKey src s
  | .powerCap src => Sys2Proof.Machine.execPowerCap src s
  | .site src => Sys2Proof.Machine.execSite src s
  | .seal src => Sys2Proof.Machine.execSeal src s
  | .unseal src => Sys2Proof.Machine.execUnseal src s
  | .debug src => Sys2Proof.Machine.execDebug src s
  | .grant src => Sys2Proof.Machine.execGrant src s
  | .grantEnd => Sys2Proof.Machine.execGrantEnd s
  | .halt core v => Sys2Proof.Machine.execHalt core v s
  | .haltStep core => Sys2Proof.Machine.execHaltStep core s
  | .logCopy v => Sys2Proof.Machine.execLogCopy v s
  | .logRetry flashOk => Sys2Proof.Machine.execLogRetry flashOk s
  | .getVersion t req => Sys2Proof.Machine.execGetVersion t req s
  | .getCapabilities t req => Sys2Proof.Machine.execGetCapabilities t req s
  | .negotiateAlgorithms t req => Sys2Proof.Machine.execNegotiateAlgorithms t req s
  | .getDigests t req => Sys2Proof.Machine.execGetDigests t req s
  | .getCertificate t req => Sys2Proof.Machine.execGetCertificate t req s
  | .challenge t req => Sys2Proof.Machine.execChallenge t req s
  | .getMeasurements t req => Sys2Proof.Machine.execGetMeasurements t req s
  | .entdaa daddr => Sys2Proof.Machine.execEntdaa daddr s
  | .setdasa static daddr => Sys2Proof.Machine.execSetdasa static daddr s
  | .targetReset => Sys2Proof.Machine.execTargetReset s
  | .mctpControl cmd arg => Sys2Proof.Machine.execMctpControl cmd arg s
  | .pldmRequest typ arg => Sys2Proof.Machine.execPldmRequest typ arg s
  | .memWrite off bytes => Sys2Proof.Machine.execMemWrite off bytes s
  | .memRead off len => Sys2Proof.Machine.execMemRead off len s
  | .timeSet t => Sys2Proof.Machine.execTimeSet t s
  | .timeSetExpiry => Sys2Proof.Machine.execTimeSetExpiry s
  | .status => Sys2Proof.Machine.execStatus s
  | .ppsEdge => Sys2Proof.Machine.execPpsEdge s
  | .pwrgdAssert vin pattern => Sys2Proof.Machine.execPwrgdAssert vin pattern s
  | .pwrgdDeassert => Sys2Proof.Machine.execPwrgdDeassert s
  | .registerRead by' off size => Sys2Proof.Machine.execRegisterRead by' off size s
  | .queueEnable off v => Sys2Proof.Machine.execQueueEnable off v s
  | .msixTableWrite off size v => Sys2Proof.Machine.execMsixTableWrite off size v s
  | .configurationWrite item value => Sys2Proof.Machine.execConfigurationWrite item value s
  | .perstRelease => Sys2Proof.Machine.execPerstRelease s
  | .vinReaches39v pattern => Sys2Proof.Machine.execVinReaches39v pattern s

end Sys2Proof.Machine
end

