-- ==== Sys2Proof/Machine/Idle.lean ====
section
/-! DEFINITION. What the module does when no command waits: one cycle of the fabric reference clock (R531, R536), in which the
lanes send what they can, and the module's own writes that waited at a port, the host's accesses, the compression engines' queues and the KV engine go on (log entry 2). -/

namespace Sys2Proof.Machine

open Sys2Proof

variable {s0 : State}

/-- Fabric time after one reference cycle, in units of 1/781,250 ns: 6.4 ns, and the part of a slew that falls in it. -/
def timeAfter (m : Mgt) : Nat :=
  if m.slewCycles = 0 then m.time + 5000000 else ((m.time : Int) + 5000000 + 5 * m.slewNs).toNat

/-- One idle cycle. -/
def idleCycle : M s0 Unit := do
  let s ← st
  if fieldIn s R.MGT_TIME_SET 0 0 = 1 then
    eff (.mgt { s.mgt with time := timeAfter s.mgt, slewCycles := s.mgt.slewCycles - 1 })
  let _ ← ifReady serveHeld
  serveHost s.pcie.host.length
  let _ ← ifReady serveQueues
  let _ ← ifReady kvServeAll
  let _ ← ifReady strayPackets
  pumpAll
  returnCredits

/-- The state after an idle cycle. -/
def idle (s : State) : State := run s idleCycle

end Sys2Proof.Machine
end

