-- ==== Sys2Proof/Safety.lean ====
section
/-! DEFINITION. What every step of the module keeps: the canonical form of its tables, and the register of changes, which only
grows. -/

namespace Sys2Proof

open Sys2Proof.Machine

/-- Every table is in its canonical form: keys strictly rising, nothing listed that an unlisted key has. -/
structure Canonical (s : State) : Prop where
  regs : FMap.wf resetValue s.regs = true
  gddr : FMap.wf zeroByte s.gddr = true
  spad : FMap.wf zeroByte s.spad = true
  sregs : FMap.wf zeroWord s.sregs = true
  aregs : FMap.wf zeroWord s.aregs = true
  pregs : FMap.wf zeroPred s.pregs = true
  vregs : FMap.wf zeroLane s.vregs = true
  banks : FMap.wf zeroLane s.banks = true
  rowDescs : FMap.wf rowDesc0 s.rowDescs = true
  accs : FMap.wf zeroAcc s.accs = true
  accRows : FMap.wf accRow0 s.accRows = true
  ctxs : FMap.wf ctx0 s.ctxs = true
  cores : FMap.wf core0 s.cores = true
  dmas : FMap.wf dma0 s.dmas = true
  flagUpds : FMap.wf flagUpd0 s.flagUpds = true
  seqs : FMap.wf seq0 s.seqs = true
  rows : FMap.wf row0 s.rows = true
  frames : FMap.wf zeroNat s.frames = true
  nodes : FMap.wf node0 s.nodes = true
  spillSlots : FMap.wf noSlot s.spillSlots = true
  jobs : FMap.wf job0 s.jobs = true
  lanes : FMap.wf lane0 s.lanes = true
  relTags : FMap.wf noTag s.relTags = true
  gdctls : FMap.wf gdctl0 s.gdctls = true
  spctls : FMap.wf spctl0 s.spctls = true
  dicts : FMap.wf dict0 s.dicts = true
  msix : FMap.wf msix0 s.msix = true

/-- The register of changes of `t` is that of `s` with entries appended: no command rewrites, removes or reorders an entry (R515). -/
def LogGrows (s t : State) : Prop := ∃ more : List (List Byte), t.log = s.log ++ more

end Sys2Proof
end

