-- ==== Sys2Proof/Claims.lean ====
section
/-! DEFINITION. The words the statements are written in: the registers of a core's running context, fields of registers, and states
that differ from another in one of them. -/

namespace Sys2Proof.Machine

open Sys2Proof

/-! The running context of a core (R92). -/

/-- The key of the running context of a core. -/
def here (s : State) (l : Nat) : Nat := ctxKey l (fieldIn s R.CORE_STATUS_SLOT l 0)

/-- A scalar register as it reads: s0 reads as zero. -/
def sOf (s : State) (l r : Nat) : Word := if r = 0 then 0 else FMap.get zeroWord s.sregs (here s l * 64 + r)

/-- An address register. -/
def aOf (s : State) (l r : Nat) : Word := FMap.get zeroWord s.aregs (here s l * 32 + r)

/-- A predicate register as it reads: p0 reads as all ones. -/
def pOf (s : State) (l r : Nat) : BitVec 256 := if r = 0 then BitVec.allOnes 256 else FMap.get zeroPred s.pregs (here s l * 8 + r)

/-- A lane of a vector register. -/
def vOf (s : State) (l r i : Nat) : BitVec 32 := FMap.get zeroLane s.vregs ((here s l * 64 + r) * 256 + i)

/-- The state with a value in a scalar register of the context with a key: a write to s0 is discarded. -/
def withS (s : State) (key r : Nat) (v : Word) : State :=
  if r = 0 then s else { s with sregs := FMap.set zeroWord s.sregs (key * 64 + r) v }

/-- The state with a value in an address register. -/
def withA (s : State) (key r : Nat) (v : Word) : State := { s with aregs := FMap.set zeroWord s.aregs (key * 32 + r) v }

/-- The state with a value in a predicate register: a write to p0 is discarded. -/
def withP (s : State) (key r : Nat) (v : BitVec 256) : State :=
  if r = 0 then s else { s with pregs := FMap.set zeroPred s.pregs (key * 8 + r) v }

/-- The predicate of a scalar, address or sync slot holds: bit 0 of its predicate register, inverted by PNEG. -/
def holds (s : State) (l : Nat) (pred : BitVec 3) (pneg : Bool) : Bool := (pOf s l pred.toNat).getLsbD 0 != pneg

/-- The second operand of a scalar slot (R103). -/
def op2Of (s : State) (l : Nat) (f : ScalarF) : Word := if f.immsel then f.imm.signExtend 64 else sOf s l f.rs2.toNat

/-- The lanes of a vector register from lane 0 on. -/
def vAll (s : State) (l r : Nat) : List (BitVec 32) := lanes (vOf s l r)

/-- The state with values in the lanes of a vector register, lane 0 first. -/
def withV (s : State) (key r : Nat) (v : List (BitVec 32)) : State :=
  { s with vregs := (v.take 256).zipIdx.foldl (fun m x => FMap.set zeroLane m ((key * 64 + r) * 256 + x.2) x.1) s.vregs }

/-- The predicate bits of a vector slot, inverted by PNEG (R108). -/
def maskOf (s : State) (l : Nat) (f : VecF) : BitVec 256 :=
  if f.pneg then ~~~(pOf s l f.pred.toNat) else pOf s l f.pred.toNat

/-- Lane `i` of the second operand of a vector slot: v[VS2], or the immediate in every lane. -/
def vop2Of (s : State) (l : Nat) (f : VecF) (i : Nat) : BitVec 32 := if f.immsel then f.imm else vOf s l f.vs2.toNat i

/-- The random bits of conversion number `j` of a slot of the running context under a format entry (R187); zero where the entry does
not round at random. -/
def roundBits (s : State) (l : Nat) (e : FmtEntry) (j : Nat) : Nat :=
  if e.round = 2 then
    mixBits (seedIn s l e) ((sOf s l 62).toNat / 2 ^ 48) (((sOf s l 62).toNat + j) % 2 ^ 48) ((sOf s l 63).toNat % 2 ^ 32)
  else 0

/-- Whether a core's running context takes a vector or matrix slot: none of its attention operations runs (R194). -/
def takesArraySlot (s : State) (l : Nat) : Bool := takesSlot s l && !attRunsIn s l (fieldIn s R.CORE_STATUS_SLOT l 0)

/-- The running context of a core has read no word ahead, nor asked for one (R322). -/
def nothingAhead (s : State) (l : Nat) : Bool :=
  (FMap.get ctx0 s.ctxs (here s l)).early.isNone && !s.reqs.any (fun r => r.purpose == .early l (fieldIn s R.CORE_STATUS_SLOT l 0))

/-- The effective address of an address/move slot (R105). -/
def eaIn (s : State) (l : Nat) (f : AddrF) : Nat :=
  (if f.postinc then aOf s l f.ad.toNat else aOf s l f.ad.toNat + f.offset.signExtend 64).toNat

/-- The state with what POSTINC does to a[AD] of a slot that began in `s`. -/
def movedOn (s : State) (l : Nat) (f : AddrF) (t : State) : State :=
  if f.postinc then withA t (here s l) f.ad.toNat (aOf s l f.ad.toNat + f.offset.signExtend 64) else t

/-! Registers of the module. -/

/-- The state with a value in a named field of a register. -/
def withField (s : State) (f : Fld) (v : Nat) (i j : Nat := 0) : State :=
  { s with regs := FMap.set resetValue s.regs (f.addr i j) (withBits (FMap.get resetValue s.regs (f.addr i j)) f.lo f.width v) }

/-- The state with the running context's SAT flag set where a result saturated (R104). -/
def withSat (s : State) (l : Nat) (sat : Bool) : State :=
  if sat then withField s R.CORE_CTX_SAT 1 l (fieldIn s R.CORE_STATUS_SLOT l 0) else s

/-- What a shared operation gives on a state, and the state it leaves. -/
def gives {α : Type} (s : State) (m : M s α) : Except Stop α × State :=
  let r := m ⟨s, .refl⟩
  (r.1, r.2.val)

/-- Whether a packet of a type that is for this module is the first of its flow in a lane's receive buffer, and its incarnation is the one
expected of its sender (R363, R366). -/
def arrives (s : State) (lane : Nat) (p : Packet) (typ : BitVec 8) : Prop :=
  lane < 48 ∧ p.typ = typ ∧ p.dst.toNat = chipIn s ∧ firstOfFlow (FMap.get lane0 s.lanes lane).received p = true ∧
    gives s (incOk lane p) = (.ok true, s)

/-- The response this module gives a request (R364, R365). -/
def answerTo (s : State) (p : Packet) (status : Nat) (data : List Byte) (addr : Nat := 0) : Packet :=
  let d := if status = 0 then data else []
  { emptyPacket with
    typ := responseType p.typ, len := BitVec.ofNat 16 d.length, src := BitVec.ofNat 14 (chipIn s), dst := p.src,
    inc := BitVec.ofNat 16 (fieldIn s R.FAB_ID_INC 0 0), job := p.job, tag := p.tag, status := BitVec.ofNat 4 status,
    vl := packetVl (responseType p.typ) 0, addr := BitVec.ofNat 64 addr, data := d }

/-- A packet has gone to the lane its route names in a state, waiting there or sent; one without a route has not. -/
def leaves (s t : State) (p : Packet) (arrived : Option Nat) : Prop :=
  ∀ i, routeOf s p arrived = some i → p ∈ (FMap.get lane0 t.lanes i).queue ∨ Out.packet i p ∈ t.out

/-- A packet has left the receive buffer of a lane and its units are free for the far end again; the rest of the buffer stands. -/
def taken (s t : State) (lane : Nat) (p : Packet) : Prop :=
  (FMap.get lane0 t.lanes lane).received = eraseFirst p (FMap.get lane0 s.lanes lane).received

/-- The entry of a command of a submission queue goes to its completion queue: it waits while that is full, and is written to host memory
with the phase of the turn where there is room (R472, R473). -/
def completes (s t : State) (q : Nat) (entry : List Byte) : Prop :=
  let c := fieldIn s R.HOST_SQA_CQ q 0
  fieldIn s R.HOST_CQB_EN c 0 = 1 →
    ((cqFullIn s c || s.pcie.waiting.any (fun w => w.1 == c)) = true → (c, entry) ∈ t.pcie.waiting) ∧
    ((cqFullIn s c || s.pcie.waiting.any (fun w => w.1 == c)) = false →
      Out.hostWrite (fieldIn s R.HOST_CQA_BASE c 0 * 4096 + 16 * fieldIn s R.HOST_CQB_TAIL c 0)
        (patch entry 3 [BitVec.ofNat 8 (fieldAt entry 3 1 + 128 * fieldIn s R.HOST_CQB_PHASE c 0)]) ∈ t.out)

/-- The entry of a job slot. -/
def jobOf (s : State) (j : Nat) : Job := FMap.get job0 s.jobs j

/-- The state with one more thing sent. -/
def sends (s : State) (o : Out) : State := { s with out := s.out ++ [o] }

end Sys2Proof.Machine
end

