-- ==== Sys2Proof/Certificates/Slice0/Obligations.lean ====
section
/-! DEFINITION. The statements for the provers, one `Obligations.<Name>` each, listed in OBLIGATIONS.json. -/

open Sys2Proof Sys2Proof.Machine

/-! One step, and what holds of every command. -/

/-- A step takes the command at the front of the queue and answers what that command does on the module with the rest of the queue. -/
def Obligations.StepRunsFront : Prop :=
  ∀ (c : Instr) (rest : List Instr) (s : State), step { s with pending := c :: rest } = exec c { s with pending := rest }

/-- The model's choice (log entry 2): with no command waiting a step is one cycle of the fabric reference clock: once the fabric time is set
it moves on by 6.4 ns and the part of a slew that falls in the cycle (R531, R536). Where no access of the host, no write of the module
itself, no block of a compression engine, nothing of the KV engine and no packet of a lane that does not serve waits, nothing else changes
but what the lanes send and the counts of blocks queued. -/
def Obligations.StepIdles : Prop :=
  ∀ (s : State), s.pending = [] → s.pcie.host = [] → s.cx.queue = [] → s.cx.held = [] → s.cx.disabling = [] → s.held = [] →
    s.kv.work.isSome = true ∨ (openingIn s = none ∧ s.kv.queue = []) → (∀ i, i < 48 → straysIn s i = false) → ∃ t, step s = .next t ∧
    t = { s with mgt := t.mgt, lanes := t.lanes, regs := t.regs, out := t.out, fresh := t.fresh } ∧
    t.mgt = (if fieldIn s R.MGT_TIME_SET 0 0 = 1 then
      { s.mgt with
        time := if s.mgt.slewCycles = 0 then s.mgt.time + 5000000 else ((s.mgt.time : Int) + 5000000 + 5 * s.mgt.slewNs).toNat
        slewCycles := s.mgt.slewCycles - 1 } else s.mgt)

/-- Every step keeps every table in its canonical form, so that equal contents are equal data. -/
def Obligations.StepKeepsCanonical : Prop :=
  ∀ (s t : State), Canonical s → step s = .next t → Canonical t

/-- R515: the register of changes only grows: no step rewrites, removes or reorders an entry. -/
def Obligations.LogOnlyGrows : Prop :=
  ∀ (s t : State), step s = .next t → LogGrows s t

/-- Every command answers a next state: no data and no order of commands ends a run. It leaves the commands that wait as they are, and takes
back nothing of what the module has sent. -/
def Obligations.EveryCommandCompletes : Prop :=
  ∀ (c : Instr) (s : State), ∃ t, exec c s = .next t ∧ t.pending = s.pending ∧ LogGrows s t ∧ s.out <+: t.out

/-- The tables are in canonical form after reset. R9, R277, R510: after a power-on reset the registers hold what the Reset column gives, every
scratchpad word is zero, no stream is active, no job runs, nothing is in the register of changes and the debug state is Closed. -/
def Obligations.ResetState : Prop :=
  (Canonical State.reset) ∧
  (let v (f : Fld) (i n : Nat) : Prop := fieldIn State.reset f i 0 = n
  v R.DEV_ID_PRODUCT 0 9 ∧ v R.SP_SCRUB_INTERVAL 0 64 ∧ v R.FAB_TIMEOUT_USEC 0 1000 ∧ v R.FAB_FECLIM_SYMS 0 16384 ∧
    v R.INT_CLIM_MS 0 1000 ∧ v R.RST_HANGCFG_LIMIT 0 2 ∧ v R.RST_HANGCFG_WINDOW 0 3600 ∧ v R.PWR_VREQ_REQUEST 0 720 ∧
    v R.DEV_MOOD_DEBUG 0 0 ∧ (∀ l, l < 144 → v R.MX_LIMIT_LIMIT l 16 ∧ v R.CORE_RETIRED_COUNT l 0 ∧ v R.CORE_TRAP0_VALID l 0) ∧
    (∀ k, k < 16 → v R.GD_SCRUB_HOURS k 24) ∧ (∀ i, i < 48 → v R.FAB_LSTAT_STATE i 0) ∧
    (∀ q, q < 64 → v R.HOST_CQB_EN q 0 ∧ v R.HOST_CQB_PHASE q 1) ∧
    (∀ a, FMap.get zeroByte State.reset.spad a = 0) ∧ State.reset.stream = .none ∧ State.reset.jobs = [] ∧ State.reset.log = [] ∧
    State.reset.pending = [])

/-! Scalar slots (R92, R102 to R104). -/

/-- R103: the integer operations of the scalar slots write s[RD] with the value of the table, where the predicate holds; a write to s0 is
discarded; nothing else of the module changes. R103: CLZ counts the zeros above the highest set bit of s[RS1], 64 for zero. R103: a
comparison writes its result to all 256 bits of p[RD[2:0]], where the predicate holds; a write to p0 is discarded; nothing else changes. A
void operand of a W32 comparison gives false. R103, R105: a slot whose predicate fails has no effect; NOP has none; SEL is not suppressed.
The encodings of all of these slots are right (R543). -/
def Obligations.ScalarOperations : Prop :=
  (∀ (s : State) (l : Nat) (u : ScalarUnit) (f : ScalarF), takesSlot s l = true → holds s l f.pred f.pneg = true →
    let x := sOf s l f.rs1.toNat
    let y := op2Of s l f
    let gives (i : Instr) (v : Word) : Prop := exec i s = .next (withS s (here s l) f.rd.toNat v)
    gives (.add l u f) (x + y) ∧ gives (.sub l u f) (x - y) ∧ gives (.mul l u f) (BitVec.ofNat 64 (x.toNat * y.toNat)) ∧
    gives (.mulhs l u f) (BitVec.ofInt 64 (x.toInt * y.toInt / 2 ^ 64)) ∧
    gives (.mulhu l u f) (BitVec.ofNat 64 (x.toNat * y.toNat / 2 ^ 64)) ∧
    gives (.andOp l u f) (x &&& y) ∧ gives (.orOp l u f) (x ||| y) ∧ gives (.xorOp l u f) (x ^^^ y) ∧
    gives (.shl l u f) (x <<< (y.toNat % 64)) ∧ gives (.shr l u f) (x >>> (y.toNat % 64)) ∧
    gives (.sar l u f) (BitVec.ofInt 64 (x.toInt / 2 ^ (y.toNat % 64))) ∧
    gives (.rotl l u f) (x <<< (y.toNat % 64) ||| x >>> ((64 - y.toNat % 64) % 64)) ∧
    gives (.mins l u f) (BitVec.ofInt 64 (min x.toInt y.toInt)) ∧ gives (.maxs l u f) (BitVec.ofInt 64 (max x.toInt y.toInt)) ∧
    gives (.minu l u f) (BitVec.ofNat 64 (min x.toNat y.toNat)) ∧ gives (.maxu l u f) (BitVec.ofNat 64 (max x.toNat y.toNat)) ∧
    gives (.popc l u f) (BitVec.ofNat 64 ((List.range 64).countP (fun i => x.getLsbD i))) ∧
    gives (.li l u f) (f.imm.signExtend 64) ∧ gives (.lih l u f) (f.imm ++ (sOf s l f.rd.toNat).truncate 32)) ∧
  (∀ (s : State) (l : Nat) (u : ScalarUnit) (f : ScalarF), takesSlot s l = true → holds s l f.pred f.pneg = true →
    ∃ n : Nat, exec (.clz l u f) s = .next (withS s (here s l) f.rd.toNat (BitVec.ofNat 64 n)) ∧ n ≤ 64 ∧
      (∀ i, i < n → (sOf s l f.rs1.toNat).getMsbD i = false) ∧ (n < 64 → (sOf s l f.rs1.toNat).getMsbD n = true)) ∧
  (∀ (s : State) (l : Nat) (u : ScalarUnit) (f : ScalarF), takesSlot s l = true → holds s l f.pred f.pneg = true →
    let x := sOf s l f.rs1.toNat
    let y := op2Of s l f
    let gives (i : Instr) (b : Bool) : Prop :=
      exec i s = .next (withP s (here s l) (f.rd.toNat % 8) (if b then BitVec.allOnes 256 else 0))
    gives (.cmpeq l u f) (decide (x = y)) ∧ gives (.cmpne l u f) (decide (x ≠ y)) ∧
    gives (.cmplts l u f) (decide (x.toInt < y.toInt)) ∧ gives (.cmpltu l u f) (decide (x.toNat < y.toNat)) ∧
    gives (.cmples l u f) (decide (x.toInt ≤ y.toInt)) ∧ gives (.cmpleu l u f) (decide (x.toNat ≤ y.toNat)) ∧
    gives (.fcmplt l u f) (wLt (x.truncate 32) (y.truncate 32)) ∧ gives (.fcmpeq l u f) (wEq (x.truncate 32) (y.truncate 32)) ∧
    (w32 (x.truncate 32) = .void ∨ w32 (y.truncate 32) = .void →
      wLt (x.truncate 32) (y.truncate 32) = false ∧ wEq (x.truncate 32) (y.truncate 32) = false)) ∧
  (∀ (s : State) (l : Nat) (u : ScalarUnit) (f : ScalarF), takesSlot s l = true → holds s l f.pred f.pneg = false →
    (∀ n, exec (.nop l n) s = .next s) ∧
    exec (.add l u f) s = .next s ∧ exec (.mul l u f) s = .next s ∧ exec (.divs l .a f) s = .next s ∧
    exec (.remu l .a f) s = .next s ∧ exec (.sar l u f) s = .next s ∧ exec (.li l u f) s = .next s ∧
    exec (.lih l u f) s = .next s ∧ exec (.cmplts l u f) s = .next s ∧ exec (.fmul l u f) s = .next s ∧
    exec (.fcmpeq l u f) s = .next s ∧ exec (.fcvti l u f) s = .next s)

/-- R104: division by zero gives quotient 0 and the dividend as remainder, sets DIVZ and does not trap; otherwise DIVS truncates toward zero
and REMS takes the sign of the dividend. Scalar A only. R103: the W32 operations of the scalar slots; bits [63:32] of a W32 result are
zero; a saturation sets SAT (R104). SEL selects by the predicate and is not suppressed by it. R103, R104: RDSPEC writes the special value
its selector names; steps and fabric time are as the model gives them, steps a free value. -/
def Obligations.ScalarDivisionW32Special : Prop :=
  (∀ (s : State) (l : Nat) (f : ScalarF), takesSlot s l = true → holds s l f.pred f.pneg = true →
    let k := fieldIn s R.CORE_STATUS_SLOT l 0
    let x := sOf s l f.rs1.toNat
    let y := op2Of s l f
    (y = 0 →
      exec (.divs l .a f) s = .next (withField (withS s (here s l) f.rd.toNat 0) R.CORE_CTX_DIVZ 1 l k) ∧
      exec (.divu l .a f) s = .next (withField (withS s (here s l) f.rd.toNat 0) R.CORE_CTX_DIVZ 1 l k) ∧
      exec (.rems l .a f) s = .next (withField (withS s (here s l) f.rd.toNat x) R.CORE_CTX_DIVZ 1 l k) ∧
      exec (.remu l .a f) s = .next (withField (withS s (here s l) f.rd.toNat x) R.CORE_CTX_DIVZ 1 l k)) ∧
    (y ≠ 0 →
      exec (.divs l .a f) s = .next (withS s (here s l) f.rd.toNat (BitVec.ofInt 64 (x.toInt.tdiv y.toInt))) ∧
      exec (.divu l .a f) s = .next (withS s (here s l) f.rd.toNat (BitVec.ofNat 64 (x.toNat / y.toNat))) ∧
      exec (.rems l .a f) s = .next (withS s (here s l) f.rd.toNat (BitVec.ofInt 64 (x.toInt.tmod y.toInt))) ∧
      exec (.remu l .a f) s = .next (withS s (here s l) f.rd.toNat (BitVec.ofNat 64 (x.toNat % y.toNat))))) ∧
  (∀ (s : State) (l : Nat) (u : ScalarUnit) (f : ScalarF), takesSlot s l = true →
    let k := fieldIn s R.CORE_STATUS_SLOT l 0
    let x := sOf s l f.rs1.toNat
    let y := op2Of s l f
    let xw : BitVec 32 := x.truncate 32
    let yw : BitVec 32 := y.truncate 32
    let gives (i : Instr) (r : Word) (sat : Bool) : Prop :=
      exec i s = .next (if sat then withField (withS s (here s l) f.rd.toNat r) R.CORE_CTX_SAT 1 l k else withS s (here s l) f.rd.toNat r)
    (holds s l f.pred f.pneg = true →
      gives (.fadd l u f) ((wAdd xw yw).1.zeroExtend 64) (wAdd xw yw).2 ∧
      gives (.fsub l u f) ((wSub xw yw).1.zeroExtend 64) (wSub xw yw).2 ∧
      gives (.fmul l u f) ((wMul xw yw).1.zeroExtend 64) (wMul xw yw).2 ∧
      gives (.fmin l u f) ((wMin xw yw).zeroExtend 64) false ∧ gives (.fmax l u f) ((wMax xw yw).zeroExtend 64) false ∧
      gives (.fcvti l u f) (BitVec.ofInt 64 (wToInt 64 xw)) (wOutside xw) ∧
      gives (.fcvtf l u f) ((toW32 (.num x.toInt 0)).1.zeroExtend 64) false) ∧
    gives (.sel l u f) (if holds s l f.pred f.pneg then x else y) false) ∧
  (∀ (s : State) (l : Nat) (u : ScalarUnit) (f : ScalarF), takesSlot s l = true → holds s l f.pred f.pneg = true →
    let k := fieldIn s R.CORE_STATUS_SLOT l 0
    let gives (v : Nat) : Prop := exec (.rdspec l u f) s = .next (withS s (here s l) f.rd.toNat (BitVec.ofNat 64 v))
    (f.imm.toNat % 256 = 0 → gives (ctxIdIn s l k)) ∧ (f.imm.toNat % 256 = 1 → gives l) ∧
    (f.imm.toNat % 256 = 2 → gives (rankIn s l)) ∧ (f.imm.toNat % 256 = 3 → gives (clauseSizeIn s l)) ∧
    (f.imm.toNat % 256 = 4 → gives (match (FMap.get ctx0 s.ctxs (here s l)).job with
      | some j => (FMap.get job0 s.jobs j).opened
      | none => 0)) ∧
    (f.imm.toNat % 256 = 6 → exec (.rdspec l u f) s =
      .next (withS { s with fresh := s.fresh + 1 } (here s l) f.rd.toNat (Config.freeValue s.fresh))) ∧
    (f.imm.toNat % 256 = 7 → gives (fabricNsIn s)))

/-! Address/move slots and DMA (R105 to R107, R124). -/

/-- R105, R107: AADD, AFROMS and ATOS add the sign-extended OFFSET; nothing else changes, and s0 is not written. R105, R125, R126: an
effective address with a bit of [63:62] set traps ADDR: no scalar, address, predicate or vector register and no scratchpad changes; the
context reads trapped; with no trap held, CORE_TRAP0 to 2 tell cause 0x06, slot 3, the context's address and the effective address. -/
def Obligations.AddressArithmeticAndTraps : Prop :=
  (∀ (s : State) (l : Nat) (f : AddrF), takesSlot s l = true → holds s l f.pred f.pneg = true →
    let off := f.offset.signExtend 64
    exec (.aadd l f) s = .next (withA s (here s l) (f.reg.toNat % 32) (aOf s l f.ad.toNat + off)) ∧
    exec (.afroms l f) s = .next (withA s (here s l) f.ad.toNat (sOf s l f.reg.toNat + off)) ∧
    exec (.atos l f) s = .next (withS s (here s l) f.reg.toNat (aOf s l f.ad.toNat + off))) ∧
  (∀ (s : State) (l : Nat) (f : AddrF), takesSlot s l = true → holds s l f.pred f.pneg = true → f.scope ≠ 7 →
    2 ^ 62 ≤ eaIn s l f →
    ∀ i ∈ [Instr.ld l f, .lds l f, .st l f, .lda l f, .sta l f], ∃ t, exec i s = .next t ∧
      t.sregs = s.sregs ∧ t.aregs = s.aregs ∧ t.pregs = s.pregs ∧ t.vregs = s.vregs ∧ t.spad = s.spad ∧
      (FMap.wf resetValue s.regs = true → ctxIdIn s l (fieldIn s R.CORE_STATUS_SLOT l 0) < 2 ^ 16 →
        fieldIn t R.CORE_CTX_CSTATE l (fieldIn s R.CORE_STATUS_SLOT l 0) = 3 ∧
        (fieldIn s R.CORE_TRAP0_VALID l 0 = 0 →
          fieldIn t R.CORE_TRAP0_VALID l 0 = 1 ∧ fieldIn t R.CORE_TRAP0_CAUSE l 0 = 6 ∧ fieldIn t R.CORE_TRAP0_SLOT l 0 = 3 ∧
          fieldIn t R.CORE_TRAP1_SADDR l 0 = (FMap.get ctx0 s.ctxs (here s l)).saddr.toNat ∧
          fieldIn t R.CORE_TRAP2_DETAIL l 0 = eaIn s l f)))

/-- R107: LD zero-extends and LDS sign-extends the SIZE bytes that the load reads into s[REG]; LDA reads 8 bytes into a[REG]; POSTINC moves
a[AD] first, so that with REG = AD the loaded value stays. Beyond what reading the bytes does, nothing else changes. R107: ST stores the
SIZE low bytes of s[REG] and STA the 8 bytes of a[REG], both as they were before POSTINC moves a[AD]. Beyond what storing the bytes does,
nothing else changes. -/
def Obligations.LoadsAndStores : Prop :=
  (∀ (s t : State) (l : Nat) (f : AddrF) (d : List Byte), takesSlot s l = true → holds s l f.pred f.pneg = true → f.scope ≠ 7 →
    eaIn s l f < 2 ^ 62 →
    (gives s (loadAt (soleAt s l 3) f (eaIn s l f) (2 ^ f.size.toNat)) = (.ok d, t) →
      exec (.ld l f) s = .next (withS (movedOn s l f t) (here s l) f.reg.toNat (BitVec.ofNat 64 (leNat d))) ∧
      exec (.lds l f) s =
        .next (withS (movedOn s l f t) (here s l) f.reg.toNat ((BitVec.ofNat (8 * 2 ^ f.size.toNat) (leNat d)).signExtend 64))) ∧
    (gives s (loadAt (soleAt s l 3) f (eaIn s l f) 8) = (.ok d, t) →
      exec (.lda l f) s = .next (withA (movedOn s l f t) (here s l) (f.reg.toNat % 32) (BitVec.ofNat 64 (leNat d))))) ∧
  (∀ (s t : State) (l : Nat) (f : AddrF), takesSlot s l = true → holds s l f.pred f.pneg = true → f.scope ≠ 7 →
    eaIn s l f < 2 ^ 62 →
    (gives s (storeAt (soleAt s l 3) f (eaIn s l f) (leBytes (2 ^ f.size.toNat) (sOf s l f.reg.toNat).toNat)) = (.ok (), t) →
      exec (.st l f) s = .next (movedOn s l f t)) ∧
    (gives s (storeAt (soleAt s l 3) f (eaIn s l f) (leBytes 8 (aOf s l (f.reg.toNat % 32)).toNat)) = (.ok (), t) →
      exec (.sta l f) s = .next (movedOn s l f t)))

/-- R266, R107: what a plain store of 8 bytes puts in the core's own scratchpad, the next plain load of those bytes gives back, whatever the
gather buffer holds and evicts. The core's slots have their turn at the banks: no requester promoted ahead of them waits (R264). -/
def Obligations.OwnStoreThenLoad : Prop :=
  ∀ (s t : State) (l x : Nat) (f g : AddrF), takesSlot s l = true → holds s l f.pred f.pneg = true →
    f.scope = 0 → f.size = 3 → eaIn s l f % 8 = 0 → eaIn s l f < 2 ^ 62 → ownAddrIn s l (eaIn s l f) = some x →
    spTurnIn s l 1 = true → spTurnIn t l 1 = true → spanAllowedIn s l (fieldIn s R.CORE_STATUS_SLOT l 0) x 8 = true → FMap.wf core0 s.cores = true →
    (∀ e ∈ (FMap.get core0 s.cores l).gather, e.bytes.length = 1024) →
    exec (.st l f) s = .next t → takesSlot t l = true → holds t l g.pred g.pneg = true → g.scope = 0 → g.size = 3 → g.vol = false →
    eaIn t l g = eaIn s l f → ownAddrIn t l (eaIn s l f) = some x →
    spanAllowedIn t l (fieldIn t R.CORE_STATUS_SLOT l 0) x 8 = true → g.reg ≠ 0 → FMap.wf zeroWord t.sregs = true →
    ∃ u, exec (.ld l g) t = .next u ∧ FMap.get zeroWord u.sregs (here t l * 64 + g.reg.toNat) = sOf s l f.reg.toNat

/-- R106, R107, R262: LDV, LDVR and LDVC fill v[REG] with the words they read, lane 0 first: 1,024 B of a region that is not two-dimensional,
or 128 words of a row or a column of one that is. R106, R107: STV stores the 256 lanes of v[REG], lane 0 first, at the banks; no register
but a[AD] with POSTINC changes. -/
def Obligations.VectorLoadsAndStores : Prop :=
  (∀ (s t : State) (l x : Nat) (f : AddrF) (d : List Byte) (r : Region), takesSlot s l = true → holds s l f.pred f.pneg = true →
    eaIn s l f < 2 ^ 62 → ownAddrIn s l (eaIn s l f) = some x → allowedIn s l (fieldIn s R.CORE_STATUS_SLOT l 0) x = some r →
    let done (i : Instr) : Prop := exec i s = .next (withV (movedOn s l f t) (here s l) f.reg.toNat
      ((List.range 256).map (fun n => BitVec.ofNat 32 (fieldAt d (4 * n) 4))))
    let reads (ws : List Nat) : Prop := gives s (readOwnWords (soleAt s l 3) (eaIn s l f) ws) = (.ok d, t)
    (eaIn s l f % 1024 = 0 → r.twoDim = false → spanAllowedIn s l (fieldIn s R.CORE_STATUS_SLOT l 0) x 1024 = true →
      reads (spanWords x 1024) → done (.ldv l f)) ∧
    (∀ ws, eaIn s l f % 8 = 0 → r.twoDim = true → lineWords r x false = some ws → reads ws → done (.ldvr l f)) ∧
    (∀ ws, eaIn s l f % 8 = 0 → r.twoDim = true → lineWords r x true = some ws → reads ws → done (.ldvc l f))) ∧
  (∀ (s t : State) (l x n : Nat) (f : AddrF) (r : Region) (ev : List Rec), takesSlot s l = true → holds s l f.pred f.pneg = true →
    eaIn s l f < 2 ^ 62 → ownAddrIn s l (eaIn s l f) = some x → allowedIn s l (fieldIn s R.CORE_STATUS_SLOT l 0) x = some r →
    eaIn s l f % 1024 = 0 → r.twoDim = false → spanAllowedIn s l (fieldIn s R.CORE_STATUS_SLOT l 0) x 1024 = true →
    spTurnIn s l 1 = true → gives s (spWrite l x ((vAll s l f.reg.toNat).flatMap (fun e => leBytes 4 e.toNat))) = (.ok (n, ev), t) →
    ∃ u, exec (.stv l f) s = .next u ∧ u.spad = t.spad ∧ u.sregs = s.sregs ∧ u.aregs = (movedOn s l f s).aregs ∧
      u.pregs = s.pregs ∧ u.vregs = s.vregs)

/-- R254, R257, R265, R269 to R271: with no injection armed, words written at the banks of a scratchpad read back as written, with no error
met, whatever the gather buffer held of them. -/
def Obligations.ScratchpadReadsBack : Prop :=
  ∀ (s : State) (l a : Nat) (bs : List Byte), FMap.wf zeroByte s.spad = true → FMap.wf core0 s.cores = true →
    fieldIn s R.SP_FLIPC_ARMED l 0 = 0 → a % 8 = 0 → bs.length % 8 = 0 →
    (gives s (do
      let _ ← spWrite l a bs
      spRead l a bs.length)).1 = .ok (some bs, [])

/-- R106, R309, R310: an atomic returns the old value of the word to s[REG] and leaves its new value there: ADD, SWAP, CAS with s[REG] and
s[REG + 1], and the four minima and maxima. An acquire at clause or wider scope empties the core's read cache (R324). The context has read
no word ahead. R106, R310: an atomic on a word of a scratchpad that is reached and reads without error completes, with no tags kept:
s[REG] has the old value, the word reads as the new one, or as before where CAS stores nothing, and no other word of any scratchpad, no
other register and no register of the module changes. -/
def Obligations.AtomicResult : Prop :=
  (∀ (s t : State) (l : Nat) (f : AddrF) (old : Word), takesSlot s l = true → holds s l f.pred f.pneg = true → f.scope ≠ 7 →
    eaIn s l f < 2 ^ 62 → eaIn s l f % 8 = 0 → eaIn s l f / 2 ^ 48 = chipIn s →
    (∀ x, ownAddrIn s l (eaIn s l f) = some x → spanAllowedIn s l (fieldIn s R.CORE_STATUS_SLOT l 0) x 8 = true) →
    (f.scope ≠ 0 → storesOutIn s l (fieldIn s R.CORE_STATUS_SLOT l 0) true = false) → nothingAhead s l = true →
    let x := sOf s l f.reg.toNat
    let y := sOf s l ((f.reg + 1).toNat)
    let done (n : Nat) (i : Instr) (new : Option Word) : Prop :=
      (gives s (localAtomic (soleAt s l 3) (eaIn s l f % 2 ^ 48) n f.scope.toNat x y) = (.ok (0, old), t) →
        let u := if 2 ≤ f.scope.toNat then { t with cache := t.cache.filter (fun c => c.core != l) } else t
        exec i s = .next (withS (movedOn s l f u) (here s l) f.reg.toNat old)) ∧ atomicFn n x y old = new
    done 0 (.atAdd l f) (some (old + x)) ∧ done 1 (.atSwap l f) (some x) ∧
    (f.reg.toNat % 2 = 0 → done 2 (.atCas l f) (if old = x then some y else none)) ∧
    done 3 (.atMins l f) (some (BitVec.ofInt 64 (min old.toInt x.toInt))) ∧
    done 4 (.atMaxs l f) (some (BitVec.ofInt 64 (max old.toInt x.toInt))) ∧
    done 5 (.atMinu l f) (some (BitVec.ofNat 64 (min old.toNat x.toNat))) ∧
    done 6 (.atMaxu l f) (some (BitVec.ofNat 64 (max old.toNat x.toNat)))) ∧
  (∀ (s : State) (l m x : Nat) (f : AddrF) (old : Word), takesSlot s l = true → holds s l f.pred f.pneg = true → f.scope ≠ 7 →
    eaIn s l f < 2 ^ 62 → eaIn s l f % 8 = 0 → eaIn s l f / 2 ^ 48 = chipIn s →
    (∀ y, ownAddrIn s l (eaIn s l f) = some y → spanAllowedIn s l (fieldIn s R.CORE_STATUS_SLOT l 0) y 8 = true) →
    (f.scope ≠ 0 → storesOutIn s l (fieldIn s R.CORE_STATUS_SLOT l 0) true = false) →
    windowOf (eaIn s l f % 2 ^ 48) = .scratchpad m x → spTurnIn s m (if l = m then 1 else 6) = true → boundIn s m = true → fieldIn s R.DEV_MOOD_DEBUG 0 0 = 0 →
    s.rst.fenced.contains (fieldIn s R.CORE_STATUS_PCORE m 0) = false → fieldIn s R.SP_FLIPC_ARMED m 0 = 0 →
    (FMap.get core0 s.cores m).gather.any (fun e => e.line == x / 1024) = false → FMap.wf zeroByte s.spad = true →
    FMap.wf spctl0 s.spctls = true → gives s (spReadWord m (x / 8)) = (.ok (some old, []), s) →
    let v := sOf s l f.reg.toNat
    let done (i : Instr) (new : Word) : Prop := ∃ t, exec i s = .next t ∧
      t.sregs = (withS s (here s l) f.reg.toNat old).sregs ∧ t.aregs = (movedOn s l f s).aregs ∧ t.pregs = s.pregs ∧ t.vregs = s.vregs ∧
      t.regs = s.regs ∧ t.gddr = s.gddr ∧ (gives t (spReadWord m (x / 8))).1 = .ok (some new, []) ∧
      ∀ a, a / 9 ≠ m * 2 ^ 21 + x / 8 → FMap.get zeroByte t.spad a = FMap.get zeroByte s.spad a
    done (.atAdd l f) (old + v) ∧ done (.atSwap l f) v ∧
    (f.reg.toNat % 2 = 0 → done (.atCas l f) (if old = v then sOf s l ((f.reg + 1).toNat) else old)) ∧
    done (.atMins l f) (BitVec.ofInt 64 (min old.toInt v.toInt)) ∧ done (.atMaxs l f) (BitVec.ofInt 64 (max old.toInt v.toInt)) ∧
    done (.atMinu l f) (BitVec.ofNat 64 (min old.toNat v.toNat)) ∧ done (.atMaxu l f) (BitVec.ofNat 64 (max old.toNat v.toNat)))

/-- R106, R124: DMA on a free channel starts a transfer of OFFSET bytes from a[AD] to a[REG] and goes on: the channel is busy, and nothing but
the channel, the core's count of transfers and what the context remembers of it changes. R124: a transfer whose writes have all been
performed frees its channel, one that has failed halts it; beyond the channel only what the lanes send changes. A transfer of one piece
within this module's memory reads its bytes and writes them first. -/
def Obligations.DmaTransfers : Prop :=
  (∀ (s : State) (l : Nat) (f : AddrF), takesSlot s l = true → holds s l f.pred f.pneg = true →
    8 ≤ f.offset.toInt → f.offset.toNat % 8 = 0 → (aOf s l f.ad.toNat).toNat < 2 ^ 62 → (aOf s l (f.reg.toNat % 32)).toNat < 2 ^ 62 →
    (FMap.get dma0 s.dmas (l * 8 + f.scope.toNat)).state = 0 →
    ∃ t, exec (.dma l f) s = .next t ∧ t = { s with dmas := t.dmas, cores := t.cores, ctxs := t.ctxs } ∧
      t.dmas = FMap.set dma0 s.dmas (l * 8 + f.scope.toNat) {
        state := 1, slot := fieldIn s R.CORE_STATUS_SLOT l 0, number := (FMap.get core0 s.cores l).transfers + 1
        src := (aOf s l f.ad.toNat).toNat, dst := (aOf s l (f.reg.toNat % 32)).toNat, len := f.offset.toNat
        kind := dmaKind s (aOf s l (f.reg.toNat % 32)).toNat, issue := (FMap.get ctx0 s.ctxs (here s l)).issued } ∧
      t.cores = FMap.set core0 s.cores l { FMap.get core0 s.cores l with transfers := (FMap.get core0 s.cores l).transfers + 1 }) ∧
  (∀ (s : State) (l ch : Nat), l < 144 → ch < 8 → FMap.wf dma0 s.dmas = true →
    let d := FMap.get dma0 s.dmas (l * 8 + ch)
    d.state = 1 → d.kind = 0 → d.outstanding = 0 →
    (d.sent = true → ∃ t, exec (.dmaTransferComplete l ch) s = .next t ∧
      t = { s with dmas := t.dmas, lanes := t.lanes, regs := t.regs, out := t.out, fresh := t.fresh } ∧
      t.dmas = FMap.set dma0 s.dmas (l * 8 + ch) { d with state := if d.failed.isSome then 2 else 0 }) ∧
    (d.sent = false → d.failed = none → d.pos = 0 → 8 ≤ d.len → blockTransfer d = false → pieceOf d = d.len →
      d.src / 2 ^ 48 = chipIn s → d.dst / 2 ^ 48 = chipIn s → (∃ k a, windowOf (d.src % 2 ^ 48) = .scratchpad k a) →
      (∃ k a, windowOf (d.dst % 2 ^ 48) = .scratchpad k a) → ∀ t2 : State,
      gives s (do
        let (bs, ev, bad) ← readPiece l ch (d.src % 2 ^ 48) d.len
        dmaStore l ch d.dst bs
        return (ev, bad)) = (.ok ([], none), t2) → FMap.get dma0 t2.dmas (l * 8 + ch) = d →
      ∃ t, exec (.dmaTransferComplete l ch) s = .next t ∧ t.spad = t2.spad ∧ t.gddr = t2.gddr ∧
        (FMap.get dma0 t.dmas (l * 8 + ch)).state = 0))

/-! Vector slots (R108 to R111, R178, R184). -/

/-- R108, R109: the integer and bitwise operations, VBCAST, VPERM and VSEL write v[VD] lane by lane; a lane whose predicate bit is 0 keeps its
value, but for VSEL, which selects by it. Nothing else changes. R108 to R111, R104: the W32 operations and functions lane by lane; SAT is
set where a result of a lane whose predicate bit is 1 saturates; VMINF and VMAXF never do. R108, R109: a comparison writes p[VD[2:0]] bit
by bit; a lane whose predicate bit is 0 gives 0; p0 is not written. Nothing else changes. -/
def Obligations.VectorLaneOperations : Prop :=
  (∀ (s : State) (l : Nat) (u : VecUnit) (f : VecF), takesArraySlot s l = true →
    let x := vOf s l f.vs1.toNat
    let y := vop2Of s l f
    let result (i : Instr) (g : Nat → BitVec 32) : Prop := exec i s = .next (withV s (here s l) f.vd.toNat (lanes g))
    let gives (i : Instr) (g : Nat → BitVec 32) : Prop :=
      result i (fun n => if (maskOf s l f).getLsbD n then g n else vOf s l f.vd.toNat n)
    gives (.vaddi l u f) (fun n => x n + y n) ∧ gives (.vsubi l u f) (fun n => x n - y n) ∧
    gives (.vmuli l u f) (fun n => BitVec.ofNat 32 ((x n).toNat * (y n).toNat)) ∧ gives (.vand l u f) (fun n => x n &&& y n) ∧
    gives (.vor l u f) (fun n => x n ||| y n) ∧ gives (.vxor l u f) (fun n => x n ^^^ y n) ∧
    gives (.vshl l u f) (fun n => x n <<< ((y n).toNat % 32)) ∧ gives (.vshr l u f) (fun n => x n >>> ((y n).toNat % 32)) ∧
    gives (.vsar l u f) (fun n => BitVec.ofInt 32 ((x n).toInt / 2 ^ ((y n).toNat % 32))) ∧
    gives (.vmini l u f) (fun n => BitVec.ofInt 32 (min (x n).toInt (y n).toInt)) ∧
    gives (.vmaxi l u f) (fun n => BitVec.ofInt 32 (max (x n).toInt (y n).toInt)) ∧
    gives (.vbcast l u f) (fun _ => (sOf s l f.vs1.toNat).truncate 32) ∧
    gives (.vperm l u f) (fun n => x ((y n).toNat % 256)) ∧
    result (.vsel l u f) (fun n => if (maskOf s l f).getLsbD n then x n else y n)) ∧
  (∀ (s : State) (l : Nat) (u : VecUnit) (f : VecF), takesArraySlot s l = true →
    let x := vOf s l f.vs1.toNat
    let y := vop2Of s l f
    let z := vOf s l f.vs3.toNat
    let gives (i : Instr) (g : Nat → BitVec 32 × Bool) : Prop :=
      exec i s = .next (withSat (withV s (here s l) f.vd.toNat
        (lanes (fun n => if (maskOf s l f).getLsbD n then (g n).1 else vOf s l f.vd.toNat n))) l
        ((List.range 256).any (fun n => (maskOf s l f).getLsbD n && (g n).2)))
    gives (.vaddf l u f) (fun n => wAdd (x n) (y n)) ∧ gives (.vsubf l u f) (fun n => wSub (x n) (y n)) ∧
    gives (.vmulf l u f) (fun n => wMul (x n) (y n)) ∧ gives (.vfma l u f) (fun n => wFma (x n) (y n) (z n)) ∧
    gives (.vminf l u f) (fun n => (wMin (x n) (y n), false)) ∧ gives (.vmaxf l u f) (fun n => (wMax (x n) (y n), false)) ∧
    gives (.vexp l u f) (fun n => sfuExp (x n)) ∧ gives (.vrcp l u f) (fun n => sfuRcp (x n)) ∧
    gives (.vrsqrt l u f) (fun n => sfuRsqrt (x n)) ∧ gives (.vlog2 l u f) (fun n => sfuLog2 (x n))) ∧
  (∀ (s : State) (l : Nat) (u : VecUnit) (f : VecF), takesArraySlot s l = true →
    let x := vOf s l f.vs1.toNat
    let y := vop2Of s l f
    let gives (i : Instr) (g : Nat → Bool) : Prop :=
      ∃ p : BitVec 256, exec i s = .next (withP s (here s l) (f.vd.toNat % 8) p) ∧
        ∀ n, n < 256 → p.getLsbD n = ((maskOf s l f).getLsbD n && g n)
    gives (.vcmpeqi l u f) (fun n => decide (x n = y n)) ∧ gives (.vcmplti l u f) (fun n => decide ((x n).toInt < (y n).toInt)) ∧
    gives (.vcmplei l u f) (fun n => decide ((x n).toInt ≤ (y n).toInt)) ∧ gives (.vcmpeqf l u f) (fun n => wEq (x n) (y n)) ∧
    gives (.vcmpltf l u f) (fun n => wLt (x n) (y n)) ∧ gives (.vcmplef l u f) (fun n => wLe (x n) (y n)))

/-- R109, R110: a reduction writes lane 0 and zeroes the other lanes; a lane whose predicate bit is 0 enters as the value of no effect; the
W32 reductions combine neighbours in a tree of eight levels. VEXT writes s[VD] where bit 0 of the predicate holds, and VINS one lane where
its own bit does. R184, R172, R173, R176 to R180, R187, R189: VCVT. The entry's format being that of the lanes, it copies; the packed
encode takes a lane whose predicate bit is 0 as zero. Otherwise it encodes W32 or I32 lanes into the entry's format, or decodes them out
of it, in register placement or packed: a block-scaled format group by group, with its scale; the packed encode takes a lane whose
predicate bit is 0 as zero, any other form leaves it. What the conversions tell is gathered for the tensor, and saturation sets SAT. -/
def Obligations.VectorReductionsAndConversion : Prop :=
  (∀ (s : State) (l : Nat) (u : VecUnit) (f : VecF), takesArraySlot s l = true →
    let x := vOf s l f.vs1.toNat
    let m := (maskOf s l f).getLsbD
    let k := f.imm.toNat % 256
    let first (i : Instr) (v : BitVec 32) (sat : Bool) : Prop :=
      exec i s = .next (withSat (withV s (here s l) f.vd.toNat (lanes (fun n => if n = 0 then v else 0))) l sat)
    let sum := treeOf (fun (a b : BitVec 32 × Bool) => ((wAdd a.1 b.1).1, a.2 || b.2 || (wAdd a.1 b.1).2)) 8
      (lanes (fun n => if m n then (x n, false) else (0, false)))
    let greatest := treeOf wMax 8 (lanes (fun n => if m n then x n else w32Top true))
    first (.vredaddi l u f) (BitVec.ofNat 32 ((List.range 256).map (fun n => if m n then (x n).toNat else 0)).sum) false ∧
    (∀ r, sum = [r] → first (.vredaddf l u f) r.1 r.2) ∧ sum.length = 1 ∧
    (∀ r, greatest = [r] → first (.vredmaxf l u f) r false) ∧ greatest.length = 1 ∧
    exec (.vext l u f) s = .next (if m 0 then withS s (here s l) f.vd.toNat ((x k).zeroExtend 64) else s) ∧
    exec (.vins l u f) s = .next (if m k then withV s (here s l) f.vd.toNat
      (lanes (fun n => if n = k then (sOf s l f.vs1.toNat).truncate 32 else vOf s l f.vd.toNat n)) else s)) ∧
  (∀ (s : State) (l : Nat) (u : VecUnit) (f : VecF) (e : FmtEntry) (fm : Fmt), takesArraySlot s l = true →
    f.imm.toNat < 8 → fmtEntryIn s l f.fmt.toNat = some (e, fm) →
    let m := (maskOf s l f).getLsbD
    let x := vOf s l f.vs1.toNat
    let rnd := roundBits s l e
    let asInt := f.imm.getLsbD 2
    let side := if asInt then Fmt.i32 else Fmt.w32
    let val (n : Nat) : Val := if asInt then .num (x n).toInt 0 else w32 (x n)
    let scale (n : Nat) : Nat := fm.scaleOf ((List.range 32).map (fun i => val (n / 32 * 32 + i)))
    let up (n : Nat) : Enc := if fm.block then fm.encodeIn (scale n) e.round (rnd n) (val n) else fm.encode e.round (rnd n) (val n)
    let down (scale code : Nat → Nat) (n : Nat) : Enc := side.encode e.round (rnd n) (fm.decodeScaled (scale n) (code n))
    let image := (vAll s l f.vs1.toNat).flatMap (fun w => leBytes 4 w.toNat)
    let whole := encodeAll fm e.round rnd 0 (lanes (fun n => if m n then val n else .zero))
    let packed := packStorage fm whole.1 (whole.2.map (·.code))
    let done (g : Nat → BitVec 32) (on : Nat → Bool) (enc : Nat → Enc) : Prop := ∃ t, exec (.vcvt l u f) s = .next t ∧
      t = { s with vregs := t.vregs, flagUpds := t.flagUpds, regs := t.regs } ∧
      t.vregs = (withV s (here s l) f.vd.toNat (lanes (fun n => if on n then g n else vOf s l f.vd.toNat n))).vregs ∧
      t.regs = (withSat s l ((List.range 256).any (fun n => on n && (enc n).sat))).regs ∧
      (FMap.wf flagUpd0 s.flagUpds = true →
        let old := FMap.get flagUpd0 s.flagUpds (here s l * 256 + f.fmt.toNat)
        let new := FMap.get flagUpd0 t.flagUpds (here s l * 256 + f.fmt.toNat)
        new.sat = (old.sat || (List.range 256).any (fun n => on n && (enc n).sat)) ∧
        new.void = (old.void || (List.range 256).any (fun n => on n && (enc n).void)))
    let code (b : Enc) : BitVec 32 := BitVec.ofNat 32 b.code
    (fm = side → exec (.vcvt l u f) s = .next (withV s (here s l) f.vd.toNat (lanes (fun n =>
      if m n then x n else if f.imm.getLsbD 0 && f.imm.getLsbD 1 then 0 else vOf s l f.vd.toNat n)))) ∧
    (fm ≠ side →
      (f.imm.getLsbD 0 = true → f.imm.getLsbD 1 = false →
        done (fun n => BitVec.ofNat 32 ((up n).code + if fm.block then scale n * 256 else 0))
          (fun n => m (if fm.block then n / 32 * 32 else n)) up) ∧
      (f.imm.getLsbD 0 = true → f.imm.getLsbD 1 = true →
        done (fun n => BitVec.ofNat 32 (fieldAt packed (4 * n) 4)) (fun _ => true)
          (fun n => whole.2.getD n ⟨0, false, false, false, false⟩)) ∧
      (f.imm.getLsbD 0 = false → f.imm.getLsbD 1 = false →
        let d := down (fun n => if fm.block then (x (n / 32 * 32)).toNat / 256 % 256 else 0) (fun n => (x n).toNat % 2 ^ fm.width)
        done (fun n => code (d n)) m d) ∧
      (f.imm.getLsbD 0 = false → f.imm.getLsbD 1 = true →
        let u := unpackStorage fm 256 image
        let d := down (fun n => u.1.getD (n / 32) 0) (fun n => u.2.getD n 0)
        done (fun n => code (d n)) m d)))

/-! The matrix array (R130 to R165). -/

/-- R131 to R134, R136: MLDR and MLDSP fill a row of a bank, elements from COLS on with zero, and leave every other row; MSWAP makes the other
bank active. Stated for an entry that is neither block-scaled nor wide, and MLDSP for one row. R131, R140 to R142, R151 to R155: a stream
of one pass takes accumulator row ROW through the rows of the active bank in order, each adding the products of one streamed element to
the columns below COLS, the checksum and the magnitude sum; with ACC = 0 it starts from zero. MEW does so element by element with the
upper half of its own register. The other rows of accumulators do not change; with ROWS = 0 there are 128. Stated for entries that are not
wide; MSTRSP for one vector. -/
def Obligations.MatrixLoadAndStream : Prop :=
  (∀ (s : State) (l : Nat) (f : MatF), takesArraySlot s l = true → FMap.wf zeroLane s.banks = true → FMap.wf rowDesc0 s.rowDescs = true →
    let k := fieldIn s R.CORE_STATUS_SLOT l 0
    let bank := if f.bank then 1 else 0
    let cols := if f.cols = 0 then 256 else f.cols.toNat
    let row := (here s l * 2 + bank) * 128 + f.row.toNat
    let holdsRow (t : State) (code : Nat) (e : Nat → Nat) (poison : Bool) : Prop :=
      (∀ n, n < 256 → FMap.get zeroLane t.banks (row * 256 + n) = BitVec.ofNat 32 (if n < cols then e n else 0)) ∧
      (∀ key, key / 256 ≠ row → FMap.get zeroLane t.banks key = FMap.get zeroLane s.banks key) ∧
      FMap.get rowDesc0 t.rowDescs row = { fmt := BitVec.ofNat 8 code, poison } ∧
      (∀ key, key ≠ row → FMap.get rowDesc0 t.rowDescs key = FMap.get rowDesc0 s.rowDescs key)
    (∀ e fm, fmtEntryIn s l f.fmt.toNat = some (e, fm) → fm.array = true → fm.block = false → wideFmt fm = false →
      (∃ t, exec (.mldr l f) s = .next t ∧ t = { s with banks := t.banks, rowDescs := t.rowDescs } ∧
        holdsRow t e.format (fun n => (vOf s l f.vreg.toNat n).toNat % 2 ^ fm.width) false) ∧
      (∀ x bs bad t1, f.count = 1 → ownAddrIn s l (aOf s l f.ad.toNat).toNat = some x →
        spanAllowedIn s l k x (fm.storage 256) = true →
        gives s (rdPad (soleAt s l 6) x (fm.storage 256)) = (.ok (bs, bad), t1) →
        ∃ t, exec (.mldsp l f) s = .next t ∧ t = { t1 with banks := t.banks, rowDescs := t.rowDescs } ∧
          holdsRow t e.format (fun n => leNat (slice bs 0 (fm.width * 256 / 8)) / 2 ^ (fm.width * n) % 2 ^ fm.width) bad)) ∧
    (FMap.wf ctx0 s.ctxs = true → ∃ t, exec (.mswap l f) s = .next t ∧ t = { s with ctxs := t.ctxs, regs := t.regs } ∧
      t.ctxs = FMap.set ctx0 s.ctxs (here s l) { FMap.get ctx0 s.ctxs (here s l) with bankB := !(FMap.get ctx0 s.ctxs (here s l)).bankB } ∧
      (FMap.wf resetValue s.regs = true →
        fieldIn t R.MX_STAT_ACTIVE l 0 = if (FMap.get ctx0 s.ctxs (here s l)).bankB then 0 else 1))) ∧
  (∀ (s : State) (l : Nat) (f : MatF) (e : FmtEntry) (fm : Fmt), takesArraySlot s l = true → FMap.wf zeroAcc s.accs = true →
    fmtEntryIn s l f.fmt.toNat = some (e, fm) → fm.array = true → wideFmt fm = false → f.pass.toNat ≤ 1 →
    let k := fieldIn s R.CORE_STATUS_SLOT l 0
    let rows := if f.rows = 0 then 128 else f.rows.toNat
    let cols := if f.cols = 0 then 256 else f.cols.toNat
    let key (c : Nat) : Nat := (here s l * 128 + f.row.toNat) * 257 + c
    ∀ (x0 : AccWork) (ws : Nat → StatRow), gives s (takeAcc l k f.row.toNat f.acc) = (.ok x0, s) →
    (∀ r, r < rows → gives s (statPart l k 1 r) = (.ok (ws r), s)) →
    let streamed (es : List Elem) (bad : Bool) : AccWork :=
      (List.range rows).foldl (fun x r => cellRow cols x (es.getD r elem0) (ws r)) { x0 with poison := x0.poison || bad }
    let left (s t : State) (x : AccWork) : Prop :=
      t = { s with accs := t.accs, accRows := t.accRows, regs := t.regs, cores := t.cores } ∧
      (∀ c, c < 256 → FMap.get zeroAcc t.accs (key c) = x.cols.getD c 0) ∧ FMap.get zeroAcc t.accs (key 256) = x.z ∧
      (∀ a, a / 257 ≠ here s l * 128 + f.row.toNat → FMap.get zeroAcc t.accs a = FMap.get zeroAcc s.accs a) ∧
      t.accRows = FMap.set accRow0 s.accRows (here s l * 128 + f.row.toNat) { g := x.g, inexact := x.inexact, poison := x.poison }
    let own := placed fm (vAll s l f.vreg.toNat)
    (∃ t, exec (.mstr l f) s = .next t ∧
      left s t (streamed (partsOf fm (placed fm ((vAll s l f.vreg.toNat).take 128)).1 (placed fm ((vAll s l f.vreg.toNat).take 128)).2).1 false)) ∧
    (∀ a bs bad t1, f.count = 1 → ownAddrIn s l (aOf s l f.ad.toNat).toNat = some a →
      spanAllowedIn s l k a (fm.storage 128) = true →
      gives s (rdPad (soleAt s l 6) a (fm.storage 128)) = (.ok (bs, bad), t1) →
      ∃ t, exec (.mstrsp l f) s = .next t ∧
        left t1 t (streamed (partsOf fm (unpackStorage fm 128 bs).1 (unpackStorage fm 128 bs).2).1 bad)) ∧
    (∃ t, exec (.mew l f) s = .next t ∧
      left s t ((List.range rows).foldl (fun x i =>
        mewCell x i ((partsOf fm own.1 own.2).1.getD i elem0) ((partsOf fm own.1 own.2).1.getD (128 + i) elem0)) x0)))

/-- R131, R133, R156, R187: a drain of a core that is in no join converts COUNT rows from ROW on, 256 accumulators each, those from COLS on as
zero, into v[VREG] onward (MDRN, to W32 or I32) or into the scratchpad one row after the other in the entry's storage form (MDRNSP), and
leaves the accumulators and everything else of the context; the random bits of row r begin at r times the stride of s63. What the
comparison finds is no matter for the values. -/
def Obligations.MatrixDrains : Prop :=
  ∀ (s : State) (l : Nat) (f : MatF) (e : FmtEntry) (fm : Fmt), takesArraySlot s l = true → joinIn s l = none →
    fmtEntryIn s l f.fmt.toNat = some (e, fm) →
    let k := fieldIn s R.CORE_STATUS_SLOT l 0
    let count := if f.count = 0 then 256 else f.count.toNat
    let cols := if f.cols = 0 then 256 else f.cols.toNat
    let stride := (sOf s l 63).toNat / 2 ^ 32
    let val (r n : Nat) : Val :=
      if n < cols then Fmt.acc.decode (FMap.get zeroAcc s.accs ((here s l * 128 + (f.row.toNat + r) % 128) * 257 + n)).toNat else .zero
    let out (r : Nat) := encodeAll fm e.round (roundBits s l e) (r * stride) (lanes (val r))
    let reg := here s l * 64 + f.vreg.toNat
    (fm = .w32 ∨ fm = .i32 → f.vreg.toNat + count ≤ 64 → FMap.wf zeroLane s.vregs = true → ∃ t, exec (.mdrn l f) s = .next t ∧
      t.accs = s.accs ∧ t.sregs = s.sregs ∧ t.aregs = s.aregs ∧ t.pregs = s.pregs ∧ t.spad = s.spad ∧
      (∀ r n, r < count → n < 256 → FMap.get zeroLane t.vregs ((reg + r) * 256 + n) =
        BitVec.ofNat 32 (fm.encode e.round (roundBits s l e (r * stride + n)) (val r n)).code) ∧
      ∀ x, (x / 256 < reg ∨ reg + count ≤ x / 256) → FMap.get zeroLane t.vregs x = FMap.get zeroLane s.vregs x) ∧
    (∀ x, let len := fm.storage 256
      (∀ r, r < count → ownAddrIn s l (((aOf s l f.ad.toNat).toNat + r * len) % 2 ^ 64) = some (x + r * len) ∧
        spanAllowedIn s l k (x + r * len) len = true) → x % 8 = 0 →
      FMap.wf zeroByte s.spad = true → FMap.wf core0 s.cores = true → FMap.wf resetValue s.regs = true → fieldIn s R.SP_FLIPC_ARMED l 0 = 0 →
      spTurnIn s l 2 = true → ∃ t, exec (.mdrnsp l f) s = .next t ∧ t.accs = s.accs ∧ t.vregs = s.vregs ∧ t.sregs = s.sregs ∧ t.aregs = s.aregs ∧ t.pregs = s.pregs ∧
        ∀ r, r < count → (gives t (spRead l (x + r * len) len)).1 = .ok (some (packStorage fm (out r).1 ((out r).2.map (·.code))), []))

/-- R158, R159: a drain that waits at member (0, j) of a join goes on when the partials of the other members have come: in a join of two rows
of the grid MDRN of one row adds the other member's partial to its own row by R159 and converts the sum into v[VREG], leaving its own
accumulators, and its sentence retires; with one still missing JOIN_REDUCE leaves every accumulator and register of the contexts as it
was. R146, R148: RAMP_DOWN takes 8 rows off the enabled rows of the array; MX_STAT shows the count in units of 8 and, until it is 0, that
the array ramps down. -/
def Obligations.JoinReduceAndRamp : Prop :=
  (∀ (s : State) (l : Nat) (q : Sentence), worksIn s l = true →
    let k := fieldIn s R.CORE_STATUS_SLOT l 0
    let c := FMap.get ctx0 s.ctxs (here s l)
    underWayIn s l k = true → c.wait = .join → c.sentence = some q → q.slot = 6 → bitN q.raw.toNat 18 = true →
    (∀ t1, gives s (do setF R.CORE_STATUS_WAITING 0 l; setF R.CORE_STATUS_WAIT_CJ 0 l; runSlots l k 8) = (.ok true, t1) →
      ∃ t, exec (.joinReduce l) s = .next t ∧ t.accs = t1.accs ∧ t.vregs = t1.vregs ∧ t.partials = t1.partials ∧
        (FMap.wf ctx0 t1.ctxs = true → (FMap.get ctx0 t.ctxs (here s l)).sentence = none)) ∧
    (∀ (f : MatF) (e : FmtEntry) (fm : Fmt) (j : JoinRec) (col : Nat) (p : Partial) (r : DrainRow) (sat : Bool),
      slotBits q.raw 6 = matBits 0x06 f → matOf (matBits 0x06 f) = f → attRunsIn s l k = false → f.count = 1 → bitN q.raw.toNat 19 = false →
      fmtEntryIn s l f.fmt.toNat = some (e, fm) → fm = .w32 ∨ fm = .i32 → joinIn s l = some (j, 0, col) → j.rows = 2 →
      s.partials = [p] → p.core = joinCoreIn s l j 1 col → p.slot = k → p.row = f.row.toNat → FMap.wf ctx0 s.ctxs = true →
      let at0 := here s l * 128 + f.row.toNat
      let d := FMap.get accRow0 s.accRows at0
      let own : DrainRow := ⟨f.row.toNat, (List.range 257).map (fun n => FMap.get zeroAcc s.accs (at0 * 257 + n)), d.g, d.inexact, d.poison⟩
      reducePartials j.tree [own, ⟨f.row.toNat, p.accs, p.g, p.inexact, p.poison⟩] = some (r, sat) →
      let val (n : Nat) : Val := if n < (if f.cols = 0 then 256 else f.cols.toNat) then accVal (r.accs.getD n 0) else .zero
      ∃ t, exec (.joinReduce l) s = .next t ∧ t.partials = [] ∧ t.accs = s.accs ∧ t.sregs = s.sregs ∧ t.spad = s.spad ∧
        (FMap.get ctx0 t.ctxs (here s l)).sentence = none ∧ t.vregs = (withV s (here s l) f.vreg.toNat
          (lanes (fun n => BitVec.ofNat 32 (fm.encode e.round (roundBits s l e n) (val n)).code))).vregs) ∧
    (∀ f : MatF, slotBits q.raw 6 = matBits 0x06 f → matOf (matBits 0x06 f) = f → attRunsIn s l k = false →
      (∃ e fm, fmtEntryIn s l f.fmt.toNat = some (e, fm) ∧ (fm = .w32 ∨ fm = .i32)) → f.vreg.toNat + (if f.count = 0 then 256 else f.count.toNat) ≤ 64 →
      (∃ j col, joinIn s l = some (j, 0, col) ∧ 1 < j.rows ∧ s.partials = []) →
      ∃ t, exec (.joinReduce l) s = .next t ∧ t.accs = s.accs ∧ t.vregs = s.vregs ∧ t.sregs = s.sregs ∧ t.spad = s.spad ∧
        (FMap.wf ctx0 s.ctxs = true → (FMap.get ctx0 t.ctxs (here s l)).wait = .join))) ∧
  (∀ (s : State) (l : Nat), l < 144 → FMap.wf resetValue s.regs = true → 0 < fieldIn s R.MX_STAT_ENABLED l 0 →
    ∃ t, exec (.rampDown l) s = .next t ∧ t = { s with regs := t.regs, cores := t.cores } ∧
      fieldIn t R.MX_STAT_ENABLED l 0 = fieldIn s R.MX_STAT_ENABLED l 0 - 1 ∧
      fieldIn t R.MX_STAT_RAMPDOWN l 0 = (if fieldIn s R.MX_STAT_ENABLED l 0 = 1 then 0 else 1) ∧
      ∀ off, off ≠ R.MX_STAT_ENABLED.addr l 0 → FMap.get resetValue t.regs off = FMap.get resetValue s.regs off)

/-! Sync slots, sentences and contexts (R93 to R101, R112 to R129). -/

/-- R113, R114: where the predicate holds, BR, BRI, CALL and LOOP make the sentence address that follows the target: 32 bytes a unit of IMM
from the slot's own sentence, or the address in s[RS]; CALL links and LOOP counts down, branching unless it reaches 0. Where it fails
they, YIELD and TRAP do nothing. R125 to R128: TRAP traps SOFT with IMM[15:0] as its detail; a DMAWAIT on a channel that an uncorrectable
error of the context's last transfer has halted traps DMA_UE with the address that failed, and frees the channel. The context reads
trapped, no register or memory of it changes, and with no trap held CORE_TRAP0 to 2 tell slot 7, the cause, the context's address and the
detail. -/
def Obligations.BranchesAndSyncTraps : Prop :=
  (∀ (s : State) (l : Nat) (f : SyncF), takesSlot s l = true →
    let c := FMap.get ctx0 s.ctxs (here s l)
    let v := sOf s l f.rs.toNat
    let branch (t : State) (a : BitVec 48) : State := { t with ctxs := FMap.set ctx0 t.ctxs (here s l) { c with saddr := a } }
    let target := c.saddr + BitVec.ofInt 48 (32 * f.imm.toInt)
    (holds s l f.pred f.pneg = true →
      exec (.br l f) s = .next (branch s target) ∧
      (v.toNat % 32 = 0 → exec (.bri l f) s = .next (branch s (v.truncate 48))) ∧
      exec (.call l f) s = .next (branch (withS s (here s l) f.rs.toNat (BitVec.ofNat 64 (c.saddr.toNat + 64))) target) ∧
      exec (.loopOp l f) s = .next
        (if v = 1 then withS s (here s l) f.rs.toNat 0 else branch (withS s (here s l) f.rs.toNat (v - 1)) target) ∧
      exec (.yieldOp l f) s = .next { s with ctxs := FMap.set ctx0 s.ctxs (here s l) { c with yielded := true } }) ∧
    (holds s l f.pred f.pneg = false →
      ∀ i ∈ [Instr.br l f, .bri l f, .call l f, .loopOp l f, .yieldOp l f, .trap l f], exec i s = .next s)) ∧
  (∀ (s : State) (l : Nat) (f : SyncF), takesSlot s l = true → holds s l f.pred f.pneg = true →
    FMap.wf resetValue s.regs = true → ctxIdIn s l (fieldIn s R.CORE_STATUS_SLOT l 0) < 2 ^ 16 →
    let k := fieldIn s R.CORE_STATUS_SLOT l 0
    let trapped (i : Instr) (cause detail : Nat) (dmas : FMap Dma) : Prop := ∃ t, exec i s = .next t ∧
      t.sregs = s.sregs ∧ t.aregs = s.aregs ∧ t.pregs = s.pregs ∧ t.vregs = s.vregs ∧ t.spad = s.spad ∧ t.dmas = dmas ∧
      fieldIn t R.CORE_CTX_CSTATE l k = 3 ∧ fieldIn t R.CORE_STATUS_RUN l 0 = 3 ∧
      (fieldIn s R.CORE_TRAP0_VALID l 0 = 1 → fieldIn t R.CORE_TRAP0_OVERFLOW l 0 = 1 ∧ fieldIn t R.CORE_TRAP0_CAUSE l 0 = fieldIn s R.CORE_TRAP0_CAUSE l 0) ∧
      (fieldIn s R.CORE_TRAP0_VALID l 0 = 0 →
        fieldIn t R.CORE_TRAP0_VALID l 0 = 1 ∧ fieldIn t R.CORE_TRAP0_CAUSE l 0 = cause ∧ fieldIn t R.CORE_TRAP0_SLOT l 0 = 7 ∧
        fieldIn t R.CORE_TRAP0_LCORE l 0 = l ∧ fieldIn t R.CORE_TRAP0_CTX_ID l 0 = ctxIdIn s l k ∧
        fieldIn t R.CORE_TRAP1_SADDR l 0 = (FMap.get ctx0 s.ctxs (here s l)).saddr.toNat ∧
        fieldIn t R.CORE_TRAP2_DETAIL l 0 = detail)
    trapped (.trap l f) 0x10 (f.imm.toNat % 2 ^ 16) s.dmas ∧
    (∀ g, let d := FMap.get dma0 s.dmas (l * 8 + f.imm.toNat % 8)
      d.state = 2 → d.slot = k → d.failed = some g → (FMap.get ctx0 s.ctxs (here s l)).lastDma.any
        (fun p => p.1 == f.imm.toNat % 8 && p.2 == d.number) = true →
      trapped (.dmawait l f) 0x09 (g % 2 ^ 62)
        (FMap.set dma0 s.dmas (l * 8 + f.imm.toNat % 8) { d with state := 0, failed := none })))

/-- R318 to R320, R323, R324: with no posted store of the context outstanding, a release lets later plain stores carry its scope and an
acquire tests the tags that plain loads have met, drops what the context has read ahead or asked for ahead, and empties the core's read
cache at clause or wider scope; with no tags kept nothing else changes. R325, R124, R396, R398: BAR passes when every other core of the
clause waits at the same barrier: those go on, and all have made a release and an acquire at clause scope. CJWAIT passes when its instance
has the result already. DMAWAIT passes when the context's last transfer on the channel has ended, with an acquire at core scope. -/
def Obligations.FencesAndWaits : Prop :=
  (∀ (s : State) (l : Nat) (f : SyncF), takesSlot s l = true → holds s l f.pred f.pneg = true → f.scope ≠ 0 → f.scope ≠ 7 →
    storesOutIn s l (fieldIn s R.CORE_STATUS_SLOT l 0) false = false → FMap.wf ctx0 s.ctxs = true →
    let c := FMap.get ctx0 s.ctxs (here s l)
    let cache := if 2 ≤ f.scope.toNat then s.cache.filter (fun x => x.core != l) else s.cache
    let k := fieldIn s R.CORE_STATUS_SLOT l 0
    let acquired (i : Instr) (c' : Ctx) : Prop := ∃ t, exec i s = .next t ∧
      t = { s with ctxs := t.ctxs, cache := cache, regs := t.regs,
                   reqs := s.reqs.map (fun r => if r.purpose = .early l k then { r with purpose := .agent } else r) } ∧ (fieldIn s R.DEV_MOOD_DEBUG 0 0 = 0 → t.regs = s.regs) ∧
      ∀ key, FMap.get ctx0 t.ctxs key = if key = here s l then c' else FMap.get ctx0 s.ctxs key
    exec (.fenceRel l f) s = .next { s with ctxs := FMap.set ctx0 s.ctxs (here s l) { c with span := f.scope } } ∧
    acquired (.fenceAcq l f) { c with seen := [], early := none } ∧ acquired (.fenceAr l f) { c with span := f.scope, seen := [], early := none }) ∧
  (∀ (s : State) (l : Nat) (f : SyncF), takesSlot s l = true → holds s l f.pred f.pneg = true →
    let k := fieldIn s R.CORE_STATUS_SLOT l 0
    let c := FMap.get ctx0 s.ctxs (here s l)
    FMap.wf ctx0 s.ctxs = true → storesOutIn s l k false = false →
    (∀ y, clauseOfIn s l = some y → y.cores.Nodup →
      (∀ m ∈ y.cores, cstateIn s m k ≠ 3 ∧ (FMap.get ctx0 s.ctxs (ctxKey m k)).stopped = false) →
      (∀ m ∈ y.cores, m ≠ l → (FMap.get ctx0 s.ctxs (ctxKey m k)).wait = .barrier f.id.toNat) →
      ∃ t, exec (.bar l f) s = .next t ∧ t = { s with ctxs := t.ctxs, cache := t.cache, regs := t.regs, reqs := t.reqs } ∧
        (∀ m ∈ y.cores, (FMap.get ctx0 t.ctxs (ctxKey m k)).wait = .none ∧ (FMap.get ctx0 t.ctxs (ctxKey m k)).span = 3) ∧
        ∀ x ∈ t.cache, x.core ∉ y.cores ∧ x ∈ s.cache) ∧
    (∀ j e d, c.job = some j → peersLostIn s (soleAt s l 7) = false →
      gives s (readOp j f.id.toNat) = (.ok (0, some e), s) → e.kind = 1 →
      s.colls.find? (fun x => x.j == j && x.id == f.id.toNat && x.inst == cjCountIn s l j f.id.toNat) =
        some d → d.finished = true →
      ∃ t, exec (.cjwait l f) s = .next t ∧ t = { s with ctxs := t.ctxs, cache := t.cache, regs := t.regs, reqs := t.reqs } ∧
        (FMap.get ctx0 t.ctxs (here s l)).wait = .none ∧
        (FMap.get ctx0 t.ctxs (here s l)).cjs.find? (fun p => p.1 == f.id.toNat) =
          some (f.id.toNat, ((c.cjs.find? (fun p => p.1 == f.id.toNat)).map (·.2)).getD 0 + 1)) ∧
    (∀ n, n = f.imm.toNat % 8 → (FMap.get dma0 s.dmas (l * 8 + n)).state = 0 →
      ∃ t, exec (.dmawait l f) s = .next t ∧ t = { s with ctxs := t.ctxs, cache := s.cache.filter (fun x => x.core != l), reqs := t.reqs } ∧
        FMap.get ctx0 t.ctxs (here s l) = { c with early := none } ∧ ∀ r ∈ t.reqs, r.purpose ≠ .early l k))

/-- R96, R102, R105, R108, R112, R113: the fields of every slot read back from its bits, whatever the operation code and the operands. -/
def Obligations.SlotFieldsReadBack : Prop :=
  ∀ op, op < 256 →
    (∀ f, scalarOf (scalarBits op f) = f ∧ scalarBits op f % 256 = op ∧ scalarBits op f < 2 ^ 64) ∧
    (∀ f, addrOf (addrBits op f) = f ∧ addrBits op f % 256 = op ∧ addrBits op f < 2 ^ 64) ∧
    (∀ f, vecOf (vecBits op f) = f ∧ vecBits op f % 256 = op ∧ vecBits op f < 2 ^ 80) ∧
    (∀ f, matOf (matBits op f) = f ∧ matBits op f % 256 = op ∧ matBits op f < 2 ^ 64) ∧
    (∀ f, syncOf (syncBits op f) = f ∧ syncBits op f % 256 = op ∧ syncBits op f < 2 ^ 64)

/-- R96, R103, R106, R109, R112, R113, R543: in a sentence the bits of a slot have the effect of the command that names the same operation and
operands; operation code 0 has none, and a code the table does not list is a fault of encoding. -/
def Obligations.SlotBitsTakeEffect : Prop :=
  ∀ (s : State) (a : At) (op : Nat), op < 256 →
    (∀ f, a.n = 1 ∨ a.n = 2 → slotEffect (s0 := s) a (scalarBits op f) =
      if op = 0 then pure () else match scalarOp (s0 := s) op with | some g => g a f | none => illegal) ∧
    (∀ f, a.n = 3 → slotEffect (s0 := s) a (addrBits op f) =
      if op = 0 then pure () else match addrOp (s0 := s) op with | some g => g a f | none => illegal) ∧
    (∀ f, a.n = 4 ∨ a.n = 5 → slotEffect (s0 := s) a (vecBits op f) =
      if op = 0 then pure () else match vecOp (s0 := s) op with | some g => g a f | none => illegal) ∧
    (∀ f, a.n = 6 → slotEffect (s0 := s) a (matBits op f) =
      if op = 0 then pure () else match matOp (s0 := s) op with | some g => g a f | none => illegal) ∧
    (∀ f, a.n = 7 → slotEffect (s0 := s) a (syncBits op f) =
      if op = 0 then pure () else match syncOp (s0 := s) op with | some g => g a f | none => illegal)

/-- R95, R100, R101, R119: a fetched sentence with no slot present and no part in proof-reading retires: the context goes on at the sentence
that follows, or has reached its end at this one; the quota goes down by one and the count of retired sentences up. -/
def Obligations.SentenceRetires : Prop :=
  ∀ (s t1 : State) (l : Nat) (raw : BitVec 512), worksIn s l = true → FMap.wf resetValue s.regs = true → FMap.wf ctx0 s.ctxs = true →
    let k := fieldIn s R.CORE_STATUS_SLOT l 0
    let c := FMap.get ctx0 s.ctxs (here s l)
    c.sentence = none → c.yielded = false → lowVoltageIn s l = false → runnableIn s l k = true → switchDueIn s l k = false →
    haltedIn s l = false → 0 < fieldIn s R.CORE_CTX_QUOTA_LEFT l k →
    gives s (do
      modCore l (fun c => { c with stepping := false })
      modCtx l k (fun c => { c with yielded := false })
      setF R.CORE_STATUS_RUN 1 l
      fetchSentence l k) = (.ok (some raw), t1) →
    t1.ctxs = FMap.set ctx0 s.ctxs (here s l) { c with yielded := false } → fieldIn t1 R.CORE_CTX_QUOTA_LEFT l k = fieldIn s R.CORE_CTX_QUOTA_LEFT l k →
    (∀ n, 1 ≤ n → n ≤ 7 → raw.getLsbD (12 + n) = false) → raw.getLsbD 2 = false → FMap.wf resetValue t1.regs = true →
    ∃ t, exec (.sentenceIssue l) s = .next t ∧ t = { t1 with ctxs := t.ctxs, regs := t.regs } ∧
      (FMap.get ctx0 t.ctxs (here s l)).sentence = none ∧
      (FMap.get ctx0 t.ctxs (here s l)).ended = raw.getLsbD 4 ∧
      (FMap.get ctx0 t.ctxs (here s l)).saddr =
        (if raw.getLsbD 4 then c.saddr else c.saddr + BitVec.ofNat 48 (if raw.toNat % 4 = 1 then 32 else 64)) ∧
      fieldIn t R.CORE_CTX_QUOTA_LEFT l k = fieldIn s R.CORE_CTX_QUOTA_LEFT l k - 1 ∧
      fieldIn t R.CORE_RETIRED_COUNT l 0 = (fieldIn t1 R.CORE_RETIRED_COUNT l 0 + 1) % 2 ^ R.CORE_RETIRED_COUNT.width

/-- R120, R121, R129: at a boundary where a switch is due, and the memory that holds the images and regions can be read, the core runs the
next runnable context: the outgoing one is saved, the array is ramped down, and the switch is counted. R100, R124, R128, R190: the part of
a context that has reached its end, its transfers ended and none halted, is done: it reads finished, and the core is idle where it ran
that context and no other can. No flag update of it waits at a port (R297). -/
def Obligations.ContextsSwitchAndEnd : Prop :=
  (∀ (s : State) (l n : Nat), worksIn s l = true → FMap.wf resetValue s.regs = true → FMap.wf ctx0 s.ctxs = true →
    let k := fieldIn s R.CORE_STATUS_SLOT l 0
    (FMap.get ctx0 s.ctxs (here s l)).sentence = none → switchDueIn s l k = true → attRunsIn s l k = false → haltedIn s l = false →
    otherIn s l k = some n → ∀ t : State, gives s (switchTo l (some k) n) = (.ok (), t) →
    exec (.contextSwitch l) s = .next t ∧ fieldIn t R.CORE_STATUS_SLOT l 0 = n ∧
      (FMap.get ctx0 t.ctxs (here s l)).saved = true ∧ (FMap.get ctx0 t.ctxs (here s l)).savedAt = sliceIn s l k ∧
      fieldIn t R.MX_STAT_ENABLED l 0 = 0 ∧
      fieldIn t R.CORE_SWITCHES_SWITCHES l 0 = (fieldIn s R.CORE_SWITCHES_SWITCHES l 0 + 1) % 2 ^ R.CORE_SWITCHES_SWITCHES.width) ∧
  (∀ (s : State) (l k : Nat), l < 144 → FMap.wf resetValue s.regs = true → FMap.wf ctx0 s.ctxs = true →
    (List.range 16).find? (fun k => (FMap.get ctx0 s.ctxs (ctxKey l k)).ended && channelsDoneIn s l k) = some k →
    haltedChannelIn s l k = none → (gives s (mergeFlags l k)).1 = .ok () →
    ∃ t, exec (.contextDone l) s = .next t ∧ fieldIn t R.CORE_CTX_CSTATE l k = 2 ∧
      (FMap.get ctx0 t.ctxs (ctxKey l k)).ended = false ∧
      (fieldIn s R.CORE_STATUS_SLOT l 0 = k → otherIn t l k = none → haltedIn s l = false → fieldIn t R.CORE_STATUS_RUN l 0 = 0) ∧
      t.sregs = s.sregs ∧ t.aregs = s.aregs ∧ t.vregs = s.vregs ∧ t.accs = s.accs)

/-! Proof-reading (R414 to R418) and the attention engine (R192 to R218). -/

/-- R416 to R418: a proof record that has been compared, or that is late, leaves its field's queue. Where every 4 KiB piece of the two output
records has the same agreement word nothing else changes; where one differs the mismatch is counted, the open attempt of the record's job
has met a class D fault, and the issuing context is one whose blocks are retracted; a late record is counted and is no fault. (A block of
the job that waits for the comparison is settled with it: here none waits.) -/
def Obligations.ProofRecordTaken : Prop :=
  ∀ (s : State) (field : Nat) (original checker : List Byte) (p : ProofRec),
    s.proofs.find? (fun p => p.field == field) = some p → (∀ e ∈ unsettledIn s p.job, e.isBlock = false) →
    FMap.wf resetValue s.regs = true → FMap.wf job0 s.jobs = true →
    let rest := eraseFirst p s.proofs
    let differ (i : Nat) : Prop := agree (slice original (4096 * i) 4096) ≠ agree (slice checker (4096 * i) 4096)
    ((∀ i, ¬ differ i) → exec (.proofCompare field original checker) s = .next { s with proofs := rest }) ∧
    ((∃ i, differ i) → ∃ t, exec (.proofCompare field original checker) s = .next t ∧ t.proofs = rest ∧
      fieldIn t R.INT_PROOF_MISMATCH 0 0 = min (fieldIn s R.INT_PROOF_MISMATCH 0 0 + 1) (2 ^ R.INT_PROOF_MISMATCH.width - 1) ∧
      ((FMap.get job0 s.jobs p.job).isOpen = true → (FMap.get ctx0 s.ctxs (ctxKey p.core p.slot)).job = some p.job →
        (FMap.get job0 t.jobs p.job).faultD = true ∧ (p.core, p.slot) ∈ (FMap.get job0 t.jobs p.job).failed) ∧
      t.sregs = s.sregs ∧ t.vregs = s.vregs ∧ t.accs = s.accs ∧ t.spad = s.spad) ∧
    exec (.proofLate field) s = .next (withField { s with proofs := rest } R.INT_PROOF_LATE
      (min (fieldIn s R.INT_PROOF_LATE 0 0 + 1) (2 ^ R.INT_PROOF_LATE.width - 1)))

/-- R196: a word written to ATT_CMD of a core by that core's own descriptor transfer is taken, and the last of them puts the operation in the
engine; one from anywhere else is discarded and counted. R201, R208 to R214: the pass of the operation at the head of the engine. Checked
and computed, its empty rows stand with it; where the array ran it has compared some rows (how many is free, R155; log entry 31) and
nothing else changes. Rejected, the cause is shown and counted, the operation leaves the engine and its channel is free, and no memory,
register or array of a context changes. R195, R218: an operation that completes is counted, its channel is free and the next one is at the
head of the engine; the two stationary banks and the accumulator plane of its context are zero, every inexact bit clear and bank A active;
the context's registers are as before. -/
def Obligations.AttentionOperations : Prop :=
  (∀ (s : State) (l ch k : Nat) (by' : Agent) (v : Word), l < 144 → k < 24 → FMap.wf resetValue s.regs = true →
    FMap.wf core0 s.cores = true →
    let d := FMap.get dma0 s.dmas (l * 8 + ch)
    (by' = .dma l ch → ch < 8 → d.state = 1 → d.kind = 1 → d.len = 192 → commandSource s l d.src = true →
      d.dst % 2 ^ 48 = 0xC00000000000 + R.ATT_CMD_DESC.addr l 0 →
      (k < 23 → exec (.attCmdWrite l by' k v) s = .next { s with regs := FMap.set resetValue s.regs (R.ATT_CMD_DESC.addr l k) v }) ∧
      (k = 23 → ∃ t, exec (.attCmdWrite l by' k v) s = .next t ∧ t = { s with regs := t.regs, cores := t.cores } ∧
        (FMap.get core0 t.cores l).att = (FMap.get core0 s.cores l).att ++ [{
          ch, slot := d.slot, done := false, empty := 0, ran := false, op := d.op
          desc := (List.range 24).flatMap (fun i => leBytes 8
            (if i = 23 then v else FMap.get resetValue s.regs (R.ATT_CMD_DESC.addr l i)).toNat) }])) ∧
    ((∀ c, by' ≠ .dma l c) → exec (.attCmdWrite l by' k v) s = .next (withField s R.ATT_CNT_DISCARDED
      (min (fieldIn s R.ATT_CNT_DISCARDED l 0 + 1) (2 ^ R.ATT_CNT_DISCARDED.width - 1)) l))) ∧
  (∀ (s t1 : State) (l : Nat) (n : AttCounts) (x : AttOp) (rest : List AttOp), l < 144 → underResetIn s l = false →
    (FMap.get core0 s.cores l).att = x :: rest → x.done = false → FMap.wf resetValue s.regs = true → FMap.wf core0 s.cores = true →
    let ran (i : Instr) : Prop := (FMap.get core0 t1.cores l).inject = false → ∃ t, exec i s = .next t ∧
      t = { t1 with regs := t.regs, cores := t.cores, fresh := t.fresh } ∧
      (FMap.get core0 t.cores l).att = { x with done := true, empty := n.empties, ran := n.ran } :: rest
    (fieldAt x.desc 0 1 = 1 →
      gives s (do let (d, i) ← attChecked l x.slot x.desc; forwardPass l x.slot d i) = (.ok n, t1) → ran (.forwardPass l)) ∧
    (fieldAt x.desc 0 1 = 2 →
      gives s (do let (d, i) ← attChecked l x.slot x.desc; backwardPass l x.slot d i) = (.ok n, t1) → ran (.backwardPass l)) ∧
    (∀ c, c < 256 → gives s (attChecked l x.slot x.desc) = (.error (.code c), t1) →
      ∀ i ∈ (if fieldAt x.desc 0 1 = 1 then [Instr.forwardPass l] else if fieldAt x.desc 0 1 = 2 then [.backwardPass l]
        else [.forwardPass l, .backwardPass l]),
      ∃ t, exec i s = .next t ∧ fieldIn t R.ATT_STAT_REJECTED l 0 = 1 ∧ fieldIn t R.ATT_STAT_CAUSE l 0 = c % 2 ^ R.ATT_STAT_CAUSE.width ∧
        fieldIn t R.ATT_CNT_REJECTS l 0 = min (fieldIn s R.ATT_CNT_REJECTS l 0 + 1) (2 ^ R.ATT_CNT_REJECTS.width - 1) ∧
        (FMap.get core0 t.cores l).att = rest ∧
        t.dmas = FMap.set dma0 s.dmas (l * 8 + x.ch) { FMap.get dma0 s.dmas (l * 8 + x.ch) with state := 0 } ∧
        t.spad = t1.spad ∧ t.sregs = s.sregs ∧ t.vregs = s.vregs ∧ t.banks = s.banks ∧ t.accs = s.accs)) ∧
  (∀ (s t0 : State) (l : Nat) (x : AttOp) (rest : List AttOp) (r : Nat × Word × List Rec),
    (FMap.get core0 s.cores l).att = x :: rest → x.done = true →
    gives s (modAtomic ((descOf x.desc).empty % 2 ^ 48)
      (fun old => some (BitVec.ofNat 64 (min (old.toNat + x.empty) (2 ^ 64 - 1))))) = (.ok r, t0) → FMap.wf resetValue s.regs = true → FMap.wf zeroLane s.banks = true → FMap.wf rowDesc0 s.rowDescs = true →
    FMap.wf zeroAcc s.accs = true → FMap.wf accRow0 s.accRows = true → FMap.wf ctx0 s.ctxs = true → FMap.wf core0 s.cores = true →
    ∃ t, exec (.attentionComplete l) s = .next t ∧
      fieldIn t R.ATT_CNT_DONE l 0 = (fieldIn s R.ATT_CNT_DONE l 0 + 1) % 2 ^ R.ATT_CNT_DONE.width ∧
      t.dmas = FMap.set dma0 s.dmas (l * 8 + x.ch) { FMap.get dma0 s.dmas (l * 8 + x.ch) with state := 0 } ∧
      (FMap.get core0 t.cores l).att = rest ∧ (FMap.get ctx0 t.ctxs (ctxKey l x.slot)).bankB = false ∧
      (∀ i, i < 65536 → FMap.get zeroLane t.banks (ctxKey l x.slot * 65536 + i) = 0) ∧
      (∀ i, i < 256 → FMap.get rowDesc0 t.rowDescs (ctxKey l x.slot * 256 + i) = {}) ∧
      (∀ i, i < 32896 → FMap.get zeroAcc t.accs (ctxKey l x.slot * 32896 + i) = 0) ∧
      (∀ i, i < 128 → FMap.get accRow0 t.accRows (ctxKey l x.slot * 128 + i) = {}) ∧
      t.sregs = s.sregs ∧ t.aregs = s.aregs ∧ t.pregs = s.pregs ∧ t.vregs = s.vregs)

/-! The KV engine (R225 to R241). -/

/-- R225 to R228: the four commands of a well-formed 64 bytes, while the engine serves and is at nothing else and nothing waits for it. OPEN
of a free sequence with a right layout, a policy of the stream and no prefix looked up creates it; GROW sets NGROW; EXCLUDE of a sequence
held in the tense its job has open marks it; CLOSE of one that is not active in an open tense releases it; each ends with its completion
word. One turned away changes nothing but its completion word, which tells why. R227: what a command leaves of the sequences: CLOSE leaves
nothing of its sequence, no row and no spill slot (stated where its completion word lies on another module, so that nothing waits); no
command touches another sequence's entry. A command that comes while the engine is at work waits in its queue, last (R225). Stated where
no opening and nothing else that came before goes on with it. -/
def Obligations.KvCommands : Prop :=
  (∀ (s t : State) (cmd : BitVec 512), kvServed s = true → kvBusyIn s = false → s.kv.queue = [] → s.kv.serving = none →
    s.kv.awaited = none → kvFormOk (cmdBytes cmd) = true →
    let c := cmdBytes cmd
    let n := fieldAt c 2 2
    let q := FMap.get seq0 s.seqs n
    let ends (m : M s Unit) (result : Nat) (i : Instr) : Prop :=
      gives s (do m; moduleWrite (fieldAt c 40 8 % 2 ^ 62) (leBytes 8 result)) = (.ok (), t) → exec i s = .next t
    (fieldAt c 0 1 = 1 →
      let new : Seq := {
        isOpen := true, publish := fieldAt c 1 1 == 1, job := fieldAt c 4 2, batch := fieldAt c 6 2, policy := fieldAt c 8 1
        tshift := fieldAt c 9 1, planes := fieldAt c 10 1, maxlen := fieldAt c 12 4, tokens := fieldAt c 24 8
        pkey := BitVec.ofNat 64 (fieldAt c 16 8) }
      (fieldIn s R.KV_POOL_PAGES 0 0 = 0 → ends (pure ()) KvResult.noMap (.openSeq cmd)) ∧
      (fieldIn s R.KV_POOL_PAGES 0 0 ≠ 0 → q.isOpen = true → ends (pure ()) KvResult.seqBusy (.openSeq cmd)) ∧
      (q.isOpen = false → 6 ≤ new.tshift → new.tshift ≤ 12 → (new.tshift = 12 → new.publish = false) → 1 ≤ new.planes → new.planes ≤ 64 → 1 ≤ new.maxlen → new.maxlen ≤ 2 ^ 20 →
        new.planes * kvPpp new ≤ 65536 → (∃ x, s.stream = some x ∧ x.policies.any (fun p => p.num == new.policy) = true) →
        fieldIn s R.KV_POOL_PAGES 0 0 ≠ 0 → fieldAt c 32 4 ≤ 32 → (gives s mapFull).1 = .ok false →
        ends (do
          let _ ← mapFull
          putSeq n new
          setF R.KV_STATUS_SEQS ((← getF R.KV_STATUS_SEQS) + 1)
          eff (.kv { (← st).kv with work := none })
          kvCached) KvResult.ok (.openSeq cmd))) ∧
    (fieldAt c 0 1 = 2 →
      (q.isOpen = false → ends (pure ()) KvResult.seqFree (.grow cmd)) ∧
      (q.isOpen = true → seqTenseOpen s q = true → q.held = true → ends (pure ()) KvResult.heldSeq (.grow cmd)) ∧
      (q.isOpen = true → (seqTenseOpen s q && q.held) = false →
        ends (if q.maxlen < q.clen + q.grow + fieldAt c 12 4 then pure () else putSeq n { q with ngrow := fieldAt c 12 4 })
          (if q.maxlen < q.clen + q.grow + fieldAt c 12 4 then KvResult.length else KvResult.ok) (.grow cmd))) ∧
    (fieldAt c 0 1 = 3 → q.isOpen = false → ends (pure ()) KvResult.seqFree (.exclude cmd)) ∧
    (fieldAt c 0 1 = 3 → ∀ j, jobSlotIn s q.job = some j → (FMap.get job0 s.jobs j).isOpen = true → q.isOpen = true →
      (q.held = true → fieldIn s R.CJ_JOBB_TENSE j 0 = fieldAt c 12 4 →
        ends (putSeq n { q with excluded := true }) KvResult.ok (.exclude cmd)) ∧
      (q.held = false ∨ fieldIn s R.CJ_JOBB_TENSE j 0 ≠ fieldAt c 12 4 → ends (pure ()) KvResult.notHeld (.exclude cmd))) ∧
    (fieldAt c 0 1 = 4 →
      (q.isOpen = false → ends (pure ()) KvResult.seqFree (.closeSeq cmd)) ∧
      (q.isOpen = true → seqBusy s q = true → ends (pure ()) KvResult.seqBusy (.closeSeq cmd)) ∧
      (q.isOpen = true → seqBusy s q = false → ends (kvRelease n) KvResult.ok (.closeSeq cmd)))) ∧
  (∀ (s : State) (cmd : BitVec 512), FMap.wf seq0 s.seqs = true → FMap.wf row0 s.rows = true → FMap.wf noSlot s.spillSlots = true →
    let n := fieldAt (cmdBytes cmd) 2 2
    (∀ p ∈ [(1, Instr.openSeq cmd), (2, .grow cmd), (3, .exclude cmd), (4, .closeSeq cmd)], fieldAt (cmdBytes cmd) 0 1 = p.1 →
      s.kv.work.isSome = true →
      exec p.2 s = .next { s with kv := { s.kv with queue := s.kv.queue ++ [.command (cmdBytes cmd) .word] } }) ∧
    (s.kv.work.isSome = true ∨ (kvBusyIn s = false ∧ s.kv.queue = []) → ∀ i ∈ [Instr.openSeq cmd, .grow cmd, .exclude cmd, .closeSeq cmd], ∃ t, exec i s = .next t ∧
      ∀ m, m ≠ n → FMap.get seq0 t.seqs m = FMap.get seq0 s.seqs m) ∧
    (kvServed s = true → kvBusyIn s = false → s.kv.queue = [] → fieldAt (cmdBytes cmd) 40 8 % 2 ^ 62 / 2 ^ 48 ≠ chipIn s → kvFormOk (cmdBytes cmd) = true → fieldAt (cmdBytes cmd) 0 1 = 4 →
      (FMap.get seq0 s.seqs n).isOpen = true → seqBusy s (FMap.get seq0 s.seqs n) = false →
      ∃ t, exec (.closeSeq cmd) s = .next t ∧ FMap.get seq0 t.seqs n = {} ∧
        (∀ k, k < 65536 → FMap.get row0 t.rows (n * 65536 + k) = {}) ∧
        ∀ p ∈ rowsIn s n, ∀ x ∈ p.2.slots, FMap.get noSlot t.spillSlots x = false))

/-- R225: a word written to KV_CMD of a core by that core's own 64-byte transfer is taken, and the last one runs the command and completes the
channel, where nothing waits for the engine; one from anywhere else is discarded and counted. R238, R464: a row's transfers, in the host
tier by the outcome of the host's memory. A spill that has completed OK leaves the row spilled, its frames given up, and is counted;
otherwise the row stays and its spill slots are free. A fetch that has completed OK leaves it resident in the frames reserved for it, and
is counted; one that met POISON or a check failure leaves it dropped and its sequence LOST; any other is to be retried, and a retry asks
again. -/
def Obligations.KvWritesAndTransfers : Prop :=
  (∀ (s t : State) (l ch k : Nat) (by' : Agent) (v : Word), l < 144 → k < 8 →
    let d := FMap.get dma0 s.dmas (l * 8 + ch)
    (by' = .dma l ch → ch < 8 → d.state = 1 → d.kind = 2 → d.len = 64 → commandSource s l d.src = true → d.dst % 2 ^ 48 = 0xC00000000000 + R.KV_CMD_CMD.addr l 0 →
      (k < 7 → exec (.kvCmdWrite l by' k v) s = .next { s with regs := FMap.set resetValue s.regs (R.KV_CMD_CMD.addr l k) v }) ∧
      (FMap.wf resetValue s.regs = true → k = 7 →
        let c := (List.range 8).flatMap (fun i => leBytes 8
          (if i = 7 then v else FMap.get resetValue s.regs (R.KV_CMD_CMD.addr l i)).toNat)
        gives s (do
          wrReg (R.KV_CMD_CMD.addr l 7) v
          kvCommand c (.channel l ch)) = (.ok (), t) →
        exec (.kvCmdWrite l by' k v) s = .next t ∧
          (fieldAt c 0 1 ≠ 1 → kvBusyIn s = false → s.kv.queue = [] → t.dmas = FMap.set dma0 s.dmas (l * 8 + ch) { d with state := 0 }))) ∧
    ((∀ c, by' ≠ .dma l c) → exec (.kvCmdWrite l by' k v) s = .next (withField s R.KV_CNT1_DISCARDED
      (min (fieldIn s R.KV_CNT1_DISCARDED 0 0 + 1) (2 ^ R.KV_CNT1_DISCARDED.width - 1))))) ∧
  (∀ (s : State) (n k : Nat) (outcome : BitVec 2) (pages : List (List Byte)), k < 65536 → FMap.wf row0 s.rows = true →
    FMap.wf seq0 s.seqs = true → FMap.wf resetValue s.regs = true →
    openingIn s = none → s.kv.queue = [] →
    (∀ j, jobSlotIn s (FMap.get seq0 s.seqs n).job = some j → (jobOf s j).isOpen = false ∨ (jobOf s j).released = true) →
    let key := n * 65536 + k
    let r := FMap.get row0 s.rows key
    let status := hostStatusIn s outcome
    let hosted : Prop := ∀ p, (FMap.get seq0 s.seqs n).tier ≠ some (1, p)
    (hosted → r.flight = 1 → ∃ t, exec (.spillComplete n k outcome) s = .next t ∧
      (status = 0 → seqBusy s (FMap.get seq0 s.seqs n) = false → FMap.get row0 t.rows key = { r with st := .spilled, frames := [], flight := 0 } ∧
        fieldIn t R.KV_CNT0_SPILLS 0 0 = (fieldIn s R.KV_CNT0_SPILLS 0 0 + 1) % 2 ^ R.KV_CNT0_SPILLS.width ∧
        t = { s with rows := t.rows, frames := t.frames, regs := t.regs, kv := t.kv }) ∧
      (status ≠ 0 ∨ seqBusy s (FMap.get seq0 s.seqs n) = true → FMap.get row0 t.rows key = { r with flight := 0, slots := [] } ∧ t.frames = s.frames)) ∧
    (hosted → r.flight = 2 → ∃ t, exec (.fetchComplete n k outcome pages) s = .next t ∧
      (status = 0 →
        FMap.get row0 t.rows key = { r with st := .resident, frames := r.reserved, reserved := [], flight := 4, slots := [] } ∧
        fieldIn t R.KV_CNT0_FETCHES 0 0 = (fieldIn s R.KV_CNT0_FETCHES 0 0 + 1) % 2 ^ R.KV_CNT0_FETCHES.width) ∧
      (status ≠ 0 → statusClassD status = true →
        FMap.get row0 t.rows key = { st := .dropped, old := r.old } ∧ (FMap.get seq0 t.seqs n).lost = true) ∧
      (status ≠ 0 → statusClassD status = false → FMap.get row0 t.rows key = { r with flight := 3 })) ∧
    (r.flight = 3 → ∃ t, exec (.fetchRetry n k) s = .next t ∧ t.seqs = s.seqs ∧ t.frames = s.frames ∧
      (hosted → fieldIn s R.HOST_LINK_UP 0 0 = 1 → FMap.get row0 t.rows key = { r with flight := 2 }) ∧
      (FMap.get row0 t.rows key = { r with flight := 2 } ∨ FMap.get row0 t.rows key = { r with flight := 3 })))

/-! Tenses and their agreement (R35 to R60, R230, R389 to R404). -/

/-- R40, R93, R230, R471, R495: a job in its conjunction with a tense released to it, or one that rolled back, opens the next attempt in P0,
at once where the KV engine is at nothing else and nothing it needs waits: its tense, a fresh SERIAL, no fault and one release fewer, a
rerun apart. A job without sequences waits for nothing. Once its rows are there the tense is released to every context of the job: each
starts, with the tense in s1. R43, R45, R373, R374: a member that waits past the step-hold timeout is held with cause 2; an entry whose
answer has not come by the bound is retracted and the attempt has met a class D fault; a sweep covers the answered writes to a chip: it
retracts them where one was not performed, an input of it was retracted, the checks of its context have failed or the member is to hold,
and otherwise confirms those up to the first whose proof-reading is still to come or one of whose inputs is still tentative (what counts
as an input of a write is the model's choice, log entry 24). Where the confirmation finds no route the job is held instead. -/
def Obligations.TensesOpenAndTimers : Prop :=
  (∀ (s : State) (j : Nat), j < 16 → FMap.wf job0 s.jobs = true → FMap.wf ctx0 s.ctxs = true → FMap.wf zeroWord s.sregs = true →
    FMap.wf resetValue s.regs = true → jobStateIn s j = 2 →
    let v := jobOf s j
    (v.isOpen = false → v.rerun = true ∨ 0 < v.release → fieldIn s R.PWR_STATE_STATE 0 0 < 2 → kvBusyIn s = false → s.kv.queue = [] →
      (seqsOfJob s (jobNumIn s j) = [] → (gives s (openTense j)).1 = .ok ()) ∧
      ∀ t : State, gives s (openTense j) = (.ok (), t) → exec (.tenseOpen j) s = .next t ∧
      (jobOf t j).isOpen = true ∧ (jobOf t j).opened = nextTenseIn s j ∧ jobTenseIn t j = nextTenseIn s j ∧
      (jobOf t j).release = (if v.rerun then v.release else v.release - 1) ∧ (jobOf t j).voted = none ∧
      (jobOf t j).serial = (if v.rerun then v.serial else 0) ∧ (jobOf t j).committed = v.committed ∧ (jobOf t j).parity = v.parity) ∧
    (v.isOpen = true → v.phase = 3 → v.released = false → s.kv.queue = [] → fetchedIn s (jobNumIn s j) = true →
      ∀ t : State, gives s (releaseTense j) = (.ok (), t) → exec (.tenseRelease j) s = .next t ∧ (jobOf t j).released = true ∧
        ∀ p ∈ partsIn s j, (FMap.get ctx0 t.ctxs (ctxKey p.1 p.2.1)).job = some j ∧
          FMap.get zeroWord t.sregs (ctxKey p.1 p.2.1 * 64 + 1) = BitVec.ofNat 64 (jobTenseIn s j))) ∧
  (∀ (s : State) (j : Nat), j < 16 → FMap.wf job0 s.jobs = true → FMap.wf resetValue s.regs = true →
    let v := jobOf s j
    (v.waits = true → jobStateIn s j = 1 ∨ jobStateIn s j = 2 → ∃ t, exec (.stepHoldTimeout j) s = .next t ∧
      jobStateIn t j = 3 ∧ fieldIn t R.CJ_JOBB_CAUSE j 0 = 2 ∧ fieldIn t R.CJ_JOBB_FROM j 0 = chipIn s ∧ (jobOf t j).waits = false ∧
      (jobOf t j).committed = v.committed ∧ (jobOf t j).parity = v.parity) ∧
    (∀ serial e, (unsettledIn s j).find? (fun e => e.serial == BitVec.toNat serial) = some e → e.status = none →
      ∃ t, exec (.tentativeBoundExpiry j serial) s = .next t ∧ (v.isOpen = true → (jobOf t j).faultD = true) ∧
        (jobStateIn s j = 2 → jobStateIn t j = 2 → { e with settled := true } ∈ t.sent)) ∧
    (∀ chip, v.isOpen = true → jobStateIn s j = 2 →
      let us := (sweepable (unsettledIn s j) chip).takeWhile (fun e => e.status.isSome)
      let ends (confirm : Bool) (es : List SentEntry) : Prop := ∃ t, exec (.sweepSend j chip) s = .next t ∧
        (∃ u, gives s (sweep confirm es) = (.ok (), u) ∧ t.reqs = u.reqs) ∧
        (jobStateIn t j = 2 → ∀ e ∈ es, { e with settled := true } ∈ t.sent)
      let bad (e : SentEntry) : Prop := e.bad = true ∨ e.status ≠ some 0 ∨ (e.core, e.slot) ∈ v.failed ∨ v.faultH.isSome = true
      ((∃ e ∈ us, bad e) → ends false us) ∧
      ((∀ e ∈ us, ¬ bad e) → ends true (us.takeWhile (fun e => !proofsOfIn s e && e.inputs.all (fun t => !s.tent.contains t))))))

/-- R36, R39, R42, R393: the vote of a job confined to this module, once every context is done, with nothing it sent unanswered and no proof
record to come, decides the tense: agreement commits it, unless the commit word cannot be written; disagreement, below the rerun limit,
rolls it back and counts it. A commit turns PARITY and leaves the counts of the tense; a rollback leaves COMMITTED and PARITY. (Stated for
a job that has no sequences, whose commit reads and copies no rows.) -/
def Obligations.MemberVoteDecides : Prop :=
  ∀ (s : State) (j : Nat), j < 16 → FMap.wf job0 s.jobs = true → FMap.wf resetValue s.regs = true → jobStateIn s j = 2 →
    treeIn s j = none → memberDoneIn s j = true → seqsOfJob s (jobNumIn s j) = [] → kvBusyIn s = false → s.kv.queue = [] →
    let v := jobOf s j
    v.isOpen = true → v.released = true → v.voted = none → v.tainted = false → v.faultH = none → v.sentUp = false →
    unsettledIn s j = [] → inputsIn s j = false → proofsIn s j = false →
    ∃ t, exec (.memberVote j) s = .next t ∧
      (v.faultD = false → v.badInput = false → jobStateIn t j = 2 →
        (jobOf t j).committed = jobTenseIn s j ∧ (jobOf t j).isOpen = false ∧ (jobOf t j).parity = !v.parity ∧
        (jobOf t j).pending = false ∧ fieldIn t R.CJ_JOBB_RERUNS j 0 = 0) ∧
      (v.faultD = true ∨ v.badInput = true → fieldIn s R.CJ_JOBB_RERUNS j 0 < 3 →
        (jobOf t j).committed = v.committed ∧ (jobOf t j).isOpen = false ∧ (jobOf t j).parity = v.parity ∧
        (jobOf t j).rerun = true ∧ fieldIn t R.CJ_JOBB_RERUNS j 0 = fieldIn s R.CJ_JOBB_RERUNS j 0 + 1)

/-- R390 to R394: what the messages that climb the tree leave: VOTE of a child for the attempt that is open stands beside the others until the
own vote is cast, MAPUP and JOIN likewise, and ARRIVE at a barrier whose own contributions are not complete. A tense that was held and has
not opened again is late instead (R395). -/
def Obligations.UpMessages : Prop :=
  ∀ (s : State) (lane j n : Nat) (p : Packet), j < 16 → FMap.wf job0 s.jobs = true → arrives s lane p Ty.msg → p.aux = 0 →
    servedIn s p = some j → edgeIn s j p.src.toNat = some (n, false) →
    let v := jobOf s j
    (p.addr.toNat % 65536 = Msg.vote → v.heldTenses.contains p.tense.toNat = false → jobStateIn s j = 2 → v.isOpen = true → p.tense.toNat = jobTenseIn s j → v.voted = none →
      ∃ t, exec (.vote lane p) s = .next t ∧ jobOf t j = { v with
        votes := v.votes.filter (fun x => x.1 != n) ++ [(n, p.tense.toNat, min (fieldAt p.data 0 1) 2, fieldAt p.data 2 2)] }) ∧
    (p.addr.toNat % 65536 = Msg.mapup → v.heldTenses.contains p.tense.toNat = false → jobStateIn s j = 2 → v.phase ≠ 2 → ∃ t, exec (.mapup lane p) s = .next t ∧
      jobOf t j = { v with
        maps := v.maps ++ [(n, p.tense.toNat, fieldAt p.data 0 1 % 4, BitVec.ofNat 1024 (fieldAt p.data 8 128))] }) ∧
    (p.addr.toNat % 65536 = Msg.join → jobStateIn s j ≠ 1 ∨ (v.joined = false ∧ v.release = 0) →
      ∃ t, exec (.joinMsg lane p) s = .next t ∧
        jobOf t j = { v with joins := v.joins.filter (fun x => x.1 != n) ++ [(n, fieldAt p.data 0 4)] }) ∧
    (p.addr.toNat % 65536 = Msg.arrive → ofAttemptIn s j p.tense.toNat = true → ∀ e c,
      gives s (readOp j (fieldAt p.data 0 2 % 2048)) = (.ok (0, some e), s) →
      gives s (getColl j (fieldAt p.data 0 2 % 2048) (openInstIn s j (fieldAt p.data 0 2 % 2048))) = (.ok c, s) → c.own.length < e.local' →
      ∃ t, exec (.arrive lane p) s = .next t ∧ { c with arrived := c.arrived.filter (· != n) ++ [n] } ∈ t.colls)

/-- R390 to R400: what the messages of the parent do at a node without children: DECIDE commits, rolls back or holds; MAPDOWN brings a part of
the union of the maps; RELEASE finishes a barrier and the contexts that wait for it go on; START begins the agreed tense. HOLD from any
tree edge holds the job with cause 8 and the chip it names. PEER_RESET holds every job whose map lists the chip that was reset. (DECIDE,
MAPDOWN and START are stated for a job that has no sequences, for which the KV engine has nothing to do.) -/
def Obligations.DownMessages : Prop :=
  ∀ (s : State) (lane j n : Nat) (p : Packet), j < 16 → FMap.wf job0 s.jobs = true → FMap.wf resetValue s.regs = true →
    FMap.wf ctx0 s.ctxs = true → arrives s lane p Ty.msg →
    let v := jobOf s j
    let down (code : Nat) : Prop := p.aux = 0 ∧ p.addr.toNat % 65536 = code ∧ servedIn s p = some j ∧
      edgeIn s j p.src.toNat = some (n, true) ∧ kidsIn s j = []
    let alone : Prop := seqsOfJob s (jobNumIn s j) = [] ∧ kvBusyIn s = false ∧ s.kv.queue = []
    (down Msg.decide → alone → v.heldTenses.contains p.tense.toNat = false → jobStateIn s j = 2 → v.isOpen = true → v.voted.isSome = true → p.tense.toNat = jobTenseIn s j →
      ∃ t, exec (.decideMsg lane p) s = .next t ∧
        (fieldAt p.data 0 1 = 0 → (jobOf t j).committed = jobTenseIn s j ∧ (jobOf t j).isOpen = false ∧ (jobOf t j).parity = !v.parity) ∧
        (fieldAt p.data 0 1 = 1 → (jobOf t j).committed = v.committed ∧ (jobOf t j).isOpen = false ∧ (jobOf t j).rerun = true) ∧
        (2 ≤ fieldAt p.data 0 1 → jobStateIn t j = 3 ∧ fieldIn t R.CJ_JOBB_CAUSE j 0 = ownCauseIn s j % 2 ^ R.CJ_JOBB_CAUSE.width)) ∧
    (down Msg.mapdown → seqsOfJob s (jobNumIn s j) = [] → v.heldTenses.contains p.tense.toNat = false → jobStateIn s j = 2 → v.isOpen = true → v.phase = 2 → p.tense.toNat = jobTenseIn s j →
      ∃ t, exec (.mapdown lane p) s = .next t ∧
        (fieldAt p.data 0 1 % 4, BitVec.ofNat 1024 (fieldAt p.data 8 128)) ∈ (jobOf t j).union) ∧
    (down Msg.release → ofAttemptIn s j p.tense.toNat = true → ∀ e c,
      gives s (readOp j (fieldAt p.data 0 2 % 2048)) = (.ok (0, some e), s) → e.kind = 1 →
      gives s (getColl j (fieldAt p.data 0 2 % 2048) (openInstIn s j (fieldAt p.data 0 2 % 2048))) = (.ok c, s) → c.finished = false →
      ∃ t, exec (.release lane p) s = .next t ∧ (∃ d ∈ t.colls, d.j = c.j ∧ d.id = c.id ∧ d.inst = c.inst ∧ d.finished = true) ∧
        ∀ x ∈ partsIn s j, (FMap.get ctx0 t.ctxs (ctxKey x.1 x.2.1)).wait ≠ .conjunction c.id c.inst) ∧
    (down Msg.start → alone → fieldIn s R.PWR_STATE_STATE 0 0 < 2 → jobStateIn s j = 1 → v.joined = true → 0 < v.release → v.isOpen = false → fieldAt p.data 0 4 = nextTenseIn s j →
      ∃ t, exec (.start lane p) s = .next t ∧ (jobOf t j).isOpen = true ∧ (jobOf t j).opened = nextTenseIn s j) ∧
    (p.aux = 1 → p.addr.toNat % 65536 = Msg.hold → servedIn s p = some j → (edgeIn s j p.src.toNat).isSome = true →
      jobStateIn s j = 1 ∨ jobStateIn s j = 2 → ∃ t, exec (.holdMsg lane p) s = .next t ∧
        jobStateIn t j = 3 ∧ fieldIn t R.CJ_JOBB_CAUSE j 0 = 8 ∧ fieldIn t R.CJ_JOBB_FROM j 0 = fieldAt p.data 0 2 % 2 ^ 14 ∧
        fieldIn t R.CJ_CNT_HOLDS 0 0 = min (fieldIn s R.CJ_CNT_HOLDS 0 0 + 1) (2 ^ R.CJ_CNT_HOLDS.width - 1)) ∧
    (p.aux = 1 → p.addr.toNat % 65536 = Msg.peerReset → s.reqs = [] →
      v.map.any (fun m => m.1.toNat == p.src.toNat && m.2.toNat == p.inc.toNat) = true → jobStateIn s j = 1 ∨ jobStateIn s j = 2 →
      ∃ t, exec (.peerReset lane p) s = .next t ∧ jobStateIn t j = 3 ∧ fieldIn t R.CJ_JOBB_CAUSE j 0 = 5)

/-- R55, R57, R402: a reform order that keeps its layout, names the held job's tree and a tense R55 takes, gives the job that tense as its
committed one, with nothing pending and the new map; a stand-down order ends the job: it reads stood down and its contexts stop. (Stated
for a job that has no sequences.) -/
def Obligations.HeldOrders : Prop :=
  ∀ (s : State) (q j : Nat) (cid : BitVec 16) (p : List Byte), phaseIn s = 4 → q < 64 → FMap.wf job0 s.jobs = true →
    FMap.wf resetValue s.regs = true → FMap.wf ctx0 s.ctxs = true → operatingIn s 3 = true → 16 ≤ p.length → zeros p 1 3 = true →
    zeros p 14 2 = true → jobSlotIn s (fieldAt p 4 2) = some j → seqsOfJob s (jobNumIn s j) = [] → kvBusyIn s = false → s.kv.queue = [] → fieldAt p 6 2 = fieldIn s R.CJ_JOBA_TREE j 0 →
    (fieldAt p 0 1 = 1 → fieldAt p 12 2 = nodesIn s j → p.length = 16 + 4 * nodesIn s j → jobStateIn s j = 3 →
      (ownNodeIn s (mapOf p 16 (nodesIn s j))).isSome = true → (reformCase (jobOf s j) (fieldAt p 8 4)).isSome = true →
      ∃ t, exec (.reformOrder (.queue q cid p)) s = .next t ∧ (jobOf t j).committed = fieldAt p 8 4 ∧ (jobOf t j).pending = false ∧
        (jobOf t j).map = mapOf p 16 (nodesIn s j)) ∧
    (fieldAt p 0 1 = 2 → fieldAt p 12 2 = 0 → p.length = 16 → jobStateIn s j ≠ 4 →
      ∃ t, exec (.standDownOrder (.queue q cid p)) s = .next t ∧ jobStateIn t j = 4 ∧ (jobOf t j).word = 2 ∧
        (jobOf t j).isOpen = false ∧ ∀ x ∈ partsIn s j, (FMap.get ctx0 t.ctxs (ctxKey x.1 x.2.1)).job ≠ some j)

/-! The Aqkai stream (R61 to R91). -/

/-- R74, R83 to R86: a load under way reads its stream and checks it. A full one that passes is the stream, its digest is the active one,
every bound core's scratchpad is zero and no partial load stands; a partial one that passes changes the stream and chains the digest; one
that fails changes nothing of the configuration. Its end shows the result, the counts and the state. -/
def Obligations.StreamLoads : Prop :=
  ∀ (s s1 : State) (source : LoadFrom) (host : HostRead) (d : List Byte), FMap.wf resetValue s.regs = true →
    (s.load = some ⟨source, false, none⟩ → gives s (readStream source host) = (.ok (some d), s1) →
      (∀ x base, checkFull s1 d = .ok (x, base) → ∃ t, exec (.fullLoad host) s = .next t ∧ t.stream = some x ∧
        t.load = some ⟨source, false, some (0, 0, 0)⟩ ∧ activeDigestIn t = streamDigest d ∧
        fieldIn t R.AQ_RSV_BASE 0 0 = base % 2 ^ R.AQ_RSV_BASE.width ∧ fieldIn t R.AQ_RSV_PARTIALS 0 0 = 0 ∧
        ∀ l i, boundIn s l = true → i < 18874368 → FMap.get zeroByte t.spad (l * 18874368 + i) = 0) ∧
      (∀ r, checkFull s1 d = .error r → exec (.fullLoad host) s = .next { s1 with load := some ⟨source, false, some r⟩ })) ∧
    (s.load = some ⟨source, true, none⟩ → gives s (readStream source host) = (.ok (some d), s1) → ∀ old, s1.stream = some old →
      (∀ x, checkPartial s1 old d = .ok x → ∃ t, exec (.partialLoad host) s = .next t ∧ t.stream = some x ∧
        t.load = some ⟨source, true, some (0, 0, 0)⟩ ∧ activeDigestIn t = chainDigest (activeDigestIn s1) (streamDigest d) ∧
        fieldIn t R.AQ_RSV_PARTIALS 0 0 = (fieldIn s R.AQ_RSV_PARTIALS 0 0 + 1) % 2 ^ R.AQ_RSV_PARTIALS.width) ∧
      (∀ r, checkPartial s1 old d = .error r → exec (.partialLoad host) s = .next { s1 with load := some ⟨source, true, some r⟩ })) ∧
    (∀ part r, s.load = some ⟨source, part, some r⟩ → ∃ t, exec .loadComplete s = .next t ∧ t.load = none ∧ t.stream = s.stream ∧
      fieldIn t R.AQ_STATUS_ERR 0 0 = r.1 % 2 ^ R.AQ_STATUS_ERR.width ∧ fieldIn t R.AQ_STATUS_DONE 0 0 = 1 ∧
      fieldIn t R.AQ_STATUS_STATE 0 0 = (if s.stream.isSome then 2 else 0) ∧
      (r.1 = 0 → fieldIn t R.AQ_COUNT_ACCEPTED 0 0 = (fieldIn s R.AQ_COUNT_ACCEPTED 0 0 + 1) % 2 ^ R.AQ_COUNT_ACCEPTED.width) ∧
      (r.1 ≠ 0 → fieldIn t R.AQ_COUNT_REJECTED 0 0 = (fieldIn s R.AQ_COUNT_REJECTED 0 0 + 1) % 2 ^ R.AQ_COUNT_REJECTED.width))

/-! Scratchpads (R254 to R279) and GDDR7 controllers (R281 to R305). -/

/-- R264, R272, R274, R279: a pending correction is stored, and the word then reads as corrected, with no error; a patrol visit moves on to
the line after the one it read, wraps where no line is left, and is then counted as a pass; a requester that has waited 256 steps is
promoted, in the order of the groups; SP_FLIPC is written in the moods that permit it and ARM arms the injection, and in others it is
discarded. -/
def Obligations.ScratchpadUpkeep : Prop :=
  ∀ (s : State) (l : Nat), FMap.wf spctl0 s.spctls = true → FMap.wf zeroByte s.spad = true → FMap.wf resetValue s.regs = true →
    let p := FMap.get spctl0 s.spctls l
    (∀ w v, w < 2 ^ 21 → p.writeBack.find? (fun x => x.1 == w) = some (w, v) → ∃ t, exec (.spCorrectionWriteBack l w) s = .next t ∧
      (gives t (spReadWord l w)).1 = .ok (some v, []) ∧ t.regs = s.regs ∧
      (FMap.get spctl0 t.spctls l).writeBack = p.writeBack.filter (fun x => x.1 != w)) ∧
    (∀ line, boundIn s l = true → spTurnIn s l 7 = true → fieldIn s R.SP_SCRUB_INTERVAL 0 0 ≠ 0 →
      (patrolLineIn s l p.patrol).orElse (fun _ => patrolLineIn s l 0) = some line →
      ∃ t, exec (.spPatrolVisit l) s = .next t ∧
        (FMap.get spctl0 t.spctls l).patrol = (if (patrolLineIn s l (line + 1)).isSome then line + 1 else 0) ∧
        (FMap.get spctl0 t.spctls l).passes = p.passes + (if line < p.patrol then 1 else 0) +
          (if (patrolLineIn s l (line + 1)).isSome then 0 else 1)) ∧
    (∀ group waited, l < 144 → 3 ≤ group → group ≤ 7 → 256 ≤ waited → p.promoted.contains group = false →
      exec (.arbitrationPromotion l group waited) s = .next { s with
        spctls := FMap.set spctl0 s.spctls l { p with promoted := (p.promoted ++ [group]).insertionSort (fun a b => a ≤ b) } }) ∧
    (∀ v, l < 144 →
      (injectionAllowed s = true → ∃ t, exec (.spInjectArm l v) s = .next t ∧ t = { s with regs := t.regs } ∧
        fieldIn t R.SP_FLIPC_CHECK l 0 = bitsOf v 0 8 ∧ fieldIn t R.SP_FLIPC_MATCH l 0 = bitsOf v 10 1 ∧
        fieldIn t R.SP_FLIPC_ADDR l 0 = bitsOf v 32 24 ∧
        fieldIn t R.SP_FLIPC_ARMED l 0 = (if bitsOf v 8 1 = 1 then 1 else fieldIn s R.SP_FLIPC_ARMED l 0)) ∧
      (injectionAllowed s = false → exec (.spInjectArm l v) s = .next s))

/-- R287 to R294: blocks. A command for a block that has to wait (its devices in self-refresh, a burst to be replayed, a copy under way)
leaves the module as it is, to be given again (log entry 38). A block without error reads and nothing changes; one the outer code can
correct is counted, and its correction waits to be written back; one it cannot correct is counted and holds poison from then on. A whole
block is stored with its code; a burst the device has not accepted keeps the write waiting; a correction is stored. R281, R287, R294 to
R300: what a controller does beside serving blocks. A replayed burst is counted; with the last one accepted its write is no longer
waiting. A channel that retrains is counted, and accepts the burst; where the replays fail too the controller has failed. The patrol moves
on, or begins again and is counted. Temperatures and refreshes are as read and made. A remap entry that is free takes the block and its
spare and is busy until the copy is complete, then valid with what the block held (as corrected); a write for a block that is none, or for
what another entry holds, is discarded. GD_FLIPC is written in the moods that permit it. -/
def Obligations.GddrBlocksAndControl : Prop :=
  (∀ (s : State) (k block : Nat), gdHas s k block = true → FMap.wf gdctl0 s.gdctls = true → FMap.wf zeroByte s.gddr = true →
    FMap.wf resetValue s.regs = true → fieldIn s R.GD_STATUS_STATE k 0 ≠ 3 → fieldIn s R.INT_LOGC_EN 0 0 = 0 → fieldIn s R.INT_LOGD_EN 0 0 = 0 →
    let g := FMap.get gdctl0 s.gdctls k
    let phys := gdPhysIn s k block
    let raw (t : State) : List Byte := readCells t.gddr (gdKey k phys) 272
    (gdWaitsIn s k block = true → ∀ f off bytes, exec (.blockRead k block f) s = .next s ∧
      exec (.blockWrite k block off bytes f) s = .next s) ∧
    (gdWaitsIn s k block = false → g.injected.any (fun p => p.1 == phys) = false → g.hint.any (fun p => p.1 == phys) = false → ∀ units,
      (∀ data, units = 0 → decodeBlock (raw s) 0 = .good data 0 0 → exec (.blockRead k block noFaults) s = .next s) ∧
      (∀ data e0 e1, decodeBlock (raw s) units = .good data e0 e1 → (units ≠ 0 ∨ e0 ≠ 0 ∨ e1 ≠ 0) →
        ∃ t, exec (.blockRead k block ⟨units, [], 0, []⟩) s = .next t ∧ t.gddr = s.gddr ∧
          fieldIn t R.GD_CNT0_OUTER k 0 = min (fieldIn s R.GD_CNT0_OUTER k 0 + 1) (2 ^ R.GD_CNT0_OUTER.width - 1) ∧
          (phys, data) ∈ (FMap.get gdctl0 t.gdctls k).writeBack) ∧
      (∀ e0 e1, decodeBlock (raw s) units = .bad e0 e1 → ∃ t, exec (.blockRead k block ⟨units, [], 0, []⟩) s = .next t ∧
        raw t = poisonBlock ∧ fieldIn t R.GD_CNT0_UE k 0 = min (fieldIn s R.GD_CNT0_UE k 0 + 1) (2 ^ R.GD_CNT0_UE.width - 1))) ∧
    (∀ bytes, gdWaitsIn s k block = false → bytes.length = 256 → fieldIn s R.GD_FLIPC_ARMED k 0 = 0 → ∃ t, exec (.blockWrite k block 0 bytes noFaults) s = .next t ∧
      t = { s with gddr := t.gddr, gdctls := t.gdctls } ∧ raw t = storeBlock bytes ∧
      ∀ a, ¬ (gdKey k phys ≤ a ∧ a < gdKey k phys + 272) → FMap.get zeroByte t.gddr a = FMap.get zeroByte s.gddr a) ∧
    (∀ off bytes unit, gdWaitsIn s k block = false → 0 < bytes.length → off + bytes.length ≤ 256 → unit < 17 →
      exec (.blockWrite k block off bytes ⟨0, [], 0, [unit]⟩) s = .next { s with
        gdctls := FMap.set gdctl0 s.gdctls k { g with stuck := g.stuck ++ [⟨block, off, bytes, [(unit, 0)], ⟨0, [], 0, [unit]⟩⟩] } }) ∧
    (∀ data, gdVisitWaitsIn s k phys = false → g.writeBack.find? (fun p => p.1 == phys) = some (phys, data) →
      ∃ t, exec (.gdCorrectionWriteBack k block) s = .next t ∧ raw t = storeBlock data ∧
        (FMap.get gdctl0 t.gdctls k).writeBack = g.writeBack.filter (fun p => p.1 != phys))) ∧
  (∀ (s : State) (k : Nat), k < 32 → FMap.wf gdctl0 s.gdctls = true → FMap.wf zeroByte s.gddr = true → FMap.wf resetValue s.regs = true →
    fieldIn s R.INT_LOGC_EN 0 0 = 0 →
    let g := FMap.get gdctl0 s.gdctls k
    (∀ block unit w n, stuckAt g block unit = some w → w.units.find? (fun u => u.1 == unit) = some (unit, n) →
      (n < 3 → ∃ t, exec (.writeCrcReplay k block unit false) s = .next t ∧
        fieldIn t R.GD_CNT1_RETRY k 0 = min (fieldIn s R.GD_CNT1_RETRY k 0 + 1) (2 ^ R.GD_CNT1_RETRY.width - 1) ∧
        (FMap.get gdctl0 t.gdctls k).stuck = eraseFirst w g.stuck ++
          [{ w with units := w.units.map (fun u => if u.1 = unit then (u.1, u.2 + 1) else u) }] ∧ t.gddr = s.gddr) ∧
      (n < 3 → w.units.all (fun u => u.1 == unit) = true → ∃ t, exec (.writeCrcReplay k block unit true) s = .next t ∧
        (FMap.get gdctl0 t.gdctls k).stuck = eraseFirst w g.stuck) ∧
      (3 ≤ n → w.units.all (fun u => u.1 == unit) = true → ∃ t, exec (.channelRetrain k block unit false) s = .next t ∧
        fieldIn t R.GD_STATUS_RETRAINS k 0 = min (fieldIn s R.GD_STATUS_RETRAINS k 0 + 1) (2 ^ R.GD_STATUS_RETRAINS.width - 1) ∧
        (FMap.get gdctl0 t.gdctls k).stuck = eraseFirst w g.stuck) ∧
      (3 ≤ n → ∃ t, exec (.channelRetrain k block unit true) s = .next t ∧ fieldIn t R.GD_STATUS_STATE k 0 = 3 ∧
        (FMap.get gdctl0 t.gdctls k).stuck = [])) ∧
    (∀ f, fieldIn s R.GD_SCRUB_HOURS k 0 ≠ 0 → fieldIn s R.GD_STATUS_STATE k 0 < 2 → gdVisitWaitsIn s k (gdPlaceIn s k g.patrol) = false → ∃ t, exec (.gdPatrolVisit k f) s = .next t ∧
      (FMap.get gdctl0 t.gdctls k).patrol = (if g.patrol + 1 < gdBlocksIn s + 16384 then g.patrol + 1 else 0) ∧
      fieldIn t R.GD_SCRUB_PASSES k 0 = (if g.patrol + 1 < gdBlocksIn s + 16384 then fieldIn s R.GD_SCRUB_PASSES k 0
        else (fieldIn s R.GD_SCRUB_PASSES k 0 + 1) % 2 ^ R.GD_SCRUB_PASSES.width)) ∧
    (∀ t0 t1, exec (.gdTemperatureRead k t0 t1) s = .next (withField (withField s R.GD_STATUS_TEMP0 t0.toNat k) R.GD_STATUS_TEMP1
      (if fieldIn s R.GD_STATUS_DEVICES k 0 = 2 then t1.toNat else 0) k)) ∧
    exec (.refresh k) s = .next { s with gdctls := FMap.set gdctl0 s.gdctls k { g with refreshes := g.refreshes + 1 } } ∧
    (∀ i v, i < 16 → fieldIn s R.GD_REMAP_VALID k i = 0 → fieldIn s R.GD_REMAP_BUSY k i = 0 → bitsOf v 39 1 = 1 →
      bitsOf v 0 25 < gdBlocksIn s →
      (∀ x, x < 16 → x ≠ i → fieldIn s R.GD_REMAP_VALID k x = 0 ∧ fieldIn s R.GD_REMAP_BUSY k x = 0 ∨
        fieldIn s R.GD_REMAP_BLOCK k x ≠ bitsOf v 0 25 ∧ fieldIn s R.GD_REMAP_SPARE k x ≠ bitsOf v 25 14) →
      ∃ t, exec (.remapWrite k i v) s = .next t ∧ t = { s with regs := t.regs } ∧ fieldIn t R.GD_REMAP_BLOCK k i = bitsOf v 0 25 ∧
        fieldIn t R.GD_REMAP_SPARE k i = bitsOf v 25 14 ∧ fieldIn t R.GD_REMAP_BUSY k i = 1 ∧ fieldIn t R.GD_REMAP_VALID k i = 0) ∧
    (∀ i v, (gdBlocksIn s ≤ bitsOf v 0 25 ∨ ∃ x, x < 16 ∧ x ≠ i ∧ (fieldIn s R.GD_REMAP_VALID k x = 1 ∨ fieldIn s R.GD_REMAP_BUSY k x = 1) ∧
        (fieldIn s R.GD_REMAP_BLOCK k x = bitsOf v 0 25 ∨ fieldIn s R.GD_REMAP_SPARE k x = bitsOf v 25 14)) →
      exec (.remapWrite k i v) s = .next s) ∧
    (∀ i data, i < 16 → fieldIn s R.GD_REMAP_BUSY k i = 1 →
      let block := fieldIn s R.GD_REMAP_BLOCK k i
      let spare := gdBlocksIn s + fieldIn s R.GD_REMAP_SPARE k i
      (g.copies.find? (fun p => p.1 == i) = some (i, data) ∨
        g.copies.find? (fun p => p.1 == i) = none ∧ g.injected.any (fun p => p.1 == block) = false ∧
          g.hint.any (fun p => p.1 == block) = false ∧ decodeBlock (readCells s.gddr (gdKey k block) 272) 0 = .good data 0 0) →
      ∃ t, exec (.remapCopyComplete k i) s = .next t ∧ fieldIn t R.GD_REMAP_BUSY k i = 0 ∧ fieldIn t R.GD_REMAP_VALID k i = 1 ∧
        readCells t.gddr (gdKey k spare) 272 = storeBlock data) ∧
    (∀ v, injectionAllowed s = true → bitsOf v 0 5 ≤ 16 → ∃ t, exec (.gdInjectArm k v) s = .next t ∧ t = { s with regs := t.regs } ∧
      fieldIn t R.GD_FLIPC_UNIT k 0 = bitsOf v 0 5 ∧ fieldIn t R.GD_FLIPC_BLOCK k 0 = bitsOf v 10 25 ∧
      fieldIn t R.GD_FLIPC_MATCH k 0 = bitsOf v 9 1 ∧
      fieldIn t R.GD_FLIPC_ARMED k 0 = (if bitsOf v 7 1 = 1 then 1 else fieldIn s R.GD_FLIPC_ARMED k 0)))

/-! Compression (R333 to R354). -/

/-- R337 to R343: a block coded under a valid table decodes to the block it was, whatever it holds, at every element class. -/
def Obligations.CompressionRoundTrip : Prop :=
  ∀ (tb bs : List Byte) (gen c : Nat), tableValid tb = true → c ≤ 4 → bs.length = 4096 →
    (encodeBlock (some (parseTable tb)) gen c bs).raw = false →
    decodeSectors (parseTable tb) c (encodeBlock (some (parseTable tb)) gen c bs).sectors = some bs

/-- R333 to R335, R345, R350, R353: CX registers and table loads. A range is enabled where R334 allows it, and otherwise REJECT tells; it is
READY once its side words are written, where none of its blocks lies behind a port that waits; a disable takes effect once the queue holds
no block of the range, and waits until then. START takes the table at CX_TBL_SRC where its checks pass and notes the queued reads that
name the slot's generation; the table is installed once they are served, and a time-out leaves the slot its table. R341, R344 to R347,
R354: blocks of a range enter their engine's queue, in order, where it has room, the range is READY and no earlier read of the block is
held; they wait otherwise, the command to be given again (log entry 38). While a load waits, a read that names its slot is held at the
entrance. A block served that is read raw, whose agreement word is right, or under a table its slot holds, is counted as checked and is
what its sectors decode to; a whole block written is stored under the encoding generation, or raw where that is no shorter, which is
counted, and its side word carries its agreement word. -/
def Obligations.CompressionRangesAndBlocks : Prop :=
  (∀ (s : State), FMap.wf resetValue s.regs = true →
    (∀ i v, i < 16 → fieldIn s R.CX_RANGE_A_EN i 0 = 0 → bitsOf v 5 1 = 1 → ∃ t, exec (.rangeEnable i v) s = .next t ∧
      t = { s with regs := t.regs } ∧ fieldIn t R.CX_RANGE_A_EN i 0 = (if enableOk s i v then 1 else 0) ∧
      fieldIn t R.CX_RANGE_A_REJECT i 0 = (if enableOk s i v then 0 else 1) ∧ fieldIn t R.CX_RANGE_A_READY i 0 = 0 ∧
      fieldIn t R.CX_RANGE_A_CTRL i 0 = bitsOf v 0 5 ∧ fieldIn t R.CX_RANGE_A_ECLASS i 0 = bitsOf v 6 3 ∧
      fieldIn t R.CX_RANGE_A_BASE i 0 = bitsOf v 12 21 ∧ fieldIn t R.CX_RANGE_A_SIZE i 0 = bitsOf v 33 21) ∧
    (∀ i, i < 16 → fieldIn s R.CX_RANGE_A_EN i 0 = 1 → fieldIn s R.CX_RANGE_A_READY i 0 = 0 → rangePortsWait s i = false → ∃ t, exec (.rangeReady i) s = .next t ∧
      fieldIn t R.CX_RANGE_A_READY i 0 = 1 ∧ fieldIn t R.CX_RANGE_A_EN i 0 = 1) ∧
    (∀ i v, i < 16 → bitsOf v 5 1 = 0 → fieldIn s R.CX_RANGE_A_EN i 0 = 1 → s.cx.disabling = [] →
      (rangeBusyIn s i = true → exec (.rangeDisable i v) s = .next { s with cx := { s.cx with disabling := [i] } }) ∧
      (rangeBusyIn s i = false → exec (.rangeDisable i v) s = .next (withField (withField
        { s with cx := { s.cx with side := s.cx.side.filter (fun x => rangeAtIn s x.1 x.2.1 != some i) } }
        R.CX_RANGE_A_EN 0 i) R.CX_RANGE_A_READY 0 i))) ∧
    (∀ v bs s1, bitsOf v 8 1 = 1 →
      let gen := bitsOf v 0 8
      s.cx.load = none → gen % 4 ≠ fieldIn s R.CX_CTRL_ENCGEN 0 0 % 4 → tableValid bs = true → tableOfIn s gen = none →
      gives s (do setF R.CX_TBL_CMD_GEN gen; readOwn (fieldIn s R.CX_TBL_SRC_ADDR 0 0) 64) = (.ok (some bs), s1) →
      ∃ snap, exec (.tableLoad v) s =
          .next (withField { s1 with cx := { s1.cx with load := some (gen, parseTable bs), snap := snap } } R.CX_TBL_STAT_BUSY 1) ∧
        ∀ w ∈ s1.cx.queue, w.bytes = none → ∀ i, rangeAtIn s1 w.k w.block = some i → bitN (sidePeekIn s1 i w.block) 4 = false →
          bitsN (sidePeekIn s1 i w.block) 5 8 = bitsN (fieldIn s1 R.CX_SLOTS_GENS 0 0) (8 * (gen % 4)) 8 → (w.k, w.block) ∈ snap) ∧
    (∀ gen t, s.cx.load = some (gen, t) → s.cx.held = [] → gen < 256 → s.cx.slots.length = 4 →
      (s.cx.snap = [] → ∃ u, exec .tableInstall s = .next u ∧ tableOfIn u gen = some t ∧ u.cx.load = none ∧
        fieldIn u R.CX_TBL_STAT_DONE 0 0 = 1 ∧ fieldIn u R.CX_TBL_STAT_ERR 0 0 = 0 ∧ fieldIn u R.CX_TBL_STAT_BUSY 0 0 = 0 ∧
        ∀ g, g < 256 → g % 4 ≠ gen % 4 → tableOfIn u g = tableOfIn s g) ∧
      (s.cx.snap ≠ [] → exec .tableInstall s = .next s ∧
        ∃ u, exec .tableLoadTimeout s = .next u ∧ u.cx = { s.cx with load := none, snap := [] } ∧ fieldIn u R.CX_TBL_STAT_DONE 0 0 = 1 ∧
          fieldIn u R.CX_TBL_STAT_ERR 0 0 = CxErr.genMissing ∧ fieldIn u R.CX_TBL_STAT_BUSY 0 0 = 0 ∧
          ∀ g, tableOfIn u g = tableOfIn s g))) ∧
  (∀ (s : State) (k b i : Nat), k < 32 → FMap.wf resetValue s.regs = true →
    (rangeAtIn s k b = some i → ∀ bs, bs.length = 4096 →
      let ready := fieldIn s R.CX_RANGE_A_READY i 0 = 1
      let holdsIt := ∃ gen t, s.cx.load = some (gen, t) ∧ namesSlotIn s i b gen = true
      let entered (w : CxWork) (t : State) : Prop := t = { s with regs := t.regs, cx := { s.cx with queue := s.cx.queue ++ [w] } } ∧
        fieldIn t R.CX_CNT_QUEUE (k / 4) 0 = (s.cx.queue.filter (fun x => x.k / 4 == k / 4)).length + 1
      (ready → ¬ holdsIt → queueFullIn s k = false → ∃ t, exec (.blockDecode k b) s = .next t ∧ entered ⟨k, b, none⟩ t) ∧
      (ready → holdsIt → exec (.blockDecode k b) s = .next { s with cx := { s.cx with held := s.cx.held ++ [(k, b)] } }) ∧
      (ready → queueFullIn s k = false → s.cx.held.contains (k, b) = false → ∃ t, exec (.blockEncode k b bs) s = .next t ∧ entered ⟨k, b, some bs⟩ t) ∧
      ((¬ ready ∨ ¬ holdsIt ∧ queueFullIn s k = true) → exec (.blockDecode k b) s = .next s) ∧
      ((¬ ready ∨ queueFullIn s k = true ∨ s.cx.held.contains (k, b) = true) → exec (.blockEncode k b bs) s = .next s)) ∧
    (rangeOfIn s k b = some i →
      (∀ (t1 : State) (side : Nat) (sectors : List Byte),
        gives s (do
          let (w, ev) ← sideRead i b
          let (d, ev2) ← readSectors k b (if bitN side 4 then 16 else bitsN side 0 4 + 1)
          return (w, ev, d, ev2)) = (.ok (some side, [], some sectors, []), t1) →
        let out := if bitN side 4 then some sectors
          else (tableOfIn t1 (bitsN side 5 8)).bind (fun t => decodeSectors t (bitsN side 13 3) sectors)
        ∀ bs, out = some bs → (agree bs).toNat = bitsN side 16 32 →
        (gives s (cxRead k b i)).1 = .ok (0, bs, side, []) ∧
        gives s (serveWork ⟨k, b, none⟩) = (.ok (), withField t1 R.INT_AGREE_CHECKED (fieldIn t1 R.INT_AGREE_CHECKED 0 0 + 1))) ∧
      ∀ bs t, bs.length = 4096 →
        let gen := fieldIn s R.CX_CTRL_ENCGEN 0 0
        let coded := encodeBlock (tableOfIn s gen) gen (fieldIn s R.CX_RANGE_A_ECLASS i 0) bs
        gives s (do
          if coded.raw then countSat R.CX_CNT_RAW (k / 4)
          let e1 ← writeSectors k b coded.sectors
          let e2 ← sideWrite i b (coded.header + (agree bs).toNat * 2 ^ 16)
          recordAll (e1 ++ e2)) = (.ok (), t) →
        gives s (serveWork ⟨k, b, some bs⟩) = (.ok (), t)))

/-! Lanes (R355 to R377). -/

/-- R358, R368, R376, R377: the steps of a training. DETECT and EQUALISE are followed by the next step; ALIGN leaves the inversion it found
and FEC_LOCK comes next; after FEC_LOCK the identity goes out in a sequenced control flit, which stays in the replay buffer, with the last
SEQ received and the credits of an empty buffer, and the lane is in LINK_INIT; a lane that is DOWN begins a full training, which is
counted. A step that exceeds its limit leaves its cause: a full training begins again, but the third failure leaves the lane FAILED; a
fast retrain that fails leaves it DOWN, lost, and counted. In LINK_INIT what the far end reports is shown; the identity of the peer
expected brings the lane UP with full credits, its flow going on after the last SEQ the far end received, and another leaves it FAILED
with cause 5. More corrected symbols than the limit, and RETRAIN, start a fast retrain; REVIVE starts the full trainings of a FAILED lane;
in P3 no training starts (R494). -/
def Obligations.LaneTraining : Prop :=
  ∀ (s : State) (lane : Nat), lane < 48 → FMap.wf lane0 s.lanes = true → FMap.wf resetValue s.regs = true → fieldIn s R.INT_LOGC_EN 0 0 = 0 →
    let x := FMap.get lane0 s.lanes lane
    let state := fieldIn s R.FAB_LSTAT_STATE lane 0
    let on := fieldIn s R.PWR_STATE_STATE 0 0 < 3
    let linked (i : Instr) : Prop := ∃ t body, exec i s = .next t ∧
      t = { s with regs := t.regs, lanes := t.lanes, out := t.out, fresh := t.fresh } ∧ fieldIn t R.FAB_LSTAT_STATE lane 0 = 5 ∧
      FMap.get lane0 t.lanes lane = { x with
        txSeq := (x.txSeq + 1) % 4096, freed := (creditField x.freed).2
        replay := x.replay ++ [{ seq := (x.txSeq + 1) % 4096, kind := 2, sends := 0, credit := (creditField x.freed).1, body
                                 first := 0xFF, packets := [] }] } ∧
      t.out = s.out ++ [.identity lane (chipIn s) (lane / 6) (fieldIn s R.FAB_ID_INC 0 0) (fieldIn s R.FAB_LSTAT_ROLE lane 0) x.rxSeq bufferUnits,
        .flit lane ((x.txSeq + 1) % 4096) (flitBytes ((x.txSeq + 1) % 4096) 2 x.rxSeq x.nak (creditField x.freed).1 0xFF body)]
    (∀ rxinv, (state = 1 → exec (.fullTraining lane rxinv) s = .next (withField s R.FAB_LSTAT_STATE 2 lane)) ∧
      (state = 2 → exec (.fullTraining lane rxinv) s = .next (withField s R.FAB_LSTAT_STATE 3 lane)) ∧
      (state = 3 → x.full = true → ∃ t, exec (.fullTraining lane rxinv) s = .next t ∧ t = { s with regs := t.regs } ∧
        fieldIn t R.FAB_LSTAT_STATE lane 0 = 4 ∧ fieldIn t R.FAB_LSTAT_RXINV lane 0 = bit rxinv ∧
        fieldIn t R.FAB_LSTAT_INVMISMATCH lane 0 = (if rxinv = x.rxInv then fieldIn s R.FAB_LSTAT_INVMISMATCH lane 0 else 1)) ∧
      (state = 4 → x.full = true → linked (.fullTraining lane rxinv)) ∧
      (state = 8 → on → ∃ t, exec (.fullTraining lane rxinv) s = .next t ∧ t = { s with regs := t.regs, lanes := t.lanes } ∧
        fieldIn t R.FAB_LSTAT_STATE lane 0 = 1 ∧ (FMap.get lane0 t.lanes lane).full = true ∧
        fieldIn t R.FAB_LCNT1_TRAININGS lane 0 = (fieldIn s R.FAB_LCNT1_TRAININGS lane 0 + 1) % 2 ^ R.FAB_LCNT1_TRAININGS.width) ∧
      (state = 7 → ∃ t, exec (.fastRetrain lane rxinv) s = .next t ∧ t = { s with regs := t.regs } ∧
        fieldIn t R.FAB_LSTAT_STATE lane 0 = 4 ∧ fieldIn t R.FAB_LSTAT_RXINV lane 0 = bit rxinv) ∧
      (state = 4 → x.full = false → linked (.fastRetrain lane rxinv))) ∧
    (1 ≤ state → state ≤ 4 → x.full = true → x.queue = [] → on → ∃ t, exec (.trainingStepTimeout lane) s = .next t ∧
      t = { s with regs := t.regs, lanes := t.lanes } ∧ fieldIn t R.FAB_LSTAT_CAUSE lane 0 = state ∧
      (x.attempts < 2 → fieldIn t R.FAB_LSTAT_STATE lane 0 = 1 ∧ (FMap.get lane0 t.lanes lane).attempts = x.attempts + 1) ∧
      (2 ≤ x.attempts → fieldIn t R.FAB_LSTAT_STATE lane 0 = 9)) ∧
    (state = 7 → x.full = false → ∃ t, exec (.trainingStepTimeout lane) s = .next t ∧ fieldIn t R.FAB_LSTAT_STATE lane 0 = 8 ∧
      fieldIn t R.FAB_LSTAT_CAUSE lane 0 = 3 ∧ (FMap.get lane0 t.lanes lane).lost = true ∧ (FMap.get lane0 t.lanes lane).replay = x.replay ∧
      fieldIn t R.FAB_LCNT1_DOWNS lane 0 = min (fieldIn s R.FAB_LCNT1_DOWNS lane 0 + 1) (2 ^ R.FAB_LCNT1_DOWNS.width - 1)) ∧
    (∀ id, state = 5 → x.queue = [] →
      let shown (t : State) : Prop := fieldIn t R.FAB_LPEER_CHIP lane 0 = (if id.isSwitch then 0x3FFF else id.chip.toNat) ∧
        fieldIn t R.FAB_LPEER_PORT lane 0 = id.port.toNat ∧ fieldIn t R.FAB_LPEER_INC lane 0 = (if id.isSwitch then 0 else id.inc.toNat)
      (id.port.toNat ≠ x.peerPort ∨ id.role.toNat ≠ fieldIn s R.FAB_LSTAT_ROLE lane 0 → ∃ t, exec (.identity lane id) s = .next t ∧
        shown t ∧ fieldIn t R.FAB_LSTAT_STATE lane 0 = 9 ∧ fieldIn t R.FAB_LSTAT_CAUSE lane 0 = 5 ∧
        (x.full = false → (FMap.get lane0 t.lanes lane).lost = true ∧ (FMap.get lane0 t.lanes lane).replay = x.replay)) ∧
      (id.port.toNat = x.peerPort → id.role.toNat = fieldIn s R.FAB_LSTAT_ROLE lane 0 →
        let later := acknowledged x.replay id.lastSeq.toNat
        let next := id.seq.toNat = (x.rxSeq + 1) % 4096
        let rx := if next then id.seq.toNat else x.rxSeq
        later.length ≤ 1 →
        (∀ y, y < 48 → (FMap.get lane0 s.lanes y).queue = [] ∧ (FMap.get lane0 s.lanes y).controls = []) →
        (FMap.get lane0 s.lanes (partner lane)).tell = false → ∃ t, exec (.identity lane id) s = .next t ∧
          t = { s with regs := t.regs, lanes := t.lanes, out := t.out } ∧ shown t ∧ fieldIn t R.FAB_LSTAT_STATE lane 0 = 6 ∧
          FMap.get lane0 t.lanes lane = { x with
            credits := [1024, 1024, 512, 128], freed := [0, 0, 0, 0], lost := false, tell := false, noticed := false, attempts := 0
            replay := later.map (fun f => { f with seq := (id.lastSeq.toNat + 1) % 4096, sends := 1, credit := 0 })
            txSeq := (id.lastSeq.toNat + later.length) % 4096, rxSeq := rx, owed := if next ∧ later = [] then 1 else 0 } ∧
          t.out = s.out ++ later.map (fun f => .flit lane ((id.lastSeq.toNat + 1) % 4096)
            (flitBytes ((id.lastSeq.toNat + 1) % 4096) f.kind rx x.nak 0 f.first f.body)))) ∧
    (∃ t, exec (.fecrateCheck lane) s = .next t ∧ (FMap.get lane0 t.lanes lane).fecMs = 0 ∧
      (state = 6 → on → fieldIn s R.FAB_FECLIM_SYMS 0 0 < x.fecMs → fieldIn t R.FAB_LSTAT_STATE lane 0 = 7 ∧
        fieldIn t R.FAB_LSTAT_CAUSE lane 0 = 8) ∧
      (x.fecMs ≤ fieldIn s R.FAB_FECLIM_SYMS 0 0 → t = { s with lanes := t.lanes })) ∧
    (state = 6 → on → ∃ t, exec (.retrainWrite lane) s = .next t ∧ t = { s with regs := t.regs, lanes := t.lanes } ∧
      fieldIn t R.FAB_LSTAT_STATE lane 0 = 7 ∧ fieldIn t R.FAB_LSTAT_CAUSE lane 0 = fieldIn s R.FAB_LSTAT_CAUSE lane 0 ∧
      fieldIn t R.FAB_LCNT1_RETRAINS lane 0 = (fieldIn s R.FAB_LCNT1_RETRAINS lane 0 + 1) % 2 ^ R.FAB_LCNT1_RETRAINS.width) ∧
    (state ≠ 6 ∨ ¬on → exec (.retrainWrite lane) s = .next s) ∧
    (state = 9 → on → ∃ t, exec (.reviveWrite lane) s = .next t ∧ t = { s with regs := t.regs, lanes := t.lanes } ∧
      fieldIn t R.FAB_LSTAT_STATE lane 0 = 1 ∧ FMap.get lane0 t.lanes lane = { x with attempts := 0, full := true }) ∧
    (state ≠ 9 → exec (.reviveWrite lane) s = .next s)

/-- R356, R357, R359, R360, R367 to R369, R375, R401: flits. On a lane that is UP a flit with a bad codeword or code is counted and asked for
again; the next flit in order is accepted, with the packets it makes whole; one that shows that a flit is missing is asked for again, one
accepted before is not, and the body of neither is taken. The NAK is repeated, and an ACK goes out, with the SEQ last accepted and the
credits freed, also where only credits are owed. A recovery flit gives what a lost partner had sent after that SEQ, and what it had
queued, to the lane; without one in time what the replay buffer holds is discarded and its requests complete with NO_ROUTE. A reset notice
holds the jobs whose map lists the chip that was reset, once. -/
def Obligations.LaneFlits : Prop :=
  ∀ (s : State) (lane : Nat), lane < 48 → FMap.wf lane0 s.lanes = true → FMap.wf resetValue s.regs = true → fieldIn s R.INT_LOGC_EN 0 0 = 0 →
    let x := FMap.get lane0 s.lanes lane
    let state := fieldIn s R.FAB_LSTAT_STATE lane 0
    (∀ (rx : FlitRx) (good : Bool) (b : List Byte), state = 6 → rx.count0 = false → rx.count1 = false → x.draining = false →
      flitOf rx = (good, b) →
      let whole : Bool := good && fieldAt b 252 4 == (crc32c (b.take 252)).toNat
      let seq := fieldAt b 0 2 % 4096
      let kind := fieldAt b 0 2 / 4096
      let start := if x.units.isEmpty then (if fieldAt b 8 1 < 15 then fieldAt b 8 1 * 16 else 240) else 0
      (whole = false → ∃ t, exec (.flitReceive lane rx) s = .next t ∧ (FMap.get lane0 t.lanes lane).nak = true ∧
        (FMap.get lane0 t.lanes lane).rxSeq = x.rxSeq ∧ (FMap.get lane0 t.lanes lane).received = x.received ∧
        fieldIn t R.FAB_LCNT0_CRCERR lane 0 = min (fieldIn s R.FAB_LCNT0_CRCERR lane 0 + 1) (2 ^ R.FAB_LCNT0_CRCERR.width - 1)) ∧
      (whole = true → kind = 1 → seq = (x.rxSeq + 1) % 4096 → ∃ t, exec (.flitReceive lane rx) s = .next t ∧
        (FMap.get lane0 t.lanes lane).rxSeq = seq ∧ (FMap.get lane0 t.lanes lane).nak = false ∧
        (FMap.get lane0 t.lanes lane).received = x.received ++ (wholePackets 16 (x.units ++ (slice b 12 240).drop start)).1 ∧
        (FMap.get lane0 t.lanes lane).units = (wholePackets 16 (x.units ++ (slice b 12 240).drop start)).2) ∧
      (whole = true → kind = 2 → seq = (x.rxSeq + 1) % 4096 → ∃ t, exec (.flitReceive lane rx) s = .next t ∧
        (FMap.get lane0 t.lanes lane).rxSeq = seq ∧ (FMap.get lane0 t.lanes lane).received = x.received) ∧
      (whole = true → kind = 1 ∨ kind = 2 → seq ≠ (x.rxSeq + 1) % 4096 → ∃ t, exec (.flitReceive lane rx) s = .next t ∧
        (FMap.get lane0 t.lanes lane).rxSeq = x.rxSeq ∧
        (FMap.get lane0 t.lanes lane).nak = (x.nak || decide (2048 < (x.rxSeq + 4096 - seq) % 4096)) ∧
        (FMap.get lane0 t.lanes lane).received = x.received)) ∧
    (let idle : State := { sends s (.idle lane x.rxSeq x.nak (flitBytes x.txSeq 0 x.rxSeq x.nak (creditField x.freed).1 0xFF [])) with
        lanes := FMap.set lane0 s.lanes lane { x with freed := (creditField x.freed).2, owed := 0 } };
      (state = 6 → x.nak = true → exec (.nakRepeat lane) s = .next idle) ∧ (state = 6 → x.owed ≠ 0 ∨ creditsOwed x = true → exec (.ackTimer lane) s = .next idle) ∧
        (x.nak = false → exec (.nakRepeat lane) s = .next s) ∧ (x.owed = 0 → creditsOwed x = false → exec (.ackTimer lane) s = .next s)) ∧
    (∀ seq, state = 6 → (FMap.get lane0 s.lanes (partner lane)).lost = true →
      let y := FMap.get lane0 s.lanes (partner lane)
      ∃ t, exec (.recovery lane (partner lane) seq) s = .next t ∧
        FMap.get lane0 t.lanes (partner lane) = { y with replay := [], queue := [], lost := false, txSeq := seq.toNat } ∧
        ∀ p ∈ ((acknowledged y.replay seq.toNat).flatMap (·.packets)) ++ y.queue ++ x.queue,
          p ∈ (FMap.get lane0 t.lanes lane).queue ∨ Out.packet lane p ∈ t.out) ∧
    (x.lost = true → state ≠ 6 → x.queue = [] → (∀ p ∈ x.replay.flatMap (·.packets), p.src.toNat = chipIn s) →
      ((∀ p ∈ x.replay.flatMap (·.packets), reqOf s p = none) → ∃ t, exec (.laneLossTimeout lane) s = .next t ∧
        (FMap.get lane0 t.lanes lane).replay = [] ∧ (FMap.get lane0 t.lanes lane).lost = false ∧ t.reqs = s.reqs) ∧
      (∀ p r u, (x.replay.flatMap (·.packets)).dedup = [p] → reqOf s p = some r →
        gives s (do setLane lane { x with replay := [], lost := false, tell := false }; endReq r Status.noRoute []) = (.ok (), u) →
        ∃ t, exec (.laneLossTimeout lane) s = .next t ∧ t.reqs = u.reqs ∧ t.ctxs = u.ctxs ∧ t.sent = u.sent)) ∧
    (∀ (chip : BitVec 14) (inc : BitVec 16) (j : Nat), laneGlobal lane = true → state = 6 → s.reqs = [] → j < 16 → FMap.wf job0 s.jobs = true →
      (x.noticed = true → exec (.resetNotice lane chip inc) s = .next s) ∧
      (x.noticed = false → (jobOf s j).map.any (fun m => m.1.toNat == chip.toNat && m.2.toNat == inc.toNat) = true →
        jobStateIn s j = 1 ∨ jobStateIn s j = 2 → ∃ t, exec (.resetNotice lane chip inc) s = .next t ∧
          (FMap.get lane0 t.lanes lane).noticed = true ∧ fieldIn t R.FAB_LSTAT_CAUSE lane 0 = 7 ∧ jobStateIn t j = 3 ∧
          fieldIn t R.CJ_JOBB_CAUSE j 0 = 5))

/-! Packets (R364 to R375, R387, R412). -/

/-- R53, R364 to R366, R371, R372, R412: a request that arrives is performed by the shared operation it names: memory is as that leaves it,
and its status and data go back to the sender. WR and PWR that are no part of a block write their data; a tentative one of a job in
progress is recorded when it was performed, the write leaves the release tag it carries where tags are kept (R323), and one of a job that
is held or not served is answered HELD and not performed. A segment of a block is kept while a block buffer is free for it. AT answers
what the word held. A packet of another incarnation than the one expected is not performed: it is counted, with its sender, and a request
is answered STALE_INCARNATION. -/
def Obligations.RequestsServed : Prop :=
  ∀ (s : State) (lane : Nat) (p : Packet), FMap.wf lane0 s.lanes = true → FMap.wf resetValue s.regs = true →
    let ends (c : Instr) (u : State) (status : Nat) (data : List Byte) (more : State → Prop) : Prop :=
      ∃ t, exec c s = .next t ∧ t.gddr = u.gddr ∧ t.spad = u.spad ∧ leaves u t (answerTo u p status data) none ∧ taken u t lane p ∧ more t
    (arrives s lane p Ty.rd → ∀ u status d,
      gives s (busRead (.peer p.src) (p.addr.toNat % 2 ^ 48) p.len.toNat) = (.ok (status, d, []), u) →
      ends (.rd lane p) u status d (fun t => t.tent = u.tent)) ∧
    (∀ (c : Instr) (typ : BitVec 8) (rel kept : Option RelTag), c = .wr lane p ∧ typ = Ty.wr ∧ kept = none ∨
        c = .pwr lane ⟨p, rel.toList⟩ ∧ typ = Ty.pwr ∧ kept = (if tagsKept s = true ∧ p.data.length ≤ 8 then rel else none) → arrives s lane p typ →
      (Packet.blk p = false → Packet.tent p = false ∨ answeredHeld s p = false → s.tent.length < 65536 → ∀ u status,
        gives s (busWrite (.peer p.src) (p.addr.toNat % 2 ^ 48) p.data kept) = (.ok (status, []), u) →
        ends c u status [] (fun t => t.tent = if status = 0 ∧ Packet.tent p = true then u.tent ++ [tentOf p] else u.tent)) ∧
      (Packet.tent p = true → answeredHeld s p = true → ends c s Status.held [] (fun t => t.tent = s.tent)) ∧
      (Packet.tent p = false ∨ answeredHeld s p = false → Packet.blk p = true → Packet.trail p = false →
        (s.blockBufs.any (blockOf p) = true ∨ s.blockBufs = [] ∨ s.blockBufs.length < Config.blockBuffers) →
        ∃ t, exec c s = .next t ∧ t.gddr = s.gddr ∧ t.spad = s.spad ∧ taken s t lane p ∧
          ∃ b ∈ t.blockBufs, blockOf p b = true ∧ (p.aux.toNat, slice p.data 0 256) ∈ b.segs ∧ p.tag ∈ b.tags)) ∧
    (arrives s lane p Ty.at → p.aux.toNat ≤ 6 → ∀ u status old,
      gives s (modAtomic (p.addr.toNat % 2 ^ 48 / 8 * 8)
        (atomicFn p.aux.toNat (BitVec.ofNat 64 (fieldAt p.data 0 8)) (BitVec.ofNat 64 (fieldAt p.data 8 8)))) = (.ok (status, old, []), u) →
      ends (.atReq lane p) u status (leBytes 8 old.toNat) (fun t => t.tent = u.tent)) ∧
    (∀ (c : Instr) (typ : BitVec 8) (rel : Option RelTag), (c = .rd lane p ∧ typ = Ty.rd ∨ c = .wr lane p ∧ typ = Ty.wr ∨
        c = .pwr lane ⟨p, rel.toList⟩ ∧ typ = Ty.pwr ∨
        c = .atReq lane p ∧ typ = Ty.at) → fieldIn s R.INT_LOGC_EN 0 0 = 0 → lane < 48 → p.typ = typ → p.dst.toNat = chipIn s →
      firstOfFlow (FMap.get lane0 s.lanes lane).received p = true → gives s (incOk lane p) = (.ok false, s) →
      ∃ t, exec c s = .next t ∧ t.gddr = s.gddr ∧ t.spad = s.spad ∧ t.tent = s.tent ∧ taken s t lane p ∧
        fieldIn t R.FAB_STALE_DROPPED 0 0 = min (fieldIn s R.FAB_STALE_DROPPED 0 0 + 1) (2 ^ R.FAB_STALE_DROPPED.width - 1) ∧
        fieldIn t R.FAB_STALE_CHIP 0 0 = p.src.toNat % 2 ^ R.FAB_STALE_CHIP.width ∧ fieldIn t R.FAB_STALE_INC 0 0 = p.inc.toNat ∧
        (isNonPosted typ = true → leaves s t (answerTo s p Status.stale [] p.inc.toNat) none))

/-- R46, R47, R365 to R367, R373, R374, R387, R398: what else arrives. CONF and RETR of the tense that is open take away the tentative entries
they cover, and RETR leaves the attempt that is open with a bad input, which makes its vote disagree; one of another tense is counted as
late and takes away nothing. A segment of the attempt that is open joins its instance. A response ends the request it answers, by the
purpose of that request, with the release tags of the words it brings (R323), and one that answers none is counted and changes nothing
else; a request without an answer in time ends with TIMEOUT. A packet for another chip leaves on the lane its route names; where there is
none, its sender has NO_ROUTE. -/
def Obligations.PacketsArrive : Prop :=
  ∀ (s : State) (lane : Nat) (p : Packet), FMap.wf lane0 s.lanes = true → FMap.wf resetValue s.regs = true → FMap.wf job0 s.jobs = true →
    (∀ (c : Instr) (typ : BitVec 8) (j : Nat), c = .conf lane p ∧ typ = Ty.conf ∨ c = .retr lane p ∧ typ = Ty.retr → arrives s lane p typ →
      servedIn s p = some j → j < 16 → answeredHeld s p = false →
      (p.tense.toNat ≠ nextTenseIn s j → ∃ t, exec c s = .next t ∧ t.tent = s.tent ∧ taken s t lane p ∧
        leaves s t (answerTo s p Status.ok []) none ∧
        fieldIn t R.FAB_TENT_LATE 0 0 = min (fieldIn s R.FAB_TENT_LATE 0 0 + 1) (2 ^ R.FAB_TENT_LATE.width - 1)) ∧
      (p.tense.toNat = nextTenseIn s j → s.tent.filter (coveredBy p) ≠ [] → ∃ t, exec c s = .next t ∧ taken s t lane p ∧
        t.tent = s.tent.filter (fun e => !coveredBy p e) ∧ (∀ e ∈ s.tent.filter (coveredBy p), e ∈ t.tentDone) ∧
        (typ = Ty.retr → (jobOf s j).isOpen = true → p.tense.toNat = jobTenseIn s j → (jobOf t j).badInput = true))) ∧
    (∀ j, arrives s lane p Ty.seg → servedIn s p = some j → answeredHeld s p = false → ofAttemptIn s j p.tense.toNat = true → ∀ u,
      gives s (onSeg j p.src.toNat (p.addr.toNat % 2048) (p.addr.toNat / 65536 % 65536) p.data) = (.ok (), u) →
      ∃ t, exec (.seg lane p) s = .next t ∧ t.colls = u.colls ∧ t.ctxs = u.ctxs ∧ taken u t lane p ∧
        leaves u t (answerTo u p Status.ok []) none) ∧
    (∀ (c : Instr) (typ : BitVec 8) (rels : List RelTag), c = .rdr lane ⟨p, rels⟩ ∧ typ = Ty.rdr ∨
        c = .ack lane p ∧ typ = Ty.ack ∧ rels = [] ∨ c = .atr lane ⟨p, rels⟩ ∧ typ = Ty.atr →
      arrives s lane p typ → p.status.toNat ≤ 9 →
      (answeredIn s p = none → ∃ t, exec c s = .next t ∧ taken s t lane p ∧ t = { s with
        lanes := t.lanes, regs := t.regs, out := t.out, fresh := t.fresh, lateDrops := s.lateDrops + 1 }) ∧
      (∀ r u, answeredIn s p = some r → ¬ (p.status.toNat = Status.stale ∧ p.addr.toNat % 65536 = fieldIn s R.FAB_ID_INC 0 0) →
        gives s (do noteAnswerTags r rels; arrived r p.status.toNat p.data) = (.ok (), u) → ∃ t, exec c s = .next t ∧ taken u t lane p ∧
          t = { u with lanes := t.lanes, regs := t.regs, out := t.out, fresh := t.fresh })) ∧
    (∀ (tag : BitVec 16) r u, s.reqs.find? (fun r => r.tag == tag.toNat) = some r → gives s (arrived r Status.timeout []) = (.ok (), u) →
      ∃ t, exec (.transactionTimeout tag) s = .next t ∧ t = { u with lanes := t.lanes, regs := t.regs, out := t.out, fresh := t.fresh }) ∧
    (lane < 48 → p.dst.toNat ≠ chipIn s → firstOfFlow (FMap.get lane0 s.lanes lane).received p = true →
      ∃ t, exec (.packetForward lane p) s = .next t ∧ taken s t lane p ∧ leaves s t p (some lane) ∧
        (routeOf s p (some lane) = none → isResponse p.typ = false → leaves s t { emptyPacket with
          typ := responseType p.typ, src := p.dst, dst := p.src, job := p.job, tag := p.tag, status := 5, vl := 1 } none))

/-! Integrity (R408 to R432). -/

/-- R163, R421, R430, R476: each fault due sends message 0, or leaves it pending while it is masked or the function sends none. An enable of
the D ring takes its base and size and writes the stored records to it in order from HEAD; the store is then empty, and one further
message is due. MX_INJECT arms a core in the moods that permit it, and in others nothing changes. R425 to R429, R432, R468: a bundle that
passes the checks takes the lowest free slot, which is then in use and holds it; the result of the load shows in INT_DSTAT and, for a
queue, in its completion; a bundle that fails a check changes no slot. In P3 a load ends with POWER, or with MOOD where the mood bars its
signer. A pass on an idle unit whose turn has come, after the period of the bundle, leaves its verdict, is counted, and adds the
corrections it saw; a unit that is not there, or a dictation that is too late, has the verdict not run. A pass of a unit that is no longer
idle is given up and counted; of one that is idle none is. CANCEL frees the slot. -/
def Obligations.FaultRingAndDictation : Prop :=
  (∀ s : State, FMap.wf resetValue s.regs = true →
    (s.faultsDue = 0 → exec .faultInterrupt s = .next s) ∧
    (s.faultsDue ≠ 0 → fieldIn s R.HOST_LINK_UP 0 0 = 1 → (FMap.get msix0 s.msix 0).mask = false → s.pcie.sends = true →
      exec .faultInterrupt s = .next (sends { s with faultsDue := s.faultsDue - 1 } (.msix 0))) ∧
    (s.faultsDue ≠ 0 → fieldIn s R.HOST_LINK_UP 0 0 = 1 → (FMap.get msix0 s.msix 0).mask = true ∨ s.pcie.sends = false →
      exec .faultInterrupt s = .next { s with
        faultsDue := s.faultsDue - 1, msix := FMap.set msix0 s.msix 0 { FMap.get msix0 s.msix 0 with pend := true } }) ∧
    (∀ v, bitsOf v 53 1 = 1 → bitsOf v 0 12 = 0 → 6 ≤ bitsOf v 48 5 → bitsOf v 48 5 ≤ 20 → fieldIn s R.INT_LOGD_EN 0 0 = 0 →
      (s.store = [] → ∃ t, exec (.dRingEnable v) s = .next t ∧ t = { s with regs := t.regs } ∧ fieldIn t R.INT_LOGD_EN 0 0 = 1 ∧
        fieldIn t R.INT_LOGD_BASE 0 0 = bitsOf v 0 48 ∧ fieldIn t R.INT_LOGD_SIZE 0 0 = bitsOf v 48 5) ∧
      (∃ t, exec (.dRingEnable v) s = .next t ∧ t.store = [] ∧ (s.store ≠ [] → s.faultsDue < t.faultsDue)) ∧
      ∀ bs u, s.store = [bs] →
        gives s (do
          ringRegWrite (R.INT_LOGD_BASE.addr 0 0) v
          eff (.store [])
          ringWrite R.INT_LOGD_BASE R.INT_LOGD_SIZE R.INT_LOGD_PTR_HEAD R.INT_LOGD_PTR_TAIL bs) = (.ok (true, []), u) →
        exec (.dRingEnable v) s = .next { u with faultsDue := u.faultsDue + 1 }) ∧
    (∀ v, bitsOf v 53 1 = 1 → fieldIn s R.INT_LOGD_EN 0 0 = 1 → exec (.dRingEnable v) s = .next s) ∧
    (∀ v, moodAllows s [0, 1, 2] [2] 2 = true → bitsOf v 0 8 < 144 → bitsOf v 8 1 = 1 → exec (.mxInjectArm v) s =
      .next { s with cores := FMap.set core0 s.cores (bitsOf v 0 8) { FMap.get core0 s.cores (bitsOf v 0 8) with inject := true } }) ∧
    (∀ v, moodAllows s [0, 1, 2] [2] 2 = false → exec (.mxInjectArm v) s = .next s)) ∧
  (∀ (s : State), FMap.wf resetValue s.regs = true → FMap.wf dict0 s.dicts = true → fieldIn s R.INT_LOGC_EN 0 0 = 0 →
    (∀ (src : CmdSource) (d : List Byte), phaseIn s = 4 →
      (src = .registers ∧ gives s (bundleAt (fieldIn s R.INT_DSRC_ADDR 0 0)) = (.ok (some d), s) ∨
        ∃ q cid, src = .queue q cid d ∧ q < 64) →
      let ends (code : Nat) (more : State → Prop) : Prop := ∃ t, exec (.dictationLoad src) s = .next t ∧
        fieldIn t R.INT_DSTAT_ERR 0 0 = code ∧ fieldIn t R.INT_DSTAT_LOADED 0 0 = 1 ∧ more t ∧
        ∀ q cid, src = .queue q cid d → completes s t q (entryBytes cid.toNat q 1 (if code = 0 then Cmd.ok else Cmd.failed) code 0 0)
      (dictBusyIn s = true →
        ends DictErr.busy (fun t => t.dicts = s.dicts)) ∧
      (∀ k, k < 4 → (FMap.get dict0 s.dicts k).used = false → (∀ x, x < k → (FMap.get dict0 s.dicts x).used = true) →
        readRunsIn s 1 = false →
        (3 ≤ fieldIn s R.DEV_MOOD_POWER 0 0 → (fieldAt d 6 1 = 1 ∧ fieldIn s R.DEV_MOOD_SEC 0 0 ≠ 2 → ends DictErr.mood (fun t => t.dicts = s.dicts)) ∧
          (¬ (fieldAt d 6 1 = 1 ∧ fieldIn s R.DEV_MOOD_SEC 0 0 ≠ 2) → ends DictErr.power (fun t => t.dicts = s.dicts))) ∧
        (fieldIn s R.DEV_MOOD_POWER 0 0 < 3 → dictCheck s d ≠ 0 → ends (dictCheck s d) (fun t => t.dicts = s.dicts)) ∧
        (fieldIn s R.DEV_MOOD_POWER 0 0 < 3 → dictCheck s d = 0 → ends 0 (fun t =>
          let x := FMap.get dict0 t.dicts k
          x.used = true ∧ x.bytes = d ∧ x.signer = fieldAt d 6 1 ∧ x.serial.toNat = fieldAt d 16 8 ∧ x.repeat' = fieldAt d 40 2 ∧
          x.period = fieldAt d 42 2 ∧
          x.tests.length = fieldAt d 7 1 ∧ bitN (fieldIn t R.INT_DSTAT_USED 0 0) k = true ∧
          ∀ y, y ≠ k → FMap.get dict0 t.dicts y = FMap.get dict0 s.dicts y)))) ∧
    (∀ b, portUpIn s = true → phaseIn s = 4 → loadOrCommandIn s = false → b.length ≠ 12 →
      exec (.dictationLoad (.management b)) s = .next (sends (withField s R.MGT_CNT_MESSAGES (fieldIn s R.MGT_CNT_MESSAGES 0 0 + 1))
        (.mgmt 0x06 Done.format 0 []))) ∧
    (∀ v, bitsOf v 0 2 = 2 → ∃ t, exec (.cancel v) s = .next t ∧ t = { s with regs := t.regs, dicts := t.dicts } ∧
      (FMap.get dict0 t.dicts (bitsOf v 2 2)).used = false ∧ bitN (fieldIn t R.INT_DSTAT_USED 0 0) (bitsOf v 2 2) = false ∧
      fieldIn t R.INT_DCMD_SLOT 0 0 = bitsOf v 2 2 ∧
      ∀ k, k ≠ bitsOf v 2 2 → FMap.get dict0 t.dicts k = FMap.get dict0 s.dicts k) ∧
    (∀ slot test unit i r, slot < 4 →
      let x := FMap.get dict0 s.dicts slot
      let job := x.tests.getD test ⟨0, 0, 0, 0, 0, 0, 0, 0⟩
      let kind := job.kind
      let late : Prop := x.notAfter ≠ 0 ∧ fieldIn s R.MGT_TIME_SET 0 0 = 1 ∧ x.notAfter.toNat < fabricNsIn s
      resultAt x test unit = some (i, r) →
      (x.used = true → passesLeft x r = true → turnIn s slot r (kind != 3) = true → periodOver s x r = true → unitIdleIn s kind unit = false →
        ∃ t, exec (.dictationAbandon slot test unit) s = .next t ∧ FMap.get dict0 t.dicts slot = { x with
          results := x.results.set i { r with abandoned := min (r.abandoned + 1) 65535 } }) ∧
      (unitIdleIn s kind unit = true → exec (.dictationAbandon slot test unit) s = .next s) ∧
      (∀ failing corrected, x.used = true → passesLeft x r = true →
        (late ∨ (if kind = 3 then controllerHereIn s unit else coreHereIn s unit) = false →
          ∃ t, exec (.dictationPass slot test unit failing corrected) s = .next t ∧
            FMap.get dict0 t.dicts slot = { x with results := x.results.set i { r with verdict := 3 } }) ∧
        (¬ late → (if kind = 3 then controllerHereIn s unit else coreHereIn s unit) = true → unitIdleIn s kind unit = true →
          turnIn s slot r (kind != 3) = true → periodOver s x r = true → job.action = 0 →
          (∀ y u, kind = 2 ∧ gives s (marchPass job unit (r.passes % 2 ^ 32)) = (.ok y, u) ∨
              kind = 3 ∧ gives s (sparePass job unit (r.passes % 2 ^ 32)) = (.ok y, u) →
            ∃ t, exec (.dictationPass slot test unit failing corrected) s = .next t ∧
            let bad : Bool := decide (y.failing + failing ≠ 0 ∨ (kind = 2 ∧ y.corrected + corrected ≠ 0))
            FMap.get dict0 t.dicts slot = { x with results := x.results.set i { r with
              verdict := bit bad, passes := r.passes + 1, fails := r.fails + bit bad, observed := (y.failing + failing) % 2 ^ 32
              corrected := min (r.corrected + (y.corrected + corrected)) (2 ^ 32 - 1), started := some s.ms
              stamp := some (stampIn u job unit) } }) ∧
          (kind = 1 → ∀ verdict found u, gives s (dictProgram job x.bytes) = (.ok (verdict, found), u) →
            ∃ t, exec (.dictationPass slot test unit failing corrected) s = .next t ∧
            FMap.get dict0 t.dicts slot = { x with results := x.results.set i { r with
              verdict, passes := r.passes + 1, fails := r.fails + bit (verdict == 1), observed := found
              corrected := min r.corrected (2 ^ 32 - 1), started := some s.ms, stamp := some (stampIn u job unit) } })))))

/-! Resets, the monitor and retirement (R20 to R22, R433 to R441, R445, R451). -/

/-- R433, R434, R436, R437, R451, R453: a reset that no running one covers begins, by its own cause or by an order in a mood that permits it
for a target that exists: it runs, shows its domain and cause, and its domain's units are reset: a core's running context loses its
registers and its scratchpad stands; the control complex disarms the monitor; a controller goes into self-refresh, the host unit loses its
link, the port its addresses; a compute die, the control complex and a warm module reset hold the module's jobs; a warm module reset stops
every lane. A reset that a running one covers is counted and nothing else; an order for a target that does not exist is marked, and one
the mood does not permit changes nothing. A power-on reset loses everything but what flash holds, and the record of its cause. R20 to R22,
R434, R437, R439, R445: the end of a reset that runs: it is no longer running, and BUSY shows whether another is. Firmware starts again
from a retained image that is whole, and else the module waits for one; the fields of a compute die are bound afresh, each logical number
to its usable position; a warm module reset makes a module READY again whose firmware has finished its start (R443). The end of a reset
that does not run changes nothing. -/
def Obligations.ResetsBeginAndEnd : Prop :=
  (∀ s : State, FMap.wf resetValue s.regs = true → FMap.wf gdctl0 s.gdctls = true → FMap.wf ctx0 s.ctxs = true →
    let quick : Prop := (s.rst.recent.filter (fun x => decide (s.ms < x + 1000))).length < 2
    let free (d t : Nat) : Prop := s.rst.running.any (fun r => coversIn s r (d, t)) = false
    let ordered (d : Nat) : Prop := poweredIn s = true ∧ moodAllows s [0, 1, 2] [0, 1, 2] (if d = 1 ∨ d = 2 ∨ d = 5 then 2 else 3) = true
    let begins (c : Instr) (d t cause : Nat) (more : State → Prop) : Prop := ∃ u, exec c s = .next u ∧ (d, t) ∈ u.rst.running ∧
      fieldIn u R.RST_STATUS_LAST 0 0 = d ∧ fieldIn u R.RST_STATUS_CAUSE 0 0 = cause ∧ fieldIn u R.RST_STATUS_BUSY 0 0 = 1 ∧ more u
    let held (u : State) : Prop := ∀ j, j < 16 → jobStateIn s j = 1 ∨ jobStateIn s j = 2 → jobStateIn u j = 3 ∧
      fieldIn u R.CJ_JOBB_CAUSE j 0 = 5
    let core (l : Nat) (u : State) : Prop := u.spad = s.spad ∧ (fieldIn s R.CORE_STATUS_RUN l 0 ≠ 0 → ∀ r, r < 64 →
      FMap.get zeroWord u.sregs (here s l * 64 + r) = 0 ∧ (FMap.get ctx0 u.ctxs (here s l)).sentence = none)
    let unit (n : Nat) (u : State) : Prop := (64 ≤ n → n < 96 → fieldIn u R.GD_STATUS_STATE (n - 64) 0 = 2) ∧
      (n = 112 → fieldIn u R.HOST_LINK_UP 0 0 = 0) ∧ (n = 113 → fieldIn u R.MGT_STATUS_DADDR 0 0 = 0 ∧ fieldIn u R.MGT_STATUS_EID 0 0 = 0)
    let warm (u : State) : Prop := held u ∧ fieldIn u R.RST_STATUS_PHASE 0 0 = 3 ∧ fieldIn u R.CJ_COORD_SET 0 0 = 0 ∧
      ∀ i, i < 48 → fieldIn u R.FAB_LSTAT_STATE i 0 = 0
    (∀ l, boundIn s l = true → free 1 l → begins (.coreReset l .own) 1 l 3 (core l) ∧
      (ordered 1 → begins (.coreReset l .register) 1 l 1 (core l))) ∧
    (∀ c, targetValid s 2 c = true → free 2 c → begins (.clauseReset c .own) 2 c 4 (fun u => u.spad = s.spad) ∧
      (ordered 2 → begins (.clauseReset c .register) 2 c 1 (fun u => u.spad = s.spad))) ∧
    (quick → free 3 0 → begins (.controlComplexReset .own) 3 0 2 (fun u => held u ∧ fieldIn u R.RST_MON_ARMED 0 0 = 0) ∧
      (ordered 3 → begins (.controlComplexReset .register) 3 0 1 (fun u => held u ∧ fieldIn u R.RST_MON_ARMED 0 0 = 0))) ∧
    (∀ n cause, free 4 n →
      ((cause = 5 ∧ 64 ≤ n ∧ n < 96 ∧ fieldIn s R.GD_STATUS_STATE (n - 64) 0 = 3) ∨ ((cause = 7 ∨ cause = 9) ∧ n = 112) ∨ (cause = 10 ∧ n = 113) →
        begins (.baseDieIoReset n .own cause) 4 n cause (unit n)) ∧
      (ordered 4 → targetValid s 4 n = true → begins (.baseDieIoReset n .register cause) 4 n 1 (unit n))) ∧
    (∀ d, d < 2 → free 5 d → ordered 5 → begins (.computeDieReset d .register) 5 d 1 held) ∧
    (free 6 0 → begins (.warmModuleReset .own) 6 0 6 warm ∧ (ordered 6 → begins (.warmModuleReset .register) 6 0 1 warm)) ∧
    (∀ l, boundIn s l = true → ¬ free 1 l → exec (.coreReset l .own) s = .next (withField s R.RST_CNT_ABSORBED
      (min (fieldIn s R.RST_CNT_ABSORBED 0 0 + 1) (2 ^ R.RST_CNT_ABSORBED.width - 1)))) ∧
    (∀ l, ordered 1 → targetValid s 1 l = false → exec (.coreReset l .register) s = .next (withField s R.RST_STATUS_BADORDER 1)) ∧
    (∀ l, ¬ ordered 1 → exec (.coreReset l .register) s = .next s) ∧
    (∃ u, exec .powerOnReset s = .next u ∧ u.jobs = [] ∧ u.ctxs = [] ∧ u.sregs = [] ∧ u.gddr = [] ∧ u.spad = [] ∧ u.stream = none ∧
      u.log = s.log ∧ fieldIn u R.RST_STATUS_CAUSE 0 0 = 0)) ∧
  (∀ (s : State) (d t : Nat), FMap.wf resetValue s.regs = true →
    (s.rst.running.contains (d, t) = false → exec (.resetComplete d t) s = .next s) ∧
    (s.rst.running.contains (d, t) = true → 1 ≤ d → d ≤ 5 →
      (d ≤ 2 → s.rst.affected = []) → (d = 4 → t < 64 ∨ 96 ≤ t ∨ fieldIn s R.GD_STATUS_STATE (t - 64) 0 ≠ 2) → ∃ u, exec (.resetComplete d t) s = .next u ∧
        u.rst.running = eraseFirst (d, t) s.rst.running ∧
        fieldIn u R.RST_STATUS_BUSY 0 0 = bit (!(eraseFirst (d, t) s.rst.running).isEmpty) ∧
        (d = 3 → s.rst.image = none → fieldIn u R.RST_STATUS_PHASE 0 0 = 1) ∧
        (d = 3 → ∀ b, s.rst.image = some b → sha512 (b.take (b.length - 64)) = s.rst.imageDigest → u.rst.awaiting = true) ∧
        (d = 5 → ∀ f i p, 4 * t ≤ f → f < 4 * t + 4 → f < 8 → i < 18 → (usableIn s f)[i]? = some p →
          fieldIn u R.CORE_STATUS_PCORE (18 * f + i) 0 = 19 * f + p)) ∧
    (s.rst.running.contains (6, 0) = true → ∀ b, s.rst.image = some b → sha512 (b.take (b.length - 64)) = s.rst.imageDigest →
      s.rst.accepted = false → ∃ u, exec (.resetComplete 6 0) s = .next u ∧ fieldIn u R.RST_STATUS_PHASE 0 0 = 4 ∧ u.rst.awaiting = true))

/-- R22, R438 to R441: the monitor, hang detection and retirement. A heartbeat of the firmware arms the monitor and clears what was missed;
one of another agent is only counted. A period without a heartbeat is counted as missed, the fourth resets the control complex, and one
with a heartbeat clears the count. Firmware that does not beat in time after its restart resets the module. A watched core whose count has
stood still since the last check is hung: it is counted and reset; else its count is taken. A retirement fences the core and takes it out
of its field; a bound core's clause is reset. -/
def Obligations.MonitorAndRetirement : Prop :=
  ∀ s : State, FMap.wf resetValue s.regs = true → FMap.wf core0 s.cores = true → s.rst.running = [] →
    (∀ v, ∃ t, exec (.heartbeat .firmware v) s = .next t ∧ t = { s with regs := t.regs, rst := { s.rst with beat := true, awaiting := false } } ∧
      fieldIn t R.RST_HEART_BEAT 0 0 = bitsOf v 0 32 ∧ fieldIn t R.RST_MON_ARMED 0 0 = 1 ∧ fieldIn t R.RST_MON_MISSED 0 0 = 0) ∧
    (∀ a v, a ≠ .firmware → exec (.heartbeat a v) s = .next (withField s R.RST_MON_FOREIGN
      (min (fieldIn s R.RST_MON_FOREIGN 0 0 + 1) (2 ^ R.RST_MON_FOREIGN.width - 1)))) ∧
    (let missed := fieldIn s R.RST_MON_MISSED 0 0
      ∃ t, exec .heartbeatPeriod s = .next t ∧ t.ms = s.ms + 1 ∧ t.rst.beat = false ∧
        (fieldIn s R.RST_MON_ARMED 0 0 = 0 → fieldIn t R.RST_MON_MISSED 0 0 = missed) ∧
        (fieldIn s R.RST_MON_ARMED 0 0 = 1 → s.rst.beat = true → fieldIn t R.RST_MON_MISSED 0 0 = 0) ∧
        (fieldIn s R.RST_MON_ARMED 0 0 = 1 → s.rst.beat = false → missed < 3 → fieldIn t R.RST_MON_MISSED 0 0 = missed + 1 ∧
          t.rst.running = []) ∧
        (fieldIn s R.RST_MON_ARMED 0 0 = 1 → s.rst.beat = false → missed = 3 →
          (s.rst.recent.filter (fun x => decide (s.ms + 1 < x + 1000))).length < 2 →
          t.rst.running = [(3, 0)] ∧ fieldIn t R.RST_STATUS_CAUSE 0 0 = 2)) ∧
    (s.rst.awaiting = false → exec .firstHeartbeatTimeout s = .next s) ∧
    (s.rst.awaiting = true → ∃ t, exec .firstHeartbeatTimeout s = .next t ∧ t.rst.running = [(6, 0)] ∧ fieldIn t R.RST_STATUS_CAUSE 0 0 = 6) ∧
    (∀ l, boundIn s l = true → phaseIn s = 4 → fieldIn s R.RST_HANGCFG_LIMIT 0 0 = 0 →
      let n := fieldIn s R.CORE_RETIRED_COUNT l 0
      let c := FMap.get core0 s.cores l
      (watchedIn s l = false → exec (.coreHangCheck l) s = .next { s with cores := FMap.set core0 s.cores l { c with watched := none } }) ∧
      (watchedIn s l = true → c.watched ≠ some n →
        exec (.coreHangCheck l) s = .next { s with cores := FMap.set core0 s.cores l { c with watched := some n } }) ∧
      (watchedIn s l = true → c.watched = some n → ∃ t, exec (.coreHangCheck l) s = .next t ∧ t.rst.running = [(1, l)] ∧
        fieldIn t R.RST_STATUS_CAUSE 0 0 = 3 ∧
        fieldIn t R.RST_HANGCFG_HANGS 0 0 = min (fieldIn s R.RST_HANGCFG_HANGS 0 0 + 1) (2 ^ R.RST_HANGCFG_HANGS.width - 1))) ∧
    (∀ p, p < 152 → bitN (fieldIn s R.DEV_FIELD_MAP_USABLE (p / 19) 0) (p % 19) = true → ∃ t, exec (.coreRetirement p) s = .next t ∧
      p ∈ t.rst.fenced ∧ bitN (fieldIn t R.DEV_FIELD_MAP_USABLE (p / 19) 0) (p % 19) = false ∧
      fieldIn t R.DEV_FIELD_MAP_RETIRED (p / 19) 0 =
        min (fieldIn s R.DEV_FIELD_MAP_RETIRED (p / 19) 0 + 1) (2 ^ R.DEV_FIELD_MAP_RETIRED.width - 1) ∧
      fieldIn t R.DEV_FIELD_MAP_PENDING (p / 19) 0 = 1 ∧
      (logicalOf s p = none → fieldIn s R.DEV_FIELD_MAP_SPARE_POS (p / 19) 0 = p % 19 → fieldIn t R.DEV_FIELD_MAP_SPARE_POS (p / 19) 0 = 31) ∧
      (∀ l c, logicalOf s p = some l → clauseOfIn s l = some c → t.rst.running = [(2, c.num)]))

/-! The host interface (R454 to R482) and firmware (R442 to R444). -/

/-- R455, R458, R466, R473, R476, R479, R481, R482: a doorbell of an enabled queue moves its tail, or its head, within the ring; one outside
it, or one that moves backwards, leaves the queue in error; of a queue that is not enabled it is only counted. An entry that waited for
room is then written. An enable takes the register and empties the ring. The MSI-X table takes what is written, and unmasking a pending
vector sends its message. Where the function does not answer its BARs a doorbell or a write of the table does nothing. Configuration space
takes its items; what lets messages go sends those that are pending. -/
def Obligations.QueuesAndDoorbells : Prop :=
  ∀ (s : State), phaseIn s = 4 → FMap.wf resetValue s.regs = true → FMap.wf msix0 s.msix = true →
    (barsOnIn s = false → (∀ q v, exec (.sqDoorbell q v) s = .next s ∧ exec (.cqDoorbell q v) s = .next s) ∧
      ∀ off size v, exec (.msixTableWrite off size v) s = .next s) ∧
    (∀ (q : Nat) (v : Word), q < 64 →
      let t := bitsOf v 0 16
      let n := 2 ^ fieldIn s R.HOST_SQA_SIZE q 0
      let h := fieldIn s R.HOST_SQB_HEAD q 0
      let old := fieldIn s R.HOST_SQB_TAIL q 0
      let discarded := withField s R.HOST_CNT_DISCARDED (min (fieldIn s R.HOST_CNT_DISCARDED 0 0 + 1) (2 ^ R.HOST_CNT_DISCARDED.width - 1))
      (barsOnIn s = true → fieldIn s R.HOST_SQA_STATE q 0 ≠ 1 → exec (.sqDoorbell q v) s = .next discarded) ∧
      (barsOnIn s = true → fieldIn s R.HOST_SQA_STATE q 0 = 1 → t < n → (old + n - h) % n ≤ (t + n - h) % n →
        exec (.sqDoorbell q v) s = .next (withField s R.HOST_SQB_TAIL t q)) ∧
      (barsOnIn s = true → fieldIn s R.HOST_SQA_STATE q 0 = 1 → n ≤ t ∨ (t + n - h) % n < (old + n - h) % n →
        exec (.sqDoorbell q v) s = .next (withField (withField s R.HOST_SQA_STATE 2 q) R.HOST_SQB_ERR 1 q)) ∧
      (barsOnIn s = true → fieldIn s R.HOST_CQB_EN q 0 = 0 → exec (.cqDoorbell q v) s = .next discarded) ∧
      (let m := cqSizeIn s q
        let h := fieldIn s R.HOST_CQB_HEAD q 0
        let tail := fieldIn s R.HOST_CQB_TAIL q 0
        barsOnIn s = true → fieldIn s R.HOST_CQB_EN q 0 = 1 →
        (t < m → (t + m - h) % m ≤ (tail + m - h) % m →
          (s.pcie.waiting.any (fun w => w.1 == q) = false → exec (.cqDoorbell q v) s = .next (withField s R.HOST_CQB_HEAD t q)) ∧
          (∀ w, s.pcie.waiting.find? (fun w => w.1 == q) = some w → cqFullIn (withField s R.HOST_CQB_HEAD t q) q = false →
            ∃ u, exec (.cqDoorbell q v) s = .next u ∧ fieldIn u R.HOST_CQB_HEAD q 0 = t ∧
              Out.hostWrite (fieldIn s R.HOST_CQA_BASE q 0 * 4096 + 16 * tail)
                (patch w.2 3 [BitVec.ofNat 8 (fieldAt w.2 3 1 + 128 * fieldIn s R.HOST_CQB_PHASE q 0)]) ∈ u.out)) ∧
        (m ≤ t ∨ (tail + m - h) % m < (t + m - h) % m → ∃ u, exec (.cqDoorbell q v) s = .next u ∧ u = { s with regs := u.regs } ∧
          ∀ x, x < 64 → fieldIn s R.HOST_SQA_EN x 0 = 1 → fieldIn s R.HOST_SQA_CQ x 0 = q →
            fieldIn u R.HOST_SQA_STATE x 0 = 2 ∧ fieldIn u R.HOST_SQB_ERR x 0 = 1)) ∧
      (fieldIn s R.HOST_SQA_EN q 0 = 0 → bitsOf v 53 1 = 1 → (findReg (R.HOST_SQA_BASE.addr q 0)).any (fun r => wordTaken r.1 v) = true →
        ∃ u, exec (.queueEnable (R.HOST_SQA_BASE.addr q 0) v) s = .next u ∧ u = { s with regs := u.regs } ∧
          fieldIn u R.HOST_SQA_EN q 0 = 1 ∧ fieldIn u R.HOST_SQA_STATE q 0 = 1 ∧ fieldIn u R.HOST_SQB_HEAD q 0 = 0 ∧
          fieldIn u R.HOST_SQB_TAIL q 0 = 0) ∧
      (fieldIn s R.HOST_CQB_EN q 0 = 0 → bitsOf v 4 1 = 1 → (findReg (R.HOST_CQB_EN.addr q 0)).any (fun r => wordTaken r.1 v) = true →
        ∃ u, exec (.queueEnable (R.HOST_CQB_EN.addr q 0) v) s = .next u ∧ u = { s with regs := u.regs } ∧
          fieldIn u R.HOST_CQB_EN q 0 = 1 ∧ fieldIn u R.HOST_CQB_HEAD q 0 = 0 ∧ fieldIn u R.HOST_CQB_TAIL q 0 = 0 ∧
          fieldIn u R.HOST_CQB_PHASE q 0 = 1)) ∧
    (∀ (n : Nat) (v : Word), n < 64 → barsOnIn s = true →
      let e := FMap.get msix0 s.msix n
      exec (.msixTableWrite (0xF0000 + 16 * n) 8 v) s = .next (if e.pend && !e.mask && s.pcie.sends
        then sends { s with msix := FMap.set msix0 s.msix n { e with addr := v, pend := false } } (.msix n)
        else { s with msix := FMap.set msix0 s.msix n { e with addr := v } }) ∧
      exec (.msixTableWrite (0xF0000 + 16 * n + 12) 4 v) s =
        .next (if e.pend && !(bitsOf v 0 1 == 1) && s.pcie.sends
          then sends { s with msix := FMap.set msix0 s.msix n { e with mask := false, pend := false } } (.msix n)
          else { s with msix := FMap.set msix0 s.msix n { e with mask := bitsOf v 0 1 == 1 } })) ∧
    (∀ value,
      (s.pcie.memEnable = false → 30 ≤ value → value ≤ 39 →
        exec (.configurationWrite 0 value) s = .next { s with pcie := { s.pcie with bar2 := value } }) ∧
      exec (.configurationWrite 1 value) s = .next { s with pcie := { s.pcie with memEnable := value % 2 == 1 } } ∧
      exec (.configurationWrite 2 value) s = .next { s with pcie := { s.pcie with control2 := value % 2 ^ 16 } } ∧
      (value ≤ 2 → exec (.configurationWrite 4 value) s = .next { s with pcie := { s.pcie with maxPayload := value } }) ∧
      exec (.configurationWrite 6 value) s =
        .next { s with pcie := { s.pcie with aer := s.pcie.aer &&& ~~~(BitVec.ofNat 32 value) } } ∧
      ∀ item p, item = 3 ∧ p = { s.pcie with d3hot := value % 4 == 3 } ∨
          item = 5 ∧ p = { s.pcie with msixEnable := bitN value 15, msixMask := bitN value 14 } →
        ∃ t, exec (.configurationWrite item value) s = .next t ∧ t = { s with pcie := p, msix := t.msix, out := t.out } ∧
          ∀ n, n < 64 → let e := FMap.get msix0 s.msix n
            (p.sends = true ∧ fieldIn s R.HOST_LINK_UP 0 0 = 1 ∧ e.pend = true ∧ e.mask = false →
              Out.msix n ∈ t.out ∧ FMap.get msix0 t.msix n = { e with pend := false }) ∧
            (¬ (p.sends = true ∧ fieldIn s R.HOST_LINK_UP 0 0 = 1 ∧ e.pend = true ∧ e.mask = false) → FMap.get msix0 t.msix n = e))

/-- R461: until RST_STATUS.PHASE is READY a read through BAR2 returns zero, and a write through BAR2 or BAR4, a doorbell or the MSI-X table,
is discarded. -/
def Obligations.BarsBeforeReady : Prop :=
  ∀ s : State, phaseIn s ≠ 4 →
    (∀ off n, bar2In s off n = true → exec (.hostBar2Read off n) s = .next (sends s (.barReply 0 (List.replicate n 0)))) ∧
    (∀ off bs, exec (.hostBar2Write off bs) s = .next s) ∧
    (∀ q v, exec (.sqDoorbell q v) s = .next s ∧ exec (.cqDoorbell q v) s = .next s) ∧
    ∀ off size v, exec (.msixTableWrite off size v) s = .next s

/-- R389, R467 to R474: the commands of queues. The queue whose turn it is, with an entry and room for its completion, has its entry taken:
its head moves on, the turn passes, and it is run; an opcode that names no command, or a form that is not its own, is completed with that
status. JOB gives a slot the job: its number, map, commit word and the tense before its first as committed. ADVANCE adds to the tenses
released, END frees the slot of an idle or stood-down job. Each completes with its status on the queue's completion queue. -/
def Obligations.QueueCommands : Prop :=
  ∀ (s : State) (q : Nat) (cid : BitVec 16), phaseIn s = 4 → q < 64 → FMap.wf resetValue s.regs = true → FMap.wf job0 s.jobs = true →
    let free (job : Nat) : Prop := kvBusyIn s = false ∧ s.kv.queue = [] ∧ seqsOfJob s job = []
    (∀ host e, hostWriteOut s = false → s.pcie.host = [] → (turnOrder s).find? (waitingIn s) = some q → noRoomIn s q = false →
      fieldIn s R.HOST_SQA_KIND q 0 = 0 →
      gives s (rdGddr (fieldIn s R.HOST_SQA_BASE q 0 / 4096 * 4096 + 64 * fieldIn s R.HOST_SQB_HEAD q 0) 64) = (.ok (0, e), s) →
      let head := (fieldIn s R.HOST_SQB_HEAD q 0 + 1) % 2 ^ fieldIn s R.HOST_SQA_SIZE q 0
      (fieldAt e 0 1 = 0 ∨ 6 < fieldAt e 0 1 ∨ formOk e = false → ∃ t, exec (.commandTake host) s = .next t ∧
        t.pcie.turn = (q + 1) % 64 ∧ fieldIn t R.HOST_SQB_HEAD q 0 = head ∧
        completes s t q (entryBytes (fieldAt e 2 2) q 1 (if fieldAt e 0 1 = 0 ∨ 6 < fieldAt e 0 1 then Cmd.opcode else Cmd.format) 0 0 0)) ∧
      ∀ u, gives s (do
          eff (.pcie { s.pcie with turn := (q + 1) % 64 })
          setF R.HOST_SQB_HEAD head q
          controlCommand q e host) = (.ok (), u) →
        ∃ t, exec (.commandTake host) s = .next t ∧ t = { u with lanes := t.lanes, regs := t.regs, out := t.out, fresh := t.fresh }) ∧
    (∀ p j node nodes, jobCheck s p = (Cmd.ok, j, node, nodes) → free (fieldAt p 0 2) → ∃ t, exec (.jobOrder q cid p) s = .next t ∧
      jobStateIn t j ≠ 0 ∧ fieldIn t R.CJ_JOBA_JOB j 0 = fieldAt p 0 2 ∧ fieldIn t R.CJ_JOBA_TREE j 0 = fieldAt p 2 2 ∧
      (jobOf t j).committed = (fieldAt p 4 4 + 2 ^ 32 - 1) % 2 ^ 32 ∧ (jobOf t j).commit = fieldAt p 16 8 ∧
      (jobOf t j).map = mapOf p 320 nodes ∧ (jobOf t j).sq = some q ∧
      (jobStateIn t j ≠ 3 → completes s t q (entryBytes cid.toNat q 1 Cmd.ok 0 (fieldAt p 0 2) 0))) ∧
    (∀ p j node nodes status, jobCheck s p = (status, j, node, nodes) → status ≠ Cmd.ok → ∃ t, exec (.jobOrder q cid p) s = .next t ∧
      t.jobs = s.jobs ∧ completes s t q (entryBytes cid.toNat q 1 status 0 (fieldAt p 0 2) 0)) ∧
    (∀ (job : BitVec 16) (arg : BitVec 32) j, operatingIn s 2 = true → jobSlotIn s job.toNat = some j →
      (arg ≠ 0 → jobStateIn s j ≠ 1 → ∃ t, exec (.advance q cid job arg) s = .next t ∧
        jobOf t j = { jobOf s j with release := min ((jobOf s j).release + arg.toNat) (2 ^ 32 - 1) } ∧
        completes s t q (entryBytes cid.toNat q 1 Cmd.ok 0 job.toNat 0)) ∧
      (arg ≠ 0 → jobStateIn s j = 1 → treeIn s j = none → (jobOf s j).joined = false → (jobOf s j).isOpen = false →
        fieldIn s R.PWR_STATE_STATE 0 0 < 2 → free job.toNat →
        ∃ t, exec (.advance q cid job arg) s = .next t ∧
          (jobOf t j).isOpen = true ∧ (jobOf t j).opened = nextTenseIn s j ∧
          (jobOf t j).release = min ((jobOf s j).release + arg.toNat) (2 ^ 32 - 1) - (if (jobOf s j).rerun then 0 else 1)) ∧
      (arg = 0 → ∃ t, exec (.advance q cid job arg) s = .next t ∧ t.jobs = s.jobs ∧
        completes s t q (entryBytes cid.toNat q 1 Cmd.format 0 job.toNat 0))) ∧
    (∀ (job : BitVec 16) j, operatingIn s 3 = true → jobSlotIn s job.toNat = some j →
      (jobStateIn s j = 4 ∨ idleIn s j = true → ∃ t, exec (.endJob q cid job) s = .next t ∧ jobStateIn t j = 0 ∧ jobOf t j = {} ∧
        completes s t q (entryBytes cid.toNat q 1 Cmd.ok 0 job.toNat 0)) ∧
      (jobStateIn s j ≠ 4 → idleIn s j = false → ∃ t, exec (.endJob q cid job) s = .next t ∧ t.jobs = s.jobs ∧
        completes s t q (entryBytes cid.toNat q 1 Cmd.jobActive 0 job.toNat 0)))

/-- R8 to R11, R327, R443, R459 to R461, R477, R542: accesses of the host and of agents to registers. A read through BAR2 is answered with
what its address holds, in its turn, as poisoned data where that is POISON or fails a check, and by Completer Abort where it fails
otherwise; a write is performed where it names. A read of an aligned register word shows it and clears what reading clears; another read
clears nothing. An aligned word written to a register without an effect of its own gives its fields what their types take, and to another
has that effect; any other write changes nothing. The host reaches registers so where its function answers, behind what waits of BAR2. An
object of the mailbox makes it busy, or is answered; one of another vendor, or too long, is discarded. -/
def Obligations.HostAccesses : Prop :=
  ∀ (s : State), FMap.wf resetValue s.regs = true →
    (∀ (off : BitVec 39) (o : Nat), s.pcie.host = [] → hostOutIn s = false →
      let g := bar2Addr s off.toNat
      g / 2 ^ 48 = chipIn s → g % 2 ^ 48 = o →
      (∀ n d status u, bar2In s off.toNat n = true → phaseIn s = 4 →
        gives s (do eff (.pcie { s.pcie with host := [{ addr := g, size := n, data := none }] }); busRead .host o n) = (.ok (status, d, []), u) →
        ∃ t, exec (.hostBar2Read off.toNat n) s = .next t ∧ t.gddr = u.gddr ∧ t.spad = u.spad ∧ t.pcie.host = [] ∧
          (if status = 0 then Out.barReply 0 d
            else if status = Status.poison ∨ status = Status.checkFail ∨ status = Status.sizeMismatch ∨ status = Status.genMissing then Out.barReply 1 d
            else Out.barReply 2 []) ∈ t.out) ∧
      (∀ bs status u, bar2In s off.toNat bs.length = true → phaseIn s = 4 → 0 < bs.length →
        g % 256 + bs.length ≤ 256 ∨ (∃ x, windowOf o = .registers x) →
        gives s (do eff (.pcie { s.pcie with host := [{ addr := g, size := bs.length, data := some bs }] }); busWrite .host o bs) = (.ok (status, []), u) →
        ∃ t, exec (.hostBar2Write off.toNat bs) s = .next t ∧ t.gddr = u.gddr ∧ t.spad = u.spad)) ∧
    (barsOnIn s = false → hostQueuedIn s = false → ∀ off size v, exec (.registerRead .host off size) s = .next s ∧
      exec (.registerWrite .host off size v) s = .next s) ∧
    (∀ a off size, (a = .host → barsOnIn s = true ∧ hostQueuedIn s = false) → let shown (o : Nat) : Word := if responds s a o then regValueIn s o else 0
      (off % 8 = 0 → responds s a off = true → ∀ r i j, findReg off = some (r, i, j) → exec (.registerRead a off 8) s =
        .next (sends { s with regs := FMap.set resetValue s.regs off (readWord r (FMap.get resetValue s.regs off)) }
          (.regReply a (regValueIn s off)))) ∧
      (off % 8 = 0 → responds s a off = false → exec (.registerRead a off 8) s = .next (sends s (.regReply a 0))) ∧
      (size < 8 ∨ off % 8 ≠ 0 → exec (.registerRead a off size) s = .next (sends s (.regReply a (BitVec.ofNat 64 (leNat
        ((List.range (min size 8)).map (fun i => BitVec.ofNat 8 ((shown ((off + i) / 8 * 8)).toNat / 2 ^ (8 * ((off + i) % 8)))))))))) ∧
      (∀ v, (size ≠ 8 ∨ off % 8 ≠ 0 ∨ responds s a off = false ∨ findReg off = none → exec (.registerWrite a off size v) s = .next s) ∧
        (size = 8 → off % 8 = 0 → responds s a off = true → ∀ r i j, findReg off = some (r, i, j) →
          (specialWrite a r.base i j off v = (none : Option (M s Unit)) → exec (.registerWrite a off size v) s = .next { s with
            regs := FMap.set resetValue s.regs off (writtenWord r (FMap.get resetValue s.regs off) v) }) ∧
          (∀ m t, specialWrite a r.base i j off v = some m → gives s m = (.ok (), t) → exec (.registerWrite a off size v) s = .next t)))) ∧
    (∀ bs, s.pins.pwrgd = true → s.pwr.conversion = true → fieldIn s R.HOST_LINK_UP 0 0 = 1 →
      (s.pcie.doeBusy = true → exec (.doeObject bs) s = .next (sends s .doeBusy)) ∧
      (s.pcie.doeBusy = false → bs.length ≤ 16384 → fieldAt bs 0 2 = 1 → fieldAt bs 2 1 = 1 →
        exec (.doeObject bs) s = .next { s with pcie := { s.pcie with doeBusy := true } }) ∧
      (s.pcie.doeBusy = false → bs.length ≤ 16384 → fieldAt bs 0 2 = 1 → fieldAt bs 2 1 = 0 →
        exec (.doeObject bs) s = .next (sends s (.message .doe (Config.standardReply Std.doeDiscovery [] bs)))) ∧
      (s.pcie.doeBusy = false → fieldAt bs 0 2 ≠ 1 ∨ 16384 < bs.length → exec (.doeObject bs) s = .next s))

/-- R442 to R444, R451, R456, R475, R478, R540: the link and firmware. A link whose lane 0 trains comes up at the width of the lanes that
train, and a reset that ended while it was down is told. PERST#, a Function Level Reset, a hot reset, a link disable and a surprise link
down reset unit 112 only: the link is down, every queue is disabled, and jobs go on; PERST# ends a firmware check as well, and its release
ends the reset. A firmware image that passes the checks is kept and INIT begins; one that fails leaves its code and the module waits
again. The accepted image makes the module READY with its cores bound and the controllers that trained running; one that did not has
failed. -/
def Obligations.LinkAndFirmware : Prop :=
  ∀ (s : State), FMap.wf resetValue s.regs = true → FMap.wf msix0 s.msix = true →
    (∀ (ok : BitVec 8) (speed : BitVec 4), s.pins.pwrgd = true → s.pins.perst = false →
      s.rst.running.contains (4, 112) = false → fieldIn s R.HOST_LINK_UP 0 0 = 0 → ok.toNat % 2 = 1 →
      1 ≤ speed.toNat → speed.toNat ≤ 7 → fieldIn s R.INT_LOGC_EN 0 0 = 0 → ∃ t, exec (.linkTraining ok speed) s = .next t ∧
        fieldIn t R.HOST_LINK_UP 0 0 = 1 ∧ fieldIn t R.HOST_LINK_SPEED 0 0 = speed.toNat ∧
        fieldIn t R.HOST_LINK_WIDTH 0 0 = (if ok = 0xFF then 8 else if ok.toNat % 16 = 15 then 4 else 1) ∧
        (ok ≠ 0xFF → fieldIn t R.HOST_LINK_DEGRADED 0 0 = 1) ∧
        (s.pcie.resetDue = true → Out.msix 4 ∈ t.out ∨ (FMap.get msix0 t.msix 4).pend = true)) ∧
    (∀ (ok : BitVec 8) (speed : BitVec 4), s.pins.perst = true → exec (.linkTraining ok speed) s = .next s) ∧
    (let free : Prop := s.rst.running.any (fun r => coversIn s r (4, 112)) = false
      let down (t : State) (cause : Nat) : Prop := (4, 112) ∈ t.rst.running ∧ fieldIn t R.RST_STATUS_CAUSE 0 0 = cause ∧
        fieldIn t R.HOST_LINK_UP 0 0 = 0 ∧ (∀ q, q < 64 → fieldIn t R.HOST_SQA_EN q 0 = 0 ∧ fieldIn t R.HOST_CQB_EN q 0 = 0) ∧
        t.jobs = s.jobs ∧ t.gddr = s.gddr ∧ t.lanes = s.lanes ∧ t.ctxs = s.ctxs
      (free → (∀ c ∈ [Instr.functionLevelReset, .hotReset, .linkDisable, .surpriseLinkDown], ∃ t, exec c s = .next t ∧ down t 9) ∧
        ∃ t, exec .perst s = .next t ∧ t.pins.perst = true ∧ down t 7 ∧
          (phaseIn s = 2 → fieldIn t R.RST_STATUS_PHASE 0 0 = 1 ∧ fieldIn t R.RST_FW_STAT_ERR 0 0 = 2)) ∧
      ∃ t, exec .perstRelease s = .next t ∧ t.pins.perst = false ∧ fieldIn t R.MGT_STATUS_PERST 0 0 = 0 ∧
        t.rst.running = eraseFirst (4, 112) s.rst.running) ∧
    (∀ host, phaseIn s = 1 ∨ phaseIn s = 2 →
      let len := fieldIn s R.RST_FW_LEN_LENGTH 0 0
      let ended := hostStatusIn s host.outcome
      let code := imageCheck s len (if ended = Status.ok ∧ host.bytes.length ≠ len then Status.sizeMismatch else ended) host.bytes
      ∃ t, exec (.firmwareStart host) s = .next t ∧
        (fieldIn s R.HOST_LINK_UP 0 0 = 1 → Out.hostRead (fieldIn s R.RST_FW_SRC_ADDR 0 0) len ∈ t.out) ∧
        fieldIn t R.RST_FW_STAT_DONE 0 0 = 1 ∧ fieldIn t R.RST_FW_STAT_BUSY 0 0 = 0 ∧ fieldIn t R.RST_FW_STAT_ERR 0 0 = code ∧
        (code = 0 → fieldIn t R.RST_STATUS_PHASE 0 0 = 3 ∧ t.rst.image = some host.bytes ∧
          fieldIn t R.RST_FW_STAT_FWVER 0 0 = fieldAt host.bytes 16 4) ∧
        (code ≠ 0 → fieldIn t R.RST_STATUS_PHASE 0 0 = 1 ∧ t.rst.image = s.rst.image)) ∧
    (∀ host, phaseIn s = 3 ∨ phaseIn s = 4 → exec (.firmwareStart host) s = .next s) ∧
    (∀ (usable : List (BitVec 19)) (trained : BitVec 32), phaseIn s = 3 → s.rst.accepted = true → s.rst.running = [] →
      ∃ t, exec (.firmwareAccepted usable trained) s = .next t ∧ fieldIn t R.RST_STATUS_PHASE 0 0 = 4 ∧ t.rst.accepted = false ∧
        (∀ f, f < 8 → fieldIn t R.DEV_FIELD_MAP_USABLE f 0 = (usable.getD f 0).toNat) ∧
        (∀ f i p, f < 8 → i < 18 → ((List.range 19).filter (bitN (usable.getD f 0).toNat))[i]? = some p →
          fieldIn t R.CORE_STATUS_PCORE (18 * f + i) 0 = 19 * f + p) ∧
        (∀ k, k < 32 → trained.getLsbD k = true → fieldIn t R.GD_STATUS_STATE k 0 = 1) ∧
        (∀ k, k < 32 → trained.getLsbD k = false → fieldIn t R.GD_STATUS_STATE k 0 = 3))

/-! Power and temperature (R484 to R499, R528 to R530). -/

/-- R29, R486 to R493, R496: what the power controller does. The warning band sets WARN, is counted, floors the grants and touches the open
tenses; its end clears WARN. An input too low or above 50.0 V, a rail out of regulation and a sensor too hot reset everything, as a
power-on reset does. Above the cap every capping grant falls by a step, and at the floor, or while a warning holds the rails, the ceiling
of the ramp; after ten periods below 97 percent of it they recover, the ceiling first. Too much current lowers the ceiling to 8 at most. A
hot field's thermal grant falls; the temperatures show. The readings sampled show; a die of which no core issues has the rate 0. -/
def Obligations.PowerEvents : Prop :=
  ∀ (s : State), FMap.wf resetValue s.regs = true → FMap.wf job0 s.jobs = true → fieldIn s R.INT_LOGC_EN 0 0 = 0 →
    let warn := fieldIn s R.PWR_ALERT_WARN 0 0
    let limit := fieldIn s R.MX_LIMIT_LIMIT 0 0
    let lower : Nat := max 1 (limit - 1)
    (∀ vin : BitVec 16, s.pins.pwrgd = true → 34000 ≤ vin.toNat → vin.toNat < 38000 →
      (warn = 1 → ∃ t, exec (.warningEntered vin) s = .next t ∧ t = { s with regs := t.regs, pwr := t.pwr } ∧
        t.pwr.lowest = min s.pwr.lowest vin.toNat ∧ fieldIn t R.PWR_INPUT_VIN 0 0 = vin.toNat) ∧
      (warn = 0 → ∃ t, exec (.warningEntered vin) s = .next t ∧ fieldIn t R.PWR_ALERT_WARN 0 0 = 1 ∧
        fieldIn t R.PWR_CNT_WARNINGS 0 0 = min (fieldIn s R.PWR_CNT_WARNINGS 0 0 + 1) (2 ^ R.PWR_CNT_WARNINGS.width - 1) ∧
        (powerIn s < 2 → ∀ f, f < 8 → fieldIn t R.PWR_VREQ_GRANT f 0 = 650) ∧
        ∀ j, j < 16 → (jobOf s j).isOpen = true → (jobOf t j).touched = true)) ∧
    (∀ d, (warn = 1 → ∃ t, exec (.warningCleared d) s = .next t ∧ fieldIn t R.PWR_ALERT_WARN 0 0 = 0) ∧
      (warn = 0 → exec (.warningCleared d) s = .next s)) ∧
    (∃ t, exec .powerOnReset s = .next t ∧ t.jobs = [] ∧ t.ctxs = [] ∧ t.gddr = [] ∧ t.spad = [] ∧ t.stream = none ∧ t.log = s.log ∧
      exec .inputBelowReset s = .next t ∧
      (∀ mv : BitVec 16, mv.toNat < 4700 ∨ 5300 < mv.toNat → exec (.railOutOfRegulation mv) s = .next t) ∧
      (poweredIn s = true → (∀ power vin : BitVec 16, 50000 < vin.toNat → exec (.cappingTick power vin) s = .next t) ∧
        ∀ x : Samples, 50000 < x.vin.toNat → exec (.sensorSample x) s = .next t)) ∧
    (∀ mv : BitVec 16, 4700 ≤ mv.toNat → mv.toNat ≤ 5300 → exec (.railOutOfRegulation mv) s = .next s) ∧
    (∃ t, exec .thermtrip s = .next t ∧ t.pins.thermtrip = true ∧ t.jobs = [] ∧ t.gddr = [] ∧ t.spad = []) ∧
    (∀ power vin : BitVec 16, vin.toNat ≤ 50000 →
      let cap := effectiveCap s vin.toNat
      ∃ t, exec (.cappingTick power vin) s = .next t ∧ fieldIn t R.PWR_CAP_EFFECTIVE 0 0 = cap % 2 ^ R.PWR_CAP_EFFECTIVE.width ∧
        (cap < power.toNat →
          (s.pwr.capGrant.all (fun g => decide (g ≤ 650)) = true ∨ warn = 1 → t.pwr.capGrant = s.pwr.capGrant ∧
            fieldIn t R.MX_LIMIT_LIMIT 0 0 = lower) ∧
          (s.pwr.capGrant.all (fun g => decide (g ≤ 650)) = false → warn = 0 →
            t.pwr.capGrant = s.pwr.capGrant.map (fun g => max 650 (g - 10)) ∧ fieldIn t R.MX_LIMIT_LIMIT 0 0 = limit)) ∧
        (power.toNat ≤ cap → 100 * power.toNat < 97 * cap → 9 ≤ s.pwr.below →
          (limit < 16 → fieldIn t R.MX_LIMIT_LIMIT 0 0 = (if s.pwr.limitFree then limit + 1 else limit) ∧ t.pwr.capGrant = s.pwr.capGrant) ∧
          (16 ≤ limit → t.pwr.capGrant = s.pwr.capGrant.map (fun g => min 850 (g + 10)))) ∧
        (power.toNat ≤ cap → s.pwr.below < 9 → t.pwr.capGrant = s.pwr.capGrant ∧ fieldIn t R.MX_LIMIT_LIMIT 0 0 = limit)) ∧
    (∃ t, exec .fastCurrentLimit s = .next t ∧ fieldIn t R.MX_LIMIT_LIMIT 0 0 = min 8 limit ∧ fieldIn t R.PWR_ALERT_CURRENT 0 0 = 1) ∧
    (∀ temps : List (BitVec 16), ∃ t, exec (.thermalTick temps) s = .next t ∧
      (∀ f, f < 8 → fieldIn t R.PWR_VREQ_TJ f 0 = wrapN (fieldTemp temps f).1 16) ∧
      ((∃ f, f < 8 ∧ 1000 ≤ (fieldTemp temps f).1) → t.pwr.thermGrant = s.pwr.thermGrant.zipIdx.map (fun g =>
        if g.2 < 8 ∧ 1030 ≤ (fieldTemp temps g.2).1 then max 650 (g.1 - 10) else g.1)) ∧
      ((∃ f, f < 8 ∧ 1050 < (fieldTemp temps f).1) → fieldIn t R.PWR_ALERT_THERM 0 0 = 1)) ∧
    (∀ x : Samples, s.pins.pwrgd = true → x.vin.toNat ≤ 50000 → ∃ t, exec (.sensorSample x) s = .next t ∧ fieldIn t R.PWR_INPUT_VIN 0 0 = x.vin.toNat ∧
      fieldIn t R.PWR_INPUT_IIN 0 0 = x.iin.toNat ∧ fieldIn t R.PWR_INPUT_PIN 0 0 = x.pin.toNat ∧ fieldIn t R.PWR_INPUT_V5 0 0 = x.v5.toNat ∧
      (∀ f, f < 8 → t.pwr.rail.getD f 0 = (x.rail.getD f 0).toNat ∧ fieldIn t R.PWR_VREQ_TJ f 0 = (x.temp.getD f 0).toNat) ∧
      ∀ d, d < 2 → fieldIn t R.DEV_STEP_RATE_RATE d 0 = (if dieIssuesIn s d then (x.rate.getD d 0).toNat else 0))

/-- R489: a request for a field's core voltage outside 0.65 V to 0.85 V, or that is not a multiple of 5 mV, is discarded, and nothing changes
where the grants stand as computed; another is taken. It binds nothing: the grants are the least of the request, the capping grant, the
thermal grant and 0.65 V while WARN is set, and never below 0.65 V; the module is in P1 while a grant is below its request or the ceiling
of the ramp is lowered, and else in P0 (R490). -/
def Obligations.VoltageRequests : Prop :=
  ∀ (s : State) (f : Nat) (v : Word), phaseIn s = 4 → f < 8 → FMap.wf resetValue s.regs = true → ∃ t, exec (.vreqWrite f v) s = .next t ∧
    (s.pwr.capping = cappedIn t → t = { s with regs := t.regs }) ∧
    (¬ (650 ≤ bitsOf v 0 16 ∧ bitsOf v 0 16 ≤ 850 ∧ bitsOf v 0 16 % 5 = 0) → gives s regrant = (.ok (), s) → t = s) ∧
    (fieldIn s R.INT_LOGC_EN 0 0 = 0 ∨ s.pwr.capping = cappedIn t →
    (∀ g, g < 8 → fieldIn t R.PWR_VREQ_REQUEST g 0 =
      if g = f ∧ 650 ≤ bitsOf v 0 16 ∧ bitsOf v 0 16 ≤ 850 ∧ bitsOf v 0 16 % 5 = 0 then bitsOf v 0 16 else fieldIn s R.PWR_VREQ_REQUEST g 0) ∧
    (powerIn s < 2 →
      (∀ g, g < 8 → fieldIn t R.PWR_VREQ_GRANT g 0 = max 650 (min (fieldIn t R.PWR_VREQ_REQUEST g 0) (min (s.pwr.capGrant.getD g 850)
        (min (s.pwr.thermGrant.getD g 850) (if fieldIn s R.PWR_ALERT_WARN 0 0 = 1 then 650 else 850))))) ∧
      (powerIn t = 1 ↔ (∃ g, g < 8 ∧ fieldIn t R.PWR_VREQ_GRANT g 0 < fieldIn t R.PWR_VREQ_REQUEST g 0) ∨ fieldIn s R.MX_LIMIT_LIMIT 0 0 < 16) ∧
      powerIn t < 2))

/-- R489, R494, R495, R498, R499, R528 to R530: power states and power. An order for a state is refused, with its code, while jobs run or one
is under way, for a state that may not follow, or with intrusive debug; else P2 sets every grant to 0.55 V, P3 stops lanes, controllers
and scratchpads, P0 grants anew and, from P3, resets both compute dies. PWRGD at 39.0 V to 50.0 V, or the input's reaching it, powers the
module up, which then waits for firmware; PWRGD deasserted is a power-on reset. -/
def Obligations.PowerStates : Prop :=
  ∀ (s : State), FMap.wf resetValue s.regs = true → FMap.wf zeroByte s.spad = true → s.rst.running = [] →
    fieldIn s R.INT_LOGC_EN 0 0 = 0 →
    let p := powerIn s
    (phaseIn s = 4 → fieldIn s R.PWR_STATE_BUSY 0 0 = 1 → ∀ c ∈ [Instr.toP0, .toP2, .toP3], exec c s = .next (withField s R.PWR_STATE_ERR 1)) ∧
    (phaseIn s = 4 → fieldIn s R.PWR_STATE_BUSY 0 0 = 0 →
      (jobsQuiet s = false → (∃ t, exec .toP2 s = .next t ∧ t = withField s R.PWR_STATE_ERR 1) ∧ exec .toP3 s = .next (withField s R.PWR_STATE_ERR 1)) ∧
      (jobsQuiet s = true → p = 3 → exec .toP2 s = .next (withField s R.PWR_STATE_ERR 2)) ∧
      (jobsQuiet s = true → fieldIn s R.DEV_MOOD_DEBUG 0 0 = 2 → exec .toP3 s = .next (withField s R.PWR_STATE_ERR 3)) ∧
      (jobsQuiet s = true → p ≠ 3 → ∃ t, exec .toP2 s = .next t ∧ powerIn t = 2 ∧ fieldIn t R.PWR_STATE_ERR 0 0 = 0 ∧
        ∀ f, f < 8 → fieldIn t R.PWR_VREQ_GRANT f 0 = 550) ∧
      (jobsQuiet s = true → fieldIn s R.DEV_MOOD_DEBUG 0 0 ≠ 2 → p ≠ 3 → ∃ t, exec .toP3 s = .next t ∧ powerIn t = 3 ∧
        (∀ i, i < 48 → fieldIn t R.FAB_LSTAT_STATE i 0 = 0) ∧
        (∀ k, k < 32 → fieldIn s R.GD_STATUS_STATE k 0 ≠ 3 → fieldIn t R.GD_STATUS_STATE k 0 = 2) ∧
        ∀ a, a < 144 * 18874368 → FMap.get zeroByte t.spad a = 0) ∧
      (p = 2 → ∃ t, exec .toP0 s = .next t ∧ powerIn t ≤ 1 ∧ fieldIn t R.PWR_STATE_ERR 0 0 = 0) ∧
      (p = 3 → ∃ t, exec .toP0 s = .next t ∧ (5, 0) ∈ t.rst.running ∧ (5, 1) ∈ t.rst.running)) ∧
    (∀ (vin : BitVec 16) (pattern : List Byte),
      (s.pins.pwrgd = true → exec (.pwrgdAssert vin pattern) s = .next s) ∧
      (s.pins.pwrgd = false → ∃ t, exec (.pwrgdAssert vin pattern) s = .next t ∧ t.pins.pwrgd = true ∧ t.pins.vin = vin.toNat ∧
        (39000 ≤ vin.toNat → vin.toNat ≤ 50000 → t.pwr.conversion = true ∧ phaseIn t = 1 ∧ t.sec.pattern = pattern) ∧
        (vin.toNat < 39000 ∨ 50000 < vin.toNat → phaseIn t = phaseIn s ∧ t.pwr = s.pwr))) ∧
    (∀ pattern : List Byte, (s.pins.pwrgd = true → s.pwr.conversion = false → s.pins.thermtrip = false →
        ∃ t, exec (.vinReaches39v pattern) s = .next t ∧ t.pwr.conversion = true ∧ phaseIn t = 1 ∧ t.sec.pattern = pattern) ∧
      (s.pins.pwrgd = false ∨ s.pwr.conversion = true ∨ s.pins.thermtrip = true → exec (.vinReaches39v pattern) s = .next s)) ∧
    (s.pins.pwrgd = false → exec .pwrgdDeassert s = .next s) ∧
    (s.pins.pwrgd = true → ∃ t, exec .pwrgdDeassert s = .next t ∧ t.pins.pwrgd = false ∧ t.pins.thermtrip = false ∧ t.jobs = [] ∧ t.gddr = [] ∧
      t.pwr.conversion = false ∧ phaseIn t = 0)

/-! Roles, moods and the register of changes (R504 to R518), SPDM (R477, R519 to R523). -/

/-- R504 to R511, R525, R534: a signed command whose checks pass is entered in the register of changes, takes its sequence number for its role
and does what its operation says: keys, certificate, cap, site record, security and debug state. One whose check fails ends with the code
of the first, and changes neither keys nor moods nor the register of changes. By the registers the bytes lie at the address they name; the
management port is answered. -/
def Obligations.SignedCommands : Prop :=
  ∀ (s : State) (c : Instr) (op : Nat) (src : CmdSource) (d : List Byte), FMap.wf resetValue s.regs = true → phaseIn s = 4 →
    (src = .management d ∧ portUpIn s = true ∧ loadOrCommandIn s = false ∨
      src = .registers ∧ fieldIn s R.SEC_CSTAT_BUSY 0 0 = 1 ∧ readRunsIn s 0 = false ∧ gives s secBytes = (.ok (some d), s) ∧
        d.length = fieldIn s R.SEC_CLEN_LENGTH 0 0) →
    128 ≤ d.length → fieldAt d 7 1 = op →
    (c = .repairUnlock src ∧ op = 0x01 ∨ c = .repairLock src ∧ op = 0x02 ∨ c = .installerKey src ∧ op = 0x03 ∨ c = .certificate src ∧ op = 0x04 ∨
      c = .operatorKey src ∧ op = 0x10 ∨ c = .powerCap src ∧ op = 0x11 ∨ c = .site src ∧ op = 0x12 ∨ c = .seal src ∧ op = 0x13 ∨
      c = .unseal src ∧ op = 0x14 ∨ c = .debug src ∧ op = 0x20 ∨ c = .grant src ∧ op = 0x21) →
    let e := secCheck s d d.length
    let p := secPayload d
    let role := fieldAt d 6 1
    let slot := fieldAt p 0 1
    let ends (code : Nat) (more : State → Prop) : Prop := ∃ t, exec c s = .next t ∧ fieldIn t R.SEC_CSTAT_ERR 0 0 = code ∧
      fieldIn t R.SEC_CSTAT_DONE 0 0 = 1 ∧ fieldIn t R.SEC_CSTAT_OP 0 0 = op ∧
      (src = .management d → Out.mgmt 0x03 (if code = 0 then Done.ok else Done.refused) code [] ∈ t.out) ∧
      (src = .registers → fieldIn t R.SEC_CSTAT_BUSY 0 0 = 0) ∧ more t
    (e ≠ 0 → ends e (fun t => t.sec = s.sec ∧ t.log = s.log ∧ fieldIn t R.DEV_MOOD_MOOD 0 0 = fieldIn s R.DEV_MOOD_MOOD 0 0)) ∧
    (e = 0 → s.sec.flashBad = true → ends SecErr.log (fun t => t.sec = s.sec ∧ t.log = s.log ∧
      fieldIn t R.DEV_MOOD_MOOD 0 0 = fieldIn s R.DEV_MOOD_MOOD 0 0)) ∧
    (e = 0 → s.sec.flashBad = false → ends 0 (fun t => (∃ x, t.log = s.log ++ x ∧ x ≠ []) ∧
      fieldIn t R.SEC_SEQ_SEQ role 0 = fieldAt d 24 8 ∧
      (op = 0x01 → fieldIn t R.DEV_MOOD_SEC 0 0 = 0 ∧ t.sec.installer = [] ∧ t.sec.operator = [] ∧ t.sec.site = none) ∧
      (op = 0x02 → fieldIn t R.DEV_MOOD_SEC 0 0 = 1) ∧
      (op = 0x03 → t.sec.installer = setSlot s.sec.installer 4 slot (payloadKey p)) ∧
      (op = 0x04 → t.sec.helper = p.take 2048 ∧ t.sec.chain = p.drop 2048) ∧
      (op = 0x10 → t.sec.operator = setSlot s.sec.operator 16 slot (payloadKey p)) ∧
      (op = 0x11 → fieldIn t R.PWR_CAP_INSTALLED 0 0 = fieldAt p 0 2) ∧
      (op = 0x12 → t.sec.site = some (p.take 72)) ∧
      (op = 0x13 → fieldIn t R.DEV_MOOD_SEC 0 0 = 2) ∧
      (op = 0x14 → fieldIn t R.DEV_MOOD_SEC 0 0 = 1) ∧
      (op = 0x01 ∨ op = 0x02 ∨ op = 0x13 ∨ op = 0x14 → fieldIn t R.DEV_MOOD_DEBUG 0 0 = 0) ∧
      (op = 0x20 → fieldIn t R.DEV_MOOD_DEBUG 0 0 = slot ∧ fieldIn t R.SEC_GRANT_NOT_AFTER 0 0 = 0) ∧
      (op = 0x21 → fieldIn t R.DEV_MOOD_DEBUG 0 0 = 2 ∧ fieldIn t R.SEC_GRANT_NOT_AFTER 0 0 = fieldAt p 0 8)))

/-- R510 to R518, R524: a grant whose time has come ends: the debug state is Closed. In the moods that permit it HALT holds a core, at once
between sentences, and lets it go on; a step issues one sentence of a halted core. A copy of the register of changes shows whether entries
asked for are no longer held, and writes those that are; the register does not change, and a write that is discarded, or of a module
without power, copies nothing. A retry that the flash takes writes the entries that waited, oldest first, and leaves none waiting; one
that fails leaves them. -/
def Obligations.SecurityControl : Prop :=
  ∀ (s : State), FMap.wf resetValue s.regs = true → FMap.wf ctx0 s.ctxs = true →
    (let t := fieldIn s R.SEC_GRANT_NOT_AFTER 0 0;
      (t ≠ 0 → t ≤ fabricNsIn s → ∃ u, exec .grantEnd s = .next u ∧ fieldIn u R.DEV_MOOD_DEBUG 0 0 = 0 ∧
        fieldIn u R.SEC_GRANT_NOT_AFTER 0 0 = 0 ∧ u.sec.grantKey = none) ∧
      (t = 0 ∨ fabricNsIn s < t → exec .grantEnd s = .next s)) ∧
    (∀ (l : Nat) (v : Word), l < 144 →
      (moodAllows s [0, 1, 2] [2] 2 = false → exec (.halt l v) s = .next s) ∧
      (moodAllows s [0, 1, 2] [2] 2 = true → bitsOf v 0 1 = 1 → ∃ t, exec (.halt l v) s = .next t ∧ fieldIn t R.SEC_HALT_HALT l 0 = 1 ∧
        ((FMap.get ctx0 s.ctxs (here s l)).sentence = none → fieldIn t R.SEC_HALT_HALTED l 0 = 1 ∧
          (fieldIn s R.CORE_STATUS_RUN l 0 < 2 → fieldIn t R.CORE_STATUS_RUN l 0 = 2))) ∧
      (moodAllows s [0, 1, 2] [2] 2 = true → bitsOf v 0 1 = 0 → fieldIn s R.SEC_HALT_HALT l 0 = 1 → ∃ t, exec (.halt l v) s = .next t ∧
        fieldIn t R.SEC_HALT_HALT l 0 = 0 ∧ fieldIn t R.SEC_HALT_HALTED l 0 = 0)) ∧
    (∀ (l : Nat) (raw : BitVec 512) (t1 : State), worksIn s l = true → haltedIn s l = true → moodAllows s [0, 1, 2] [2] 2 = true →
      let k := fieldIn s R.CORE_STATUS_SLOT l 0
      let c := FMap.get ctx0 s.ctxs (here s l)
      c.sentence = none → c.yielded = false → lowVoltageIn s l = false → runnableIn s l k = true → switchDueIn s l k = false → 0 < fieldIn s R.CORE_CTX_QUOTA_LEFT l k →
      gives s (do
        modCore l (fun c => { c with stepping := true })
        modCore l (fun c => { c with stepping := false })
        modCtx l k (fun c => { c with yielded := false })
        fetchSentence l k) = (.ok (some raw), t1) →
      t1.ctxs = FMap.set ctx0 s.ctxs (here s l) { c with yielded := false } → fieldIn t1 R.CORE_CTX_QUOTA_LEFT l k = fieldIn s R.CORE_CTX_QUOTA_LEFT l k →
      fieldIn t1 R.SEC_HALT_HALT l 0 = fieldIn s R.SEC_HALT_HALT l 0 →
      (∀ n, 1 ≤ n → n ≤ 7 → raw.getLsbD (12 + n) = false) → raw.getLsbD 2 = false → FMap.wf resetValue t1.regs = true →
      ∃ t, exec (.haltStep l) s = .next t ∧ (FMap.get ctx0 t.ctxs (here s l)).sentence = none ∧
        fieldIn t R.CORE_RETIRED_COUNT l 0 = (fieldIn t1 R.CORE_RETIRED_COUNT l 0 + 1) % 2 ^ R.CORE_RETIRED_COUNT.width ∧
        fieldIn t R.SEC_HALT_HALTED l 0 = 1 ∧ fieldIn t R.CORE_STATUS_RUN l 0 = 2) ∧
    (∀ v : Word, bitsOf v 48 1 = 1 →
      let taken : Prop := (findReg (R.SEC_LOGRD_DST_ADDR.addr 0 0)).any (fun r => wordTaken r.1 v) = true
      let first := fieldIn s R.SEC_LOGRD_IDX_INDEX 0 0
      let n := fieldIn s R.SEC_LOGRD_IDX_COUNT 0 0
      (¬ taken ∨ poweredIn s = false → exec (.logCopy v) s = .next s) ∧
      (taken → poweredIn s = true → ∃ t, exec (.logCopy v) s = .next t ∧ t.log = s.log ∧ t.sec = s.sec ∧
        fieldIn t R.SEC_LOGRD_DST_MISSING 0 0 = bit (decide (first < s.sec.firstHeld) && decide (0 < n)) ∧
        (∀ e u, n = 1 → s.sec.firstHeld ≤ first → s.log[first]? = some e →
          gives s (do
            plainWrite (R.SEC_LOGRD_DST_ADDR.addr 0 0) v
            setF R.SEC_LOGRD_DST_MISSING 0
            let _ ← wrGddr (bitsOf v 0 48) e) = (.ok (), u) → t.gddr = u.gddr))) ∧
    (s.pins.pwrgd = true → s.pwr.conversion = true →
      exec (.logRetry false) s = .next { s with sec := { s.sec with flashBad := true } } ∧
      ∃ t, exec (.logRetry true) s = .next t ∧ t.sec.unwritten = [] ∧ t.sec.flashBad = false ∧ fieldIn t R.SEC_LOG_PENDING 0 0 = 0 ∧
        (s.log.length % segmentEntries ≠ 0 → s.log.length % segmentEntries + s.sec.unwritten.length ≤ segmentEntries →
          t.log.length = s.log.length + s.sec.unwritten.length)) ∧
    (s.pins.pwrgd = false ∨ s.pwr.conversion = false → ∀ ok, exec (.logRetry ok) s = .next s)

/-- R477, R521 to R523, R532: each SPDM request, from INIT on and in the order the exchanges follow, is answered on the transport it came by
with what its kind reports on, signed by the identity key where it asks for that, and the first three move the connection on; before INIT
the answer is Busy, out of order it is an error, and so is one that needs an identity key there is none of, or a certificate slot other
than 0. Only the connection, the mailbox and the count of messages change. An answer longer than an object of the mailbox goes in pieces;
another goes whole. The published forms stand behind `Config.standardReply` (log entry 3). -/
def Obligations.SpdmAnswers : Prop :=
  ∀ (s : State) (c : Instr) (t : Transport) (req : List Byte) (kind : Nat) (signed : Bool), FMap.wf resetValue s.regs = true →
    s.pins.pwrgd = true → s.pwr.conversion = true → (t = .mctp → portUpIn s = true) →
    (c = .getVersion t req ∧ kind = 1 ∧ signed = false ∨ c = .getCapabilities t req ∧ kind = 2 ∧ signed = false ∨
      c = .negotiateAlgorithms t req ∧ kind = 3 ∧ signed = false ∨ c = .getDigests t req ∧ kind = 4 ∧ signed = false ∨
      c = .getCertificate t req ∧ kind = 5 ∧ signed = false ∨ c = .challenge t req ∧ kind = 6 ∧ signed = true ∨
      c = .getMeasurements t req ∧ kind = 7 ∧ signed = bitN (fieldAt req 2 1) 0) →
    let heard : State := match t with
      | .mctp => withField s R.MGT_CNT_MESSAGES (fieldIn s R.MGT_CNT_MESSAGES 0 0 + 1)
      | .doe => { s with pcie := { s.pcie with doeBusy := false } }
    let stage := s.spdm.getD (portOf t) 0
    let about := BitVec.ofNat 8 kind :: spdmState s kind
    let said (x : State) (bytes : List Byte) : State := (gives x (sendReply t bytes)).2
    let error (code : Nat) : State := said heard (Config.standardReply Std.spdmError [BitVec.ofNat 8 code] req)
    (∀ x bytes, t = .mctp ∨ bytes.length ≤ 16384 → said x bytes = sends x (.message t bytes)) ∧
    (phaseIn s < 3 → exec c s = .next (error 0x03)) ∧
    (3 ≤ phaseIn s → signed = true → fieldIn s R.DEV_MOOD_IDFAIL 0 0 = 1 → exec c s = .next (error 0x05)) ∧
    (3 ≤ phaseIn s → signed = false ∨ fieldIn s R.DEV_MOOD_IDFAIL 0 0 = 0 →
      (kind ≠ 1 → stage < min kind 4 - 1 → exec c s = .next (error 0x04)) ∧
      (kind = 1 ∨ min kind 4 - 1 ≤ stage → (spdmSlot kind req ≠ 0 → exec c s = .next (error 0x01)) ∧
        (spdmSlot kind req = 0 → exec c s =
        .next (said { heard with spdm := if kind ≤ 3 then s.spdm.set (portOf t) kind else s.spdm }
          (Config.standardReply Std.spdm about req ++
            (if signed then ed25519Sign s.sec.priv (Config.standardReply Std.signedPart about req) else []))))))

/-! The management port and fabric time (R531 to R536). -/

/-- R382, R383, R531 to R535, R540: the port takes its dynamic address, and answers with its provisioned ID; a target reset resets unit 113
only. MCTP control and PLDM requests are answered. A vendor command before READY is answered NOT_READY, and while a load or a signed
command runs BUSY; else MEM_WRITE and MEM_READ serve the module's GDDR7 ranges, and nothing else, STATUS shows eight registers, and
coordinates that keep the rules are taken, with the lanes that have a role and have not failed beginning to train, but in P3; others are
counted and change no coordinate. -/
def Obligations.ManagementPort : Prop :=
  ∀ (s : State), FMap.wf resetValue s.regs = true → FMap.wf lane0 s.lanes = true →
    let heard := withField s R.MGT_CNT_MESSAGES (fieldIn s R.MGT_CNT_MESSAGES 0 0 + 1)
    (∀ (st a : BitVec 7), portUpIn s = true →
      exec (.entdaa a) s = .next (withField (sends s (.provisioned (provisionedId s))) R.MGT_STATUS_DADDR a.toNat) ∧
      exec (.setdasa 0x30 a) s = .next (withField s R.MGT_STATUS_DADDR a.toNat) ∧ (st ≠ 0x30 → exec (.setdasa st a) s = .next s)) ∧
    (s.pins.pwrgd = true → s.pwr.conversion = true → s.rst.running = [] → ∃ t, exec .targetReset s = .next t ∧ t.rst.running = [(4, 113)] ∧
      fieldIn t R.MGT_CNT_RESETS 0 0 = min (fieldIn s R.MGT_CNT_RESETS 0 0 + 1) (2 ^ R.MGT_CNT_RESETS.width - 1) ∧
      fieldIn t R.MGT_STATUS_DADDR 0 0 = 0 ∧ fieldIn t R.MGT_STATUS_EID 0 0 = 0 ∧ t.lanes = s.lanes ∧ t.jobs = s.jobs ∧ t.ctxs = s.ctxs) ∧
    (∀ (b : Byte) (arg : List Byte), portUpIn s = true →
      exec (.mctpControl 1 arg) s = .next (sends (withField heard R.MGT_STATUS_EID (fieldAt arg 1 1))
        (.message .mctp (Config.standardReply Std.mctpControl (leBytes 1 (fieldAt arg 1 1)) (1 :: arg)))) ∧
      (b ≠ 1 → exec (.mctpControl b arg) s = .next (sends heard
        (.message .mctp (Config.standardReply Std.mctpControl (leBytes 1 (fieldIn s R.MGT_STATUS_EID 0 0)) (b :: arg))))) ∧
      exec (.pldmRequest b arg) s = .next (sends heard (.message .mctp (if phaseIn s < 3 then Config.standardReply Std.pldmNotReady [] (b :: arg)
        else Config.standardReply Std.pldm (pldmState s) (b :: arg))))) ∧
    (∀ (c : Instr) (code : Nat), portUpIn s = true → ((∃ b, c = .coordinates b ∧ code = 0x01) ∨ (∃ o b, c = .memWrite o b ∧ code = 0x04) ∨
        (∃ o n, c = .memRead o n ∧ code = 0x05) ∨ (∃ x, c = .timeSet x ∧ code = 0x08) ∨ (c = .status ∧ code = 0x09)) →
      (phaseIn s ≠ 4 → exec c s = .next (sends heard (.mgmt code Done.notReady 0 []))) ∧
      (phaseIn s = 4 → loadOrCommandIn s = true → exec c s = .next (sends heard (.mgmt code Done.busy 0 [])))) ∧
    (portUpIn s = true → phaseIn s = 4 → loadOrCommandIn s = false →
      (∀ off bs, bs ≠ [] → bs.length ≤ 4096 →
        (inGddr s off bs.length = false → exec (.memWrite off bs) s = .next (sends heard (.mgmt 0x04 Done.format 0 []))) ∧
        (∀ u, inGddr s off bs.length = true → gives s (do countWrap R.MGT_CNT_MESSAGES; wrMem off bs) = (.ok 0, u) →
          exec (.memWrite off bs) s = .next (sends u (.mgmt 0x04 Done.ok 0 [])))) ∧
      (∀ off n, 0 < n → n ≤ 4096 →
        (inGddr s off n = false → exec (.memRead off n) s = .next (sends heard (.mgmt 0x05 Done.format 0 []))) ∧
        (∀ d u, inGddr s off n = true → gives s (do countWrap R.MGT_CNT_MESSAGES; rdMem off n) = (.ok (0, d), u) →
          exec (.memRead off n) s = .next (sends u (.mgmt 0x05 Done.ok 0 d)))) ∧
      exec .status s = .next (sends heard (.mgmt 0x09 Done.ok 0 ([R.DEV_MOOD_SEC.addr 0 0, R.RST_STATUS_PHASE.addr 0 0, R.PWR_STATE_STATE.addr 0 0,
        R.PWR_ALERT_WARN.addr 0 0, R.CJ_COORD_GROUP.addr 0 0, R.INT_TIME_NS.addr 0 0, R.AQ_STATUS_STATE.addr 0 0,
        R.INT_LOGD_PTR_HEAD.addr 0 0].flatMap (fun o => leBytes 8 (regValueIn s o).toNat)))) ∧
      (∀ b, let good : Prop := b.length = 8 ∧ fieldAt b 1 1 < 64 ∧ fieldAt b 2 2 = 64 * fieldAt b 0 1 + fieldAt b 1 1 ∧ fieldAt b 4 2 ≠ 0 ∧
          fieldAt b 4 2 ≠ fieldIn s R.CJ_COORD_PREVINC 0 0 ∧ fieldAt b 6 2 = 0 ∧
          (∀ i, i < 48 → fieldIn s R.FAB_LSTAT_STATE i 0 ∈ [0, 8, 9]) ∧
          (∀ x, s.stream = some x → routeFault x.lanes (x.routes.map routeBits) (fieldAt b 0 1) (fieldAt b 1 1) = none)
        (good → fieldIn s R.PWR_STATE_STATE 0 0 < 3 → ∃ t, exec (.coordinates b) s = .next t ∧ Out.mgmt 0x01 Done.ok 0 [] ∈ t.out ∧ fieldIn t R.CJ_COORD_GROUP 0 0 = fieldAt b 0 1 ∧
          fieldIn t R.CJ_COORD_SLOT 0 0 = fieldAt b 1 1 ∧ fieldIn t R.CJ_COORD_SET 0 0 = 1 ∧ chipIn t = fieldAt b 2 2 ∧
          fieldIn t R.FAB_ID_INC 0 0 = fieldAt b 4 2 ∧
          (fieldIn s R.FAB_ID_INC 0 0 ≠ 0 → fieldIn t R.CJ_COORD_PREVINC 0 0 = fieldIn s R.FAB_ID_INC 0 0) ∧
          fieldIn t R.CJ_COORD_ORDERS 0 0 = (fieldIn s R.CJ_COORD_ORDERS 0 0 + 1) % 2 ^ 16 ∧
          ∀ x i, s.stream = some x → i < 48 → fieldIn s R.FAB_LSTAT_ROLE i 0 ≠ 0 → (x.lanes.getD i ⟨0, false, false, 0⟩).role % 4 ≠ 0 →
            fieldIn t R.FAB_LSTAT_STATE i 0 = (if fieldIn s R.FAB_LSTAT_STATE i 0 = 9 then 9 else 1)) ∧
        (¬ good → ∃ t r, exec (.coordinates b) s = .next t ∧ Out.mgmt 0x01 Done.refused r [] ∈ t.out ∧ t.lanes = s.lanes ∧
          (∀ f ∈ [R.CJ_COORD_GROUP, R.CJ_COORD_SLOT, R.CJ_COORD_SET, R.CJ_COORD_PREVINC, R.FAB_ID_CHIP, R.FAB_ID_INC],
            fieldIn t f 0 0 = fieldIn s f 0 0) ∧
          fieldIn t R.CJ_COORD_REJECTS 0 0 = min (fieldIn s R.CJ_COORD_REJECTS 0 0 + 1) (2 ^ R.CJ_COORD_REJECTS.width - 1))))

/-- R536: fabric time. TIME_SET arms a value, a later one in the place of an earlier; without an edge in time it expires. The edge makes it
fabric time. A later edge slews the nearest whole second's difference over the next 1 ms where it is at most 10 µs, and else is counted
and ignored: the time stands. -/
def Obligations.FabricTime : Prop :=
  ∀ (s : State), FMap.wf resetValue s.regs = true →
    (∀ x : Word, portUpIn s = true → phaseIn s = 4 → loadOrCommandIn s = false → exec (.timeSet x) s =
      .next (sends (withField { withField s R.MGT_CNT_MESSAGES (fieldIn s R.MGT_CNT_MESSAGES 0 0 + 1) with mgt := { s.mgt with armed := some x } }
        R.MGT_TIME_ARMED 1) (.mgmt 0x08 Done.ok 0 []))) ∧
    (s.mgt.armed.isSome = true → exec .timeSetExpiry s =
      .next (withField (withField { s with mgt := { s.mgt with armed := none } } R.MGT_TIME_ARMED 0) R.MGT_TIME_EXPIRED 1)) ∧
    (s.mgt.armed = none → exec .timeSetExpiry s = .next s) ∧
    (s.pins.pwrgd = true → s.pwr.conversion = true →
      (∀ x : Word, s.mgt.armed = some x → ∃ t, exec .ppsEdge s = .next t ∧ t = { s with regs := t.regs, mgt := t.mgt } ∧ fabricNsIn t = x.toNat ∧
        t.mgt.armed = none ∧ fieldIn t R.MGT_TIME_SET 0 0 = 1 ∧ fieldIn t R.MGT_TIME_ARMED 0 0 = 0 ∧ fieldIn t R.MGT_STATUS_PPS 0 0 = 1) ∧
      (s.mgt.armed = none → fieldIn s R.MGT_TIME_SET 0 0 = 1 →
        let d := toSecond (fabricNsIn s)
        ∃ t, exec .ppsEdge s = .next t ∧ t = { s with regs := t.regs, mgt := t.mgt } ∧ t.mgt.time = s.mgt.time ∧
          fieldIn t R.MGT_TIME_LASTD 0 0 = wrapN d 32 ∧
          (d.natAbs ≤ 10000 → t.mgt.slewCycles = 156250 ∧ t.mgt.slewNs = d) ∧
          (10000 < d.natAbs → t.mgt.slewCycles = s.mgt.slewCycles ∧ t.mgt.slewNs = s.mgt.slewNs ∧
            fieldIn t R.MGT_TIME_BADPPS 0 0 = min (fieldIn s R.MGT_TIME_BADPPS 0 0 + 1) (2 ^ R.MGT_TIME_BADPPS.width - 1)))) ∧
    (s.pins.pwrgd = false ∨ s.pwr.conversion = false → exec .ppsEdge s = .next s)
end

