-- ==== Sys2Proof/Laws/Table.lean ====
section
/-! SUPPORT. The sparse tables: reading after writing, and that every operation keeps the canonical form. -/

namespace Sys2Proof

@[simp] theorem FMap.get_nil {β : Type} {d : Nat → β} (n : Nat) : FMap.get d [] n = d n := rfl

variable {β : Type} [DecidableEq β] {d : Nat → β}

/-- Below every listed key a table reads as unlisted. -/
theorem FMap.get_of_wfAbove {m : FMap β} {lo n : Nat} (h : FMap.wfAbove d lo m = true) (hn : n < lo) :
    FMap.get d m n = d n := by
  induction m generalizing lo with
  | nil => rfl
  | cons x m ih =>
    obtain ⟨k, v⟩ := x
    simp only [FMap.wfAbove, Bool.and_eq_true, decide_eq_true_eq] at h
    have : n ≠ k := by omega
    simp only [FMap.get, this, if_false]
    exact ih h.2 (by omega)

theorem FMap.wfAbove_mono {m : FMap β} {lo lo' : Nat} (h : FMap.wfAbove d lo m = true) (hl : lo' ≤ lo) :
    FMap.wfAbove d lo' m = true := by
  cases m with
  | nil => rfl
  | cons x m =>
    simp only [FMap.wfAbove, Bool.and_eq_true, decide_eq_true_eq] at h ⊢
    exact ⟨⟨by omega, h.1.2⟩, h.2⟩

theorem FMap.set_wfAbove {m : FMap β} {lo n : Nat} {v : β} (h : FMap.wfAbove d lo m = true) (hn : lo ≤ n) :
    FMap.wfAbove d lo (FMap.set d m n v) = true := by
  induction m generalizing lo with
  | nil =>
    by_cases e : v = d n <;> simp [FMap.set, FMap.wfAbove, e, hn]
  | cons x m ih =>
    obtain ⟨k, w⟩ := x
    have h0 := h
    simp only [FMap.wfAbove, Bool.and_eq_true, decide_eq_true_eq] at h
    unfold FMap.set
    split
    · split
      · exact h0
      · simp only [FMap.wfAbove, Bool.and_eq_true, decide_eq_true_eq]
        exact ⟨⟨hn, ‹_›⟩, ⟨by omega, h.1.2⟩, h.2⟩
    · split
      · subst n
        split
        · exact FMap.wfAbove_mono h.2 (by omega)
        · simp only [FMap.wfAbove, Bool.and_eq_true, decide_eq_true_eq]
          exact ⟨⟨hn, ‹_›⟩, h.2⟩
      · simp only [FMap.wfAbove, Bool.and_eq_true, decide_eq_true_eq]
        exact ⟨h.1, ih h.2 (by omega)⟩

/-- Storing keeps the canonical form. -/
theorem FMap.set_wf {m : FMap β} (n : Nat) (v : β) (h : FMap.wf d m = true) : FMap.wf d (FMap.set d m n v) = true :=
  FMap.set_wfAbove h (Nat.zero_le _)

theorem FMap.keep_wfAbove {m : FMap β} {lo : Nat} (p : Nat → Bool) (h : FMap.wfAbove d lo m = true) :
    FMap.wfAbove d lo (FMap.keep p m) = true := by
  induction m generalizing lo with
  | nil => rfl
  | cons x m ih =>
    obtain ⟨k, v⟩ := x
    simp only [FMap.wfAbove, Bool.and_eq_true, decide_eq_true_eq] at h
    unfold FMap.keep
    split
    · simp only [FMap.wfAbove, Bool.and_eq_true, decide_eq_true_eq]
      exact ⟨h.1, ih h.2⟩
    · exact ih (FMap.wfAbove_mono h.2 (by omega))

/-- Dropping keys keeps the canonical form. -/
theorem FMap.keep_wf {m : FMap β} (p : Nat → Bool) (h : FMap.wf d m = true) : FMap.wf d (FMap.keep p m) = true :=
  FMap.keep_wfAbove p h

theorem FMap.get_set_wfAbove {m : FMap β} {lo n : Nat} {v : β} (h : FMap.wfAbove d lo m = true) (i : Nat) :
    FMap.get d (FMap.set d m n v) i = if i = n then v else FMap.get d m i := by
  induction m generalizing lo with
  | nil =>
    by_cases e : v = d n <;> by_cases j : i = n <;> simp [FMap.set, FMap.get, e, j]
  | cons x m ih =>
    obtain ⟨k, w⟩ := x
    have h0 := h
    simp only [FMap.wfAbove, Bool.and_eq_true, decide_eq_true_eq] at h
    have low : ∀ j, j < k + 1 → FMap.get d m j = d j := fun j hj => FMap.get_of_wfAbove h.2 hj
    unfold FMap.set
    split
    · split
      · subst v
        by_cases j : i = n
        · subst j
          simp [FMap.get, low i (by omega), show i ≠ k by omega]
        · simp [j]
      · by_cases j : i = n <;> simp [FMap.get, j]
    · split
      · subst n
        split
        · subst v
          by_cases j : i = k
          · subst j; simp [low i (by omega)]
          · simp [FMap.get, j]
        · by_cases j : i = k <;> simp [FMap.get, j]
      · by_cases j : i = k
        · subst j; simp [FMap.get, show i ≠ n by omega]
        · simp only [FMap.get, j, if_false]; exact ih h.2

/-- Reading after writing: the value written at its key, every other key as before. -/
theorem FMap.get_set {m : FMap β} (h : FMap.wf d m = true) (n : Nat) (v : β) (i : Nat) :
    FMap.get d (FMap.set d m n v) i = if i = n then v else FMap.get d m i := FMap.get_set_wfAbove h i

/-- Another key reads as before, in any table. -/
theorem FMap.get_set_other {m : FMap β} {n i : Nat} (v : β) (hi : i ≠ n) :
    FMap.get d (FMap.set d m n v) i = FMap.get d m i := by
  induction m with
  | nil => by_cases e : v = d n <;> simp [FMap.set, FMap.get, e, hi]
  | cons x m ih =>
    obtain ⟨k, w⟩ := x
    unfold FMap.set
    split
    · split <;> simp [FMap.get, hi]
    · split
      · subst n; split <;> simp [FMap.get, hi]
      · by_cases j : i = k
        · simp [FMap.get, j]
        · simp [FMap.get, j, ih]

/-- A table without some keys: those read as unlisted, every other as before. -/
theorem FMap.get_keep {m : FMap β} (h : FMap.wf d m = true) (p : Nat → Bool) (i : Nat) :
    FMap.get d (FMap.keep p m) i = if p i then FMap.get d m i else d i := by
  unfold FMap.wf at h
  generalize 0 = lo at h
  induction m generalizing lo with
  | nil => simp [FMap.keep]
  | cons x m ih =>
    obtain ⟨k, v⟩ := x
    simp only [FMap.wfAbove, Bool.and_eq_true, decide_eq_true_eq] at h
    have ih' := ih (k + 1) h.2
    unfold FMap.keep
    by_cases hp : p k
    · by_cases j : i = k
      · subst j; simp [FMap.get, hp]
      · simp only [hp, if_true, FMap.get, j, if_false]; exact ih'
    · by_cases j : i = k
      · subst j; simp [hp, ih']
      · simp only [hp, if_false, FMap.get, j]; simpa using ih'

end Sys2Proof
end

