-- ==== Sys2Proof/Laws/State.lean ====
section
/-! SUPPORT. The fields of the state under the elementary changes: for each field, that a change which does not name it leaves it,
and for each change what it does to the field it names. Every lemma holds by unfolding; no later proof unfolds an update. -/

namespace Sys2Proof.Machine

open Sys2Proof

/-- The fields of the state. -/
inductive Part where
  | regs | gddr | spad | sregs | aregs | pregs | vregs | banks | rowDescs | accs | accRows | ctxs
  | cores | dmas | flagUpds | partials | seqs | rows | frames | nodes | spillSlots | kv | jobs | tent
  | tentDone | sent | colls | reqs | nextTag | lateDrops | lanes | blockBufs | relTags | held | cache | gdctls | spctls
  | cx | stream | load | store | recSerial | faultsDue | classC | proofKey | proofs | dicts | rst | msix
  | pcie | pwr | pins | sec | log | spdm | mgt | ms | fresh | out | pending
  deriving DecidableEq, Repr

/-- The fields a change may alter. -/
def Eff.parts : Eff → List Part
  | .reg _ _ => [.regs]
  | .gddr _ _ => [.gddr]
  | .spad _ _ => [.spad]
  | .sreg _ _ => [.sregs]
  | .areg _ _ => [.aregs]
  | .preg _ _ => [.pregs]
  | .vreg _ _ => [.vregs]
  | .bank _ _ => [.banks]
  | .rowDesc _ _ => [.rowDescs]
  | .acc _ _ => [.accs]
  | .accRow _ _ => [.accRows]
  | .ctx _ _ => [.ctxs]
  | .core _ _ => [.cores]
  | .dma _ _ => [.dmas]
  | .flagUpd _ _ => [.flagUpds]
  | .partials _ => [.partials]
  | .seq _ _ => [.seqs]
  | .row _ _ => [.rows]
  | .frame _ _ => [.frames]
  | .node _ _ => [.nodes]
  | .spillSlot _ _ => [.spillSlots]
  | .job _ _ => [.jobs]
  | .tent _ => [.tent]
  | .tentDone _ => [.tentDone]
  | .sent _ => [.sent]
  | .colls _ => [.colls]
  | .reqs _ => [.reqs]
  | .nextTag _ => [.nextTag]
  | .lateDrops _ => [.lateDrops]
  | .kv _ => [.kv]
  | .lane _ _ => [.lanes]
  | .blockBufs _ => [.blockBufs]
  | .relTag _ _ => [.relTags]
  | .held _ => [.held]
  | .cache _ => [.cache]
  | .gdctl _ _ => [.gdctls]
  | .spctl _ _ => [.spctls]
  | .cx _ => [.cx]
  | .stream _ => [.stream]
  | .load _ => [.load]
  | .store _ => [.store]
  | .recSerial _ => [.recSerial]
  | .faultsDue _ => [.faultsDue]
  | .classC _ => [.classC]
  | .proofKey _ => [.proofKey]
  | .proofs _ => [.proofs]
  | .dict _ _ => [.dicts]
  | .rst _ => [.rst]
  | .msix _ _ => [.msix]
  | .pcie _ => [.pcie]
  | .pwr _ => [.pwr]
  | .pins _ => [.pins]
  | .sec _ => [.sec]
  | .log _ => [.log]
  | .spdm _ => [.spdm]
  | .mgt _ => [.mgt]
  | .ms => [.ms]
  | .fresh => [.fresh]
  | .out _ => [.out]
  | .clearCtx _ => [.sregs, .aregs, .pregs, .vregs, .banks, .rowDescs, .accs, .accRows, .flagUpds]
  | .clearSpad _ => [.spad]
  | .clearGddr => [.gddr, .relTags, .held]
  | .clearGd _ => [.gddr]
  | .clearRegs _ _ => [.regs]
  | .powerOn => [.regs, .gddr, .spad, .sregs, .aregs, .pregs, .vregs, .banks, .rowDescs, .accs, .accRows, .ctxs, .cores, .dmas, .flagUpds, .partials, .seqs, .rows, .frames, .nodes, .spillSlots, .kv, .jobs, .tent, .tentDone, .sent, .colls, .reqs, .nextTag, .lateDrops, .lanes, .blockBufs, .relTags, .held, .cache, .gdctls, .spctls, .cx, .stream, .load, .store, .recSerial, .faultsDue, .classC, .proofKey, .proofs, .dicts, .rst, .msix, .pcie, .pwr, .spdm, .mgt, .ms]

/-! The parts each change names. -/

@[simp] theorem Eff.parts_reg {off v} : (Eff.reg off v).parts = [.regs] := rfl
@[simp] theorem Eff.parts_gddr {key v} : (Eff.gddr key v).parts = [.gddr] := rfl
@[simp] theorem Eff.parts_spad {key v} : (Eff.spad key v).parts = [.spad] := rfl
@[simp] theorem Eff.parts_sreg {key v} : (Eff.sreg key v).parts = [.sregs] := rfl
@[simp] theorem Eff.parts_areg {key v} : (Eff.areg key v).parts = [.aregs] := rfl
@[simp] theorem Eff.parts_preg {key v} : (Eff.preg key v).parts = [.pregs] := rfl
@[simp] theorem Eff.parts_vreg {key v} : (Eff.vreg key v).parts = [.vregs] := rfl
@[simp] theorem Eff.parts_bank {key v} : (Eff.bank key v).parts = [.banks] := rfl
@[simp] theorem Eff.parts_rowDesc {key v} : (Eff.rowDesc key v).parts = [.rowDescs] := rfl
@[simp] theorem Eff.parts_acc {key v} : (Eff.acc key v).parts = [.accs] := rfl
@[simp] theorem Eff.parts_accRow {key v} : (Eff.accRow key v).parts = [.accRows] := rfl
@[simp] theorem Eff.parts_ctx {key v} : (Eff.ctx key v).parts = [.ctxs] := rfl
@[simp] theorem Eff.parts_core {l v} : (Eff.core l v).parts = [.cores] := rfl
@[simp] theorem Eff.parts_dma {key v} : (Eff.dma key v).parts = [.dmas] := rfl
@[simp] theorem Eff.parts_flagUpd {key v} : (Eff.flagUpd key v).parts = [.flagUpds] := rfl
@[simp] theorem Eff.parts_partials {v} : (Eff.partials v).parts = [.partials] := rfl
@[simp] theorem Eff.parts_seq {n v} : (Eff.seq n v).parts = [.seqs] := rfl
@[simp] theorem Eff.parts_row {key v} : (Eff.row key v).parts = [.rows] := rfl
@[simp] theorem Eff.parts_frame {n v} : (Eff.frame n v).parts = [.frames] := rfl
@[simp] theorem Eff.parts_node {n v} : (Eff.node n v).parts = [.nodes] := rfl
@[simp] theorem Eff.parts_spillSlot {n v} : (Eff.spillSlot n v).parts = [.spillSlots] := rfl
@[simp] theorem Eff.parts_job {j v} : (Eff.job j v).parts = [.jobs] := rfl
@[simp] theorem Eff.parts_tent {v} : (Eff.tent v).parts = [.tent] := rfl
@[simp] theorem Eff.parts_tentDone {v} : (Eff.tentDone v).parts = [.tentDone] := rfl
@[simp] theorem Eff.parts_sent {v} : (Eff.sent v).parts = [.sent] := rfl
@[simp] theorem Eff.parts_colls {v} : (Eff.colls v).parts = [.colls] := rfl
@[simp] theorem Eff.parts_reqs {v} : (Eff.reqs v).parts = [.reqs] := rfl
@[simp] theorem Eff.parts_nextTag {v} : (Eff.nextTag v).parts = [.nextTag] := rfl
@[simp] theorem Eff.parts_lateDrops {v} : (Eff.lateDrops v).parts = [.lateDrops] := rfl
@[simp] theorem Eff.parts_kv {v} : (Eff.kv v).parts = [.kv] := rfl
@[simp] theorem Eff.parts_lane {i v} : (Eff.lane i v).parts = [.lanes] := rfl
@[simp] theorem Eff.parts_blockBufs {v} : (Eff.blockBufs v).parts = [.blockBufs] := rfl
@[simp] theorem Eff.parts_relTag {key v} : (Eff.relTag key v).parts = [.relTags] := rfl
@[simp] theorem Eff.parts_held {v} : (Eff.held v).parts = [.held] := rfl
@[simp] theorem Eff.parts_cache {v} : (Eff.cache v).parts = [.cache] := rfl
@[simp] theorem Eff.parts_gdctl {k v} : (Eff.gdctl k v).parts = [.gdctls] := rfl
@[simp] theorem Eff.parts_spctl {l v} : (Eff.spctl l v).parts = [.spctls] := rfl
@[simp] theorem Eff.parts_cx {v} : (Eff.cx v).parts = [.cx] := rfl
@[simp] theorem Eff.parts_stream {v} : (Eff.stream v).parts = [.stream] := rfl
@[simp] theorem Eff.parts_load {v} : (Eff.load v).parts = [.load] := rfl
@[simp] theorem Eff.parts_store {v} : (Eff.store v).parts = [.store] := rfl
@[simp] theorem Eff.parts_recSerial {v} : (Eff.recSerial v).parts = [.recSerial] := rfl
@[simp] theorem Eff.parts_faultsDue {v} : (Eff.faultsDue v).parts = [.faultsDue] := rfl
@[simp] theorem Eff.parts_classC {v} : (Eff.classC v).parts = [.classC] := rfl
@[simp] theorem Eff.parts_proofKey {v} : (Eff.proofKey v).parts = [.proofKey] := rfl
@[simp] theorem Eff.parts_proofs {v} : (Eff.proofs v).parts = [.proofs] := rfl
@[simp] theorem Eff.parts_dict {k v} : (Eff.dict k v).parts = [.dicts] := rfl
@[simp] theorem Eff.parts_rst {v} : (Eff.rst v).parts = [.rst] := rfl
@[simp] theorem Eff.parts_msix {n v} : (Eff.msix n v).parts = [.msix] := rfl
@[simp] theorem Eff.parts_pcie {v} : (Eff.pcie v).parts = [.pcie] := rfl
@[simp] theorem Eff.parts_pwr {v} : (Eff.pwr v).parts = [.pwr] := rfl
@[simp] theorem Eff.parts_pins {v} : (Eff.pins v).parts = [.pins] := rfl
@[simp] theorem Eff.parts_sec {v} : (Eff.sec v).parts = [.sec] := rfl
@[simp] theorem Eff.parts_log {entry} : (Eff.log entry).parts = [.log] := rfl
@[simp] theorem Eff.parts_spdm {v} : (Eff.spdm v).parts = [.spdm] := rfl
@[simp] theorem Eff.parts_mgt {v} : (Eff.mgt v).parts = [.mgt] := rfl
@[simp] theorem Eff.parts_ms : (Eff.ms).parts = [.ms] := rfl
@[simp] theorem Eff.parts_fresh : (Eff.fresh).parts = [.fresh] := rfl
@[simp] theorem Eff.parts_out {o} : (Eff.out o).parts = [.out] := rfl
@[simp] theorem Eff.parts_clearCtx {key} : (Eff.clearCtx key).parts = [.sregs, .aregs, .pregs, .vregs, .banks, .rowDescs, .accs, .accRows, .flagUpds] := rfl
@[simp] theorem Eff.parts_clearSpad {l} : (Eff.clearSpad l).parts = [.spad] := rfl
@[simp] theorem Eff.parts_clearGddr : (Eff.clearGddr).parts = [.gddr, .relTags, .held] := rfl
@[simp] theorem Eff.parts_clearGd {k} : (Eff.clearGd k).parts = [.gddr] := rfl
@[simp] theorem Eff.parts_clearRegs {lo hi} : (Eff.clearRegs lo hi).parts = [.regs] := rfl
@[simp] theorem Eff.parts_powerOn : (Eff.powerOn).parts = [.regs, .gddr, .spad, .sregs, .aregs, .pregs, .vregs, .banks, .rowDescs, .accs, .accRows, .ctxs, .cores, .dmas, .flagUpds, .partials, .seqs, .rows, .frames, .nodes, .spillSlots, .kv, .jobs, .tent, .tentDone, .sent, .colls, .reqs, .nextTag, .lateDrops, .lanes, .blockBufs, .relTags, .held, .cache, .gdctls, .spctls, .cx, .stream, .load, .store, .recSerial, .faultsDue, .classC, .proofKey, .proofs, .dicts, .rst, .msix, .pcie, .pwr, .spdm, .mgt, .ms] := rfl

/-! A change that does not name a field leaves it. -/

/-- No change touches the queue: a command cannot. -/
@[simp] theorem apply_pending (e : Eff) (s : State) : (e.apply s).pending = s.pending := by cases e <;> rfl
/-- No change touches what a faulty adder does. -/
@[simp] theorem apply_adderFault (e : Eff) (s : State) : (e.apply s).adderFault = s.adderFault := by cases e <;> rfl
@[simp] theorem apply_regs {e : Eff} {s : State} (h : Part.regs ∉ e.parts) : (e.apply s).regs = s.regs := by
  cases e <;> first | rfl | simp at h
@[simp] theorem apply_gddr {e : Eff} {s : State} (h : Part.gddr ∉ e.parts) : (e.apply s).gddr = s.gddr := by
  cases e <;> first | rfl | simp at h
@[simp] theorem apply_spad {e : Eff} {s : State} (h : Part.spad ∉ e.parts) : (e.apply s).spad = s.spad := by
  cases e <;> first | rfl | simp at h
@[simp] theorem apply_sregs {e : Eff} {s : State} (h : Part.sregs ∉ e.parts) : (e.apply s).sregs = s.sregs := by
  cases e <;> first | rfl | simp at h
@[simp] theorem apply_aregs {e : Eff} {s : State} (h : Part.aregs ∉ e.parts) : (e.apply s).aregs = s.aregs := by
  cases e <;> first | rfl | simp at h
@[simp] theorem apply_pregs {e : Eff} {s : State} (h : Part.pregs ∉ e.parts) : (e.apply s).pregs = s.pregs := by
  cases e <;> first | rfl | simp at h
@[simp] theorem apply_vregs {e : Eff} {s : State} (h : Part.vregs ∉ e.parts) : (e.apply s).vregs = s.vregs := by
  cases e <;> first | rfl | simp at h
@[simp] theorem apply_banks {e : Eff} {s : State} (h : Part.banks ∉ e.parts) : (e.apply s).banks = s.banks := by
  cases e <;> first | rfl | simp at h
@[simp] theorem apply_rowDescs {e : Eff} {s : State} (h : Part.rowDescs ∉ e.parts) : (e.apply s).rowDescs = s.rowDescs := by
  cases e <;> first | rfl | simp at h
@[simp] theorem apply_accs {e : Eff} {s : State} (h : Part.accs ∉ e.parts) : (e.apply s).accs = s.accs := by
  cases e <;> first | rfl | simp at h
@[simp] theorem apply_accRows {e : Eff} {s : State} (h : Part.accRows ∉ e.parts) : (e.apply s).accRows = s.accRows := by
  cases e <;> first | rfl | simp at h
@[simp] theorem apply_ctxs {e : Eff} {s : State} (h : Part.ctxs ∉ e.parts) : (e.apply s).ctxs = s.ctxs := by
  cases e <;> first | rfl | simp at h
@[simp] theorem apply_cores {e : Eff} {s : State} (h : Part.cores ∉ e.parts) : (e.apply s).cores = s.cores := by
  cases e <;> first | rfl | simp at h
@[simp] theorem apply_dmas {e : Eff} {s : State} (h : Part.dmas ∉ e.parts) : (e.apply s).dmas = s.dmas := by
  cases e <;> first | rfl | simp at h
@[simp] theorem apply_flagUpds {e : Eff} {s : State} (h : Part.flagUpds ∉ e.parts) : (e.apply s).flagUpds = s.flagUpds := by
  cases e <;> first | rfl | simp at h
@[simp] theorem apply_partials {e : Eff} {s : State} (h : Part.partials ∉ e.parts) : (e.apply s).partials = s.partials := by
  cases e <;> first | rfl | simp at h
@[simp] theorem apply_seqs {e : Eff} {s : State} (h : Part.seqs ∉ e.parts) : (e.apply s).seqs = s.seqs := by
  cases e <;> first | rfl | simp at h
@[simp] theorem apply_rows {e : Eff} {s : State} (h : Part.rows ∉ e.parts) : (e.apply s).rows = s.rows := by
  cases e <;> first | rfl | simp at h
@[simp] theorem apply_frames {e : Eff} {s : State} (h : Part.frames ∉ e.parts) : (e.apply s).frames = s.frames := by
  cases e <;> first | rfl | simp at h
@[simp] theorem apply_nodes {e : Eff} {s : State} (h : Part.nodes ∉ e.parts) : (e.apply s).nodes = s.nodes := by
  cases e <;> first | rfl | simp at h
@[simp] theorem apply_spillSlots {e : Eff} {s : State} (h : Part.spillSlots ∉ e.parts) : (e.apply s).spillSlots = s.spillSlots := by
  cases e <;> first | rfl | simp at h
@[simp] theorem apply_kv {e : Eff} {s : State} (h : Part.kv ∉ e.parts) : (e.apply s).kv = s.kv := by
  cases e <;> first | rfl | simp at h
@[simp] theorem apply_jobs {e : Eff} {s : State} (h : Part.jobs ∉ e.parts) : (e.apply s).jobs = s.jobs := by
  cases e <;> first | rfl | simp at h
@[simp] theorem apply_tent {e : Eff} {s : State} (h : Part.tent ∉ e.parts) : (e.apply s).tent = s.tent := by
  cases e <;> first | rfl | simp at h
@[simp] theorem apply_tentDone {e : Eff} {s : State} (h : Part.tentDone ∉ e.parts) : (e.apply s).tentDone = s.tentDone := by
  cases e <;> first | rfl | simp at h
@[simp] theorem apply_sent {e : Eff} {s : State} (h : Part.sent ∉ e.parts) : (e.apply s).sent = s.sent := by
  cases e <;> first | rfl | simp at h
@[simp] theorem apply_colls {e : Eff} {s : State} (h : Part.colls ∉ e.parts) : (e.apply s).colls = s.colls := by
  cases e <;> first | rfl | simp at h
@[simp] theorem apply_reqs {e : Eff} {s : State} (h : Part.reqs ∉ e.parts) : (e.apply s).reqs = s.reqs := by
  cases e <;> first | rfl | simp at h
@[simp] theorem apply_nextTag {e : Eff} {s : State} (h : Part.nextTag ∉ e.parts) : (e.apply s).nextTag = s.nextTag := by
  cases e <;> first | rfl | simp at h
@[simp] theorem apply_lateDrops {e : Eff} {s : State} (h : Part.lateDrops ∉ e.parts) : (e.apply s).lateDrops = s.lateDrops := by
  cases e <;> first | rfl | simp at h
@[simp] theorem apply_lanes {e : Eff} {s : State} (h : Part.lanes ∉ e.parts) : (e.apply s).lanes = s.lanes := by
  cases e <;> first | rfl | simp at h
@[simp] theorem apply_blockBufs {e : Eff} {s : State} (h : Part.blockBufs ∉ e.parts) : (e.apply s).blockBufs = s.blockBufs := by
  cases e <;> first | rfl | simp at h
@[simp] theorem apply_relTags {e : Eff} {s : State} (h : Part.relTags ∉ e.parts) : (e.apply s).relTags = s.relTags := by
  cases e <;> first | rfl | simp at h
@[simp] theorem apply_held {e : Eff} {s : State} (h : Part.held ∉ e.parts) : (e.apply s).held = s.held := by
  cases e <;> first | rfl | simp at h
@[simp] theorem apply_cache {e : Eff} {s : State} (h : Part.cache ∉ e.parts) : (e.apply s).cache = s.cache := by
  cases e <;> first | rfl | simp at h
@[simp] theorem apply_gdctls {e : Eff} {s : State} (h : Part.gdctls ∉ e.parts) : (e.apply s).gdctls = s.gdctls := by
  cases e <;> first | rfl | simp at h
@[simp] theorem apply_spctls {e : Eff} {s : State} (h : Part.spctls ∉ e.parts) : (e.apply s).spctls = s.spctls := by
  cases e <;> first | rfl | simp at h
@[simp] theorem apply_cx {e : Eff} {s : State} (h : Part.cx ∉ e.parts) : (e.apply s).cx = s.cx := by
  cases e <;> first | rfl | simp at h
@[simp] theorem apply_stream {e : Eff} {s : State} (h : Part.stream ∉ e.parts) : (e.apply s).stream = s.stream := by
  cases e <;> first | rfl | simp at h
@[simp] theorem apply_load {e : Eff} {s : State} (h : Part.load ∉ e.parts) : (e.apply s).load = s.load := by
  cases e <;> first | rfl | simp at h
@[simp] theorem apply_store {e : Eff} {s : State} (h : Part.store ∉ e.parts) : (e.apply s).store = s.store := by
  cases e <;> first | rfl | simp at h
@[simp] theorem apply_recSerial {e : Eff} {s : State} (h : Part.recSerial ∉ e.parts) : (e.apply s).recSerial = s.recSerial := by
  cases e <;> first | rfl | simp at h
@[simp] theorem apply_faultsDue {e : Eff} {s : State} (h : Part.faultsDue ∉ e.parts) : (e.apply s).faultsDue = s.faultsDue := by
  cases e <;> first | rfl | simp at h
@[simp] theorem apply_classC {e : Eff} {s : State} (h : Part.classC ∉ e.parts) : (e.apply s).classC = s.classC := by
  cases e <;> first | rfl | simp at h
@[simp] theorem apply_proofKey {e : Eff} {s : State} (h : Part.proofKey ∉ e.parts) : (e.apply s).proofKey = s.proofKey := by
  cases e <;> first | rfl | simp at h
@[simp] theorem apply_proofs {e : Eff} {s : State} (h : Part.proofs ∉ e.parts) : (e.apply s).proofs = s.proofs := by
  cases e <;> first | rfl | simp at h
@[simp] theorem apply_dicts {e : Eff} {s : State} (h : Part.dicts ∉ e.parts) : (e.apply s).dicts = s.dicts := by
  cases e <;> first | rfl | simp at h
@[simp] theorem apply_rst {e : Eff} {s : State} (h : Part.rst ∉ e.parts) : (e.apply s).rst = s.rst := by
  cases e <;> first | rfl | simp at h
@[simp] theorem apply_msix {e : Eff} {s : State} (h : Part.msix ∉ e.parts) : (e.apply s).msix = s.msix := by
  cases e <;> first | rfl | simp at h
@[simp] theorem apply_pcie {e : Eff} {s : State} (h : Part.pcie ∉ e.parts) : (e.apply s).pcie = s.pcie := by
  cases e <;> first | rfl | simp at h
@[simp] theorem apply_pwr {e : Eff} {s : State} (h : Part.pwr ∉ e.parts) : (e.apply s).pwr = s.pwr := by
  cases e <;> first | rfl | simp at h
@[simp] theorem apply_pins {e : Eff} {s : State} (h : Part.pins ∉ e.parts) : (e.apply s).pins = s.pins := by
  cases e <;> first | rfl | simp at h
@[simp] theorem apply_sec {e : Eff} {s : State} (h : Part.sec ∉ e.parts) : (e.apply s).sec = s.sec := by
  cases e <;> first | rfl | simp at h
@[simp] theorem apply_log {e : Eff} {s : State} (h : Part.log ∉ e.parts) : (e.apply s).log = s.log := by
  cases e <;> first | rfl | simp at h
@[simp] theorem apply_spdm {e : Eff} {s : State} (h : Part.spdm ∉ e.parts) : (e.apply s).spdm = s.spdm := by
  cases e <;> first | rfl | simp at h
@[simp] theorem apply_mgt {e : Eff} {s : State} (h : Part.mgt ∉ e.parts) : (e.apply s).mgt = s.mgt := by
  cases e <;> first | rfl | simp at h
@[simp] theorem apply_ms {e : Eff} {s : State} (h : Part.ms ∉ e.parts) : (e.apply s).ms = s.ms := by
  cases e <;> first | rfl | simp at h
@[simp] theorem apply_fresh {e : Eff} {s : State} (h : Part.fresh ∉ e.parts) : (e.apply s).fresh = s.fresh := by
  cases e <;> first | rfl | simp at h
@[simp] theorem apply_out {e : Eff} {s : State} (h : Part.out ∉ e.parts) : (e.apply s).out = s.out := by
  cases e <;> first | rfl | simp at h

/-! What each change does to the fields it names. -/

@[simp] theorem apply_reg_regs {off v} {s : State} : ((Eff.reg off v).apply s).regs = FMap.set resetValue s.regs off v := rfl
@[simp] theorem apply_gddr_gddr {key v} {s : State} : ((Eff.gddr key v).apply s).gddr = FMap.set zeroByte s.gddr key v := rfl
@[simp] theorem apply_spad_spad {key v} {s : State} : ((Eff.spad key v).apply s).spad = FMap.set zeroByte s.spad key v := rfl
@[simp] theorem apply_sreg_sregs {key v} {s : State} : ((Eff.sreg key v).apply s).sregs = FMap.set zeroWord s.sregs key v := rfl
@[simp] theorem apply_areg_aregs {key v} {s : State} : ((Eff.areg key v).apply s).aregs = FMap.set zeroWord s.aregs key v := rfl
@[simp] theorem apply_preg_pregs {key v} {s : State} : ((Eff.preg key v).apply s).pregs = FMap.set zeroPred s.pregs key v := rfl
@[simp] theorem apply_vreg_vregs {key v} {s : State} : ((Eff.vreg key v).apply s).vregs = FMap.set zeroLane s.vregs key v := rfl
@[simp] theorem apply_bank_banks {key v} {s : State} : ((Eff.bank key v).apply s).banks = FMap.set zeroLane s.banks key v := rfl
@[simp] theorem apply_rowDesc_rowDescs {key v} {s : State} : ((Eff.rowDesc key v).apply s).rowDescs = FMap.set rowDesc0 s.rowDescs key v := rfl
@[simp] theorem apply_acc_accs {key v} {s : State} : ((Eff.acc key v).apply s).accs = FMap.set zeroAcc s.accs key v := rfl
@[simp] theorem apply_accRow_accRows {key v} {s : State} : ((Eff.accRow key v).apply s).accRows = FMap.set accRow0 s.accRows key v := rfl
@[simp] theorem apply_ctx_ctxs {key v} {s : State} : ((Eff.ctx key v).apply s).ctxs = FMap.set ctx0 s.ctxs key v := rfl
@[simp] theorem apply_core_cores {l v} {s : State} : ((Eff.core l v).apply s).cores = FMap.set core0 s.cores l v := rfl
@[simp] theorem apply_dma_dmas {key v} {s : State} : ((Eff.dma key v).apply s).dmas = FMap.set dma0 s.dmas key v := rfl
@[simp] theorem apply_flagUpd_flagUpds {key v} {s : State} : ((Eff.flagUpd key v).apply s).flagUpds = FMap.set flagUpd0 s.flagUpds key v := rfl
@[simp] theorem apply_partials_partials {v} {s : State} : ((Eff.partials v).apply s).partials = v := rfl
@[simp] theorem apply_seq_seqs {n v} {s : State} : ((Eff.seq n v).apply s).seqs = FMap.set seq0 s.seqs n v := rfl
@[simp] theorem apply_row_rows {key v} {s : State} : ((Eff.row key v).apply s).rows = FMap.set row0 s.rows key v := rfl
@[simp] theorem apply_frame_frames {n v} {s : State} : ((Eff.frame n v).apply s).frames = FMap.set zeroNat s.frames n v := rfl
@[simp] theorem apply_node_nodes {n v} {s : State} : ((Eff.node n v).apply s).nodes = FMap.set node0 s.nodes n v := rfl
@[simp] theorem apply_spillSlot_spillSlots {n v} {s : State} : ((Eff.spillSlot n v).apply s).spillSlots = FMap.set noSlot s.spillSlots n v := rfl
@[simp] theorem apply_job_jobs {j v} {s : State} : ((Eff.job j v).apply s).jobs = FMap.set job0 s.jobs j v := rfl
@[simp] theorem apply_tent_tent {v} {s : State} : ((Eff.tent v).apply s).tent = v := rfl
@[simp] theorem apply_tentDone_tentDone {v} {s : State} : ((Eff.tentDone v).apply s).tentDone = v := rfl
@[simp] theorem apply_sent_sent {v} {s : State} : ((Eff.sent v).apply s).sent = v := rfl
@[simp] theorem apply_colls_colls {v} {s : State} : ((Eff.colls v).apply s).colls = v := rfl
@[simp] theorem apply_reqs_reqs {v} {s : State} : ((Eff.reqs v).apply s).reqs = v := rfl
@[simp] theorem apply_nextTag_nextTag {v} {s : State} : ((Eff.nextTag v).apply s).nextTag = v := rfl
@[simp] theorem apply_lateDrops_lateDrops {v} {s : State} : ((Eff.lateDrops v).apply s).lateDrops = v := rfl
@[simp] theorem apply_kv_kv {v} {s : State} : ((Eff.kv v).apply s).kv = v := rfl
@[simp] theorem apply_lane_lanes {i v} {s : State} : ((Eff.lane i v).apply s).lanes = FMap.set lane0 s.lanes i v := rfl
@[simp] theorem apply_blockBufs_blockBufs {v} {s : State} : ((Eff.blockBufs v).apply s).blockBufs = v := rfl
@[simp] theorem apply_relTag_relTags {key v} {s : State} : ((Eff.relTag key v).apply s).relTags = FMap.set noTag s.relTags key v := rfl
@[simp] theorem apply_held_held {v} {s : State} : ((Eff.held v).apply s).held = v := rfl
@[simp] theorem apply_cache_cache {v} {s : State} : ((Eff.cache v).apply s).cache = v := rfl
@[simp] theorem apply_gdctl_gdctls {k v} {s : State} : ((Eff.gdctl k v).apply s).gdctls = FMap.set gdctl0 s.gdctls k v := rfl
@[simp] theorem apply_spctl_spctls {l v} {s : State} : ((Eff.spctl l v).apply s).spctls = FMap.set spctl0 s.spctls l v := rfl
@[simp] theorem apply_cx_cx {v} {s : State} : ((Eff.cx v).apply s).cx = v := rfl
@[simp] theorem apply_stream_stream {v} {s : State} : ((Eff.stream v).apply s).stream = v := rfl
@[simp] theorem apply_load_load {v} {s : State} : ((Eff.load v).apply s).load = v := rfl
@[simp] theorem apply_store_store {v} {s : State} : ((Eff.store v).apply s).store = v := rfl
@[simp] theorem apply_recSerial_recSerial {v} {s : State} : ((Eff.recSerial v).apply s).recSerial = v := rfl
@[simp] theorem apply_faultsDue_faultsDue {v} {s : State} : ((Eff.faultsDue v).apply s).faultsDue = v := rfl
@[simp] theorem apply_classC_classC {v} {s : State} : ((Eff.classC v).apply s).classC = v := rfl
@[simp] theorem apply_proofKey_proofKey {v} {s : State} : ((Eff.proofKey v).apply s).proofKey = v := rfl
@[simp] theorem apply_proofs_proofs {v} {s : State} : ((Eff.proofs v).apply s).proofs = v := rfl
@[simp] theorem apply_dict_dicts {k v} {s : State} : ((Eff.dict k v).apply s).dicts = FMap.set dict0 s.dicts k v := rfl
@[simp] theorem apply_rst_rst {v} {s : State} : ((Eff.rst v).apply s).rst = v := rfl
@[simp] theorem apply_msix_msix {n v} {s : State} : ((Eff.msix n v).apply s).msix = FMap.set msix0 s.msix n v := rfl
@[simp] theorem apply_pcie_pcie {v} {s : State} : ((Eff.pcie v).apply s).pcie = v := rfl
@[simp] theorem apply_pwr_pwr {v} {s : State} : ((Eff.pwr v).apply s).pwr = v := rfl
@[simp] theorem apply_pins_pins {v} {s : State} : ((Eff.pins v).apply s).pins = v := rfl
@[simp] theorem apply_sec_sec {v} {s : State} : ((Eff.sec v).apply s).sec = v := rfl
@[simp] theorem apply_log_log {entry} {s : State} : ((Eff.log entry).apply s).log = s.log ++ [entry] := rfl
@[simp] theorem apply_spdm_spdm {v} {s : State} : ((Eff.spdm v).apply s).spdm = v := rfl
@[simp] theorem apply_mgt_mgt {v} {s : State} : ((Eff.mgt v).apply s).mgt = v := rfl
@[simp] theorem apply_ms_ms {s : State} : ((Eff.ms).apply s).ms = s.ms + 1 := rfl
@[simp] theorem apply_fresh_fresh {s : State} : ((Eff.fresh).apply s).fresh = s.fresh + 1 := rfl
@[simp] theorem apply_out_out {o} {s : State} : ((Eff.out o).apply s).out = s.out ++ [o] := rfl
@[simp] theorem apply_clearSpad_spad {l} {s : State} : ((Eff.clearSpad l).apply s).spad = FMap.keep (fun x => !(x / 18874368 == l)) s.spad := rfl
@[simp] theorem apply_clearGddr_gddr {s : State} : ((Eff.clearGddr).apply s).gddr = [] := rfl
@[simp] theorem apply_clearGddr_relTags {s : State} : ((Eff.clearGddr).apply s).relTags = [] := rfl
@[simp] theorem apply_clearGddr_held {s : State} : ((Eff.clearGddr).apply s).held = [] := rfl
@[simp] theorem apply_clearGd_gddr {k} {s : State} : ((Eff.clearGd k).apply s).gddr = FMap.keep (fun x => !(x / 272 / 2 ^ 25 == k)) s.gddr := rfl
@[simp] theorem apply_clearRegs_regs {lo hi} {s : State} : ((Eff.clearRegs lo hi).apply s).regs = FMap.keep (fun x => !(decide (lo ≤ x) && decide (x < hi))) s.regs := rfl

end Sys2Proof.Machine
end

