-- ==== Sys2Proof/Laws/Eval.lean ====
section
/-! SUPPORT. How a meaning runs: one equation per way of composing meanings, and what holds of every state a meaning reaches
because each elementary change keeps it. -/

namespace Sys2Proof.Machine

open Sys2Proof

variable {s0 : State} {α β : Type}

/-- What a meaning gives and leaves from a state reached. -/
def eval (m : M s0 α) (g : Good s0) : Except Stop α × Good s0 := m g

/-- A command that has to wait before it has begun leaves the state it found; any other leaves what it reached. -/
theorem run_eq (s : State) (m : M s Unit) :
    run s m = if (eval m ⟨s, .refl⟩).1 = .error .later then s else (eval m ⟨s, .refl⟩).2.val := by
  unfold run eval
  generalize m ⟨s, .refl⟩ = r
  obtain ⟨r, g⟩ := r
  rcases r with x | a
  · cases x <;> simp
  · simp

theorem run_of_ok {s : State} {m : M s Unit} {u : Unit} {g : Good s} (e : eval m ⟨s, .refl⟩ = (.ok u, g)) : run s m = g.val := by
  rw [run_eq, e]; simp

theorem run_of_error {s : State} {m : M s Unit} {x : Stop} {g : Good s} (e : eval m ⟨s, .refl⟩ = (.error x, g)) (hx : x ≠ .later) :
    run s m = g.val := by
  rw [run_eq, e]; simp [hx]

theorem run_of_later {s : State} {m : M s Unit} {g : Good s} (e : eval m ⟨s, .refl⟩ = (.error .later, g)) : run s m = s := by
  rw [run_eq, e]; simp

@[simp] theorem eval_pure (a : α) (g : Good s0) : eval (pure a : M s0 α) g = (.ok a, g) := rfl

@[simp] theorem eval_throw (x : Stop) (g : Good s0) : eval (throw x : M s0 α) g = (.error x, g) := rfl

theorem eval_bind (m : M s0 α) (f : α → M s0 β) (g : Good s0) :
    eval (m >>= f) g = match eval m g with
      | (.ok a, h) => eval (f a) h
      | (.error x, h) => (.error x, h) := by
  show (m >>= f) g = match m g with
      | (.ok a, h) => (f a) h
      | (.error x, h) => (.error x, h)
  simp only [Bind.bind, ExceptT.bind, ExceptT.mk, StateT.bind]
  generalize m g = r
  obtain ⟨r, h⟩ := r
  cases r <;> rfl

@[simp] theorem eval_map (f : α → β) (m : M s0 α) (g : Good s0) :
    eval (f <$> m) g = match eval m g with
      | (.ok a, h) => (.ok (f a), h)
      | (.error x, h) => (.error x, h) := by
  rw [map_eq_pure_bind, eval_bind]
  rfl

/-- A meaning that has given a value goes on with it. -/
theorem eval_bind_ok {m : M s0 α} {f : α → M s0 β} {g h : Good s0} {a : α} (e : eval m g = (.ok a, h)) :
    eval (m >>= f) g = eval (f a) h := by rw [eval_bind, e]

/-- A meaning that has ended early stays ended. -/
theorem eval_bind_error {m : M s0 α} {f : α → M s0 β} {g h : Good s0} {x : Stop} (e : eval m g = (.error x, h)) :
    eval (m >>= f) g = (.error x, h) := by rw [eval_bind, e]

@[simp] theorem eval_eff (e : Eff) (g : Good s0) : eval (eff e) g = (.ok (), ⟨e.apply g.val, g.property.upd e⟩) := rfl

@[simp] theorem eval_st (g : Good s0) : eval (st : M s0 State) g = (.ok g.val, g) := rfl

/-- What an operation attempted gives is a value; a wait that has done nothing is passed on. -/
theorem eval_attempt (m : M s0 α) (g : Good s0) : eval (attempt m) g = match eval m g with
    | (.error .later, h) => (.error .later, h)
    | (r, h) => (.ok r, h) := rfl

theorem eval_attempt_ok {m : M s0 α} {g h : Good s0} {a : α} (e : eval m g = (.ok a, h)) :
    eval (attempt m) g = (.ok (.ok a), h) := by rw [eval_attempt, e]

theorem eval_attempt_error {m : M s0 α} {g h : Good s0} {x : Stop} (e : eval m g = (.error x, h)) (hx : x ≠ .later) :
    eval (attempt m) g = (.ok (.error x), h) := by
  rw [eval_attempt, e]
  cases x <;> first | rfl | exact absurd rfl hx

theorem eval_quiet (m : M s0 Unit) (g : Good s0) : eval (quiet m) g = match eval m g with
    | (.error .later, h) => (.error .later, h)
    | (_, h) => (.ok (), h) := by
  rw [quiet, eval_bind, eval_attempt]
  generalize eval m g = r
  obtain ⟨r, h⟩ := r
  rcases r with x | a
  · cases x <;> rfl
  · rfl

/-- An operation that waits at once is undone; its caller goes on. -/
theorem eval_ifReady (m : M s0 Unit) (g : Good s0) : eval (ifReady m) g = match eval m g with
    | (.error .later, _) => (.ok false, g)
    | (.error x, h) => (.error x, h)
    | (.ok _, h) => (.ok true, h) := rfl

theorem eval_need (b : Bool) (x : Stop) (g : Good s0) :
    eval (need b x : M s0 Unit) g = if b then (.ok (), g) else (.error x, g) := by
  cases b <;> rfl

@[simp] theorem eval_need_true (x : Stop) (g : Good s0) : eval (need true x : M s0 Unit) g = (.ok (), g) := rfl
@[simp] theorem eval_need_false (x : Stop) (g : Good s0) : eval (need false x : M s0 Unit) g = (.error x, g) := rfl

theorem eval_ite (c : Prop) [Decidable c] (a b : M s0 α) (g : Good s0) :
    eval (if c then a else b) g = if c then eval a g else eval b g := by split <;> rfl

@[simp] theorem eval_rdReg (off : Nat) (g : Good s0) : eval (rdReg off) g = (.ok (FMap.get resetValue g.val.regs off), g) := rfl
@[simp] theorem eval_wrReg (off : Nat) (v : Word) (g : Good s0) :
    eval (wrReg off v) g = (.ok (), ⟨(Eff.reg off v).apply g.val, g.property.upd _⟩) := rfl
@[simp] theorem eval_getF (f : Fld) (i j : Nat) (g : Good s0) : eval (getF f i j) g = (.ok (fieldIn g.val f i j), g) := rfl
@[simp] theorem eval_isF (f : Fld) (i j : Nat) (g : Good s0) : eval (isF f i j) g = (.ok (fieldIn g.val f i j == 1), g) := rfl

/-- The change that sets a named field. -/
def setFEff (s : State) (f : Fld) (v i j : Nat) : Eff :=
  .reg (f.addr i j) (withBits (FMap.get resetValue s.regs (f.addr i j)) f.lo f.width v)

@[simp] theorem eval_setF (f : Fld) (v i j : Nat) (g : Good s0) :
    eval (setF f v i j) g = (.ok (), ⟨(setFEff g.val f v i j).apply g.val, g.property.upd _⟩) := rfl
@[simp] theorem eval_countSat (f : Fld) (i n : Nat) (g : Good s0) : eval (countSat f i n) g =
    (.ok (), ⟨(setFEff g.val f (min (fieldIn g.val f i 0 + n) (2 ^ f.width - 1)) i 0).apply g.val, g.property.upd _⟩) := rfl
@[simp] theorem eval_countWrap (f : Fld) (i n : Nat) (g : Good s0) : eval (countWrap f i n) g =
    (.ok (), ⟨(setFEff g.val f (fieldIn g.val f i 0 + n) i 0).apply g.val, g.property.upd _⟩) := rfl
@[simp] theorem eval_emit (o : Out) (g : Good s0) :
    eval (emit o) g = (.ok (), ⟨(Eff.out o).apply g.val, g.property.upd _⟩) := rfl
@[simp] theorem eval_freeWord (g : Good s0) : eval (freeWord : M s0 Word) g =
    (.ok (Config.freeValue g.val.fresh), ⟨Eff.fresh.apply g.val, g.property.upd _⟩) := rfl
@[simp] theorem eval_freeBool (g : Good s0) : eval (freeBool : M s0 Bool) g =
    (.ok (Config.freeChoice g.val.fresh), ⟨Eff.fresh.apply g.val, g.property.upd _⟩) := rfl

/-! What every reached state keeps. -/

/-- A relation that no elementary change breaks holds of every state reached. -/
theorem Reach.keeps {P : State → Prop} (step : ∀ e t, P t → P (Eff.apply e t)) {s t : State} (h : Reach s t) (p : P s) : P t := by
  induction h with
  | refl => exact p
  | upd _ e ih => exact step e _ ih

/-- Every state a meaning leaves is reached. -/
theorem run_reach (s : State) (m : M s Unit) : Reach s (run s m) := by
  rw [run_eq]
  split
  · exact .refl
  · exact (eval m ⟨s, .refl⟩).2.property

/-- The waiting queue is no command's to change. -/
theorem Reach.pending {s t : State} (h : Reach s t) : t.pending = s.pending :=
  Reach.keeps (P := fun x => x.pending = s.pending) (fun e t p => by simp [p]) h rfl

end Sys2Proof.Machine
end

