-- ==== Sys2Proof/Laws/Within.lean ====
section
/-! SUPPORT. Meanings that keep to a kind of elementary change: the rules of composition, and what follows for the state they
leave. A shared operation has one lemma here or beside it that says what kinds of change it makes. -/

namespace Sys2Proof.Machine

open Sys2Proof

variable {s0 : State} {α β : Type}

/-- The states that elementary changes of a kind lead to from `s`. -/
inductive ReachBy (P : Eff → Prop) (s : State) : State → Prop
  | refl : ReachBy P s s
  | upd {t : State} (h : ReachBy P s t) {e : Eff} (p : P e) : ReachBy P s (e.apply t)

theorem ReachBy.trans {P : Eff → Prop} {s t u : State} (h : ReachBy P s t) (k : ReachBy P t u) : ReachBy P s u := by
  induction k with
  | refl => exact h
  | upd _ p ih => exact ih.upd p

theorem ReachBy.mono {P Q : Eff → Prop} (pq : ∀ e, P e → Q e) {s t : State} (h : ReachBy P s t) : ReachBy Q s t := by
  induction h with
  | refl => exact .refl
  | upd _ p ih => exact ih.upd (pq _ p)

/-- What no change of the kind alters stays as it was. -/
theorem ReachBy.same {P : Eff → Prop} {γ : Type} (f : State → γ) (k : ∀ e t, P e → f (Eff.apply e t) = f t) {s t : State}
    (h : ReachBy P s t) : f t = f s := by
  induction h with
  | refl => rfl
  | upd _ p ih => rw [k _ _ p, ih]

/-- What every change of the kind keeps holds afterwards. -/
theorem ReachBy.keeps {P : Eff → Prop} {Q : State → Prop} (k : ∀ e t, P e → Q t → Q (Eff.apply e t)) {s t : State}
    (h : ReachBy P s t) (q : Q s) : Q t := by
  induction h with
  | refl => exact q
  | upd _ p ih => exact k _ _ p ih

/-- A meaning makes changes of a kind only. -/
def Within (P : Eff → Prop) (m : M s0 α) : Prop := ∀ g, ReachBy P g.val (eval m g).2.val

/-- The kind of change that alters none but the fields named. -/
def onlyParts (ps : List Part) (e : Eff) : Prop := ∀ p ∈ e.parts, p ∈ ps

variable {P : Eff → Prop} {m : M s0 α} {f : α → M s0 β}

theorem within_pure (a : α) : Within P (pure a : M s0 α) := fun _ => .refl
theorem within_throw (x : Stop) : Within P (throw x : M s0 α) := fun _ => .refl
theorem within_eff {e : Eff} (p : P e) : Within P (eff e : M s0 Unit) := fun _ => ReachBy.refl.upd p
theorem within_st : Within P (st : M s0 State) := fun _ => .refl

theorem within_bind (h : Within P m) (k : ∀ a, Within P (f a)) : Within P (m >>= f) := by
  intro g
  rw [eval_bind]
  have h1 := h g
  revert h1
  generalize eval m g = r
  obtain ⟨r, g'⟩ := r
  intro h1
  cases r with
  | error x => exact h1
  | ok a => exact h1.trans (k a g')

theorem within_map {k : α → β} (h : Within P m) : Within P (k <$> m) := by
  rw [map_eq_pure_bind]; exact within_bind h fun _ => within_pure _

theorem within_ite {c : Prop} [Decidable c] {a b : M s0 α} (h : Within P a) (k : Within P b) : Within P (if c then a else b) := by
  split <;> assumption

theorem within_attempt (h : Within P m) : Within P (attempt m) := by
  intro g
  have k := h g
  rw [eval_attempt]
  generalize eval m g = r at k
  obtain ⟨r, g'⟩ := r
  rcases r with x | a
  · cases x <;> exact k
  · exact k
theorem within_quiet {m : M s0 Unit} (h : Within P m) : Within P (quiet m) := by
  intro g
  have k := h g
  rw [eval_quiet]
  generalize eval m g = r at k
  obtain ⟨r, g'⟩ := r
  rcases r with x | a
  · cases x <;> exact k
  · exact k
theorem within_ifReady {m : M s0 Unit} (h : Within P m) : Within P (ifReady m) := by
  intro g
  have k := h g
  rw [eval_ifReady]
  generalize eval m g = r at k
  obtain ⟨r, g'⟩ := r
  rcases r with x | u
  · cases x <;> first | exact k | exact .refl
  · exact k
theorem within_need (b : Bool) (x : Stop) : Within P (need b x : M s0 Unit) := by
  cases b <;> intro g <;> exact .refl
theorem within_need? (o : Option α) (x : Stop) : Within P (need? o x : M s0 α) := by
  cases o <;> intro g <;> exact .refl

theorem within_forIn {γ σ : Type} {l : List γ} {x : σ} {k : γ → σ → M s0 (ForInStep σ)} (h : ∀ a b, Within P (k a b)) :
    Within P (forIn l x k) := by
  induction l generalizing x with
  | nil => exact within_pure _
  | cons a l ih =>
    rw [List.forIn_cons]
    refine within_bind (h a x) fun r => ?_
    cases r with
    | done b => exact within_pure _
    | yield b => exact ih

theorem within_mono {Q : Eff → Prop} (pq : ∀ e, P e → Q e) (h : Within P m) : Within Q m := fun g => (h g).mono pq

/-! Registers and tables. -/

theorem within_rdReg (off : Nat) : Within P (rdReg off : M s0 Word) := fun _ => .refl
theorem within_getF (F : Fld) (i j : Nat) : Within P (getF F i j : M s0 Nat) := fun _ => .refl
theorem within_isF (F : Fld) (i j : Nat) : Within P (isF F i j : M s0 Bool) := fun _ => .refl
theorem within_wrReg {off : Nat} {v : Word} (p : P (.reg off v)) : Within P (wrReg off v : M s0 Unit) := within_eff p
theorem within_setF {F : Fld} {v i j : Nat} (p : ∀ w, P (.reg (F.addr i j) w)) : Within P (setF F v i j : M s0 Unit) :=
  fun _ => ReachBy.refl.upd (p _)
theorem within_countSat {F : Fld} {i n : Nat} (p : ∀ w, P (.reg (F.addr i 0) w)) : Within P (countSat F i n : M s0 Unit) :=
  fun _ => ReachBy.refl.upd (p _)
theorem within_countWrap {F : Fld} {i n : Nat} (p : ∀ w, P (.reg (F.addr i 0) w)) : Within P (countWrap F i n : M s0 Unit) :=
  fun _ => ReachBy.refl.upd (p _)
theorem within_emit {o : Out} (p : P (.out o)) : Within P (emit o : M s0 Unit) := within_eff p
theorem within_freeWord (p : P .fresh) : Within P (freeWord : M s0 Word) := fun _ => ReachBy.refl.upd p
theorem within_freeBool (p : P .fresh) : Within P (freeBool : M s0 Bool) := fun _ => ReachBy.refl.upd p

theorem within_getCtx (l k : Nat) : Within P (getCtx l k : M s0 Ctx) := fun _ => .refl
theorem within_setCtx {l k : Nat} {c : Ctx} (p : P (.ctx (ctxKey l k) c)) : Within P (setCtx l k c : M s0 Unit) := within_eff p
theorem within_modCtx {l k : Nat} {f : Ctx → Ctx} (p : ∀ c, P (.ctx (ctxKey l k) c)) : Within P (modCtx l k f : M s0 Unit) :=
  fun _ => ReachBy.refl.upd (p _)
theorem within_getCore (l : Nat) : Within P (getCore l : M s0 CoreSt) := fun _ => .refl
theorem within_setCore {l : Nat} {c : CoreSt} (p : P (.core l c)) : Within P (setCore l c : M s0 Unit) := within_eff p
theorem within_modCore {l : Nat} {f : CoreSt → CoreSt} (p : ∀ c, P (.core l c)) : Within P (modCore l f : M s0 Unit) :=
  fun _ => ReachBy.refl.upd (p _)
theorem within_getDma (l ch : Nat) : Within P (getDma l ch : M s0 Dma) := fun _ => .refl
theorem within_setDma {l ch : Nat} {d : Dma} (p : P (.dma (l * 8 + ch) d)) : Within P (setDma l ch d : M s0 Unit) := within_eff p
theorem within_getJob (j : Nat) : Within P (getJob j : M s0 Job) := fun _ => .refl
theorem within_setJob {j : Nat} {v : Job} (p : P (.job j v)) : Within P (setJob j v : M s0 Unit) := within_eff p
theorem within_modJob {j : Nat} {f : Job → Job} (p : ∀ v, P (.job j v)) : Within P (modJob j f : M s0 Unit) :=
  fun _ => ReachBy.refl.upd (p _)
theorem within_getLane (i : Nat) : Within P (getLane i : M s0 Lane) := fun _ => .refl
theorem within_setLane {i : Nat} {v : Lane} (p : P (.lane i v)) : Within P (setLane i v : M s0 Unit) := within_eff p
theorem within_modLane {i : Nat} {f : Lane → Lane} (p : ∀ v, P (.lane i v)) : Within P (modLane i f : M s0 Unit) :=
  fun _ => ReachBy.refl.upd (p _)
theorem within_getGd (k : Nat) : Within P (getGd k : M s0 GdCtl) := fun _ => .refl
theorem within_setGd {k : Nat} {v : GdCtl} (p : P (.gdctl k v)) : Within P (setGd k v : M s0 Unit) := within_eff p
theorem within_getSp (l : Nat) : Within P (getSp l : M s0 SpCtl) := fun _ => .refl
theorem within_setSp {l : Nat} {v : SpCtl} (p : P (.spctl l v)) : Within P (setSp l v : M s0 Unit) := within_eff p
theorem within_getRow (n r : Nat) : Within P (getRow n r : M s0 Row) := fun _ => .refl
theorem within_getSeq (n : Nat) : Within P (getSeq n : M s0 Seq) := fun _ => .refl
theorem within_getDict (k : Nat) : Within P (getDict k : M s0 DictSlot) := fun _ => .refl

/-! What follows. -/

/-- The parts of the state a kind of change leaves. -/
theorem ReachBy.frame {ps : List Part} {s t : State} (h : ReachBy (onlyParts ps) s t) {γ : Type} (f : State → γ)
    (k : ∀ e u, onlyParts ps e → f (Eff.apply e u) = f u) : f t = f s := h.same f k

theorem onlyParts_mono {ps qs : List Part} (h : ∀ p ∈ ps, p ∈ qs) (e : Eff) (k : onlyParts ps e) : onlyParts qs e :=
  fun p hp => h p (k p hp)

/-- The register of changes only grows, whatever is done. -/
theorem Reach.log_grows {s t : State} (h : Reach s t) : ∃ more : List (List Byte), t.log = s.log ++ more := by
  induction h with
  | refl => exact ⟨[], by simp⟩
  | upd _ e ih =>
    obtain ⟨more, h⟩ := ih
    by_cases p : Part.log ∈ e.parts
    · cases e <;> simp at p
      rename_i x
      exact ⟨more ++ [x], by simp [Eff.apply, h]⟩
    · exact ⟨more, by rw [apply_log p, h]⟩

/-- What was sent stays sent, whatever is done. -/
theorem Reach.out_grows {s t : State} (h : Reach s t) : ∃ more : List Out, t.out = s.out ++ more := by
  induction h with
  | refl => exact ⟨[], by simp⟩
  | upd _ e ih =>
    obtain ⟨more, h⟩ := ih
    by_cases p : Part.out ∈ e.parts
    · cases e <;> simp at p
      rename_i x
      exact ⟨more ++ [x], by simp [Eff.apply, h]⟩
    · exact ⟨more, by rw [apply_out p, h]⟩

end Sys2Proof.Machine
end

