-- ==== Sys2Proof/Laws/Exec.lean ====
section
/-! SUPPORT. Every command completes in a state reached by elementary changes: the one case split over the commands that the
statements about all of them rest on. -/

namespace Sys2Proof.Machine

open Sys2Proof

/-- Every command answers a next state, reached by elementary changes. -/
theorem exec_reach (c : Instr) (s : State) : ∃ t, exec c s = .next t ∧ Reach s t := by
  cases c <;> exact ⟨_, rfl, run_reach s _⟩

/-- An idle cycle leaves a state reached by elementary changes. -/
theorem idle_reach (s : State) : Reach s (idle s) := run_reach s _

end Sys2Proof.Machine
end

