-- ==== Sys2Proof/Laws/Slot.lean ====
section
/-! SUPPORT. A slot commanded alone: what it needs, how it completes and how it traps, and the operands of slots. -/

namespace Sys2Proof.Machine

open Sys2Proof

variable {s0 : State}

/-- A context that takes a slot has not stopped. -/
theorem takesSlot_stopped {s : State} {l : Nat} (h : takesSlot s l = true) :
    (FMap.get ctx0 s.ctxs (here s l)).stopped = false := by
  simp only [takesSlot, Bool.and_eq_true, Bool.not_eq_true', decide_eq_true_eq] at h
  exact h.1.1.1.1.1.1.1.2

/-- It waits for nothing and has no sentence under way. -/
theorem takesSlot_sentence {s : State} {l : Nat} (h : takesSlot s l = true) :
    (FMap.get ctx0 s.ctxs (here s l)).sentence = none := by
  simp only [takesSlot, Bool.and_eq_true, Bool.not_eq_true', decide_eq_true_eq, Option.isNone_iff_eq_none] at h
  exact h.1.1.1.1.1.1.2

@[simp] theorem eval_getCtx (l k : Nat) (g : Good s0) :
    eval (getCtx l k) g = (.ok (FMap.get ctx0 g.val.ctxs (ctxKey l k)), g) := rfl

/-- A slot commanded alone runs where its context takes it and no attention operation holds its unit. -/
theorem soleSlot_runs {s : State} {l n bits : Nat} {op : At → M s Unit} (h : takesSlot s l = true)
    (ha : vecOrMat n = false ∨ attRunsIn s l (fieldIn s R.CORE_STATUS_SLOT l 0) = false) :
    soleSlot s l n bits op = .next (run s (do let _ ← runOne (soleAt s l n) bits (op (soleAt s l n)); pure ())) := by
  have hb : (vecOrMat n && attRunsIn s l (fieldIn s R.CORE_STATUS_SLOT l 0)) = false := by
    rcases ha with ha | ha <;> simp [ha]
  simp only [soleSlot, h, hb, if_true]
  rfl

/-- A slot whose operation completes leaves what the operation leaves. -/
theorem soleSlot_ok {s : State} {l n bits : Nat} {op : At → M s Unit} {g : Good s} (h : takesSlot s l = true)
    (ha : vecOrMat n = false ∨ attRunsIn s l (fieldIn s R.CORE_STATUS_SLOT l 0) = false)
    (e : eval (op (soleAt s l n)) ⟨s, .refl⟩ = (.ok (), g)) : soleSlot s l n bits op = .next g.val := by
  rw [soleSlot_runs h ha]
  refine congrArg _ (run_of_ok (u := ()) ?_)
  rw [eval_bind, runOne, eval_bind, eval_attempt_ok e]
  rfl

/-- A slot that faults its encoding or its address takes its trap. -/
theorem soleSlot_trap {s : State} {l n bits cause status detail : Nat} {op : At → M s Unit} {g h' : Good s}
    (h : takesSlot s l = true) (ha : vecOrMat n = false ∨ attRunsIn s l (fieldIn s R.CORE_STATUS_SLOT l 0) = false)
    (e : eval (op (soleAt s l n)) ⟨s, .refl⟩ = (.error (.trap cause status detail), g))
    (t : eval (takeTrap l (fieldIn s R.CORE_STATUS_SLOT l 0) n cause status
      (if cause = Trap.illegal then bits % 2 ^ 64 else detail) (bits % 256) : M s Unit) g = (.ok (), h')) :
    soleSlot s l n bits op = .next h'.val := by
  rw [soleSlot_runs h ha]
  refine congrArg _ (run_of_ok (u := ()) ?_)
  rw [eval_bind, runOne, eval_bind, eval_attempt_error e (by simp)]
  simp only [soleAt] at *
  rw [eval_bind, t]
  rfl

/-- A slot that ends early, without a trap and without waiting, leaves what it has done. -/
theorem soleSlot_end {s : State} {l n bits : Nat} {op : At → M s Unit} {g : Good s} {x : Stop} (h : takesSlot s l = true)
    (ha : vecOrMat n = false ∨ attRunsIn s l (fieldIn s R.CORE_STATUS_SLOT l 0) = false)
    (e : eval (op (soleAt s l n)) ⟨s, .refl⟩ = (.error x, g)) (hx : x ≠ .wait) (hl : x ≠ .later) (ht : ∀ c st d, x ≠ .trap c st d) :
    soleSlot s l n bits op = .next g.val := by
  rw [soleSlot_runs h ha]
  refine congrArg _ (run_of_ok (u := ()) ?_)
  rw [eval_bind, runOne, eval_bind, eval_attempt_error e hl]
  cases x <;> simp_all

/-- A slot that waits at a port before it has done anything leaves everything as it was. -/
theorem soleSlot_later {s : State} {l n bits : Nat} {op : At → M s Unit} {g : Good s} (h : takesSlot s l = true)
    (ha : vecOrMat n = false ∨ attRunsIn s l (fieldIn s R.CORE_STATUS_SLOT l 0) = false)
    (e : eval (op (soleAt s l n)) ⟨s, .refl⟩ = (.error .later, g)) : soleSlot s l n bits op = .next s := by
  rw [soleSlot_runs h ha]
  refine congrArg _ (run_of_later (g := g) ?_)
  rw [eval_bind, runOne, eval_bind, eval_attempt, e]

@[simp] theorem vecOrMat_scalar (u : ScalarUnit) : vecOrMat (scalarSlot u) = false := by cases u <;> rfl

/-! Operands, in the place of a slot commanded alone. -/

variable {s : State} {l n : Nat}

@[simp] theorem eval_predHolds (pred : BitVec 3) (pneg : Bool) :
    eval (predHolds (soleAt s l n) pred pneg) ⟨s, .refl⟩ = (.ok (holds s l pred pneg), ⟨s, .refl⟩) := by
  simp [predHolds, rdPreg, soleAt, holds, pOf, here]

@[simp] theorem eval_rdS (r : BitVec 6) :
    eval (rdS (soleAt s l n) r) ⟨s, .refl⟩ = (.ok (sOf s l r.toNat), ⟨s, .refl⟩) := by
  simp [rdS, rdSreg, soleAt, sOf, here]

@[simp] theorem eval_rdA (r : Nat) :
    eval (rdA (soleAt s l n) r) ⟨s, .refl⟩ = (.ok (aOf s l r), ⟨s, .refl⟩) := by
  simp [rdA, rdAreg, soleAt, aOf, here]

@[simp] theorem eval_op2 (f : ScalarF) : eval (op2 (soleAt s l n) f) ⟨s, .refl⟩ = (.ok (op2Of s l f), ⟨s, .refl⟩) := by
  unfold op2 op2Of
  split <;> simp

/-- A state written so is reached. -/
theorem withS_reach {t : State} (h : Reach s0 t) (key r : Nat) (v : Word) : Reach s0 (withS t key r v) := by
  unfold withS; split
  · exact h
  · exact h.upd (.sreg (key * 64 + r) v)
theorem withA_reach {t : State} (h : Reach s0 t) (key r : Nat) (v : Word) : Reach s0 (withA t key r v) :=
  h.upd (.areg (key * 32 + r) v)
theorem withP_reach {t : State} (h : Reach s0 t) (key r : Nat) (v : BitVec 256) : Reach s0 (withP t key r v) := by
  unfold withP; split
  · exact h
  · exact h.upd (.preg (key * 8 + r) v)
theorem withField_reach {t : State} (h : Reach s0 t) (f : Fld) (v i j : Nat) : Reach s0 (withField t f v i j) :=
  h.upd (setFEff t f v i j)

@[simp] theorem eval_wrS (r : BitVec 6) (v : Word) (g : Good s0) :
    eval (wrS (soleAt s l n) r v) g = (.ok (), ⟨withS g.val (here s l) r.toNat v, withS_reach g.property _ _ _⟩) := by
  by_cases hr : r.toNat = 0
  · simp [wrS, wrSreg, withS, hr]
  · simp [wrS, wrSreg, withS, hr, soleAt, here, Eff.apply]

@[simp] theorem eval_wrA (r : Nat) (v : Word) (g : Good s0) :
    eval (wrA (soleAt s l n) r v) g = (.ok (), ⟨withA g.val (here s l) r v, withA_reach g.property _ _ _⟩) := rfl

@[simp] theorem eval_wrP (r : Nat) (v : BitVec 256) (g : Good s0) :
    eval (wrPreg (soleAt s l n).l (soleAt s l n).k r v) g =
      (.ok (), ⟨withP g.val (here s l) r v, withP_reach g.property _ _ _⟩) := by
  by_cases hr : r = 0
  · simp [wrPreg, withP, hr]
  · simp [wrPreg, withP, hr, soleAt, here, Eff.apply]

theorem eval_field (F : Fld) (v i j : Nat) (g : Good s0) :
    eval (setF F v i j) g = (.ok (), ⟨withField g.val F v i j, withField_reach g.property _ _ _ _⟩) := rfl

/-- What an operation gives and leaves, as `gives` says it. -/
theorem eval_of_gives {α : Type} {m : M s α} {r : Except Stop α} {t : State} (h : gives s m = (r, t)) :
    ∃ hr, eval m ⟨s, .refl⟩ = (r, ⟨t, hr⟩) := by
  have h1 : (eval m ⟨s, .refl⟩).1 = r := congrArg Prod.fst h
  have h2 : (eval m ⟨s, .refl⟩).2.val = t := congrArg Prod.snd h
  exact ⟨h2 ▸ (eval m ⟨s, .refl⟩).2.property, Prod.ext h1 (Subtype.ext h2)⟩

end Sys2Proof.Machine
end

