-- ==== Sys2Proof/Laws/Scalar.lean ====
section
/-! SUPPORT. The shared operations of the scalar slots: what each leaves, commanded alone. -/

namespace Sys2Proof.Machine

open Sys2Proof

variable {s : State} {l : Nat} {f : ScalarF} {u : ScalarUnit} {op : Nat}

/-- An operation of two operands writes s[RD], where its predicate holds. -/
theorem sole_scalarBin (g : Word → Word → Word) (h : takesSlot s l = true) :
    soleScalar op (scalarBin g) l u f s =
      .next (if holds s l f.pred f.pneg then withS s (here s l) f.rd.toNat (g (sOf s l f.rs1.toNat) (op2Of s l f)) else s) := by
  cases hp : holds s l f.pred f.pneg
  · exact soleSlot_ok h (.inl (by simp)) (g := ⟨s, .refl⟩) (by simp [scalarBin, eval_bind, hp])
  · exact soleSlot_ok h (.inl (by simp)) (g := ⟨_, withS_reach .refl _ _ _⟩) (by simp [scalarBin, eval_bind, hp])

/-- A comparison writes all of p[RD[2:0]], where its predicate holds. -/
theorem sole_scalarCmp (g : Word → Word → Bool) (h : takesSlot s l = true) :
    soleScalar op (scalarCmp g) l u f s =
      .next (if holds s l f.pred f.pneg then
        withP s (here s l) (f.rd.toNat % 8) (if g (sOf s l f.rs1.toNat) (op2Of s l f) then BitVec.allOnes 256 else 0) else s) := by
  cases hp : holds s l f.pred f.pneg
  · exact soleSlot_ok h (.inl (by simp)) (g := ⟨s, .refl⟩) (by simp [scalarCmp, eval_bind, hp])
  · exact soleSlot_ok h (.inl (by simp)) (g := ⟨_, withP_reach .refl _ _ _⟩)
      (by simp only [scalarCmp, eval_bind, eval_predHolds, hp, if_true, eval_rdS, eval_op2, eval_wrP])

/-- A W32 operation writes its result with upper bits zero; a saturation sets SAT. -/
theorem sole_scalarW (g : BitVec 32 → BitVec 32 → BitVec 32 × Bool) (h : takesSlot s l = true) :
    soleScalar op (scalarW g) l u f s =
      .next (if holds s l f.pred f.pneg then
        let r := g ((sOf s l f.rs1.toNat).truncate 32) ((op2Of s l f).truncate 32)
        let t := withS s (here s l) f.rd.toNat (r.1.zeroExtend 64)
        if r.2 then withField t R.CORE_CTX_SAT 1 l (fieldIn s R.CORE_STATUS_SLOT l 0) else t else s) := by
  cases hp : holds s l f.pred f.pneg
  · exact soleSlot_ok h (.inl (by simp)) (g := ⟨s, .refl⟩) (by simp [scalarW, eval_bind, hp])
  · generalize hr : g ((sOf s l f.rs1.toNat).truncate 32) ((op2Of s l f).truncate 32) = r
    cases hs : r.2
    · simp only [if_true, hs]
      exact soleSlot_ok h (.inl (by simp)) (g := ⟨_, withS_reach .refl _ _ _⟩)
        (by simp only [scalarW, low, eval_bind, eval_predHolds, hp, if_true, eval_rdS, eval_op2, hr, eval_wrS, noteSat, hs]; rfl)
    · simp only [if_true, hs]
      exact soleSlot_ok h (.inl (by simp)) (g := ⟨_, withField_reach (withS_reach .refl _ _ _) _ _ _ _⟩)
        (by simp only [scalarW, low, eval_bind, eval_predHolds, hp, if_true, eval_rdS, eval_op2, hr, eval_wrS, noteSat, hs]; rfl)

end Sys2Proof.Machine
end

