-- ==== Sys2Proof/Laws/Vector.lean ====
section
/-! SUPPORT. Vector registers: reading and writing all lanes at once, and the vector slots commanded alone. -/

namespace Sys2Proof.Machine

open Sys2Proof

variable {s0 : State}

/-- Reading one register's lanes out of the whole table reads the table. -/
theorem FMap.get_filter {β : Type} {d : Nat → β} {m : FMap β} {p : Nat × β → Bool} {n : Nat}
    (h : ∀ v, p (n, v) = true) : FMap.get d (m.filter p) n = FMap.get d m n := by
  induction m with
  | nil => rfl
  | cons x m ih =>
    obtain ⟨k, v⟩ := x
    by_cases e : n = k
    · subst e; simp [h, FMap.get]
    · by_cases q : p (k, v) = true <;> simp [q, FMap.get, e, ih]

@[simp] theorem eval_rdVreg (l k r : Nat) (g : Good s0) : eval (rdVreg l k r) g =
    (.ok (lanes (fun i => FMap.get zeroLane g.val.vregs ((ctxKey l k * 64 + r) * 256 + i))), g) := by
  simp only [rdVreg, eval_bind, eval_st, eval_pure, lanes, Prod.mk.injEq, Except.ok.injEq, and_true]
  apply List.map_congr_left
  intro i hi
  simp only [List.mem_range] at hi
  apply FMap.get_filter
  intro v
  simp only [beq_iff_eq]
  omega

theorem lane_lanes (g : Nat → BitVec 32) {i : Nat} (hi : i < 256) : lane (lanes g) i = g i := by
  simp [lane, lanes, List.getD, hi]

theorem lanes_congr {α : Type} {g h : Nat → α} (e : ∀ i, i < 256 → g i = h i) : lanes g = lanes h :=
  List.map_congr_left fun i hi => e i (List.mem_range.mp hi)

theorem lanes_map {α β : Type} (g : Nat → α) (k : α → β) : (lanes g).map k = lanes (fun i => k (g i)) := by
  simp [lanes]

theorem withV_reach {t : State} (h : Reach s0 t) (key r : Nat) (v : List (BitVec 32)) : Reach s0 (withV t key r v) := by
  unfold withV
  generalize (v.take 256).zipIdx = xs
  induction xs generalizing t with
  | nil => exact h
  | cons x xs ih => exact ih (h.upd (.vreg ((key * 64 + r) * 256 + x.2) x.1))

/-- A loop over a list whose body completes at every member makes the changes one after the other. -/
theorem eval_forIn_unit {γ : Type} (l : List γ) (e : γ → Eff) (g : Good s0) :
    (eval (forIn l PUnit.unit fun x _ => do eff (e x); pure (ForInStep.yield PUnit.unit)) g).1 = .ok () ∧
    (eval (forIn l PUnit.unit fun x _ => do eff (e x); pure (ForInStep.yield PUnit.unit)) g).2.val =
      l.foldl (fun t x => (e x).apply t) g.val := by
  induction l generalizing g with
  | nil => exact ⟨rfl, rfl⟩
  | cons a l ih =>
    simp only [List.forIn_cons, bind_assoc, pure_bind, List.foldl_cons]
    rw [eval_bind, eval_eff]
    exact ih _

theorem foldl_vreg (xs : List (BitVec 32 × Nat)) (b : Nat) (t : State) :
    xs.foldl (fun t x => (Eff.vreg (b + x.2) x.1).apply t) t =
      { t with vregs := xs.foldl (fun m x => FMap.set zeroLane m (b + x.2) x.1) t.vregs } := by
  induction xs generalizing t with
  | nil => rfl
  | cons x xs ih => rw [List.foldl_cons, ih]; rfl

@[simp] theorem eval_wrVreg (l k r : Nat) (v : List (BitVec 32)) (g : Good s0) : eval (wrVreg l k r v) g =
    (.ok (), ⟨withV g.val (ctxKey l k) r v, withV_reach g.property _ _ _⟩) := by
  have h := eval_forIn_unit (s0 := s0) (v.take 256).zipIdx (fun x => .vreg ((ctxKey l k * 64 + r) * 256 + x.2) x.1) g
  revert h
  unfold wrVreg
  rw [eval_bind]
  generalize eval (forIn (v.take 256).zipIdx PUnit.unit fun x _ => do
      eff (.vreg ((ctxKey l k * 64 + r) * 256 + x.2) x.1); pure (ForInStep.yield PUnit.unit)) g = q
  obtain ⟨q, w⟩ := q
  rintro ⟨rfl, h⟩
  simp only [eval_pure, Prod.mk.injEq, true_and]
  refine Subtype.ext ?_
  rw [h, foldl_vreg]
  rfl

/-! Operands of a slot commanded alone. -/

variable {s : State} {l n : Nat}

@[simp] theorem eval_rdV (r : BitVec 6) :
    eval (rdV (soleAt s l n) r) ⟨s, .refl⟩ = (.ok (vAll s l r.toNat), ⟨s, .refl⟩) := by
  simp only [rdV, soleAt, eval_rdVreg]
  rfl

@[simp] theorem eval_wrV (r : BitVec 6) (v : List (BitVec 32)) (g : Good s) : eval (wrV (soleAt s l n) r v) g =
    (.ok (), ⟨withV g.val (here s l) r.toNat v, withV_reach g.property _ _ _⟩) := by
  simp [wrV, soleAt, here]

@[simp] theorem eval_predLanes (f : VecF) :
    eval (predLanes (soleAt s l n) f) ⟨s, .refl⟩ = (.ok (maskOf s l f), ⟨s, .refl⟩) := by
  by_cases h : f.pneg <;> simp [predLanes, rdPreg, soleAt, maskOf, pOf, here, h]

@[simp] theorem eval_vop2 (f : VecF) :
    eval (vop2 (soleAt s l n) f) ⟨s, .refl⟩ = (.ok (lanes (vop2Of s l f)), ⟨s, .refl⟩) := by
  have e : vop2Of s l f = fun i => if f.immsel then f.imm else vOf s l f.vs2.toNat i := rfl
  rw [e]
  unfold vop2
  split
  · show (Except.ok (List.replicate 256 f.imm), _) = _
    have : lanes (fun _ => f.imm) = List.replicate 256 f.imm := by
      unfold lanes; rw [List.map_const', List.length_range]
    rw [this]
  · exact eval_rdV _

theorem withSat_reach {t : State} (h : Reach s0 t) (l : Nat) (b : Bool) : Reach s0 (withSat t l b) := by
  unfold withSat; split
  · exact withField_reach h _ _ _ _
  · exact h

/-- The slot a core runs does not change with a vector register. -/
@[simp] theorem withV_regs (t : State) (key r : Nat) (v : List (BitVec 32)) : (withV t key r v).regs = t.regs := rfl

theorem eval_noteSat (b : Bool) (g : Good s) (h : g.val.regs = s.regs) :
    eval (noteSat (soleAt s l n) b) g = (.ok (), ⟨withSat g.val l b, withSat_reach g.property _ _⟩) := by
  cases b
  · rfl
  · simp only [noteSat, if_true, eval_field, withSat, soleAt, fieldIn, h]

/-- A vector operation lane by lane, commanded alone. -/
theorem sole_vecMap {u : VecUnit} {bits : Nat} {f : VecF} (h : takesArraySlot s l = true)
    (g : BitVec 32 → BitVec 32 → BitVec 32 → BitVec 32 × Bool) :
    soleSlot s l (vecSlot u) bits (fun a => vecMap g a f) =
      let r := lanes (fun i => if (maskOf s l f).getLsbD i then g (vOf s l f.vs1.toNat i) (vop2Of s l f i) (vOf s l f.vs3.toNat i)
        else (vOf s l f.vd.toNat i, false))
      .next (withSat (withV s (here s l) f.vd.toNat (r.map (·.1))) l (r.any (·.2))) := by
  simp only [takesArraySlot, Bool.and_eq_true, Bool.not_eq_true'] at h
  have e : ∀ i, i < 256 → (if (maskOf s l f).getLsbD i then g (lane (vAll s l f.vs1.toNat) i) (lane (lanes (vop2Of s l f)) i) (lane (vAll s l f.vs3.toNat) i)
        else (lane (vAll s l f.vd.toNat) i, false)) =
      (if (maskOf s l f).getLsbD i then g (vOf s l f.vs1.toNat i) (vop2Of s l f i) (vOf s l f.vs3.toNat i)
        else (vOf s l f.vd.toNat i, false)) := by
    intro i hi
    simp only [vAll, lane_lanes _ hi]
  refine (soleSlot_ok (g := ⟨withSat (withV s (here s l) f.vd.toNat _) l _, withSat_reach (withV_reach .refl _ _ _) _ _⟩)
    h.1 (.inr h.2) ?_)
  unfold vecMap
  rw [eval_bind, eval_predLanes]
  dsimp only
  rw [eval_bind, eval_rdV]
  dsimp only
  rw [eval_bind, eval_vop2]
  dsimp only
  rw [eval_bind, eval_rdV]
  dsimp only
  rw [eval_bind, eval_rdV]
  dsimp only
  rw [eval_bind, lanes_congr e]
  generalize lanes (fun i => if (maskOf s l f).getLsbD i then g (vOf s l f.vs1.toNat i) (vop2Of s l f i) (vOf s l f.vs3.toNat i)
        else (vOf s l f.vd.toNat i, false)) = r
  rw [eval_wrV]
  exact eval_noteSat _ _ (withV_regs _ _ _ _)

end Sys2Proof.Machine
end

