-- ==== Sys2Proof/WellFormed.lean ====
section
/-! DEFINITION. Which commands are well formed: every operand that names a unit names one the module has, and lists have the length
the manual gives them. `exec` answers a command that is not with the unchanged state, or as the agent's mistake is answered. -/

namespace Sys2Proof

/-- Logical cores (R19). -/
def coreOk (l : Nat) : Bool := decide (l < 144)
/-- Lanes (R379). -/
def laneOk (i : Nat) : Bool := decide (i < 48)
/-- Job slots (R407). -/
def jobSlotOk (j : Nat) : Bool := decide (j < 16)
/-- Fields (R18). -/
def fieldOk (f : Nat) : Bool := decide (f < 8)
/-- Queues (R465). -/
def queueOk (q : Nat) : Bool := decide (q < 64)
/-- DMA channels of a core (R124). -/
def channelOk (ch : Nat) : Bool := decide (ch < 8)
/-- Physical cores (R18). -/
def pcoreOk (p : Nat) : Bool := decide (p < 152)
/-- Compute dies (R433). -/
def dieOk (d : Nat) : Bool := decide (d < 2)
/-- Slots of a sentence that hold an operation (R96). -/
def slotOk (n : Nat) : Bool := decide (1 ≤ n) && decide (n ≤ 7)
/-- Dictation slots (R426). -/
def dictSlotOk (k : Nat) : Bool := decide (k < 4)
/-- GDDR7 controllers (R283). -/
def controllerOk (k : Nat) : Bool := decide (k < 32)
/-- Words of a command window of `n`. -/
def wordIndexOk (n k : Nat) : Bool := decide (k < n)
/-- Local blocks of a controller (R284). -/
def blockOk (b : Nat) : Bool := decide (b < 2 ^ 25)
/-- Remap entries and compressed ranges: 16 of each (R295, R334). -/
def entryOk (i : Nat) : Bool := decide (i < 16)
/-- KV sequences (R226). -/
def seqOk (n : Nat) : Bool := decide (n < 16384)
/-- Page rows of a sequence (R221). -/
def rowOk (r : Nat) : Bool := decide (r < 65536)
/-- Words of a scratchpad of 16 MiB (R307). -/
def wordOk (w : Nat) : Bool := decide (w < 2 ^ 21)
/-- Requester groups that wait (R264). -/
def groupOk (g : Nat) : Bool := decide (3 ≤ g) && decide (g ≤ 7)
/-- Tests of a bundle (R424). -/
def testOk (t : Nat) : Bool := decide (t < 64)
/-- Units of a stored block that the devices report on (R286). -/
def deviceUnitOk (u : Nat) : Bool := decide (u < 17)
/-- Units of a UNITS map (R425). -/
def testUnitOk (u : Nat) : Bool := decide (u < 192)
/-- Units of domain 4 (R433). -/
def resetUnitOk (u : Nat) : Bool := decide (u < 48) || (decide (64 ≤ u) && decide (u < 104)) || u == 112 || u == 113
/-- Clauses of a stream (R67). -/
def clauseOk (c : Nat) : Bool := decide (c < 256)
/-- Reset domains (R433). -/
def domainOk (d : Nat) : Bool := decide (1 ≤ d) && decide (d ≤ 7)
/-- Items of configuration space that act on the module. -/
def itemOk (i : Nat) : Bool := decide (i < 4)
/-- Sizes of a register access. -/
def sizeOk (n : Nat) : Bool := n == 1 || n == 2 || n == 4 || n == 8

/-- Agents name a core and a channel the module has. -/
def agentOk : Agent → Bool
  | .host => true
  | .firmware => true
  | .management => true
  | .peer _ => true
  | .core l => coreOk l
  | .dma l ch => coreOk l && channelOk ch

/-- A packet's data is as long as LEN says, but for a read, which carries none; TRAIL says whether a trailer follows (R364, R365). -/
def packetOk (p : Packet) : Bool :=
  (p.data.length == if p.typ = 0x01 then 0 else p.len.toNat) && (p.trailer.isSome == p.flags.getLsbD 2)

/-- Whole groups of 2,176 symbols (R356). -/
def flitOk (rx : FlitRx) : Bool := rx.group0.length == 2176 && rx.group1.length == 2176 && decide (rx.offset < 20560)

/-- Units of a block (R286). -/
def faultsOk (f : BlockFaults) : Bool := f.crcFails.all (fun p => deviceUnitOk p.1) && f.writeFails.all deviceUnitOk

/-- One reading a die or a field (R493). -/
def samplesOk (x : Samples) : Bool := x.rate.length == 2 && x.rail.length == 8 && x.temp.length == 8

/-- One map a field (R18). -/
def usableOk (u : List (BitVec 19)) : Bool := u.length == 8

/-- Nine sensors a field (R492). -/
def tempsOk (t : List (BitVec 16)) : Bool := t.length == 72

/-- A fetch that succeeds brings whole pages (R221). -/
def pagesOk (outcome : BitVec 2) (ps : List (List Byte)) : Bool := outcome != 0 || ps.all (fun p => p.length == 65536)

/-- A write lies within one stored block (R286). -/
def spanOk (off : Nat) (bs : List Byte) : Bool := decide (0 < bs.length) && decide (off + bs.length ≤ 256)

/-- A release tag names a core of its module (R323). -/
def relOk (r : RelTag) : Bool := coreOk r.core

/-- Whether a command is well formed. -/
def Instr.wellFormed : Instr → Bool
  | .nop core slot => coreOk core && slotOk slot
  | .sentenceIssue core => coreOk core
  | .contextSwitch core => coreOk core
  | .contextDone core => coreOk core
  | .add core _ _ => coreOk core
  | .sub core _ _ => coreOk core
  | .mul core _ _ => coreOk core
  | .mulhs core _ _ => coreOk core
  | .mulhu core _ _ => coreOk core
  | .divs core _ _ => coreOk core
  | .divu core _ _ => coreOk core
  | .rems core _ _ => coreOk core
  | .remu core _ _ => coreOk core
  | .andOp core _ _ => coreOk core
  | .orOp core _ _ => coreOk core
  | .xorOp core _ _ => coreOk core
  | .shl core _ _ => coreOk core
  | .shr core _ _ => coreOk core
  | .sar core _ _ => coreOk core
  | .rotl core _ _ => coreOk core
  | .mins core _ _ => coreOk core
  | .maxs core _ _ => coreOk core
  | .minu core _ _ => coreOk core
  | .maxu core _ _ => coreOk core
  | .clz core _ _ => coreOk core
  | .popc core _ _ => coreOk core
  | .sel core _ _ => coreOk core
  | .li core _ _ => coreOk core
  | .lih core _ _ => coreOk core
  | .cmpeq core _ _ => coreOk core
  | .cmpne core _ _ => coreOk core
  | .cmplts core _ _ => coreOk core
  | .cmpltu core _ _ => coreOk core
  | .cmples core _ _ => coreOk core
  | .cmpleu core _ _ => coreOk core
  | .fadd core _ _ => coreOk core
  | .fsub core _ _ => coreOk core
  | .fmul core _ _ => coreOk core
  | .fmin core _ _ => coreOk core
  | .fmax core _ _ => coreOk core
  | .fcmplt core _ _ => coreOk core
  | .fcmpeq core _ _ => coreOk core
  | .fcvti core _ _ => coreOk core
  | .fcvtf core _ _ => coreOk core
  | .rdspec core _ _ => coreOk core
  | .ld core _ => coreOk core
  | .lds core _ => coreOk core
  | .st core _ => coreOk core
  | .ldv core _ => coreOk core
  | .stv core _ => coreOk core
  | .ldvr core _ => coreOk core
  | .ldvc core _ => coreOk core
  | .lda core _ => coreOk core
  | .sta core _ => coreOk core
  | .aadd core _ => coreOk core
  | .afroms core _ => coreOk core
  | .atos core _ => coreOk core
  | .atAdd core _ => coreOk core
  | .atSwap core _ => coreOk core
  | .atCas core _ => coreOk core
  | .atMins core _ => coreOk core
  | .atMaxs core _ => coreOk core
  | .atMinu core _ => coreOk core
  | .atMaxu core _ => coreOk core
  | .dma core _ => coreOk core
  | .dmaTransferComplete core ch => coreOk core && channelOk ch
  | .vaddi core _ _ => coreOk core
  | .vsubi core _ _ => coreOk core
  | .vmuli core _ _ => coreOk core
  | .vand core _ _ => coreOk core
  | .vor core _ _ => coreOk core
  | .vxor core _ _ => coreOk core
  | .vshl core _ _ => coreOk core
  | .vshr core _ _ => coreOk core
  | .vsar core _ _ => coreOk core
  | .vmini core _ _ => coreOk core
  | .vmaxi core _ _ => coreOk core
  | .vaddf core _ _ => coreOk core
  | .vsubf core _ _ => coreOk core
  | .vmulf core _ _ => coreOk core
  | .vfma core _ _ => coreOk core
  | .vminf core _ _ => coreOk core
  | .vmaxf core _ _ => coreOk core
  | .vcmpeqi core _ _ => coreOk core
  | .vcmplti core _ _ => coreOk core
  | .vcmplei core _ _ => coreOk core
  | .vcmpeqf core _ _ => coreOk core
  | .vcmpltf core _ _ => coreOk core
  | .vcmplef core _ _ => coreOk core
  | .vsel core _ _ => coreOk core
  | .vbcast core _ _ => coreOk core
  | .vperm core _ _ => coreOk core
  | .vredaddf core _ _ => coreOk core
  | .vredaddi core _ _ => coreOk core
  | .vredmaxf core _ _ => coreOk core
  | .vexp core _ _ => coreOk core
  | .vrcp core _ _ => coreOk core
  | .vrsqrt core _ _ => coreOk core
  | .vlog2 core _ _ => coreOk core
  | .vcvt core _ _ => coreOk core
  | .vext core _ _ => coreOk core
  | .vins core _ _ => coreOk core
  | .mldr core _ => coreOk core
  | .mldsp core _ => coreOk core
  | .mswap core _ => coreOk core
  | .mstr core _ => coreOk core
  | .mstrsp core _ => coreOk core
  | .mdrn core _ => coreOk core
  | .mdrnsp core _ => coreOk core
  | .mew core _ => coreOk core
  | .joinReduce core => coreOk core
  | .rampDown core => coreOk core
  | .br core _ => coreOk core
  | .bri core _ => coreOk core
  | .call core _ => coreOk core
  | .loopOp core _ => coreOk core
  | .fenceRel core _ => coreOk core
  | .fenceAcq core _ => coreOk core
  | .fenceAr core _ => coreOk core
  | .bar core _ => coreOk core
  | .cjwait core _ => coreOk core
  | .dmawait core _ => coreOk core
  | .yieldOp core _ => coreOk core
  | .trap core _ => coreOk core
  | .proofCompare field _ _ => fieldOk field
  | .proofLate field => fieldOk field
  | .attCmdWrite core by' k _ => coreOk core && agentOk by' && wordIndexOk 24 k
  | .forwardPass core => coreOk core
  | .backwardPass core => coreOk core
  | .attentionComplete core => coreOk core
  | .kvCmdWrite core by' k _ => coreOk core && agentOk by' && wordIndexOk 8 k
  | .openSeq _ => true
  | .grow _ => true
  | .exclude _ => true
  | .closeSeq _ => true
  | .tenseOpen j => jobSlotOk j
  | .spillComplete seq row _ => seqOk seq && rowOk row
  | .fetchComplete seq row outcome pages => seqOk seq && rowOk row && pagesOk outcome pages
  | .fetchRetry seq row => seqOk seq && rowOk row
  | .tenseRelease j => jobSlotOk j
  | .memberVote j => jobSlotOk j
  | .stepHoldTimeout j => jobSlotOk j
  | .tentativeBoundExpiry j _ => jobSlotOk j
  | .vote lane p => laneOk lane && packetOk p
  | .decideMsg lane p => laneOk lane && packetOk p
  | .mapup lane p => laneOk lane && packetOk p
  | .mapdown lane p => laneOk lane && packetOk p
  | .arrive lane p => laneOk lane && packetOk p
  | .release lane p => laneOk lane && packetOk p
  | .joinMsg lane p => laneOk lane && packetOk p
  | .start lane p => laneOk lane && packetOk p
  | .holdMsg lane p => laneOk lane && packetOk p
  | .peerReset lane p => laneOk lane && packetOk p
  | .reformOrder _ => true
  | .standDownOrder _ => true
  | .fullLoad _ => true
  | .partialLoad _ => true
  | .loadComplete => true
  | .spCorrectionWriteBack core word => coreOk core && wordOk word
  | .spPatrolVisit core => coreOk core
  | .arbitrationPromotion core group _ => coreOk core && groupOk group
  | .spInjectArm core _ => coreOk core
  | .blockRead k block f => controllerOk k && blockOk block && faultsOk f
  | .blockWrite k block off bytes f => controllerOk k && blockOk block && faultsOk f && spanOk off bytes
  | .gdCorrectionWriteBack k block => controllerOk k && blockOk block
  | .writeCrcReplay k block unit _ => controllerOk k && blockOk block && deviceUnitOk unit
  | .channelRetrain k block unit _ => controllerOk k && blockOk block && deviceUnitOk unit
  | .gdPatrolVisit k f => controllerOk k && faultsOk f
  | .gdTemperatureRead k _ _ => controllerOk k
  | .refresh k => controllerOk k
  | .remapWrite k i _ => controllerOk k && entryOk i
  | .remapCopyComplete k i => controllerOk k && entryOk i
  | .gdInjectArm k _ => controllerOk k
  | .rangeEnable i _ => entryOk i
  | .rangeReady i => entryOk i
  | .rangeDisable i _ => entryOk i
  | .blockDecode k block => controllerOk k && blockOk block
  | .blockEncode k block _ => controllerOk k && blockOk block
  | .tableLoad _ => true
  | .tableInstall => true
  | .tableLoadTimeout => true
  | .fullTraining lane _ => laneOk lane
  | .fastRetrain lane _ => laneOk lane
  | .trainingStepTimeout lane => laneOk lane
  | .identity lane _ => laneOk lane
  | .flitReceive lane rx => laneOk lane && flitOk rx
  | .nakRepeat lane => laneOk lane
  | .ackTimer lane => laneOk lane
  | .recovery lane lost _ => laneOk lane && laneOk lost
  | .laneLossTimeout lane => laneOk lane
  | .resetNotice lane _ _ => laneOk lane
  | .fecrateCheck lane => laneOk lane
  | .packetForward lane p => laneOk lane && packetOk p
  | .rd lane p => laneOk lane && packetOk p
  | .wr lane p => laneOk lane && packetOk p
  | .pwr lane p => laneOk lane && packetOk p.packet && p.rels.all relOk
  | .atReq lane p => laneOk lane && packetOk p
  | .seg lane p => laneOk lane && packetOk p
  | .conf lane p => laneOk lane && packetOk p
  | .retr lane p => laneOk lane && packetOk p
  | .rdr lane p => laneOk lane && packetOk p.packet && p.rels.all relOk
  | .ack lane p => laneOk lane && packetOk p
  | .atr lane p => laneOk lane && packetOk p.packet && p.rels.all relOk
  | .sweepSend j _ => jobSlotOk j
  | .transactionTimeout _ => true
  | .retrainWrite lane => laneOk lane
  | .reviveWrite lane => laneOk lane
  | .coordinates _ => true
  | .faultInterrupt => true
  | .dRingEnable _ => true
  | .dictationLoad _ => true
  | .cancel _ => true
  | .dictationPass slot test unit _ _ => dictSlotOk slot && testOk test && testUnitOk unit
  | .dictationAbandon slot test unit => dictSlotOk slot && testOk test && testUnitOk unit
  | .mxInjectArm _ => true
  | .coreReset core _ => coreOk core
  | .clauseReset clause _ => clauseOk clause
  | .controlComplexReset _ => true
  | .baseDieIoReset unit _ _ => resetUnitOk unit
  | .computeDieReset die _ => dieOk die
  | .warmModuleReset _ => true
  | .powerOnReset => true
  | .resetComplete domain _ => domainOk domain
  | .heartbeat by' _ => agentOk by'
  | .heartbeatPeriod => true
  | .firstHeartbeatTimeout => true
  | .coreHangCheck core => coreOk core
  | .coreRetirement pcore => pcoreOk pcore
  | .firmwareStart _ => true
  | .firmwareAccepted usable _ => usableOk usable
  | .sqDoorbell q _ => queueOk q
  | .cqDoorbell q _ => queueOk q
  | .commandTake _ => true
  | .jobOrder q _ _ => queueOk q
  | .advance q _ _ _ => queueOk q
  | .endJob q _ _ => queueOk q
  | .hostBar2Read _ _ => true
  | .hostBar2Write _ _ => true
  | .registerWrite by' _ size _ => agentOk by' && sizeOk size
  | .linkTraining _ _ => true
  | .perst => true
  | .functionLevelReset => true
  | .hotReset => true
  | .linkDisable => true
  | .surpriseLinkDown => true
  | .doeObject _ => true
  | .warningEntered _ => true
  | .warningCleared _ => true
  | .inputBelowReset => true
  | .railOutOfRegulation _ => true
  | .cappingTick _ _ => true
  | .fastCurrentLimit => true
  | .thermalTick temps => tempsOk temps
  | .thermtrip => true
  | .sensorSample x => samplesOk x
  | .toP0 => true
  | .toP2 => true
  | .toP3 => true
  | .vreqWrite f _ => fieldOk f
  | .repairUnlock _ => true
  | .repairLock _ => true
  | .installerKey _ => true
  | .certificate _ => true
  | .operatorKey _ => true
  | .powerCap _ => true
  | .site _ => true
  | .seal _ => true
  | .unseal _ => true
  | .debug _ => true
  | .grant _ => true
  | .grantEnd => true
  | .halt core _ => coreOk core
  | .haltStep core => coreOk core
  | .logCopy _ => true
  | .logRetry _ => true
  | .getVersion _ _ => true
  | .getCapabilities _ _ => true
  | .negotiateAlgorithms _ _ => true
  | .getDigests _ _ => true
  | .getCertificate _ _ => true
  | .challenge _ _ => true
  | .getMeasurements _ _ => true
  | .entdaa _ => true
  | .setdasa _ _ => true
  | .targetReset => true
  | .mctpControl _ _ => true
  | .pldmRequest _ _ => true
  | .memWrite _ _ => true
  | .memRead _ _ => true
  | .timeSet _ => true
  | .timeSetExpiry => true
  | .status => true
  | .ppsEdge => true
  | .pwrgdAssert _ _ => true
  | .pwrgdDeassert => true
  | .registerRead by' _ size => agentOk by' && sizeOk size
  | .queueEnable _ _ => true
  | .msixTableWrite _ size _ => sizeOk size
  | .configurationWrite item _ => itemOk item
  | .perstRelease => true
  | .vinReaches39v _ => true

end Sys2Proof
end

