-- ==== Sys2Proof/Tests/Slice0.lean ====
section
/-! SUPPORT. Tests: what WellFormed refuses, and for every statement with hypotheses states and operands that meet them, with what the
statement says of them. Each is about one step on a small state. -/

namespace Sys2Proof.Tests

open Sys2Proof Sys2Proof.Machine

set_option maxRecDepth 8000
set_option Elab.async false

/-! Small states. -/

/-- The state a command leaves. -/
def after (c : Instr) (s : State) : State :=
  match exec c s with
  | .next t => t
  | _ => s

/-- The state a step leaves. -/
def stepped (s : State) : State :=
  match step s with
  | .next t => t
  | _ => s

/-- A state with a value in a field. -/
def put (f : Fld) (v : Nat) (i j : Nat := 0) (s : State) : State := withField s f v i j

/-- What a shared operation gives. -/
def given {α : Type} (s : State) (m : M s α) : Except Stop α := (gives s m).1

/-- The state a shared operation leaves. -/
def left {α : Type} (s : State) (m : M s α) : State := (gives s m).2

/-- Scalar, address, vector, matrix and sync slots with every field zero. -/
def s0F : ScalarF := ⟨0, 0, 0, 0, false, false, 0⟩

/-- A stream with one clause on cores 0 and 143: a linear region, one of 128 columns, and entries W32, I32, K8 and Q4. -/
def tiny : Stream where
  proofShift := 0
  quotaDefault := 100
  clauses := [⟨3, false, 2, [0, 143]⟩]
  joins := []
  regions := [⟨3, 0, false, false, 0, 4, 0, 3⟩, ⟨3, 1, false, true, 4, 4, 128, 3⟩]
  lanes := []
  routes := []
  fmts := [⟨3, [7], [⟨0x20, 0, 0⟩, ⟨0x21, 0, 0⟩, ⟨0x08, 0, 0⟩, ⟨0x02, 0, 0⟩]⟩]
  policies := [⟨0, false, 0, 1, false, 0, 0⟩]
  oldPolicies := []
  policyLoad := 0
  trees := []
  quotas := []
  defaults := [(3, 0, 0), (3, 1, 0x10000)]

/-- The module after reset with that stream active. -/
def world : State := { State.reset with stream := some tiny }

/-- An address register of the running context of core 143. -/
def atA (r : Nat) (v : Word) (s : State) : State := withA s (here s 143) r v

/-- A scalar register of it. -/
def atS (r : Nat) (v : Word) (s : State) : State := withS s (here s 143) r v

/-- The global address of byte x of core 143's scratchpad. -/
def own (x : Nat) : Word := BitVec.ofNat 64 (0x400000000000 + 143 * 0x1000000 + x)

/-- The few lanes the kernel is asked about: lane 0 and 2 of v1 hold -3 and 5, of v2 2. -/
def few : State :=
  let m := FMap.set zeroLane world.vregs ((143 * 16 * 64 + 1) * 256) (-3)
  let m := FMap.set zeroLane m ((143 * 16 * 64 + 1) * 256 + 2) 5
  { world with vregs := FMap.set zeroLane m ((143 * 16 * 64 + 2) * 256 + 2) 2 }

/-- Core 143 at sentence 640 of the job of slot 0. -/
def running : State :=
  { put R.CORE_CTX_CSTATE 1 143 0 (put R.CORE_CTX_QUOTA_LEFT 9 143 0 (put R.CJ_JOBA_STATE 2 0 0 world)) with
    jobs := FMap.set job0 [] 0 { isOpen := true, optab := 0x100 }
    ctxs := FMap.set ctx0 [] (143 * 16) { job := some 0, saddr := 640, seen := [⟨0, 0, 0, 0, 3⟩], lastDma := [(2, 4)] } }

/-- The module is chip 100, incarnation 7, READY; a tree of two nodes is active; lane 0 is up, and lane 40,
with chip 101, incarnation 9, at its far end. -/
def fabric : State :=
  let s := put R.FAB_ID_CHIP 100 0 0 (put R.FAB_ID_INC 7 0 0 (put R.RST_STATUS_PHASE 4 0 0 world))
  let s := put R.CJ_COORD_GROUP 1 0 0 (put R.CJ_COORD_SLOT 36 0 0 (put R.CJ_COORD_SET 1 0 0 (put R.FAB_LSTAT_STATE 6 0 0 s)))
  { put R.FAB_LSTAT_STATE 6 40 0 (put R.FAB_LPEER_CHIP 101 40 0 (put R.FAB_LPEER_INC 9 40 0 s)) with
    stream := some { tiny with trees := [⟨1, 3, 2, 20, [(0, none), (1, some 0)]⟩] }
    lanes := FMap.set lane0 [] 0 { credits := [1024, 1024, 512, 128] }
    pins := { State.reset.pins with pwrgd := true }
    pwr := { State.reset.pwr with conversion := true } }

/-- Job 5 in slot 0 at a node of the tree, serving tense 9 after committing 8. -/
def atNode (node state : Nat) (v : Job) (s : State := fabric) : State :=
  let m : List (BitVec 14 × BitVec 16) := if node = 0 then [(100, 7), (101, 9)] else [(101, 9), (100, 7)]
  let s := put R.CJ_JOBA_JOB 5 0 0 (put R.CJ_JOBA_TREE 1 0 0 (put R.CJ_JOBA_NODE node 0 0 (put R.CJ_JOBA_STATE state 0 0 s)))
  { put R.CJ_JOBB_TENSE 9 0 0 s with jobs := FMap.set job0 [] 0 { v with map := m, committed := 8, ctxs := [⟨3, 0, 0, 0x1000⟩] } }

/-- A packet of chip 101 to this module for job 5. -/
def pk (typ : BitVec 8) (len : Nat := 0) (data : List Byte := []) (addr : Nat := 0) : Packet :=
  { emptyPacket with typ, len := BitVec.ofNat 16 len, src := 101, dst := 100, inc := 9, job := 5, tense := 9, vl := packetVl typ 0, data := data
                     addr := BitVec.ofNat 64 addr }

/-- A packet in the receive buffer of a lane. -/
def receivingOn (lane : Nat) (p : Packet) (s : State) : State :=
  { s with lanes := FMap.set lane0 s.lanes lane ({ received := [p], credits := [1024, 1024, 512, 128] } : Lane) }

/-- A packet in the receive buffer of lane 40. -/
def receiving (p : Packet) (s : State) : State := receivingOn 40 p s

/-- What `arrives` asks. -/
def arrivesB (s : State) (lane : Nat) (p : Packet) (typ : BitVec 8) : Bool :=
  decide (lane < 48) && p.typ == typ && p.dst.toNat == chipIn s && firstOfFlow (FMap.get lane0 s.lanes lane).received p &&
    (given s (incOk lane p)).toOption == some true

/-- A public key (the one of RFC 8032, 7.1, test 1). -/
def userKey : BitVec 256 := 11903303657706407974989296177215005343713679411332034699907763981919547054807
def userKeyId : Nat := 12302343403167089166

/-! WellFormed: for each check an ill-formed term it refuses. -/

theorem test_wf_accepts : (Instr.add 143 .a s0F).wellFormed = true ∧ (Instr.nop 0 7).wellFormed = true := by decide +kernel
theorem test_wf_core : (Instr.add 144 .a s0F).wellFormed = false := by decide +kernel
theorem test_wf_slot : (Instr.nop 0 0).wellFormed = false ∧ (Instr.nop 0 8).wellFormed = false := by decide +kernel
theorem test_wf_channel : (Instr.dmaTransferComplete 0 8).wellFormed = false := by decide +kernel
theorem test_wf_field : (Instr.proofLate 8).wellFormed = false := by decide +kernel
theorem test_wf_agent : (Instr.attCmdWrite 0 (.dma 0 8) 0 0).wellFormed = false := by decide +kernel
theorem test_wf_window : (Instr.attCmdWrite 0 .host 24 0).wellFormed = false ∧ (Instr.kvCmdWrite 0 .host 8 0).wellFormed = false := by
  decide +kernel
theorem test_wf_jobSlot : (Instr.memberVote 16).wellFormed = false := by decide +kernel
theorem test_wf_sequence : (Instr.fetchRetry 16384 0).wellFormed = false := by decide +kernel
theorem test_wf_row : (Instr.fetchRetry 0 65536).wellFormed = false := by decide +kernel
theorem test_wf_pages : (Instr.fetchComplete 0 0 0 [[0]]).wellFormed = false := by decide +kernel
theorem test_wf_lane : (Instr.ackTimer 48).wellFormed = false := by decide +kernel
theorem test_wf_packet : (Instr.wr 0 { emptyPacket with typ := 0x02, len := 1 }).wellFormed = false := by decide +kernel
theorem test_wf_word : (Instr.spCorrectionWriteBack 0 (2 ^ 21)).wellFormed = false := by decide +kernel
theorem test_wf_group : (Instr.arbitrationPromotion 0 2 256).wellFormed = false := by decide +kernel
theorem test_wf_controller : (Instr.refresh 32).wellFormed = false := by decide +kernel
theorem test_wf_block : (Instr.gdCorrectionWriteBack 0 (2 ^ 25)).wellFormed = false := by decide +kernel
theorem test_wf_faults : (Instr.blockRead 0 0 ⟨0, [(17, 1)], 0, []⟩).wellFormed = false := by decide +kernel
theorem test_wf_span : (Instr.blockWrite 0 0 255 [0, 0] ⟨0, [], 0, []⟩).wellFormed = false := by decide +kernel
theorem test_wf_deviceUnit : (Instr.writeCrcReplay 0 0 17 true).wellFormed = false := by decide +kernel
theorem test_wf_entry : (Instr.rangeReady 16).wellFormed = false := by decide +kernel
theorem test_wf_flit : (Instr.flitReceive 0 ⟨[], [], 0, false, false⟩).wellFormed = false := by decide +kernel
theorem test_wf_dictationSlot : (Instr.dictationAbandon 4 0 0).wellFormed = false := by decide +kernel
theorem test_wf_test : (Instr.dictationAbandon 0 64 0).wellFormed = false := by decide +kernel
theorem test_wf_testUnit : (Instr.dictationAbandon 0 0 192).wellFormed = false := by decide +kernel
theorem test_wf_clause : (Instr.clauseReset 256 .own).wellFormed = false := by decide +kernel
theorem test_wf_resetUnit : (Instr.baseDieIoReset 48 .own 5).wellFormed = false := by decide +kernel
theorem test_wf_die : (Instr.computeDieReset 2 .own).wellFormed = false := by decide +kernel
theorem test_wf_domain : (Instr.resetComplete 8 0).wellFormed = false := by decide +kernel
theorem test_wf_physicalCore : (Instr.coreRetirement 152).wellFormed = false := by decide +kernel
theorem test_wf_usable : (Instr.firmwareAccepted [] 0).wellFormed = false := by decide +kernel
theorem test_wf_queue : (Instr.sqDoorbell 64 0).wellFormed = false := by decide +kernel
theorem test_wf_size : (Instr.registerRead .host 0 3).wellFormed = false := by decide +kernel
theorem test_wf_temperatures : (Instr.thermalTick []).wellFormed = false := by decide +kernel
theorem test_wf_samples : (Instr.sensorSample ⟨0, 0, 0, 0, [], [], []⟩).wellFormed = false := by decide +kernel
theorem test_wf_item : (Instr.configurationWrite 4 0).wellFormed = false := by decide +kernel

/-! One step. -/

theorem test_stepIdlesHypotheses : State.reset.pending = [] ∧ State.reset.pcie.host = [] ∧ State.reset.cx.queue = [] ∧
    State.reset.cx.held = [] ∧ State.reset.cx.disabling = [] ∧ openingIn State.reset = none ∧ State.reset.kv.queue = [] ∧
    (List.range 48).all (fun i => !straysIn State.reset i) = true := by decide +kernel
theorem test_stepIdles :
    let s := put R.MGT_TIME_SET 1 0 0 State.reset
    let z : State := { s with mgt := { s.mgt with time := 0, slewCycles := 3, slewNs := -10000 } }
    s.pending = [] ∧ s.pcie.host = [] ∧ (stepped s).mgt.time = s.mgt.time + 5000000 ∧ (stepped z).mgt.time = 4950000 ∧
      (stepped z).mgt.slewCycles = 2 ∧ (stepped State.reset).mgt = State.reset.mgt := by decide +kernel

/-- The hypotheses of `StepKeepsCanonical` and `LogOnlyGrows`: a state in canonical form, and a step from it. -/
theorem test_canonicalState : Canonical { State.reset with pending := [.faultInterrupt] } ∧
    ∃ t, step { State.reset with pending := [.faultInterrupt] } = .next t :=
  ⟨by constructor <;> decide +kernel, _, rfl⟩

/-! Scalar slots. The operands: s1 = -7, s2 = 3. -/

/-- The running context of core 143 with two scalar registers set. -/
def two (x y : Word) : State :=
  withS (withS State.reset (here State.reset 143) 1 x) (here State.reset 143) 2 y

/-- A scalar slot on s1 and s2 that writes s63. -/
def rrF : ScalarF := { s0F with rd := 63, rs1 := 1, rs2 := 2 }

/-- What s63 holds after a command. -/
def s63 (i : Instr) (s : State) : Word := sOf (after i s) 143 63

theorem test_scalarHypotheses : takesSlot (two 0 0) 143 = true ∧ holds (two 0 0) 143 rrF.pred rrF.pneg = true ∧
    holds (two 0 0) 143 1 false = false ∧ here State.reset 143 = 143 * 16 := by decide +kernel

theorem test_add_sub : s63 (.add 143 .a rrF) (two (-7) 3) = -4 ∧ s63 (.sub 143 .b rrF) (two (-7) 3) = -10 ∧
    s63 (.mul 143 .a rrF) (two (-7) 3) = -21 ∧ s63 (.mulhs 143 .a rrF) (two (-7) 3) = -1 ∧
    s63 (.mulhu 143 .a rrF) (two (-7) 3) = 2 := by decide +kernel
theorem test_bitwise : s63 (.andOp 143 .a rrF) (two 12 10) = 8 ∧ s63 (.orOp 143 .a rrF) (two 12 10) = 14 ∧
    s63 (.xorOp 143 .a rrF) (two 12 10) = 6 := by decide +kernel
theorem test_shifts : s63 (.shl 143 .a rrF) (two 5 65) = 10 ∧ s63 (.shr 143 .a rrF) (two (-1) 60) = 15 ∧
    s63 (.sar 143 .a rrF) (two (-16) 66) = -4 ∧ s63 (.rotl 143 .a rrF) (two 0x8000000000000001 4) = 24 ∧
    s63 (.rotl 143 .a rrF) (two 9 64) = 9 := by decide +kernel
theorem test_minima : s63 (.mins 143 .a rrF) (two (-7) 3) = -7 ∧ s63 (.maxs 143 .a rrF) (two (-7) 3) = 3 ∧
    s63 (.minu 143 .a rrF) (two (-7) 3) = 3 ∧ s63 (.maxu 143 .a rrF) (two (-7) 3) = -7 := by decide +kernel
theorem test_counts : s63 (.clz 143 .a rrF) (two 0 0) = 64 ∧ s63 (.clz 143 .a rrF) (two 1 0) = 63 ∧ s63 (.clz 143 .a rrF) (two (-1) 0) = 0 ∧
    s63 (.popc 143 .a rrF) (two (-7) 0) = 62 := by decide +kernel
theorem test_immediates : s63 (.li 143 .a { rrF with imm := -2 }) (two 0 0) = -2 ∧
    s63 (.lih 143 .a { rrF with imm := 5 }) (withS (two 0 0) (143 * 16) 63 (-1)) = 0x5FFFFFFFF ∧
    s63 (.add 143 .a { rrF with immsel := true, imm := -1 }) (two 0 0) = -1 := by decide +kernel
theorem test_sel : s63 (.sel 143 .a rrF) (two 4 9) = 4 ∧ s63 (.sel 143 .a { rrF with pneg := true }) (two 4 9) = 9 := by decide +kernel
theorem test_zeroRegister : after (.add 143 .a { rrF with rd := 0 }) (two 4 9) = two 4 9 := by decide +kernel
theorem test_comparisons :
    let p (i : Instr) : Bool := (pOf (after i (two (-7) 3)) 143 7) == BitVec.allOnes 256
    let n (i : Instr) : Bool := (pOf (after i (two (-7) 3)) 143 7) == 0
    let f : ScalarF := { rrF with rd := 63 }
    n (.cmpeq 143 .a f) && p (.cmpne 143 .a f) && p (.cmplts 143 .a f) && n (.cmpltu 143 .a f) && p (.cmples 143 .a f) &&
      n (.cmpleu 143 .a f) = true := by decide +kernel
theorem test_divide : s63 (.divs 143 .a rrF) (two (-7) 3) = -2 ∧ s63 (.rems 143 .a rrF) (two (-7) 3) = -1 ∧
    s63 (.divu 143 .a rrF) (two 7 3) = 2 ∧ s63 (.remu 143 .a rrF) (two 7 3) = 1 ∧
    s63 (.divs 143 .a rrF) (two 0x8000000000000000 (-1)) = 0x8000000000000000 := by decide +kernel
theorem test_divideByZero : after (.rems 143 .a rrF) (two 7 0) = withField (withS (two 7 0) (143 * 16) 63 7) R.CORE_CTX_DIVZ 1 143 0 ∧
    after (.divu 143 .a rrF) (two 7 0) = withField (two 7 0) R.CORE_CTX_DIVZ 1 143 0 := by decide +kernel
/-- The codes of 1, 2, 3 and -1 in W32, by R167: one is `w32One`'s code. -/
theorem test_w32 :
    let c (v : Int) : Word := (toW32 (.num v 0)).1.zeroExtend 64
    s63 (.fadd 143 .a rrF) (two (c 1) (c 2)) = c 3 ∧ s63 (.fsub 143 .a rrF) (two (c 1) (c 2)) = c (-1) ∧
      s63 (.fmul 143 .a rrF) (two (c 2) (c 3)) = c 6 ∧ s63 (.fmin 143 .a rrF) (two (c 1) (c 2)) = c 1 ∧
      s63 (.fmax 143 .a rrF) (two (c 1) (c 2)) = c 2 ∧ s63 (.fcvti 143 .a rrF) (two (c (-5)) 0) = -5 ∧
      s63 (.fcvtf 143 .a rrF) (two (-5) 0) = c (-5) := by decide +kernel
theorem test_w32Comparisons :
    let c (v : Int) : Word := (toW32 (.num v 0)).1.zeroExtend 64
    pOf (after (.fcmplt 143 .a rrF) (two (c (-1)) (c 2))) 143 7 = BitVec.allOnes 256 ∧
      pOf (after (.fcmpeq 143 .a rrF) (two (c (-1)) (c 2))) 143 7 = 0 := by decide +kernel
theorem test_rdspec : s63 (.rdspec 143 .a { rrF with imm := 1 }) State.reset = 143 ∧
    (after (.rdspec 143 .a { rrF with imm := 6 }) State.reset).fresh = 1 ∧
    fieldIn (after (.rdspec 143 .a { rrF with imm := 5 }) State.reset) R.CORE_TRAP0_CAUSE 143 0 = 1 := by decide +kernel
theorem test_suppressed : after (.mul 143 .a { rrF with pneg := true }) (two 2 3) = two 2 3 ∧ after (.nop 143 7) (two 2 3) = two 2 3 ∧
    after (.cmplts 143 .a { rrF with pneg := true }) (two 2 3) = two 2 3 := by decide +kernel

/-! Address/move slots and DMA. -/

/-- A slot that names a[1] and s[5], 8 bytes. -/
def adF : AddrF := ⟨1, 5, 0, false, 3, 0, false, false, 0⟩

theorem test_addressHypotheses :
    let s := atA 1 (own 24) world
    takesSlot s 143 = true ∧ holds s 143 0 false = true ∧ eaIn s 143 adF < 2 ^ 62 ∧ ownAddrIn s 143 (eaIn s 143 adF) = some 24 ∧
      spanAllowedIn s 143 0 24 8 = true ∧ spanAllowedIn s 143 0 0x7FFF8 16 = false ∧ spTurnIn s 143 1 = true ∧
      nothingAhead s 143 = true := by decide +kernel

theorem test_aadd_afroms_atos :
    let s := atA 1 100 (atS 5 7 world)
    after (.aadd 143 { adF with offset := -1 }) s = atA 5 99 s ∧ after (.afroms 143 { adF with offset := 2 }) s = atA 1 9 s ∧
      after (.atos 143 adF) s = atS 5 100 s ∧ after (.atos 143 { adF with reg := 0 }) s = s := by decide +kernel

theorem test_addressTrap :
    let s := atA 1 (BitVec.ofNat 64 (2 ^ 62)) world
    let t := after (.sta 143 adF) s
    2 ^ 62 ≤ eaIn s 143 adF ∧ FMap.wf resetValue s.regs = true ∧ ctxIdIn s 143 0 = 3 * 256 + 1 ∧
      fieldIn t R.CORE_CTX_CSTATE 143 0 = 3 ∧ fieldIn t R.CORE_TRAP0_VALID 143 0 = 1 ∧ fieldIn t R.CORE_TRAP0_CAUSE 143 0 = 6 ∧
      fieldIn t R.CORE_TRAP0_SLOT 143 0 = 3 ∧ fieldIn t R.CORE_TRAP2_DETAIL 143 0 = 2 ^ 62 ∧ t.aregs = s.aregs ∧ t.spad = s.spad := by
  decide +kernel

theorem test_scratchpadReadsBack :
    let bs : List Byte := leBytes 16 (2 ^ 127 + 5)
    FMap.wf zeroByte State.reset.spad = true ∧ fieldIn State.reset R.SP_FLIPC_ARMED 143 0 = 0 ∧
      (given State.reset (do
        let _ ← spWrite 143 (2 ^ 24 - 16) bs
        spRead 143 (2 ^ 24 - 16) 16)).toOption = some (some bs, []) := by decide +kernel

/-- An atomic on a word that holds 10, with s5 = -3 or s6:s7. -/
def atomicOn (c : Nat → AddrF → Instr) (reg : BitVec 6) (x y : Word) : Word × Word :=
  let s := atA 1 (own 24) (atS 6 x (atS 7 y (left world (spWrite 143 24 (leBytes 8 10)))))
  let t := after (c 143 { adF with reg }) s
  (sOf t 143 reg.toNat, sOf (after (.ld 143 { adF with reg := 9 }) t) 143 9)

theorem test_atomicHypotheses :
    let s := atA 1 (own 24) (left world (spWrite 143 24 (leBytes 8 10)))
    eaIn s 143 adF % 8 = 0 ∧ eaIn s 143 adF / 2 ^ 48 = chipIn s ∧ storesOutIn s 143 0 true = false ∧
      (given s (localAtomic (soleAt s 143 3) (eaIn s 143 adF % 2 ^ 48) 6 7 0 0)).toOption = some (0, 10) := by decide +kernel

theorem test_dmaStarts :
    let s := atA 1 (own 0) (atA 5 (own 64) world)
    let f : AddrF := { adF with scope := 7, offset := 8 }
    let t := after (.dma 143 f) s
    (FMap.get dma0 s.dmas (143 * 8 + 7)).state = 0 ∧ FMap.get dma0 t.dmas (143 * 8 + 7) = {
      state := 1, slot := 0, number := 1, src := (own 0).toNat, dst := (own 64).toNat, len := 8, kind := 0 } ∧
      t = { s with dmas := t.dmas, cores := t.cores, ctxs := t.ctxs } := by decide +kernel

/-- An access of 8 bytes at the banks, not through the gather buffer. -/
def volF : AddrF := { adF with vol := true }

theorem test_loadReads :
    let s := atA 1 (own 24) world
    (given s (loadAt (soleAt s 143 3) volF (eaIn s 143 volF) 8)).toOption = some (List.replicate 8 0) := by decide +kernel
theorem test_ld : sOf (after (.ld 143 volF) (atS 5 1 (atA 1 (own 24) world))) 143 5 = 0 := by decide +kernel
theorem test_lda : aOf (after (.lda 143 { volF with reg := 1, postinc := true, offset := 8 }) (atA 1 (own 24) world)) 143 1 = 0 := by
  decide +kernel
theorem test_storeWrites :
    let s := atA 1 (own 24) world
    (given s (storeAt (soleAt s 143 3) { adF with scope := 1 } (eaIn s 143 adF) (leBytes 8 1))).isOk = true := by decide +kernel
theorem test_st_postinc :
    aOf (after (.st 143 { adF with scope := 1, postinc := true, offset := 8 }) (atA 1 (own 24) world)) 143 1 = own 32 := by decide +kernel

/-- The line of the scratchpad at 0 in the gather buffer. -/
def gathered : State :=
  { world with cores := FMap.set core0 world.cores 143 ({ gather := [⟨0, List.replicate 1024 0, 0, 0⟩] } : CoreSt) }

theorem test_ownStoreThenLoad :
    let s := atA 1 (own 24) (atS 5 0x1122334455667788 gathered)
    (FMap.wf core0 s.cores && ((FMap.get core0 s.cores 143).gather.all (fun e => e.bytes.length == 1024))) = true ∧
      takesSlot (after (.st 143 adF) s) 143 = true ∧ holds (after (.st 143 adF) s) 143 0 false = true ∧
      ownAddrIn (after (.st 143 adF) s) 143 (eaIn (after (.st 143 adF) s) 143 adF) = some 24 := by decide +kernel
theorem test_ownStoreThenLoad_allowed :
    let s := atA 1 (own 24) (atS 5 0x1122334455667788 gathered)
    spTurnIn s 143 1 = true ∧ spTurnIn (after (.st 143 adF) s) 143 1 = true ∧ spanAllowedIn (after (.st 143 adF) s) 143 0 24 8 = true ∧ FMap.wf zeroWord (after (.st 143 adF) s).sregs = true ∧
      fieldIn (after (.st 143 adF) s) R.CORE_STATUS_SLOT 143 0 = 0 := by decide +kernel

theorem test_vectorLoad :
    let s := atA 1 (own 1024) world
    ownAddrIn s 143 (eaIn s 143 adF) = some 1024 ∧ (allowedIn s 143 0 1024).any (fun r => !r.twoDim) = true ∧
      spanAllowedIn s 143 0 1024 1024 = true ∧
      (given s (readOwnWords (soleAt s 143 3) (eaIn s 143 adF) (spanWords 1024 1024))).isOk = true := by decide +kernel
theorem test_vectorStore : (given world (spWrite 143 1024 ((vAll world 143 5).flatMap (fun e => leBytes 4 e.toNat)))).isOk = true := by
  decide +kernel
theorem test_rowAndColumn :
    let s := atA 1 (own 0x40000) world
    (allowedIn s 143 0 0x40000).any (fun r => r.twoDim && (lineWords r 0x40000 false).isSome && (lineWords r 0x40000 true).isSome) = true ∧
      lineWords ⟨3, 1, false, true, 4, 4, 128, 3⟩ (0x40000 + 8) false = none := by decide +kernel
theorem test_rowWords :
    let s := atA 1 (own 0x40000) world
    (given s (readOwnWords (soleAt s 143 3) (eaIn s 143 adF) ((List.range 128).map (fun k => 4 * 8192 + k)))).isOk = true := by decide +kernel

theorem test_atomicCompletes :
    let s := atA 1 (own 24) world
    takesSlot s 143 = true ∧ holds s 143 0 false = true ∧ eaIn s 143 adF % 8 = 0 ∧ eaIn s 143 adF / 2 ^ 48 = chipIn s ∧
      ownAddrIn s 143 (eaIn s 143 adF) = some 24 ∧ spanAllowedIn s 143 0 24 8 = true ∧
      (match windowOf (eaIn s 143 adF % 2 ^ 48) with | .scratchpad m x => m == 143 && x == 24 | _ => false) = true ∧
      boundIn s 143 = true ∧ fieldIn s R.DEV_MOOD_DEBUG 0 0 = 0 ∧ s.rst.fenced.contains (fieldIn s R.CORE_STATUS_PCORE 143 0) = false ∧
      fieldIn s R.SP_FLIPC_ARMED 143 0 = 0 ∧ (FMap.get core0 s.cores 143).gather.any (fun e => e.line == 0) = false ∧
      FMap.wf zeroByte s.spad = true ∧ FMap.wf spctl0 s.spctls = true ∧ (given s (spReadWord 143 3)).toOption = some (some 0, []) := by
  decide +kernel
theorem test_atomicCompletes_still : left (atA 1 (own 24) world) (spReadWord 143 3) = atA 1 (own 24) world := by decide +kernel

theorem test_at : (atomicOn .atAdd 6 (-3) 0).1 = 10 := by decide +kernel

theorem test_dmaTransfer :
    let s := atA 1 (own 0) (atA 5 (own 64) world)
    let t := after (.dma 143 { adF with offset := 8 }) s
    let d := FMap.get dma0 t.dmas (143 * 8)
    d.state = 1 ∧ d.kind = 0 ∧ d.outstanding = 0 ∧ blockTransfer d = false ∧ pieceOf d = d.len ∧ FMap.wf dma0 t.dmas = true ∧
      (match windowOf (d.src % 2 ^ 48) with | .scratchpad k a => k == 143 && a == 0 | _ => false) = true := by decide +kernel
theorem test_dmaTransferMoves :
    let s := atA 1 (own 0) (atA 5 (own 64) world)
    let t := after (.dma 143 { adF with offset := 8 }) s
    let d := FMap.get dma0 t.dmas (143 * 8)
    let m : M t (List Rec × Option (Nat × Nat)) := do
      let (bs, ev, bad) ← readPiece 143 0 (d.src % 2 ^ 48) d.len
      dmaStore 143 0 d.dst bs
      return (ev, bad)
    d.sent = false ∧ d.failed = none ∧ d.pos = 0 ∧ d.len = 8 ∧ d.src / 2 ^ 48 = chipIn t ∧ d.dst / 2 ^ 48 = chipIn t ∧
      (given t m).toOption = some ([], none) ∧ FMap.get dma0 (left t m).dmas (143 * 8) = d := by decide +kernel
theorem test_dmaTransferEnds :
    let z : Dma := { state := 1, slot := 0, number := 1, src := 0, dst := 0, len := 8, sent := true }
    (FMap.get dma0 (after (.dmaTransferComplete 143 0) { world with dmas := FMap.set dma0 [] (143 * 8) z }).dmas (143 * 8)).state = 0 ∧
      (FMap.get dma0 (after (.dmaTransferComplete 143 0)
        { world with dmas := FMap.set dma0 [] (143 * 8) { z with failed := some 5 } }).dmas (143 * 8)).state = 2 := by decide +kernel

/-! Vector slots. -/

/-- v63 := op (v1, v2) under p1. -/
def vF : VecF := ⟨63, 1, 2, 3, 1, false, 0, false, 0⟩

theorem test_vectorHypotheses : takesArraySlot few 143 = true ∧ (maskOf few 143 vF).getLsbD 0 = false ∧
    (maskOf few 143 { vF with pneg := true }).getLsbD 255 = true := by decide +kernel
theorem test_vadd_lane : vOf (after (.vaddi 143 .a { vF with pred := 0 }) few) 143 63 2 = 7 ∧
    vOf (after (.vaddi 143 .a vF) few) 143 63 2 = 0 := by decide +kernel
theorem test_vcmp_lane : (pOf (after (.vcmplti 143 .b { vF with pred := 0 }) few) 143 7).getLsbD 0 = true ∧
    (pOf (after (.vcmplti 143 .b { vF with pred := 0 }) few) 143 7).getLsbD 2 = false := by decide +kernel
theorem test_vredaddi : vOf (after (.vredaddi 143 .a { vF with pred := 0 }) few) 143 63 0 = 2 := by decide +kernel
theorem test_vext : sOf (after (.vext 143 .a { vF with pred := 0, imm := 258 }) few) 143 63 = 5 := by decide +kernel
theorem test_vins : vOf (after (.vins 143 .a { vF with pred := 0, imm := 255, vs1 := 0 }) few) 143 63 255 = 0 := by decide +kernel
theorem test_formatEntry : (fmtEntryIn few 143 0).isSome = true ∧ (fmtEntryIn few 143 3).isSome = true ∧
    (fmtEntryIn few 143 4).isSome = false := by decide +kernel
theorem test_vcvt_copies : vOf (after (.vcvt 143 .a { vF with pred := 0, imm := 1 }) few) 143 63 2 = 5 := by decide +kernel
theorem test_vcvt_int : vOf (after (.vcvt 143 .a { vF with pred := 0, imm := 4 }) few) 143 63 2 = 0 := by decide +kernel

/-! The matrix array. -/

/-- One row, one column, K8 entries, bank B, accumulator row 5. -/
def mF : MatF := ⟨true, 5, 3, 2, 0, 1, 1, false, 1, 1⟩

theorem test_matrixHypotheses : takesArraySlot (atA 1 (own 0) world) 143 = true ∧ joinIn world 143 = none ∧
    (fmtEntryIn world 143 2).any (fun x => x.2.array && !x.2.block && !wideFmt x.2) = true ∧
    spanAllowedIn world 143 0 0 (Fmt.storage .k8 256) = true ∧ FMap.wf zeroLane world.banks = true := by decide +kernel
theorem test_mldr : FMap.get zeroLane (after (.mldr 143 mF) few).banks (((143 * 16 * 2 + 1) * 128 + 5) * 256) = 0 ∧
    (FMap.get rowDesc0 (after (.mldr 143 mF) few).rowDescs ((143 * 16 * 2 + 1) * 128 + 5)).fmt = 8 := by decide +kernel
theorem test_mldsp_reads : (given world (rdPad (soleAt world 143 6) 0 (Fmt.storage .k8 256))).isOk = true := by decide +kernel
theorem test_mswap : fieldIn (after (.mswap 143 mF) world) R.MX_STAT_ACTIVE 143 0 = 1 ∧
    (FMap.get ctx0 (after (.mswap 143 mF) world).ctxs (143 * 16)).bankB = true := by decide +kernel
theorem test_accumulators : (given world (takeAcc 143 0 127 false)).isOk = true ∧ (given world (statPart 143 0 1 127)).isOk = true ∧
    (left world (takeAcc 143 0 127 true)) = world ∧ left world (statPart 143 0 1 0) = world := by decide +kernel
theorem test_mstrsp_reads : (given world (rdPad (soleAt world 143 6) 0x7FF80 (Fmt.storage .k8 128))).isOk = true := by decide +kernel
theorem test_drain : spTurnIn world 143 2 = true ∧ spanAllowedIn world 143 0 64 (Fmt.storage .k8 256) = true ∧ FMap.wf zeroByte world.spad = true ∧
    fieldIn world R.SP_FLIPC_ARMED 143 0 = 0 := by decide +kernel

theorem test_drainRows :
    let s := atA 1 (own 64) world
    (fmtEntryIn s 143 0).any (fun x => decide (x.2 = .w32)) = true ∧ FMap.wf zeroLane s.vregs = true ∧ FMap.wf core0 s.cores = true ∧
      FMap.wf resetValue s.regs = true ∧ ((List.range 2).all (fun r =>
        ownAddrIn s 143 (((aOf s 143 1).toNat + r * 256) % 2 ^ 64) == some (64 + r * 256) && spanAllowedIn s 143 0 (64 + r * 256) 256)) = true ∧
      Fmt.storage .k8 256 = 256 := by decide +kernel

theorem test_rampDown :
    let s := put R.MX_STAT_ENABLED 2 143 0 world
    fieldIn (after (.rampDown 143) s) R.MX_STAT_ENABLED 143 0 = 1 ∧ fieldIn (after (.rampDown 143) s) R.MX_STAT_RAMPDOWN 143 0 = 1 ∧
      fieldIn (after (.rampDown 143) (put R.MX_STAT_ENABLED 1 143 0 world)) R.MX_STAT_RAMPDOWN 143 0 = 0 := by decide +kernel

/-- Core 0 at member (0, 0) of a join of two rows waits in a sentence whose matrix slot drains one row to W32. -/
def joined : State :=
  let f : MatF := { mF with fmt := 0 }
  let q : Sentence := ⟨BitVec.ofNat 512 (2 + 2 ^ 18 + matBits 0x06 f * 2 ^ 384), 0, 6, 64, false, false⟩
  { put R.CORE_CTX_CSTATE 1 0 0 (put R.CJ_JOBA_STATE 2 0 0 world) with
    stream := some { tiny with joins := [⟨0, 3, 2, 1, 0, false⟩] }
    jobs := FMap.set job0 [] 0 { isOpen := true }
    ctxs := FMap.set ctx0 [] 0 { job := some 0, wait := .join, sentence := some q } }

theorem test_joinHypotheses :
    let f : MatF := { mF with fmt := 0 }
    worksIn joined 0 = true ∧ underWayIn joined 0 0 = true ∧ attRunsIn joined 0 0 = false ∧
      ((FMap.get ctx0 joined.ctxs (here joined 0)).sentence.any (fun q => q.slot == 6 && bitN q.raw.toNat 18 &&
        slotBits q.raw 6 == matBits 0x06 f)) = true ∧ matOf (matBits 0x06 f) = f ∧ (joinIn joined 0).any (fun j => j.2.1 == 0) = true := by
  decide +kernel
theorem test_joinWaits :
    let t := after (.joinReduce 0) joined
    (FMap.get ctx0 t.ctxs 0).wait = .join ∧ t.accs = joined.accs ∧ t.vregs = joined.vregs := by decide +kernel
theorem test_joinGoesOn :
    let q : Sentence := ⟨BitVec.ofNat 512 (2 + 2 ^ 18), 0, 6, 64, false, false⟩
    let s : State := { joined with ctxs := FMap.set ctx0 [] 0 { job := some 0, wait := .join, sentence := some q } }
    (given s (do setF R.CORE_STATUS_WAITING 0 0; setF R.CORE_STATUS_WAIT_CJ 0 0; runSlots 0 0 8)).toOption = some true := by decide +kernel

theorem test_joinAdds :
    let f : MatF := { mF with fmt := 0 }
    let p : Partial := ⟨143, 0, 0, 5, List.replicate 257 0, 0, false, false⟩
    let s : State := { joined with partials := [p] }
    (joinIn s 0).any (fun j => j.1.rows == 2 && joinCoreIn s 0 j.1 1 j.2.2 == 143) = true ∧ f.count = 1 ∧ FMap.wf ctx0 s.ctxs = true ∧
      (fmtEntryIn s 0 f.fmt.toNat).any (fun x => decide (x.2 = .w32)) = true ∧ p.row = f.row.toNat ∧
      (reducePartials false [⟨5, List.replicate 257 0, 0, false, false⟩, ⟨5, p.accs, 0, false, false⟩]).isSome = true := by decide +kernel

/-! Sync slots, sentences and contexts. -/

/-- A sync slot on s1 with scope 3, ID 5, IMM 2. -/
def yF : SyncF := ⟨0, false, 1, 3, 5, 2⟩

theorem test_syncHypotheses : takesSlot running 143 = true ∧ holds running 143 0 false = true ∧ holds running 143 0 true = false ∧
    storesOutIn running 143 0 false = false ∧ FMap.wf ctx0 running.ctxs = true := by decide +kernel
theorem test_br_bri : (FMap.get ctx0 (after (.br 143 { yF with imm := -2 }) running).ctxs (143 * 16)).saddr = 576 ∧
    (FMap.get ctx0 (after (.bri 143 yF) (atS 1 96 running)).ctxs (143 * 16)).saddr = 96 := by decide +kernel
theorem test_call : sOf (after (.call 143 yF) running) 143 1 = 704 ∧
    (FMap.get ctx0 (after (.call 143 yF) running).ctxs (143 * 16)).saddr = 704 := by decide +kernel
theorem test_loop : sOf (after (.loopOp 143 yF) (atS 1 1 running)) 143 1 = 0 ∧
    (FMap.get ctx0 (after (.loopOp 143 yF) (atS 1 1 running)).ctxs (143 * 16)).saddr = 640 ∧
    (FMap.get ctx0 (after (.loopOp 143 yF) (atS 1 0 running)).ctxs (143 * 16)).saddr = 704 := by decide +kernel
theorem test_yield : (FMap.get ctx0 (after (.yieldOp 143 yF) running).ctxs (143 * 16)).yielded = true := by decide +kernel
theorem test_fences : (FMap.get ctx0 (after (.fenceRel 143 yF) running).ctxs (143 * 16)).span = 3 ∧
    (FMap.get ctx0 (after (.fenceAr 143 yF) running).ctxs (143 * 16)).seen = [] ∧
    (FMap.get ctx0 (after (.fenceAcq 143 yF) running).ctxs (143 * 16)).span = 0 := by decide +kernel

/-- Core 0 waits at barrier 5. -/
def atBarrier : State :=
  { running with ctxs := FMap.set ctx0 (FMap.set ctx0 [] 0 { job := some 0, wait := .barrier 5 }) (143 * 16) { job := some 0, saddr := 640 } }
theorem test_barrier : clauseOfIn atBarrier 143 = some ⟨3, false, 2, [0, 143]⟩ ∧ cstateIn atBarrier 0 0 = 0 ∧
    (FMap.get ctx0 (after (.bar 143 yF) atBarrier).ctxs 0).wait = .none ∧
    (FMap.get ctx0 (after (.bar 143 yF) atBarrier).ctxs (143 * 16)).span = 3 := by decide +kernel
/-- A finished barrier of operation 5 in the job's table at 0x100: block 1 of controller 0 holds KIND 1 and LOCAL 1, with its code. -/
def finished : State :=
  let k := 9126805504
  let m := [(160, 1), (163, 1), (256, 213), (257, 91), (258, 159), (259, 24), (260, 23), (261, 144), (262, 97), (263, 214), (264, 126),
    (265, 208), (266, 216), (267, 106), (268, 160), (269, 57), (270, 59), (271, 135)]
  { running with colls := [⟨0, 5, 0, [], [], [], [], [], true⟩], gddr := m.map (fun p => (k + p.1, BitVec.ofNat 8 p.2)) }
theorem test_conjunction : peersLostIn running (soleAt running 143 7) = false ∧ (FMap.get ctx0 running.ctxs (143 * 16)).job = some 0 ∧
    parseOp (leBytes 4 (1 + 2 ^ 24) ++ List.replicate 28 0) 1 = some ⟨1, 0, 0, 1, 0, 0, 0⟩ := by decide +kernel
theorem test_operationRead : (given finished (readOp 0 5)).toOption = some (0, some ⟨1, 0, 0, 1, 0, 0, 0⟩) := by decide +kernel
theorem test_dmawait :
    let s := { running with cache := [⟨143, 1, 2, [], 0, []⟩, ⟨5, 1, 2, [], 0, []⟩] }
    let t := after (.dmawait 143 yF) s
    (FMap.get dma0 s.dmas (143 * 8 + 2)).state = 0 ∧ t = { s with ctxs := t.ctxs, cache := [⟨5, 1, 2, [], 0, []⟩] } ∧
      FMap.get ctx0 t.ctxs (143 * 16) = FMap.get ctx0 s.ctxs (143 * 16) := by decide +kernel
theorem test_trap :
    let t := after (.trap 143 { yF with imm := 0x12345 }) running
    FMap.wf resetValue running.regs = true ∧ ctxIdIn running 143 0 = 3 * 256 + 1 ∧ fieldIn t R.CORE_CTX_CSTATE 143 0 = 3 ∧
      fieldIn t R.CORE_STATUS_RUN 143 0 = 3 ∧ fieldIn t R.CORE_TRAP0_CAUSE 143 0 = 0x10 ∧ fieldIn t R.CORE_TRAP0_CTX_ID 143 0 = 769 ∧
      fieldIn t R.CORE_TRAP1_SADDR 143 0 = 640 ∧ fieldIn t R.CORE_TRAP2_DETAIL 143 0 = 0x2345 ∧ t.dmas = running.dmas := by decide +kernel
theorem test_dmaTrap :
    let s := { running with dmas := FMap.set dma0 [] (143 * 8 + 2) { state := 2, slot := 0, number := 4, failed := some 0x1234 } }
    let t := after (.dmawait 143 yF) s
    (FMap.get ctx0 s.ctxs (here s 143)).lastDma.any (fun p => p.1 == 2 && p.2 == 4) = true ∧ fieldIn t R.CORE_TRAP0_CAUSE 143 0 = 9 ∧
      fieldIn t R.CORE_TRAP2_DETAIL 143 0 = 0x1234 ∧ t.dmas = FMap.set dma0 [] (143 * 8 + 2) { state := 0, slot := 0, number := 4 } := by
  decide +kernel

/-- SlotBitsTakeEffect: an operation of each slot, the code 0 and a code the tables do not list. -/
theorem test_slotCodes : (scalarOp (s0 := world) 1).isSome = true ∧ (addrOp (s0 := world) 1).isSome = true ∧
    (vecOp (s0 := world) 1).isSome = true ∧ (matOp (s0 := world) 1).isSome = true ∧ (syncOp (s0 := world) 1).isSome = true ∧
    (scalarOp (s0 := world) 0).isNone = true ∧ (scalarOp (s0 := world) 255).isNone = true ∧ (soleAt world 143 7).n = 7 := by decide +kernel

/-- SlotFieldsReadBack: ADD s63, s1, s2 under p3 inverted, written out by R102. -/
theorem test_slotBits : scalarBits 0x01 ⟨63, 1, 2, 3, true, true, 0x80000001⟩ = scalarBits 0x01 ⟨63, 1, 2, 3, true, true, 0x80000001⟩ % 2 ^ 64 ∧
    scalarOf (scalarBits 0x01 ⟨63, 1, 2, 3, true, true, 0x80000001⟩) = ⟨63, 1, 2, 3, true, true, 0x80000001⟩ := by decide +kernel

/-- What SentenceRetires says of a fetch. -/
def fetches (s : State) : M s (Option (BitVec 512)) := do
  modCore 143 (fun c => { c with stepping := false })
  modCtx 143 0 (fun c => { c with yielded := false })
  setF R.CORE_STATUS_RUN 1 143
  fetchSentence 143 0
theorem test_sentenceHypotheses : worksIn running 143 = true ∧ runnableIn running 143 0 = true ∧ switchDueIn running 143 0 = false ∧
    haltedIn running 143 = false ∧ fieldIn running R.CORE_CTX_QUOTA_LEFT 143 0 = 9 := by decide +kernel
theorem test_sentenceFetched : (given running (fetches running)).toOption = some (some 0) := by decide +kernel

/-- Two runnable contexts on core 143, the first out of quota. -/
def switching : State :=
  { put R.CORE_CTX_CSTATE 1 143 1 (put R.CORE_CTX_QUOTA_LEFT 0 143 0 running) with
    ctxs := FMap.set ctx0 (FMap.set ctx0 [] (143 * 16) { job := some 0, saddr := 640 }) (143 * 16 + 1) { job := some 0, saddr := 64 } }
theorem test_switchHypotheses : worksIn switching 143 = true ∧ switchDueIn switching 143 0 = true ∧ otherIn switching 143 0 = some 1 ∧
    attRunsIn switching 143 0 = false ∧ FMap.wf ctx0 switching.ctxs = true := by decide +kernel

theorem test_contextDone :
    let s : State := { running with ctxs := FMap.set ctx0 [] (143 * 16) { job := some 0, ended := true } }
    let t := after (.contextDone 143) s
    (List.range 16).find? (fun k => (FMap.get ctx0 s.ctxs (ctxKey 143 k)).ended && channelsDoneIn s 143 k) = some 0 ∧
      haltedChannelIn s 143 0 = none ∧ (given s (mergeFlags 143 0)).isOk = true ∧ fieldIn t R.CORE_CTX_CSTATE 143 0 = 2 ∧ (FMap.get ctx0 t.ctxs (143 * 16)).ended = false ∧
      otherIn t 143 0 = none ∧ fieldIn t R.CORE_STATUS_RUN 143 0 = 0 ∧ t.accs = s.accs := by decide +kernel

/-! Proof-reading and the attention engine. -/

/-- A proof record of field 2 in job slot 0, whose attempt is open. -/
def proofed : State :=
  { running with
    proofs := [⟨2, 40, 0, 0, 0, 0x100, 41, 1⟩], ctxs := FMap.set ctx0 (FMap.set ctx0 [] (40 * 16) { job := some 0 }) (143 * 16) { job := some 0 } }
theorem test_proofHypotheses : proofed.proofs.find? (fun p => p.field == 2) = some ⟨2, 40, 0, 0, 0, 0x100, 41, 1⟩ ∧
    (∀ e ∈ unsettledIn proofed 0, e.isBlock = false) ∧ FMap.wf job0 proofed.jobs = true ∧
    (FMap.get ctx0 proofed.ctxs (ctxKey 40 0)).job = some 0 ∧ (FMap.get job0 proofed.jobs 0).isOpen = true := by decide +kernel
theorem test_proofLate : after (.proofLate 2) proofed = withField { proofed with proofs := [] } R.INT_PROOF_LATE 1 := by decide +kernel

/-- The descriptor transfer of channel 7 of core 143 runs. -/
def describing : State :=
  { world with dmas := FMap.set dma0 [] (143 * 8 + 7) {
    state := 1, kind := 1, len := 192, slot := 1, src := (own 0).toNat, dst := 0xC00000000000 + R.ATT_CMD_DESC.addr 143 0 } }
theorem test_attCmdWrite :
    after (.attCmdWrite 143 (.dma 143 7) 22 9) describing =
        { describing with regs := FMap.set resetValue describing.regs (R.ATT_CMD_DESC.addr 143 22) 9 } ∧
      ((FMap.get core0 (after (.attCmdWrite 143 (.dma 143 7) 23 9) describing).cores 143).att.any (fun x => x.ch == 7 && x.slot == 1 &&
        x.desc == List.replicate 184 0 ++ leBytes 8 9)) = true ∧
      commandSource describing 143 (FMap.get dma0 describing.dmas (143 * 8 + 7)).src = true ∧
      after (.attCmdWrite 143 .host 0 9) describing = withField describing R.ATT_CNT_DISCARDED 1 143 := by decide +kernel
/-- An operation of all zeros at the head of the engine. -/
def attending : State :=
  { describing with cores := FMap.set core0 [] 143 { att := [⟨7, 1, List.replicate 192 0, false, 0, false, 5⟩] } }
theorem test_attentionRejects : underResetIn attending 143 = false ∧ (FMap.get core0 attending.cores 143).att.length = 1 ∧
    (match given attending (attChecked 143 1 (List.replicate 192 0)) with | .error (.code c) => decide (c < 256) | _ => false) = true := by
  decide +kernel
/-- An operation that has run, its count of empty rows in core 143's scratchpad. -/
def doneOp : AttOp := ⟨7, 1, List.replicate 120 0 ++ leBytes 8 (own 64).toNat ++ List.replicate 64 0, true, 3, false, 5⟩
theorem test_attentionComplete :
    let s : State := { attending with cores := FMap.set core0 [] 143 { att := [doneOp] } }
    (given s (modAtomic ((descOf doneOp.desc).empty % 2 ^ 48) (fun old => some (BitVec.ofNat 64 (min (old.toNat + doneOp.empty) (2 ^ 64 - 1)))))).toBool
      = true ∧ (FMap.get core0 s.cores 143).att = [doneOp] ∧ FMap.wf core0 s.cores = true := by decide +kernel

/-- A descriptor of one pad row over K8 operands in core 143's scratchpad: operation 1 or 2. -/
def padDesc (op : Nat) : List Byte :=
  let a (x : Nat) : List Byte := leBytes 8 (own x).toNat
  let z (n : Nat) : List Byte := List.replicate n 0
  leBytes 1 op ++ z 1 ++ leBytes 2 1 ++ leBytes 2 64 ++ z 2 ++ z 4 ++ leBytes 4 1 ++ leBytes 2 1 ++
    [2, 2, 2] ++ leBytes 1 (if op = 1 then 2 else 0) ++ [2] ++ leBytes 1 (if op = 2 then 2 else 0) ++ z 40 ++
    a 0 ++ a 1024 ++ a 2048 ++ a 3072 ++ a 64 ++ a 4096 ++ (if op = 1 then z 8 else a 128) ++ a 256 ++
    (if op = 1 then z 32 else a 5120 ++ a 6144 ++ a 7168 ++ a 8192) ++ z 32

/-- That operation at the head of the engine, its one token a pad. -/
def padded (op : Nat) : State :=
  let s := left describing (spWrite 143 0 (leBytes 8 0xFFFF))
  { s with cores := FMap.set core0 [] 143 { att := [⟨7, 1, padDesc op, false, 0, false, 5⟩] } }

theorem test_forwardPassRuns : fieldAt (padDesc 1) 0 1 = 1 ∧ (padDesc 1).length = 192 ∧
    (given (padded 1) (do let (d, i) ← attChecked 143 1 (padDesc 1); forwardPass 143 1 d i)).toOption = some ⟨0, false, false⟩ ∧
    (FMap.get core0 (padded 1).cores 143).inject = false := by decide +kernel
theorem test_backwardPassRuns :
    (given (padded 2) (do let (d, i) ← attChecked 143 1 (padDesc 2); backwardPass 143 1 d i)).toOption = some ⟨0, false, false⟩ := by decide +kernel

/-! The KV engine. -/

/-- The 64 bytes of a command: operation, sequence 16383, and the completion word at byte 8 of core 143's scratchpad. -/
def kvCmd (op : Nat) (rest : List (Nat × Nat × Nat)) : BitVec 512 :=
  BitVec.ofNat 512 (((2, 16383) :: (40, (own 8).toNat) :: (0, op) :: rest.map (fun p => (p.1, p.2.2))).foldl
    (fun a p => a + p.2 * 2 ^ (8 * p.1)) 0)

/-- OPEN: tokens of 64 (TSHIFT 6), one plane, at most 2^20 positions. -/
def openCmd : BitVec 512 := kvCmd 1 [(4, 2, 5), (9, 1, 6), (10, 1, 1), (12, 4, 2 ^ 20)]

/-- The engine with a pool, its tables at 0 of GDDR7. -/
def pooled : State := put R.KV_POOL_PAGES 16 0 0 world

/-- Sequence 16383 open. -/
def opened (q : Seq) : State := { pooled with seqs := FMap.set seq0 [] 16383 { q with isOpen := true } }

theorem test_kvHypotheses : kvServed pooled = true ∧ kvBusyIn pooled = false ∧ pooled.kv.queue = [] ∧ pooled.kv.serving = none ∧ pooled.kv.awaited = none ∧ fieldIn pooled R.KV_POOL_PAGES 0 0 = 16 ∧ kvBusyIn (opened {}) = false ∧
    (given pooled mapFull).toOption = some false ∧ kvFormOk (cmdBytes openCmd) = true ∧ fieldAt (cmdBytes openCmd) 2 2 = 16383 ∧
    kvFormOk (cmdBytes (kvCmd 2 [(12, 4, 7)])) = true ∧ kvFormOk (cmdBytes (kvCmd 3 [(12, 4, 7)])) = true ∧
    kvFormOk (cmdBytes (kvCmd 4 [])) = true ∧ kvFormOk (cmdBytes (kvCmd 4 [(12, 4, 7)])) = false := by decide +kernel
theorem test_completionWord : (given (opened {}) (moduleWrite (own 8).toNat (leBytes 8 KvResult.seqBusy))).isOk = true := by decide +kernel
theorem test_openPages :
    let q : Seq := { planes := 1, maxlen := 2 ^ 20, tshift := 6 }
    q.planes * kvPpp q ≤ 65536 ∧ (pooled.stream.any (fun x => x.policies.any (fun p => p.num == 0))) = true ∧
      (given world (do setF R.KV_STATUS_SEQS ((← getF R.KV_STATUS_SEQS) + 1); moduleWrite (own 8).toNat (leBytes 8 KvResult.ok))).isOk = true := by
  decide +kernel

/-- Job 5 open in slot 0, in tense 9. -/
def jobbed (s : State) : State :=
  { put R.CJ_JOBA_STATE 2 0 0 (put R.CJ_JOBA_JOB 5 0 0 (put R.CJ_JOBB_TENSE 9 0 0 s)) with jobs := FMap.set job0 [] 0 { isOpen := true, released := true } }

theorem test_excludeHypotheses : jobSlotIn (jobbed (opened { job := 5, held := true })) 5 = some 0 ∧
    seqTenseOpen (jobbed (opened { job := 5, held := true })) { job := 5, held := true } = true ∧
    seqBusy (jobbed (opened { job := 5, active := true })) { job := 5, active := true } = true ∧
    fieldIn (jobbed pooled) R.CJ_JOBB_TENSE 0 0 = 9 := by decide +kernel

/-- The 64-byte command transfer of channel 7 of core 143 runs. -/
def kvSending : State :=
  { world with dmas := FMap.set dma0 [] (143 * 8 + 7) {
    state := 1, kind := 2, len := 64, src := (own 64).toNat, dst := 0xC00000000000 + R.KV_CMD_CMD.addr 143 0 } }
theorem test_kvCmdWrite :
    commandSource kvSending 143 (FMap.get dma0 kvSending.dmas (143 * 8 + 7)).src = true ∧
    after (.kvCmdWrite 143 (.dma 143 7) 6 9) kvSending = { kvSending with regs := FMap.set resetValue [] (R.KV_CMD_CMD.addr 143 6) 9 } ∧
      after (.kvCmdWrite 143 .host 7 9) kvSending = withField kvSending R.KV_CNT1_DISCARDED 1 ∧
      (FMap.get dma0 (after (.kvCmdWrite 143 (.dma 143 7) 7 0) kvSending).dmas (143 * 8 + 7)).state = 0 := by decide +kernel

/-- Row 65535 of the sequence in flight. -/
def flying (r : Row) : State := { put R.HOST_LINK_UP 1 0 0 (opened {}) with rows := FMap.set row0 [] (16383 * 65536 + 65535) r, frames := FMap.set 0 [] 7 1 }
theorem test_spillComplete : openingIn (flying {}) = none ∧ (FMap.get seq0 (flying {}).seqs 16383).tier = none ∧ hostStatusIn (flying {}) 0 = 0 ∧ statusClassD (hostStatusIn (flying {}) 3) = true ∧ statusClassD (hostStatusIn (flying {}) 1) = false ∧
    seqBusy (flying {}) (FMap.get seq0 (flying {}).seqs 16383) = false ∧ (flying {}).kv.queue = [] ∧ jobSlotIn (flying {}) 0 = none ∧
    let r : Row := { st := .resident, frames := [7], slots := [3], flight := 1 }
    FMap.get row0 (after (.spillComplete 16383 65535 0) (flying r)).rows (16383 * 65536 + 65535) = { r with st := .spilled, frames := [], flight := 0 } ∧
      fieldIn (after (.spillComplete 16383 65535 0) (flying r)) R.KV_CNT0_SPILLS 0 0 = 1 ∧
      FMap.get row0 (after (.spillComplete 16383 65535 3) (flying r)).rows (16383 * 65536 + 65535) = { r with slots := [], flight := 0 } := by
  decide +kernel
theorem test_fetchRetry :
    let r : Row := { st := .spilled, slots := [3], reserved := [7], flight := 3 }
    FMap.get row0 (after (.fetchRetry 16383 65535) (flying r)).rows (16383 * 65536 + 65535) = { r with flight := 2 } ∧
      (List.range 16).all (fun j => !((FMap.get job0 (flying r).jobs j).isOpen && (FMap.get job0 (flying r).jobs j).phase == 1)) = true := by decide +kernel
theorem test_fetchFails :
    let r : Row := { st := .spilled, slots := [3], reserved := [7], flight := 2 }
    FMap.get row0 (after (.fetchComplete 16383 65535 1 []) (flying r)).rows (16383 * 65536 + 65535) = { r with flight := 3 } := by decide +kernel

theorem test_kvWaits :
    let s : State := { pooled with kv := { pooled.kv with work := some { seq := 3, limit := none } } }
    s.kv.work.isSome = true ∧ after (.openSeq openCmd) s = { s with kv := { s.kv with queue := [.command (cmdBytes openCmd) .word] } } ∧
      (fieldAt (cmdBytes (kvCmd 4 [(46, 2, 5)])) 40 8 % 2 ^ 62 / 2 ^ 48) ≠ chipIn s := by decide +kernel

/-! Tenses and their agreement. -/

/-- A job of one module in slot 0: committed 8, serving 9. -/
def alone (state : Nat) (v : Job) : State :=
  let s := put R.CJ_JOBA_JOB 5 0 0 (put R.CJ_JOBA_TREE 0xFFFF 0 0 (put R.CJ_JOBA_STATE state 0 0 fabric))
  { put R.CJ_JOBB_TENSE 9 0 0 s with jobs := FMap.set job0 [] 0 { v with committed := 8, ctxs := [⟨3, 0, 0, 0x1000⟩], map := [(100, 7)] } }

theorem test_tenseOpenHypotheses : seqsOfJob (alone 2 {}) (jobNumIn (alone 2 {}) 0) = [] ∧ kvBusyIn (alone 2 {}) = false ∧
    (alone 2 {}).kv.queue = [] ∧ fieldIn (alone 2 {}) R.PWR_STATE_STATE 0 0 = 0 ∧ jobStateIn (alone 2 { release := 2 }) 0 = 2 ∧ nextTenseIn (alone 2 {}) 0 = 9 ∧
    FMap.wf job0 (alone 2 {}).jobs = true ∧ FMap.wf resetValue (alone 2 {}).regs = true ∧ fetchedIn (alone 2 {}) 5 = true := by decide +kernel
theorem test_tenseOpen :
    let v := jobOf (after (.tenseOpen 0) (alone 2 { release := 2, voted := some 1, serial := 4 })) 0
    v.isOpen = true ∧ v.opened = 9 ∧ v.release = 1 ∧ v.voted = none ∧ v.serial = 0 := by decide +kernel

/-- Every context of the job is done. -/
def done (v : Job) : State :=
  put R.CORE_CTX_CSTATE 2 0 0 (put R.CORE_CTX_CSTATE 2 143 0 (alone 2 { v with isOpen := true, released := true }))
theorem test_voteHypotheses : treeIn (done {}) 0 = none ∧ memberDoneIn (done {}) 0 = true ∧ unexcludedIn (done {}) 5 = [] ∧
    unsettledIn (done {}) 0 = [] ∧ inputsIn (done {}) 0 = false ∧ proofsIn (done {}) 0 = false := by decide +kernel

theorem test_stepHold :
    let t := after (.stepHoldTimeout 0) (alone 2 { waits := true, parity := true })
    jobStateIn t 0 = 3 ∧ fieldIn t R.CJ_JOBB_CAUSE 0 0 = 2 ∧ fieldIn t R.CJ_JOBB_FROM 0 0 = 100 ∧ (jobOf t 0).waits = false := by decide +kernel
/-- A tentative write of serial 3 to chip 101, answered or not. -/
def sentE (status : Option Nat) : SentEntry := ⟨0, 9, 3, 101, 0x100, false, 0, 0, 0, 0, status, false, [], false, 0⟩
theorem test_boundExpiry :
    let s : State := { alone 2 { isOpen := true } with sent := [sentE none] }
    (unsettledIn s 0).find? (fun e => e.serial == 3 && e.status.isNone) = some (sentE none) ∧
      (jobOf (after (.tentativeBoundExpiry 0 3) s) 0).faultD = true ∧
      { sentE none with settled := true } ∈ (after (.tentativeBoundExpiry 0 3) s).sent := by decide +kernel
theorem test_sweepHypotheses :
    let s : State := { alone 2 { isOpen := true } with sent := [sentE (some 0)] }
    (sweepable (unsettledIn s 0) 101).takeWhile (fun e => e.status.isSome) = [sentE (some 0)] ∧ proofsOfIn s (sentE (some 0)) = false ∧ jobStateIn s 0 = 2 ∧ (jobOf s 0).isOpen = true ∧
      jobStateIn (after (.sweepSend 0 101) s) 0 = 2 := by decide +kernel

/-! Messages. -/

def voteP : Packet := pk Ty.msg 4 [1, 0, 1, 0] Msg.vote
theorem test_upHypotheses :
    let s := receiving voteP (atNode 0 2 { isOpen := true })
    arrivesB s 40 voteP Ty.msg = true ∧ servedIn s voteP = some 0 ∧ edgeIn s 0 101 = some (1, false) ∧ voteP.tense.toNat = jobTenseIn s 0 ∧ (jobOf s 0).heldTenses = [] := by
  decide +kernel
theorem test_joinUp :
    let p := pk Ty.msg 4 (leBytes 4 9) Msg.join
    let s := receiving p (atNode 0 1 {})
    arrivesB s 40 p Ty.msg = true ∧ jobStateIn s 0 = 1 ∧ (jobOf s 0).joined = false ∧ (jobOf s 0).release = 0 := by decide +kernel

theorem test_arriveHypotheses :
    let p := pk Ty.msg 2 [5, 0] Msg.arrive
    let s := receiving p (atNode 0 2 { isOpen := true, optab := 0x100 })
    arrivesB s 40 p Ty.msg = true ∧ ofAttemptIn s 0 p.tense.toNat = true ∧ (given s (getColl 0 5 (openInstIn s 0 5))).toOption = some ⟨0, 5, 0, [], [], [], [], [], false⟩ := by
  decide +kernel

def decideP (d : Byte) : Packet := pk Ty.msg 1 [d] Msg.decide
theorem test_downHypotheses :
    let s := receiving (decideP 0) (atNode 1 2 { isOpen := true, released := true, voted := some 0 })
    arrivesB s 40 (decideP 0) Ty.msg = true ∧ servedIn s (decideP 0) = some 0 ∧ seqsOfJob s 5 = [] ∧ kvBusyIn s = false ∧ s.kv.queue = [] ∧
      (jobOf s 0).heldTenses = [] ∧ edgeIn s 0 101 = some (0, true) ∧ kidsIn s 0 = [] := by decide +kernel
theorem test_moreDown :
    let p := pk Ty.msg 4 (leBytes 4 9) Msg.start
    let s := receiving p (atNode 1 1 { joined := true, release := 1 })
    let h := { pk Ty.msg 2 [99, 0] Msg.hold with aux := 1 }
    arrivesB s 40 p Ty.msg = true ∧ nextTenseIn s 0 = 9 ∧ kvBusyIn s = false ∧ seqsOfJob s 5 = [] ∧ fieldIn s R.PWR_STATE_STATE 0 0 < 2 ∧ arrivesB (receiving h (atNode 1 2 {})) 40 h Ty.msg = true := by decide +kernel

/-- A REFORM or STANDDOWN of job 5 on tree 1 for tense 8. -/
def orderB (kind nodes : Nat) : List Byte :=
  leBytes 4 kind ++ leBytes 2 5 ++ leBytes 2 1 ++ leBytes 4 8 ++ leBytes 2 nodes ++ leBytes 2 0
theorem test_orderHypotheses :
    let s := put R.DEV_MOOD_SEC 2 0 0 (atNode 1 3 { pending := true })
    operatingIn s 3 = true ∧ phaseIn s = 4 ∧ jobSlotIn s 5 = some 0 ∧ nodesIn s 0 = 2 ∧ (orderB 2 0).length = 16 ∧
      (ownNodeIn s (mapOf (orderB 1 2 ++ leBytes 4 (101 + 9 * 65536) ++ leBytes 4 (100 + 7 * 65536)) 16 2)) = some 1 ∧
      reformCase (jobOf s 0) 8 = some 0 ∧ reformCase (jobOf s 0) 9 = some 1 ∧ reformCase (jobOf s 0) 7 = some 2 := by decide +kernel

/-! Loads of a stream. -/

/-- A load from the start of the module's GDDR7, 8 bytes of zeros. -/
def loading (part : Bool) : State := { fabric with load := some ⟨.registers (100 * 2 ^ 48) 8, part, none⟩ }
theorem test_streamReads : (given (loading false) (readStream (.registers (100 * 2 ^ 48) 8) ⟨0, []⟩)).toOption = some (some (List.replicate 8 0)) ∧
    (match checkFull (loading false) (List.replicate 8 0) with | .error r => r == (AqErr.size, 0xFF, 8) | .ok _ => false) = true ∧
    (match checkPartial (loading true) tiny (List.replicate 8 0) with | .error r => r == (AqErr.size, 0xFF, 8) | .ok _ => false) = true := by
  decide +kernel
theorem test_loadComplete :
    let s : State := { fabric with load := some ⟨.registers (100 * 2 ^ 48) 8, false, some (AqErr.size, 0xFF, 8)⟩ }
    let t := after .loadComplete s
    t.load = none ∧ fieldIn t R.AQ_STATUS_ERR 0 0 = AqErr.size ∧ fieldIn t R.AQ_STATUS_DONE 0 0 = 1 ∧ fieldIn t R.AQ_STATUS_STATE 0 0 = 2 ∧
      fieldIn t R.AQ_COUNT_REJECTED 0 0 = 1 ∧ fieldIn t R.AQ_COUNT_ACCEPTED 0 0 = 0 := by decide +kernel

/-! Scratchpads and GDDR7 controllers. -/

/-- A correction of the last word waits in scratchpad 143. -/
def correcting : State := { world with spctls := FMap.set spctl0 [] 143 { writeBack := [(2 ^ 21 - 1, 77)] } }
theorem test_spCorrection :
    let t := after (.spCorrectionWriteBack 143 (2 ^ 21 - 1)) correcting
    (given t (spReadWord 143 (2 ^ 21 - 1))).toOption = some (some 77, []) ∧ (FMap.get spctl0 t.spctls 143).writeBack = [] ∧
      t.regs = correcting.regs := by decide +kernel
theorem test_patrolHypotheses : ((patrolLineIn world 143 (2 ^ 24)).orElse (fun _ => patrolLineIn world 143 0)).isSome = true ∧ boundIn world 143 = true ∧ fieldIn world R.SP_SCRUB_INTERVAL 0 0 = 64 ∧
    (patrolLineIn world 143 0).isSome = true ∧ (patrolLineIn world 143 1).isSome = true := by decide +kernel
theorem test_promotion : (FMap.get spctl0 world.spctls 143).promoted.contains 7 = false ∧ FMap.wf spctl0 world.spctls = true := by decide +kernel
theorem test_spInject :
    let s := put R.DEV_MOOD_DEBUG 2 0 0 (put R.DEV_MOOD_SEC 1 0 0 world)
    let v : Word := BitVec.ofNat 64 (0xA5 + 2 ^ 8 + 2 ^ 10 + 0xABCDE8 * 2 ^ 32)
    let t := after (.spInjectArm 143 v) s
    injectionAllowed s = true ∧ injectionAllowed world = false ∧ fieldIn t R.SP_FLIPC_CHECK 143 0 = 0xA5 ∧ fieldIn t R.SP_FLIPC_ARMED 143 0 = 1 ∧
      fieldIn t R.SP_FLIPC_MATCH 143 0 = 1 ∧ fieldIn t R.SP_FLIPC_ADDR 143 0 = 0xABCDE8 ∧ after (.spInjectArm 143 v) world = world := by
  decide +kernel

/-! GDDR7: controller 31, the last block of an LD9-H256. -/

/-- Records of class C and D are not kept. -/
def quietW : State := put R.INT_LOGC_EN 0 0 0 (put R.INT_LOGD_EN 0 0 0 world)
theorem test_blockHypotheses : gdWaitsIn quietW 31 31457279 = false ∧ gdHas quietW 31 31457279 = true ∧ gdHas quietW 31 (31457279 + 2 ^ 24) = false ∧ fieldIn quietW R.GD_STATUS_STATE 31 0 = 0 ∧
    fieldIn quietW R.INT_LOGC_EN 0 0 = 0 ∧ fieldIn quietW R.INT_LOGD_EN 0 0 = 0 ∧ fieldIn quietW R.GD_FLIPC_ARMED 31 0 = 0 := by decide +kernel
theorem test_blockGood : (match decodeBlock (readCells quietW.gddr (gdKey 31 31457279) 272) 0 with
    | .good d a b => d == List.replicate 256 0 && a == 0 && b == 0 | .bad _ _ => false | .poison => false) = true := by decide +kernel

/-- A write of which unit 16 has been replayed n times. -/
def stuckW (n : Nat) (more : List (Nat × Nat) := []) : State :=
  { quietW with gdctls := FMap.set gdctl0 [] 31 { stuck := [⟨5, 0, List.replicate 256 7, (16, n) :: more, noFaults⟩] } }
theorem test_stuck : stuckAt (FMap.get gdctl0 (stuckW 0).gdctls 31) 5 16 = some ⟨5, 0, List.replicate 256 7, [(16, 0)], noFaults⟩ := by decide +kernel
theorem test_replay :
    let t := after (.writeCrcReplay 31 5 16 false) (stuckW 2)
    fieldIn t R.GD_CNT1_RETRY 31 0 = 1 ∧ (FMap.get gdctl0 t.gdctls 31).stuck = [⟨5, 0, List.replicate 256 7, [(16, 3)], noFaults⟩] ∧ t.gddr = [] := by
  decide +kernel
theorem test_temperatures :
    after (.gdTemperatureRead 31 70 71) quietW = withField (withField quietW R.GD_STATUS_TEMP0 70 31) R.GD_STATUS_TEMP1
      (if fieldIn quietW R.GD_STATUS_DEVICES 31 0 = 2 then 71 else 0) 31 ∧
    after (.refresh 31) quietW = { quietW with gdctls := FMap.set gdctl0 [] 31 { refreshes := 1 } } := by decide +kernel
theorem test_remap :
    let v : Word := BitVec.ofNat 64 (31457279 + 16383 * 2 ^ 25 + 2 ^ 39)
    let t := after (.remapWrite 31 15 v) quietW
    fieldIn t R.GD_REMAP_BLOCK 31 15 = 31457279 ∧ fieldIn t R.GD_REMAP_SPARE 31 15 = 16383 ∧ fieldIn t R.GD_REMAP_BUSY 31 15 = 1 ∧
      fieldIn t R.GD_REMAP_VALID 31 15 = 0 := by decide +kernel
theorem test_gdInject :
    let s := put R.DEV_MOOD_DEBUG 2 0 0 (put R.DEV_MOOD_SEC 1 0 0 world)
    let v : Word := BitVec.ofNat 64 (16 + 2 ^ 7 + 2 ^ 9 + 0x1ABCDEF * 2 ^ 10)
    let t := after (.gdInjectArm 31 v) s
    t = { s with regs := t.regs } ∧ fieldIn t R.GD_FLIPC_UNIT 31 0 = 16 ∧ fieldIn t R.GD_FLIPC_ARMED 31 0 = 1 ∧
      fieldIn t R.GD_FLIPC_MATCH 31 0 = 1 ∧ fieldIn t R.GD_FLIPC_BLOCK 31 0 = 0x1ABCDEF := by decide +kernel

theorem test_blockErrors :
    (match decodeBlock (List.replicate 272 0) 4 with | .good d _ _ => d == List.replicate 256 0 | .bad _ _ => false | .poison => false) = true ∧
    (match decodeBlock (List.replicate 272 0) 0x1FFFF with | .good _ _ _ => false | .bad _ _ => true | .poison => false) = true := by decide +kernel
theorem test_blockWaits : gdWaitsIn (put R.GD_STATUS_STATE 2 31 0 quietW) 31 5 = true ∧ gdWaitsIn (stuckW 0) 31 5 = true ∧
    gdWaitsIn (put R.GD_REMAP_BUSY 1 31 15 quietW) 31 0 = true ∧
    after (.blockWrite 31 5 250 [1, 2] ⟨0, [], 0, [16]⟩) quietW =
      { quietW with gdctls := FMap.set gdctl0 [] 31 { stuck := [⟨5, 250, [1, 2], [(16, 0)], ⟨0, [], 0, [16]⟩⟩] } } := by decide +kernel
theorem test_remapDiscarded :
    let v : Word := BitVec.ofNat 64 (5 + 7 * 2 ^ 25 + 2 ^ 39)
    let held := put R.GD_REMAP_VALID 1 31 3 (put R.GD_REMAP_SPARE 7 31 3 quietW)
    gdBlocksIn quietW = 31457280 ∧ after (.remapWrite 31 15 v) held = held ∧
      after (.remapWrite 31 15 (BitVec.ofNat 64 (31457280 + 2 ^ 39))) quietW = quietW ∧
      bitsOf v 39 1 = 1 ∧ bitsOf v 0 25 < gdBlocksIn quietW := by decide +kernel
theorem test_gdPatrolHypotheses : fieldIn quietW R.GD_SCRUB_HOURS 31 0 = 24 ∧ fieldIn quietW R.GD_STATUS_STATE 31 0 < 2 ∧
    gdWaitsIn quietW 31 (31457280 + 16383) = false := by decide +kernel

/-! Compression. -/

/-- A table with codes for the value 1, a run of 4,096 zeros and END, no transform. -/
def table : List Byte := patch (patch (patch (patch (List.replicate 64 0) 0 [1]) 22 [2]) 24 [2]) 25 [2]
theorem test_tableValid : tableValid table = true := by decide +kernel
theorem test_coded : (encodeBlock (some (parseTable table)) 7 2 (List.replicate 4096 0)).raw = false := by decide +kernel

/-- Range 0 is blocks 2 and 3 of controller 1, ready, of class 2; range 1 is disabled; generation 7 is in slot 3. -/
def ranged : State :=
  let s := put R.CX_RANGE_A_BASE 2 0 0 (put R.CX_RANGE_A_SIZE 2 0 0 (put R.CX_RANGE_A_CTRL 1 0 0 (put R.CX_RANGE_A_ECLASS 2 0 0 fabric)))
  let s := put R.CX_RANGE_B_SIDE 0x100000 0 0 (put R.CX_RANGE_A_EN 1 0 0 (put R.CX_RANGE_A_READY 1 0 0 s))
  let s := put R.CX_SLOTS_GENS (7 * 2 ^ 24) 0 0 (put R.CX_SLOTS_VALID 8 0 0 (put R.CX_CTRL_ENCGEN 7 0 0 s))
  { s with cx := { s.cx with slots := [none, none, none, some (parseTable table)] } }
/-- CX_RANGE_A enabling one block of controller 31. -/
def enables (base ctrl c : Nat) : Word := BitVec.ofNat 64 (ctrl + 32 + c * 64 + base * 2 ^ 12 + 2 ^ 33)
theorem test_rangeHypotheses : FMap.wf resetValue ranged.regs = true ∧ fieldIn ranged R.CX_RANGE_A_EN 15 0 = 0 ∧
    bitsOf (enables 5 31 4) 5 1 = 1 ∧ enableOk ranged 15 (enables 5 31 4) = true ∧ enableOk ranged 15 (enables 3 1 4) = false ∧
    enableOk ranged 15 (enables 5 31 5) = false ∧ fieldIn ranged R.CX_RANGE_A_EN 0 0 = 1 ∧
    (let s := put R.CX_RANGE_A_READY 0 0 0 ranged; fieldIn s R.CX_RANGE_A_EN 0 0 = 1 ∧ fieldIn s R.CX_RANGE_A_READY 0 0 = 0) := by decide +kernel
theorem test_rangeOnOff :
    let t := after (.rangeEnable 15 (enables 5 31 4)) ranged
    let u := after (.rangeEnable 15 (enables 3 1 4)) ranged
    fieldIn t R.CX_RANGE_A_EN 15 0 = 1 ∧ fieldIn t R.CX_RANGE_A_REJECT 15 0 = 0 ∧ fieldIn t R.CX_RANGE_A_CTRL 15 0 = 31 ∧
      fieldIn t R.CX_RANGE_A_BASE 15 0 = 5 ∧ fieldIn u R.CX_RANGE_A_EN 15 0 = 0 ∧ fieldIn u R.CX_RANGE_A_REJECT 15 0 = 1 ∧
      after (.rangeDisable 0 0) ranged = withField (withField ranged R.CX_RANGE_A_EN 0 0) R.CX_RANGE_A_READY 0 0 := by decide +kernel

/-- The table lies at the start of the module's GDDR7; the load names generation 6. -/
def tabled : State := put R.CX_TBL_SRC_ADDR (100 * 2 ^ 48) 0 0 (left ranged (do let _ ← gmWrite 0 table; return ()))
theorem test_tableAt :
    let s1 := left tabled (do setF R.CX_TBL_CMD_GEN 6; readOwn (fieldIn tabled R.CX_TBL_SRC_ADDR 0 0) 64)
    (given tabled (do setF R.CX_TBL_CMD_GEN 6; readOwn (fieldIn tabled R.CX_TBL_SRC_ADDR 0 0) 64)).toOption = some (some table) ∧ s1.cx = tabled.cx ∧
      tableOfIn tabled 6 = none ∧ 6 % 4 ≠ fieldIn tabled R.CX_CTRL_ENCGEN 0 0 % 4 ∧ tabled.cx.load = none := by decide +kernel
theorem test_tableInstall :
    let s : State := { ranged with cx := { ranged.cx with load := some (255, parseTable table) } }
    let t := after .tableInstall s
    let z : State := { s with cx := { s.cx with snap := [(1, 3)] } }
    let u := after .tableLoadTimeout z
    s.cx.slots.length = 4 ∧ tableOfIn t 255 = some (parseTable table) ∧ tableOfIn t 7 = none ∧ t.cx.load = none ∧ fieldIn t R.CX_TBL_STAT_DONE 0 0 = 1 ∧
      fieldIn t R.CX_TBL_STAT_ERR 0 0 = 0 ∧ after .tableInstall z = z ∧ s.cx.held = [] ∧ tableOfIn u 7 = tableOfIn s 7 ∧ tableOfIn u 255 = none ∧ fieldIn u R.CX_TBL_STAT_ERR 0 0 = CxErr.genMissing ∧
      u.cx = { s.cx with load := none } ∧ fieldIn t R.CX_TBL_STAT_BUSY 0 0 = 0 := by decide +kernel
theorem test_blockQueues :
    let notReady := put R.CX_RANGE_A_READY 0 0 0 ranged
    let full : State := { ranged with cx := { ranged.cx with queue := List.replicate 64 ⟨2, 3, none⟩ } }
    let loading : State := { ranged with cx := { ranged.cx with load := some (4, parseTable table) } }
    let named : State := { loading with cx := { loading.cx with side := [⟨1, 3, 0⟩] } }
    rangeAtIn ranged 1 3 = some 0 ∧ queueFullIn ranged 1 = false ∧ queueFullIn full 1 = true ∧ rangeBusyIn full 0 = false ∧
      (after (.blockDecode 1 3) ranged).cx.queue = [⟨1, 3, none⟩] ∧ fieldIn (after (.blockDecode 1 3) ranged) R.CX_CNT_QUEUE 0 0 = 1 ∧
      after (.blockDecode 1 3) notReady = notReady ∧ after (.blockDecode 1 3) full = full ∧ after (.blockEncode 1 3 []) full = full ∧
      rangeBusyIn (after (.blockDecode 1 3) ranged) 0 = true ∧
      (after (.rangeDisable 0 0) (after (.blockDecode 1 3) ranged)).cx.disabling = [0] ∧
      namesSlotIn named 0 3 4 = true ∧ (after (.blockDecode 1 3) named).cx.held = [(1, 3)] := by decide +kernel
theorem test_inRange : rangeOfIn ranged 1 2 = some 0 ∧ rangeOfIn ranged 1 3 = some 0 ∧ rangeOfIn ranged 1 4 = none ∧ ranged.cx.load = none := by decide +kernel

theorem agree_zeros (bs : List Byte) (h : bs.all (· == 0) = true) : agree bs = 0 := by
  unfold agree
  induction bs with
  | nil => rfl
  | cons b l ih =>
    simp only [List.all_cons, Bool.and_eq_true, beq_iff_eq] at h
    obtain ⟨rfl, h⟩ := h
    simpa [agreeByte, agreeShift] using ih h
/-- Cells from an address on. -/
def cellsFrom (a : Nat) (l : List Nat) : FMap Byte := l.zipIdx.map (fun p => (a + p.2, BitVec.ofNat 8 p.1))
/-- A block of zeros coded in one sector of block 2 (its bytes and the code of the two stored blocks stand here). -/
def sectored : State :=
  let m := cellsFrom 9126814208 [1, 192] ++
    cellsFrom 9126814464 [228, 220, 77, 227, 224, 251, 218, 145, 218, 145, 78, 190, 144, 8, 150, 178] ++
    cellsFrom 36507256832 [224, 64] ++
    cellsFrom 36507257088 [13, 191, 182, 170, 170, 162, 211, 132, 211, 132, 139, 106, 255, 243, 133, 110]
  { ranged with gddr := m }
/-! It is there to be read, its table gives the zeros, and its agreement word is 0. -/
theorem test_blockRead :
    (match gives sectored (sideRead 0 2) with
    | (.ok (some side, []), t) => side == 7 * 2 ^ 5 + 2 * 2 ^ 13 && tableOfIn t 7 == some (parseTable table) && rangeOfIn sectored 1 2 == some 0
    | _ => false) = true := by decide +kernel
theorem test_blockRead_sectors :
    (match gives sectored (readSectors 1 2 1) with
    | (.ok (some sectors, []), _) => sectors == patch (List.replicate 256 0) 0 [1, 0xC0]
    | _ => false) = true := by decide +kernel
theorem test_blockDecodes :
    ((decodeSectors (parseTable table) 2 (patch (List.replicate 256 0) 0 [1, 0xC0])).map (fun bs => bs.length == 4096 && bs.all (· == 0))) = some true := by
  decide +kernel

/-! Lanes. -/

/-- Lane 40 in a state of R376, with what else is given of it, and records of class C not kept. -/
def laned (state : Nat) (x : Lane) : State :=
  { put R.INT_LOGC_EN 0 0 0 (put R.FAB_LSTAT_STATE state 40 0 fabric) with lanes := FMap.set lane0 fabric.lanes 40 x }
theorem test_laneHypotheses : FMap.wf lane0 (laned 5 {}).lanes = true ∧ FMap.wf resetValue (laned 5 {}).regs = true ∧
    fieldIn (laned 5 {}) R.INT_LOGC_EN 0 0 = 0 := by decide +kernel
theorem test_fullTraining :
    let go (state : Nat) (x : Lane) : State := after (.fullTraining 40 true) (laned state x)
    let f : Lane := { full := true, rxSeq := 7 }
    fieldIn (go 1 f) R.FAB_LSTAT_STATE 40 0 = 2 ∧ fieldIn (go 2 f) R.FAB_LSTAT_STATE 40 0 = 3 ∧ fieldIn (go 3 f) R.FAB_LSTAT_STATE 40 0 = 4 ∧
      fieldIn (go 3 f) R.FAB_LSTAT_INVMISMATCH 40 0 = 1 ∧ fieldIn (go 4 f) R.FAB_LSTAT_STATE 40 0 = 5 ∧
      (go 4 f).out.take (fabric.out.length + 1) = (laned 4 f).out ++ [.identity 40 100 6 7 0 7 bufferUnits] ∧
      (go 4 f).out.length = fabric.out.length + 2 ∧ ((FMap.get lane0 (go 4 f).lanes 40).replay.map (fun x => (x.seq, x.kind))) = [(0, 2)] ∧
      fieldIn (laned 4 f) R.PWR_STATE_STATE 0 0 < 3 ∧ fieldIn (go 8 {}) R.FAB_LSTAT_STATE 40 0 = 1 ∧
      fieldIn (go 8 {}) R.FAB_LCNT1_TRAININGS 40 0 = 1 ∧ (FMap.get lane0 (go 8 {}).lanes 40).full = true := by decide +kernel
theorem test_fastRetrain :
    fieldIn (after (.fastRetrain 40 true) (laned 7 {})) R.FAB_LSTAT_RXINV 40 0 = 1 ∧
      (after (.fastRetrain 40 true) (laned 4 {})).out.length = fabric.out.length + 2 := by decide +kernel
theorem test_trainingTimeout :
    let go (state : Nat) (x : Lane) : State := after (.trainingStepTimeout 40) (laned state x)
    let f (n : Nat) : Lane := { full := true, attempts := n }
    fieldIn (go 4 (f 1)) R.FAB_LSTAT_CAUSE 40 0 = 4 ∧ fieldIn (go 4 (f 1)) R.FAB_LSTAT_STATE 40 0 = 1 ∧
      (FMap.get lane0 (go 4 (f 1)).lanes 40).attempts = 2 ∧ fieldIn (go 1 (f 2)) R.FAB_LSTAT_STATE 40 0 = 9 ∧
      fieldIn (go 7 {}) R.FAB_LSTAT_STATE 40 0 = 8 ∧ fieldIn (go 7 {}) R.FAB_LSTAT_CAUSE 40 0 = 3 ∧
      fieldIn (go 7 {}) R.FAB_LCNT1_DOWNS 40 0 = 1 ∧ (FMap.get lane0 (go 7 {}).lanes 40).lost = true := by decide +kernel
theorem test_identity :
    let x : Lane := { peerPort := 6 }
    let go (port : BitVec 4) (sw : Bool) : State := after (.identity 40 ⟨102, port, 3, 0, sw, 4095, 0⟩) (laned 5 x)
    (List.range 48).all (fun y => (FMap.get lane0 (laned 5 x).lanes y).queue == [] && (FMap.get lane0 (laned 5 x).lanes y).controls == []) = true ∧
      (FMap.get lane0 (laned 5 x).lanes (partner 40)).tell = false ∧ fieldIn (go 5 false) R.FAB_LSTAT_STATE 40 0 = 9 ∧
      fieldIn (go 5 false) R.FAB_LSTAT_CAUSE 40 0 = 5 ∧ fieldIn (go 5 false) R.FAB_LPEER_PORT 40 0 = 5 ∧
      fieldIn (go 6 false) R.FAB_LSTAT_STATE 40 0 = 6 ∧ fieldIn (go 6 false) R.FAB_LPEER_CHIP 40 0 = 102 ∧
      fieldIn (go 6 true) R.FAB_LPEER_CHIP 40 0 = 0x3FFF ∧ (FMap.get lane0 (go 6 true).lanes 40).credits = bufferUnits ∧ acknowledged x.replay 4095 = [] ∧
      (FMap.get lane0 (go 6 false).lanes 40).rxSeq = 0 ∧ (FMap.get lane0 (go 6 false).lanes 40).owed = 1 := by decide +kernel
theorem test_fecrate :
    let go (n : Nat) : State := after (.fecrateCheck 40) (laned 6 { fecMs := n })
    fieldIn (go 16385) R.FAB_LSTAT_STATE 40 0 = 7 ∧ fieldIn (go 16385) R.FAB_LSTAT_CAUSE 40 0 = 8 ∧
      fieldIn (go 16384) R.FAB_LSTAT_STATE 40 0 = 6 ∧ (FMap.get lane0 (go 16384).lanes 40).fecMs = 0 := by decide +kernel
theorem test_retrainRevive :
    fieldIn (after (.retrainWrite 40) (laned 6 {})) R.FAB_LSTAT_STATE 40 0 = 7 ∧ after (.retrainWrite 40) (laned 9 {}) = laned 9 {} ∧
      fieldIn (after (.reviveWrite 40) (laned 9 { attempts := 3 })) R.FAB_LSTAT_STATE 40 0 = 1 ∧
      FMap.get lane0 (after (.reviveWrite 40) (laned 9 { attempts := 3 })).lanes 40 = { full := true } ∧
      after (.reviveWrite 40) (laned 6 {}) = laned 6 {} := by decide +kernel

/-! Flits: two groups whose bits from number 28 on are a flit with SEQ 0, one of kind 1 with no packet's start, one of kind 2. The code
words are written out by R356 (each is the multiple of the generator that the flit's header fixes), the CRC by R359. -/

/-- The symbols of a group from its first on; the others are zero. -/
def symsOf (l : List Nat) : List (BitVec 10) := l.map (BitVec.ofNat 10)
def group1 : List (BitVec 10) := symsOf
    [0, 0, 3, 512, 512, 1, 565, 329, 483, 624, 0, 28, 448, 202, 117, 48, 965, 461, 54, 143, 393, 771, 590, 923, 723, 688, 853,
    312, 611, 964, 4, 113, 660, 747, 492, 202, 285, 505, 114, 217, 523, 188, 460, 913, 797, 191, 972, 710, 731, 1017, 972, 743,
    270, 941, 148, 753, 788, 236, 893, 90, 677, 703, 254, 745, 802, 350, 619, 165, 77, 288, 809, 890, 16, 857, 982, 336, 660, 150,
    832, 383, 602, 69, 64, 107, 465, 842, 469, 8, 800, 663, 157, 792, 413, 743, 487, 559, 1017, 182, 465, 343, 910, 158, 791, 4,
    500, 310, 693, 622, 12, 415, 1017, 898, 662, 449, 1012, 106, 956, 131, 291, 1, 438, 380, 946, 873, 474, 606, 527, 521, 839,
    568, 500, 457, 887]
def group2 : List (BitVec 10) := symsOf
    [0, 0, 3, 512, 256, 1, 535, 646, 259, 624, 0, 28, 448, 202, 502, 20, 934, 461, 838, 495, 668, 771, 349, 10, 492, 688, 469,
    885, 655, 964, 885, 846, 338, 747, 1011, 990, 201, 505, 946, 498, 292, 188, 724, 668, 847, 191, 893, 210, 194, 1017, 820, 305,
    188, 941, 713, 699, 301, 236, 634, 579, 493, 703, 273, 734, 808, 350, 169, 438, 223, 288, 590, 498, 776, 857, 174, 204, 405,
    150, 265, 179, 146, 69, 281, 86, 668, 842, 508, 347, 822, 663, 825, 732, 305, 743, 481, 622, 714, 182, 692, 1006, 43, 158,
    796, 664, 824, 310, 451, 847, 619, 415, 887, 380, 842, 449, 348, 299, 207, 131, 350, 949, 902, 380, 285, 54, 160, 606, 797,
    969, 286, 568, 68, 389, 952]
/-- The stream bits of a group whose codewords decode as given. -/
def bitsWith (g : List (BitVec 10)) (ds : List Decoded) : List (Bool × Bool) :=
  ((List.range 2056).flatMap (fun j =>
    match ds.getD (j % 4) .bad with
    | .ok cw _ => (symBits (BitVec.ofNat 10 (cw.getD (j / 4) 0))).map (fun b => (b, false))
    | .bad => (symBits (g.getD j 0)).map (fun b => (b, true)))).zipWith (fun d p => (d.1 ^^ p, d.2)) prbsGroup

/-- What `Obligations.LaneFlits` asks of a whole flit of a kind, with SEQ 0, in the bits of a group from number 28 on. -/
def wholeFlit (bits : List (Bool × Bool)) (kind : Nat) : Bool :=
  let bits := ((bits ++ groupBits []).drop 28).take 2048
  let b := bitsBytes 256 (bits.map (·.1))
  (bits.all (fun b => !b.2) && bits.length == 2048) && fieldAt b 252 4 == (crc32c (b.take 252)).toNat && fieldAt b 0 2 % 4096 == 0 &&
    fieldAt b 0 2 / 4096 == kind && fieldAt b 8 1 == 15

/-- Codeword c of a received group. -/
def cwIn (g : List (BitVec 10)) (c : Nat) : List Nat := (List.range 544).map (fun k => (g.getD (4 * k + c) 0).toNat)

theorem test_codeword10 : gf10.rsDecode 30 (cwIn group1 0) [] = .ok (cwIn group1 0) 0 := by decide +kernel
theorem test_codeword11 : gf10.rsDecode 30 (cwIn group1 1) [] = .ok (cwIn group1 1) 0 := by decide +kernel
theorem test_codeword12 : gf10.rsDecode 30 (cwIn group1 2) [] = .ok (cwIn group1 2) 0 := by decide +kernel
theorem test_codeword13 : gf10.rsDecode 30 (cwIn group1 3) [] = .ok (cwIn group1 3) 0 := by decide +kernel
theorem test_codeword20 : gf10.rsDecode 30 (cwIn group2 0) [] = .ok (cwIn group2 0) 0 := by decide +kernel
theorem test_codeword21 : gf10.rsDecode 30 (cwIn group2 1) [] = .ok (cwIn group2 1) 0 := by decide +kernel
theorem test_codeword22 : gf10.rsDecode 30 (cwIn group2 2) [] = .ok (cwIn group2 2) 0 := by decide +kernel
theorem test_codeword23 : gf10.rsDecode 30 (cwIn group2 3) [] = .ok (cwIn group2 3) 0 := by decide +kernel

theorem decodeGroup_eq (g : List (BitVec 10)) (h0 : gf10.rsDecode 30 (cwIn g 0) [] = .ok (cwIn g 0) 0)
    (h1 : gf10.rsDecode 30 (cwIn g 1) [] = .ok (cwIn g 1) 0) (h2 : gf10.rsDecode 30 (cwIn g 2) [] = .ok (cwIn g 2) 0)
    (h3 : gf10.rsDecode 30 (cwIn g 3) [] = .ok (cwIn g 3) 0) :
    decodeGroup g = (List.range 4).map (fun c => Decoded.ok (cwIn g c) 0) := by
  show [gf10.rsDecode 30 (cwIn g 0) [], gf10.rsDecode 30 (cwIn g 1) [], gf10.rsDecode 30 (cwIn g 2) [], gf10.rsDecode 30 (cwIn g 3) []] =
    [Decoded.ok (cwIn g 0) 0, .ok (cwIn g 1) 0, .ok (cwIn g 2) 0, .ok (cwIn g 3) 0]
  rw [h0, h1, h2, h3]

theorem groupBits_eq (g : List (BitVec 10)) (ds : List Decoded) (h : decodeGroup g = ds) : groupBits g = bitsWith g ds := by
  subst h; rfl

theorem test_dataBits : wholeFlit (bitsWith group1 ((List.range 4).map (fun c => Decoded.ok (cwIn group1 c) 0))) 1 = true := by decide +kernel
theorem test_controlBits : wholeFlit (bitsWith group2 ((List.range 4).map (fun c => Decoded.ok (cwIn group2 c) 0))) 2 = true := by decide +kernel

/-- What `Obligations.LaneFlits` asks of a whole flit of a kind, with SEQ 0, of a group received with its lock at number 28. -/
def flitIs (g : List (BitVec 10)) (kind : Nat) : Bool :=
  let (good, b) := flitOf ⟨g, [], 28, false, false⟩
  good && fieldAt b 252 4 == (crc32c (b.take 252)).toNat && fieldAt b 0 2 % 4096 == 0 && fieldAt b 0 2 / 4096 == kind && fieldAt b 8 1 == 15

theorem flitIs_eq (g : List (BitVec 10)) (kind : Nat) : flitIs g kind = wholeFlit (groupBits g) kind := rfl

theorem test_dataFlit : flitIs group1 1 = true := by
  rw [flitIs_eq, groupBits_eq group1 _ (decodeGroup_eq group1 test_codeword10 test_codeword11 test_codeword12 test_codeword13)]
  exact test_dataBits
theorem test_controlFlit : flitIs group2 2 = true := by
  rw [flitIs_eq, groupBits_eq group2 _ (decodeGroup_eq group2 test_codeword20 test_codeword21 test_codeword22 test_codeword23)]
  exact test_controlBits
theorem test_badFlit : (let b := (flitOf ⟨[], [], 0, false, false⟩).2; fieldAt b 252 4 ≠ (crc32c (b.take 252)).toNat) := by
  decide +kernel
theorem test_idleFlits :
    let s := laned 6 { nak := true, owed := 3, freed := [300, 0, 0, 1] }
    let t := after (.ackTimer 40) s
    t.out.length = s.out.length + 1 ∧ (FMap.get lane0 t.lanes 40).freed = [45, 0, 0, 0] ∧ (FMap.get lane0 t.lanes 40).owed = 0 ∧
      creditsOwed { (FMap.get lane0 (laned 6 {}).lanes 40) with freed := [1, 0, 0, 0] } = true ∧ creditsOwed (FMap.get lane0 (laned 6 {}).lanes 40) = false ∧
      after (.nakRepeat 40) s = t ∧ after (.nakRepeat 40) (laned 6 {}) = laned 6 {} ∧ after (.ackTimer 40) (laned 6 {}) = laned 6 {} := by
  decide +kernel
theorem test_recovery :
    let p := pk Ty.rd 8
    let q := pk Ty.rd 16
    let lost : Lane := { lost := true, replay := [⟨4, 1, 0, 0, [], 0, [q]⟩, ⟨5, 1, 0, 0, [], 0, [p]⟩], queue := [pk Ty.rd 24] }
    let s : State := { laned 6 {} with lanes := FMap.set lane0 (laned 6 {}).lanes (partner 40) lost }
    let t := after (.recovery 40 (partner 40) 4) s
    FMap.get lane0 t.lanes (partner 40) = { lost with replay := [], queue := [], lost := false, txSeq := 4 } ∧
      (FMap.get lane0 t.lanes 40).queue = [p, pk Ty.rd 24] := by decide +kernel
theorem test_laneLoss :
    let p := { pk Ty.rd 8 with src := 100, dst := 101, tag := 3 }
    let lost : Lane := { lost := true, replay := [⟨4, 1, 0, 0, [], 0, [p]⟩] }
    let s := laned 8 lost
    let r : Req := ⟨3, 101, 1, .agent, 0, 40, []⟩
    let z : State := { s with reqs := [r] }
    reqOf s p = none ∧ (FMap.get lane0 (after (.laneLossTimeout 40) s).lanes 40).replay = [] ∧
      (lost.replay.flatMap (·.packets)).dedup = [p] ∧ reqOf z p = some r ∧
      (given z (do setLane 40 { lost with replay := [], lost := false, tell := false }; endReq r Status.noRoute [])).isOk = true ∧
      (after (.laneLossTimeout 40) z).reqs = [] := by decide +kernel
theorem test_resetNotice :
    let v : Job := { map := [(101, 9)] }
    let s : State := { put R.CJ_JOBA_STATE 2 0 0 (laned 6 {}) with jobs := FMap.set job0 [] 0 v }
    let z : State := { put R.CJ_JOBA_STATE 2 0 0 (laned 6 { noticed := true }) with jobs := FMap.set job0 [] 0 v }
    laneGlobal 40 = true ∧ s.reqs = [] ∧ jobStateIn (after (.resetNotice 40 101 9) s) 0 = 3 ∧
      fieldIn (after (.resetNotice 40 101 9) s) R.CJ_JOBB_CAUSE 0 0 = 5 ∧ after (.resetNotice 40 101 9) z = z := by decide +kernel

/-! Packets. -/

/-- Job 5 at work. -/
def working : State := atNode 0 2 { isOpen := true }
/-- Byte 64 of core 143's scratchpad as a module's own address. -/
def spAt : Nat := (own 64).toNat

theorem test_readRequest :
    let p := pk Ty.rd 8 [] spAt
    let s := receiving p working
    arrivesB s 40 p Ty.rd = true ∧ FMap.wf lane0 s.lanes = true ∧
      (given s (busRead (.peer p.src) (p.addr.toNat % 2 ^ 48) p.len.toNat)).toOption = some (0, List.replicate 8 0, []) ∧
      routeOf s (answerTo s p 0 (List.replicate 8 0)) none = some 0 := by decide +kernel
/-- A write of eight bytes: tentative or not, of a block or not. -/
def wrP (typ flags : BitVec 8) : Packet := { pk typ 8 (leBytes 8 5) spAt with flags, serial := 3 }
theorem test_writeRequest :
    let s := receiving (wrP Ty.wr 0) working
    let z := receiving (wrP Ty.pwr 1) working
    let h := receiving (wrP Ty.wr 1) (atNode 0 3 {})
    arrivesB s 40 (wrP Ty.wr 0) Ty.wr = true ∧ arrivesB z 40 (wrP Ty.pwr 1) Ty.pwr = true ∧ answeredHeld z (wrP Ty.pwr 1) = false ∧
      answeredHeld h (wrP Ty.wr 1) = true ∧ arrivesB h 40 (wrP Ty.wr 1) Ty.wr = true ∧
      (given z (do busWrite (.peer 101) (spAt % 2 ^ 48) (leBytes 8 5) (if tagsKept z then some ⟨101, 3, 2, 1, 2⟩ else none))).toOption = some (0, []) ∧
      (after (.pwr 40 ⟨wrP Ty.pwr 1, []⟩) z).tent = [⟨101, 5, 9, 3, false⟩] ∧ (after (.wr 40 (wrP Ty.wr 1)) h).tent = [] := by decide +kernel
theorem test_blockSegment :
    let p := { wrP Ty.wr 9 with data := List.replicate 256 7, len := 256, tag := 6 }
    let s := receiving p working
    let t := after (.wr 40 p) s
    arrivesB s 40 p Ty.wr = true ∧ Packet.blk p = true ∧ Packet.trail p = false ∧ s.blockBufs = [] ∧
      t.blockBufs = [⟨101, 5, 9, 3, spAt, false, [(0, List.replicate 256 7)], [6]⟩] := by decide +kernel
theorem test_atomicRequest :
    let p := { pk Ty.at 16 (leBytes 8 5 ++ leBytes 8 0) spAt with aux := 0 }
    let q := { pk Ty.at 16 (leBytes 8 0 ++ leBytes 8 7) spAt with aux := 6 }
    let go (p : Packet) : Option (Nat × Word × List Rec) := (given (receiving p working) (modAtomic (spAt / 8 * 8)
        (atomicFn p.aux.toNat (BitVec.ofNat 64 (fieldAt p.data 0 8)) (BitVec.ofNat 64 (fieldAt p.data 8 8))))).toOption
    arrivesB (receiving p working) 40 p Ty.at = true ∧ arrivesB (receiving q working) 40 q Ty.at = true ∧ go p = some (0, 0, []) ∧
      go q = some (0, 0, []) := by decide +kernel
theorem test_staleRequest :
    let p := { pk Ty.rd 8 [] spAt with inc := 8 }
    let s := receiving p (put R.INT_LOGC_EN 0 0 0 working)
    let t := after (.rd 40 p) s
    (match gives s (incOk 40 p) with | (.ok false, u) => decide (u = s) | _ => false) = true ∧
      firstOfFlow (FMap.get lane0 s.lanes 40).received p = true ∧ fieldIn t R.FAB_STALE_DROPPED 0 0 = 1 ∧
      fieldIn t R.FAB_STALE_CHIP 0 0 = 101 ∧ fieldIn t R.FAB_STALE_INC 0 0 = 8 := by decide +kernel

/-- A CONF or RETR of the tense 9 or another, that covers serials up to 3. -/
def settleP (typ : BitVec 8) (tense : BitVec 32) : Packet := { pk typ with tense, serial := 3 }
theorem test_settles :
    let e : TentEntry := ⟨101, 5, 9, 3, false⟩
    let go (typ : BitVec 8) (tense : BitVec 32) : State := { receiving (settleP typ tense) working with tent := [e] }
    arrivesB (go Ty.conf 9) 40 (settleP Ty.conf 9) Ty.conf = true ∧ arrivesB (go Ty.retr 9) 40 (settleP Ty.retr 9) Ty.retr = true ∧
      servedIn (go Ty.retr 9) (settleP Ty.retr 9) = some 0 ∧ answeredHeld (go Ty.conf 9) (settleP Ty.conf 9) = false ∧
      nextTenseIn (go Ty.conf 9) 0 = 9 ∧ (go Ty.conf 9).tent.filter (coveredBy (settleP Ty.conf 9)) = [e] ∧
      (after (.conf 40 (settleP Ty.conf 9)) (go Ty.conf 9)).tent = [] ∧ (after (.conf 40 (settleP Ty.conf 8)) (go Ty.conf 8)).tent = [e] ∧
      fieldIn (after (.conf 40 (settleP Ty.conf 8)) (go Ty.conf 8)) R.FAB_TENT_LATE 0 0 = 1 ∧
      (jobOf (after (.retr 40 (settleP Ty.retr 9)) (go Ty.retr 9)) 0).badInput = true := by decide +kernel
theorem test_segment :
    let p := pk Ty.seg 16 (List.replicate 16 0) 5
    let s := receiving p working
    arrivesB s 40 p Ty.seg = true ∧ answeredHeld s p = false ∧ ofAttemptIn s 0 p.tense.toNat = true ∧
      (given s (onSeg 0 101 (p.addr.toNat % 2048) (p.addr.toNat / 65536 % 65536) p.data)).isOk = true := by decide +kernel
theorem test_response :
    let p := { pk Ty.ack with tag := 4 }
    let r : Req := ⟨4, 101, 2, .agent, 0, 40, []⟩
    let s := receiving p working
    let z : State := { s with reqs := [r] }
    arrivesB s 40 p Ty.ack = true ∧ answeredIn s p = none ∧ answeredIn z p = some r ∧ (given z (arrived r 0 [])).isOk = true ∧
      (after (.ack 40 p) s).lateDrops = 1 ∧ (after (.ack 40 p) z).reqs = [] ∧ (given z (arrived r Status.timeout [])).isOk = true ∧
      (after (.transactionTimeout 4) z).reqs = [] := by decide +kernel
theorem test_forward :
    let p := { pk Ty.rd 8 [] spAt with dst := 200 }
    let q := { pk Ty.rd 8 [] spAt with dst := 102 }
    let s := receiving p fabric
    let z := receiving q fabric
    p.dst.toNat ≠ chipIn s ∧ firstOfFlow (FMap.get lane0 s.lanes 40).received p = true ∧ routeOf s p (some 40) = none ∧
      routeOf z q (some 40) = some 0 ∧ (FMap.get lane0 (after (.packetForward 40 q) z).lanes 40).received = [] := by decide +kernel

/-! Records, injection and dictations. -/

theorem test_keyId : keyIdOf userKey = userKeyId := by decide +kernel

/-- One fault due, the link up. -/
def dueW : State := { put R.HOST_LINK_UP 1 0 0 world with faultsDue := 1 }
theorem test_faults :
    let m : State := { dueW with msix := FMap.set msix0 [] 0 { mask := true } }
    (FMap.get msix0 { dueW with msix := [] }.msix 0).mask = true ∧ after .faultInterrupt world = world ∧
      after .faultInterrupt m = { m with faultsDue := 0, msix := FMap.set msix0 [] 0 { mask := true, pend := true } } := by decide +kernel
theorem test_unmasked :
    let m : State := { dueW with msix := FMap.set msix0 [] 0 { mask := false }, pcie := { dueW.pcie with msixEnable := true } }
    m.pcie.sends = true ∧ after .faultInterrupt m = sends { m with faultsDue := 0 } (.msix 0) := by decide +kernel
/-- INT_LOGD with EN, SIZE n and BASE 0x1000. -/
def ringV (n : Nat) : Word := BitVec.ofNat 64 (2 ^ 53 + n * 2 ^ 48 + 0x1000)
theorem test_dRing :
    let s := world
    let z : State := { world with store := [List.replicate 128 0] }
    bitsOf (ringV 6) 53 1 = 1 ∧ bitsOf (ringV 6) 0 12 = 0 ∧ bitsOf (ringV 20) 48 5 = 20 ∧ fieldIn s R.INT_LOGD_EN 0 0 = 0 ∧ s.store = [] ∧
      fieldIn (after (.dRingEnable (ringV 20)) s) R.INT_LOGD_SIZE 0 0 = 20 ∧ (after (.dRingEnable (ringV 6)) z).store = [] ∧
      (after (.dRingEnable (ringV 6)) z).faultsDue = 1 ∧
      after (.dRingEnable (ringV 6)) (put R.INT_LOGD_EN 1 0 0 s) = put R.INT_LOGD_EN 1 0 0 s := by decide +kernel
theorem test_dRingStore :
    let z : State := { world with store := [List.replicate 128 0] }
    (given z (do
      ringRegWrite (R.INT_LOGD_BASE.addr 0 0) (ringV 6)
      eff (.store [])
      ringWrite R.INT_LOGD_BASE R.INT_LOGD_SIZE R.INT_LOGD_PTR_HEAD R.INT_LOGD_PTR_TAIL (List.replicate 128 0))).toOption = some (true, []) := by
  decide +kernel
theorem test_mxInject :
    let s := put R.DEV_MOOD_DEBUG 2 0 0 (put R.DEV_MOOD_SEC 1 0 0 world)
    moodAllows s [0, 1, 2] [2] 2 = true ∧ moodAllows world [0, 1, 2] [2] 2 = false ∧ bitsOf (BitVec.ofNat 64 (143 + 256)) 0 8 < 144 ∧
      (FMap.get core0 (after (.mxInjectArm (BitVec.ofNat 64 (143 + 256))) s).cores 143).inject = true ∧
      after (.mxInjectArm (BitVec.ofNat 64 (143 + 256))) world = world := by decide +kernel

/-- A dictation of an operator: SERIAL 5, two passes a second apart of kind 2 on core 150 (R425, signed as RFC 8032 says). -/
def bundle : List Byte :=
  leBytes 4 0x54434944 ++ leBytes 2 1 ++ [1, 1] ++ leBytes 4 256 ++ leBytes 2 9 ++ [3, 0] ++ leBytes 8 5 ++ leBytes 8 userKeyId ++ leBytes 8 0 ++
    leBytes 2 2 ++ leBytes 2 1 ++ leBytes 84 0 ++ [2, 0, 0, 0] ++ leBytes 4 0 ++ leBytes 24 (2 ^ 150) ++ leBytes 32 0 ++
    leBytes 64 658260269013793736413844942429262800918690213383045335544302953434239196779871462944621945095513199433891651198194891397854022589416333194266321000983156
/-- READY, with that key enrolled and a dictation area of 4 MiB at 0. -/
def dictating : State :=
  let s := put R.DEV_MOOD_SEC 2 0 0 (put R.INT_DICT_MIB 4 0 0 (put R.INT_LOGC_EN 0 0 0 fabric))
  { s with sec := { s.sec with operator := [userKey] } }
theorem test_bundleAccepted : dictCheck dictating bundle = 0 := by decide +kernel
theorem test_dictationHypotheses : phaseIn dictating = 4 ∧ fieldIn dictating R.SEC_CSTAT_BUSY 0 0 = 0 ∧ dictating.load = none ∧
    fieldIn dictating R.DEV_MOOD_POWER 0 0 < 3 ∧ (FMap.get dict0 dictating.dicts 0).used = false ∧
    dictBusyIn dictating = false ∧ readRunsIn dictating 1 = false ∧ loadOrCommandIn dictating = false ∧
    dictCheck world bundle = DictErr.mood ∧ bundle.length = 256 ∧ portUpIn dictating = true ∧
    3 ≤ fieldIn (put R.DEV_MOOD_POWER 3 0 0 dictating) R.DEV_MOOD_POWER 0 0 ∧
    fieldIn (after (.dictationLoad (.queue 63 7 [])) dictating) R.INT_DSTAT_ERR 0 0 = DictErr.size := by decide +kernel
theorem test_bundleAt : (match gives dictating (bundleAt (100 * 2 ^ 48)) with | (.ok (some d), t) => d.length == 128 && decide (t = dictating) | _ => false) = true := by
  decide +kernel
theorem test_cancel :
    let s : State := { world with dicts := FMap.set dict0 [] 3 { used := true } }
    bitsOf (BitVec.ofNat 64 (2 + 3 * 4)) 0 2 = 2 ∧ (after (.cancel (BitVec.ofNat 64 (2 + 3 * 4))) s).dicts = [] := by decide +kernel

/-- A slot with one test of a kind on a unit, that has made no pass; records of class C are not kept. -/
def passing (kind unit : Nat) (r : DictRes) : State :=
  let s := put R.GD_STATUS_STATE 1 unit 0 (put R.INT_LOGC_EN 0 0 0 fabric)
  { s with dicts := FMap.set dict0 [] 3 { used := true, repeat' := 2, tests := [⟨kind, 0, 192, 0, 32, 4, 0, 0⟩], bytes := bundle, results := [r] } }
theorem test_passHypotheses :
    let r (u : Nat) : DictRes := ⟨0, u, 4, 0, 0, 0, 0, 0, none, none⟩
    let x (kind u : Nat) : DictSlot := FMap.get dict0 (passing kind u (r u)).dicts 3
    (resultAt (x 2 18) 0 18).isSome = true ∧ passesLeft (x 2 18) (r 18) = true ∧ coreHereIn (passing 2 18 (r 18)) 18 = true ∧
      unitIdleIn (passing 2 18 (r 18)) 2 18 = true ∧ turnIn (passing 2 18 (r 18)) 3 (r 18) true = true ∧
      periodOver (passing 2 18 (r 18)) (x 2 18) (r 18) = true ∧ controllerHereIn (passing 3 31 (r 31)) 31 = true ∧
      unitIdleIn (passing 3 31 (r 31)) 3 31 = true ∧ turnIn (passing 3 31 (r 31)) 3 (r 31) false = true ∧ coreHereIn world 152 = false := by
  decide +kernel
theorem test_passNotRun :
    let r (u : Nat) : DictRes := ⟨0, u, 4, 0, 0, 0, 0, 0, none, none⟩
    let w := after (.dictationPass 3 0 152 5 1) (passing 2 152 (r 152))
    let busy := put R.DEV_MOOD_POWER 2 0 0 (passing 2 18 (r 18))
    let z := after (.dictationAbandon 3 0 18) busy
    unitIdleIn busy 2 18 = false ∧ turnIn busy 3 (r 18) true = true ∧ after (.dictationAbandon 3 0 18) (passing 2 18 (r 18)) = passing 2 18 (r 18) ∧
    (FMap.get dict0 w.dicts 3).results = [⟨0, 152, 3, 0, 0, 0, 0, 0, none, none⟩] ∧ (FMap.get dict0 z.dicts 3).results = [⟨0, 18, 4, 0, 0, 0, 1, 0, none, none⟩] := by
  decide +kernel
/-- Kind 1: a program of one short sentence with END. -/
theorem test_program :
    (match gives (passing 1 18 ⟨0, 18, 4, 0, 0, 0, 0, 0, none, none⟩) (dictProgram ⟨1, 0, 0, 0, 32, 4, 0, 0⟩ (leBytes 32 17)) with
      | (.ok _, _) => true | _ => false) = true := by decide +kernel

/-! Resets, the monitor and retirement. -/

/-- READY, in Operating, jobs 0 and 1 in their conjunctions, core 143 running with values in its registers and scratchpad. -/
def module0 : State :=
  let s := put R.DEV_MOOD_SEC 2 0 0 (put R.CJ_JOBA_STATE 2 0 0 (put R.CJ_JOBA_STATE 1 1 0 (put R.CORE_STATUS_RUN 1 143 0 fabric)))
  let s := put R.RST_MON_ARMED 1 0 0 (put R.MGT_STATUS_EID 9 0 0 (put R.HOST_LINK_UP 1 0 0 s))
  atS 5 77 { s with spad := FMap.set zeroByte [] (143 * 2 ^ 24) 3 }
theorem test_resetHypotheses :
    let s := module0
    (s.rst.recent.filter (fun x => decide (s.ms < x + 1000))).length < 2 ∧ s.rst.running = [] ∧ boundIn s 143 = true ∧ boundIn s 144 = false ∧
      targetValid s 1 144 = false ∧ targetValid s 2 3 = true ∧ targetValid s 4 31 = true ∧ targetValid s 4 113 = true ∧ phaseIn s = 4 ∧
      moodAllows s [0, 1, 2] [0, 1, 2] 2 = true ∧ moodAllows (put R.DEV_MOOD_SEC 3 0 0 s) [0, 1, 2] [0, 1, 2] 3 = false ∧
      FMap.wf ctx0 s.ctxs = true ∧ FMap.wf gdctl0 s.gdctls = true ∧ fieldIn (put R.GD_STATUS_STATE 3 31 0 s) R.GD_STATUS_STATE (95 - 64) 0 = 3 := by
  decide +kernel
theorem test_coreReset :
    let t := after (.coreReset 143 .own) module0
    let b : State := { module0 with rst := { module0.rst with running := [(6, 0)] } }
    t.rst.running = [(1, 143)] ∧ fieldIn t R.RST_STATUS_CAUSE 0 0 = 3 ∧ sOf t 143 5 = 0 ∧ t.spad = module0.spad ∧
      coversIn b (6, 0) (1, 143) = true ∧ fieldIn (after (.coreReset 143 .own) b) R.RST_CNT_ABSORBED 0 0 = 1 ∧
      fieldIn (after (.coreReset 144 .register) module0) R.RST_STATUS_BADORDER 0 0 = 1 ∧
      poweredIn module0 = true ∧
      (let s : State := { module0 with pins := world.pins }; poweredIn s = false ∧ after (.coreReset 143 .register) s = s) := by decide +kernel
theorem test_clauseReset :
    let t := after (.clauseReset 3 .register) module0
    t.rst.running = [(2, 3)] ∧ fieldIn t R.RST_STATUS_CAUSE 0 0 = 1 ∧ t.spad = module0.spad := by decide +kernel
theorem test_controlReset :
    let t := after (.controlComplexReset .own) module0
    t.rst.running = [(3, 0)] ∧ jobStateIn t 0 = 3 ∧ jobStateIn t 1 = 3 ∧ fieldIn t R.CJ_JOBB_CAUSE 0 0 = 5 ∧ fieldIn t R.RST_MON_ARMED 0 0 = 0 := by
  decide +kernel
theorem test_baseReset :
    let t := after (.baseDieIoReset 95 .own 5) (put R.GD_STATUS_STATE 3 31 0 module0)
    let u := after (.baseDieIoReset 112 .own 7) module0
    let w := after (.baseDieIoReset 113 .register 0) module0
    fieldIn t R.GD_STATUS_STATE 31 0 = 2 ∧ fieldIn t R.RST_STATUS_CAUSE 0 0 = 5 ∧ fieldIn u R.HOST_LINK_UP 0 0 = 0 ∧
      fieldIn w R.MGT_STATUS_EID 0 0 = 0 ∧ fieldIn w R.RST_STATUS_CAUSE 0 0 = 1 := by decide +kernel
theorem test_powerOnReset :
    let t := after .powerOnReset module0
    t.jobs = [] ∧ t.spad = [] ∧ t.stream = none ∧ fieldIn t R.RST_STATUS_CAUSE 0 0 = 0 := by decide +kernel

/-- Resets run; the retained image is 64 bytes of zeros, whole. -/
def ending (r : List (Nat × Nat)) (image : Option (List Byte)) : State :=
  { fabric with rst := { fabric.rst with running := r, image, imageDigest := sha512 [] } }
theorem test_imageWhole :
    let b : List Byte := List.replicate 64 0
    sha512 (b.take (b.length - 64)) = (ending [(3, 0)] (some b)).rst.imageDigest ∧ (ending [(1, 143)] none).rst.affected = [] ∧ (ending [(6, 0)] (some b)).rst.accepted = false ∧
      (ending [(1, 143)] none).rst.running.contains (1, 143) = true ∧ (ending [(1, 143)] none).rst.running.contains (1, 142) = false := by
  decide +kernel
theorem test_resetEnds :
    let b := some (List.replicate 64 0)
    let t := after (.resetComplete 1 143) (ending [(1, 143), (4, 3)] none)
    let u := after (.resetComplete 3 0) (ending [(3, 0)] none)
    let w := after (.resetComplete 3 0) (ending [(3, 0)] b)
    let z := after (.resetComplete 6 0) (ending [(6, 0)] b)
    t.rst.running = [(4, 3)] ∧ fieldIn t R.RST_STATUS_BUSY 0 0 = 1 ∧ fieldIn u R.RST_STATUS_BUSY 0 0 = 0 ∧ fieldIn u R.RST_STATUS_PHASE 0 0 = 1 ∧
      w.rst.awaiting = true ∧ fieldIn z R.RST_STATUS_PHASE 0 0 = 4 ∧ z.rst.awaiting = true := by decide +kernel
theorem test_dieBinds :
    let s := put R.DEV_FIELD_MAP_USABLE (2 ^ 19 - 2) 7 0 (ending [(5, 1)] none)
    let t := after (.resetComplete 5 1) s
    (usableIn s 7)[17]? = some 18 ∧ fieldIn t R.CORE_STATUS_PCORE 143 0 = 151 ∧ fieldIn t R.CORE_STATUS_PCORE 126 0 = 134 ∧
      fieldIn t R.DEV_FIELD_MAP_SPARE_POS 7 0 = 31 := by decide +kernel

theorem test_heartbeats :
    let t := after (.heartbeat .firmware 5) (put R.RST_MON_MISSED 2 0 0 world)
    let on (b : Bool) (n : Nat) : State := { put R.RST_MON_ARMED 1 0 0 (put R.RST_MON_MISSED n 0 0 world) with rst := { world.rst with beat := b } }
    fieldIn t R.RST_HEART_BEAT 0 0 = 5 ∧ fieldIn t R.RST_MON_MISSED 0 0 = 0 ∧ t.rst.beat = true ∧
      after (.heartbeat .host 5) world = withField world R.RST_MON_FOREIGN 1 ∧
      fieldIn (after .heartbeatPeriod (on true 2)) R.RST_MON_MISSED 0 0 = 0 ∧ fieldIn (after .heartbeatPeriod (on false 2)) R.RST_MON_MISSED 0 0 = 3 ∧
      (after .heartbeatPeriod (on false 3)).rst.running = [(3, 0)] := by decide +kernel
theorem test_awaiting : world.rst.awaiting = false ∧ fabric.rst.running = [] ∧
    fieldIn { world with rst := { world.rst with awaiting := true } } R.RST_MON_ARMED 0 0 = 0 := by decide +kernel
/-- Core 143 runs and is watched; its hang makes no retirement. -/
def watching (w : Option Nat) : State :=
  let s := put R.RST_HANGCFG_LIMIT 0 0 0 (put R.CORE_STATUS_RUN 1 143 0 (put R.CORE_RETIRED_COUNT 6 143 0 fabric))
  { s with cores := FMap.set core0 [] 143 { watched := w } }
theorem test_hangCheck :
    let idle := put R.CORE_STATUS_RUN 0 143 0 (watching (some 6))
    watchedIn (watching (some 6)) 143 = true ∧ watchedIn idle 143 = false ∧ (FMap.get core0 (after (.coreHangCheck 143) idle).cores 143).watched = none ∧
      (FMap.get core0 (after (.coreHangCheck 143) (watching (some 5))).cores 143).watched = some 6 ∧
      (after (.coreHangCheck 143) (watching (some 6))).rst.running = [(1, 143)] ∧ phaseIn (watching none) = 4 := by decide +kernel
theorem test_retirement :
    let t := after (.coreRetirement 151) fabric
    let u := after (.coreRetirement 150) fabric
    logicalOf fabric 151 = none ∧ fieldIn fabric R.DEV_FIELD_MAP_SPARE_POS 7 0 = 18 ∧ bitN (fieldIn fabric R.DEV_FIELD_MAP_USABLE 7 0) 18 = true ∧
      fieldIn t R.DEV_FIELD_MAP_SPARE_POS 7 0 = 31 ∧ fieldIn t R.DEV_FIELD_MAP_PENDING 7 0 = 1 ∧ logicalOf fabric 150 = some 143 ∧
      (clauseOfIn fabric 143).map (·.num) = some 3 ∧ u.rst.running = [(2, 3)] ∧ u.rst.fenced = [150] := by decide +kernel

/-! The host interface and firmware. -/

/-- The link is up and memory accesses are enabled. -/
def hosted (s : State) : State :=
  let s := put R.HOST_LINK_UP 1 0 0 s
  { s with pcie := { s.pcie with memEnable := true } }

/-- Queue 63 with 16 entries, head 14 and tail 2, of a completion queue 63 likewise with head 14 and tail 12; the module is READY. -/
def queued : State :=
  let s := put R.HOST_SQA_SIZE 4 63 0 (put R.HOST_SQA_STATE 1 63 0 (put R.HOST_SQA_EN 1 63 0 (put R.HOST_SQA_CQ 63 63 0 (hosted fabric))))
  let s := put R.HOST_SQB_HEAD 14 63 0 (put R.HOST_SQB_TAIL 2 63 0 (put R.HOST_CQB_EN 1 63 0 (put R.HOST_CQB_SIZE 4 63 0 s)))
  put R.HOST_CQB_HEAD 14 63 0 (put R.HOST_CQB_TAIL 12 63 0 (put R.DEV_MOOD_SEC 2 0 0 s))
theorem test_sqDoorbell :
    after (.sqDoorbell 63 3) queued = withField queued R.HOST_SQB_TAIL 3 63 ∧
      after (.sqDoorbell 63 1) queued = withField (withField queued R.HOST_SQA_STATE 2 63) R.HOST_SQB_ERR 1 63 ∧
      after (.sqDoorbell 63 16) queued = withField (withField queued R.HOST_SQA_STATE 2 63) R.HOST_SQB_ERR 1 63 ∧
      after (.sqDoorbell 0 3) queued = withField queued R.HOST_CNT_DISCARDED 1 ∧
      after (.cqDoorbell 0 3) queued = withField queued R.HOST_CNT_DISCARDED 1 ∧ phaseIn queued = 4 ∧ barsOnIn queued = true ∧ barsOnIn fabric = false ∧ phaseIn fabric = 4 ∧
      after (.sqDoorbell 63 3) fabric = fabric ∧ after (.msixTableWrite 0xF0000 8 9) fabric = fabric := by decide +kernel
/-- The completion queue full, with an entry that waits. -/
def fullCq : State :=
  let s := put R.HOST_CQB_TAIL 13 63 0 queued
  { s with pcie := { s.pcie with waiting := [(63, List.replicate 16 0)] } }
theorem test_cqDoorbell :
    after (.cqDoorbell 63 0) queued = withField queued R.HOST_CQB_HEAD 0 63 ∧
      fieldIn (after (.cqDoorbell 63 13) queued) R.HOST_SQA_STATE 63 0 = 2 ∧ fieldIn (after (.cqDoorbell 63 16) queued) R.HOST_SQB_ERR 63 0 = 1 ∧
      cqFullIn (withField fullCq R.HOST_CQB_HEAD 15 63) 63 = false ∧ fullCq.pcie.waiting.find? (fun w => w.1 == 63) = some (63, List.replicate 16 0) ∧
      (after (.cqDoorbell 63 15) fullCq).out.length = fullCq.out.length + 1 := by decide +kernel
theorem test_queueEnable :
    let a : Word := BitVec.ofNat 64 (2 ^ 53 + 4 * 2 ^ 48)
    bitsOf a 53 1 = 1 ∧ (findReg (R.HOST_SQA_BASE.addr 63 0)).any (fun r => wordTaken r.1 a) = true ∧
      (findReg (R.HOST_CQB_EN.addr 63 0)).any (fun r => wordTaken r.1 (BitVec.ofNat 64 (16 + 4 + 63 * 32))) = true ∧
      fieldIn (after (.queueEnable (R.HOST_SQA_BASE.addr 63 0) a) fabric) R.HOST_SQA_STATE 63 0 = 1 ∧
      fieldIn (after (.queueEnable (R.HOST_CQB_EN.addr 63 0) (BitVec.ofNat 64 (16 + 4 + 63 * 32))) fabric) R.HOST_CQB_PHASE 63 0 = 1 := by decide +kernel
theorem test_msix :
    let s : State := { hosted fabric with pcie := { (hosted fabric).pcie with msixEnable := true }, msix := FMap.set msix0 [] 63 { mask := true, pend := true, addr := 5 } }
    (after (.msixTableWrite (0xF0000 + 16 * 63 + 12) 4 0) s).out = s.out ++ [.msix 63] ∧
      (FMap.get msix0 (after (.msixTableWrite (0xF0000 + 16 * 63) 8 9) s).msix 63).addr = 9 := by decide +kernel
theorem test_configuration :
    fabric.pcie.memEnable = false ∧ (after (.configurationWrite 0 39) fabric).pcie.bar2 = 39 ∧ (after (.configurationWrite 3 3) fabric).pcie.d3hot = true ∧
      (after (.configurationWrite 5 0xC000) fabric).pcie.msixMask = true ∧ (after (.configurationWrite 4 2) fabric).pcie.maxPayload = 2 ∧
      (after (.configurationWrite 6 (1 <<< 12)) { fabric with pcie := { fabric.pcie with aer := 0x5000 } }).pcie.aer = 0x4000 := by decide +kernel
theorem test_enableSends :
    let s : State := { put R.HOST_LINK_UP 1 0 0 fabric with msix := FMap.set msix0 [] 63 { mask := false, pend := true } }
    Out.msix 63 ∈ (after (.configurationWrite 5 0x8000) s).out ∧ (FMap.get msix0 (after (.configurationWrite 5 0x4000) s).msix 63).pend = true := by
  decide +kernel

theorem test_barsBeforeReady : phaseIn (hosted world) ≠ 4 ∧ bar2In (hosted world) (2 ^ 36 - 8) 8 = true ∧ bar2In (hosted world) (2 ^ 36 - 7) 8 = false ∧
    after (.hostBar2Read (2 ^ 36 - 8) 8) (hosted world) = sends (hosted world) (.barReply 0 (List.replicate 8 0)) := by decide +kernel

theorem test_commandTaken :
    let s := put R.HOST_SQB_HEAD 15 63 0 queued
    hostWriteOut s = false ∧ (turnOrder s).find? (waitingIn s) = some 63 ∧ noRoomIn s 63 = false ∧ fieldIn s R.HOST_SQA_KIND 63 0 = 0 ∧
      (match gives s (rdGddr (fieldIn s R.HOST_SQA_BASE 63 0 / 4096 * 4096 + 64 * 15) 64) with | (.ok (0, e), t) => fieldAt e 0 1 == 0 && decide (t = s) | _ => false) = true ∧
      (given s (do
        eff (.pcie { s.pcie with turn := 0 })
        setF R.HOST_SQB_HEAD 0 63
        controlCommand 63 (List.replicate 64 0) ⟨0, []⟩)).isOk = true ∧
      fieldIn (after (.commandTake ⟨0, []⟩) s) R.HOST_SQB_HEAD 63 0 = 0 := by decide +kernel
/-- A job order: number 6, no tree, tense 1, one release, context 1 of clause 3. -/
def order : List Byte :=
  leBytes 2 6 ++ leBytes 2 0xFFFF ++ leBytes 4 1 ++ leBytes 4 1 ++ leBytes 4 1 ++ leBytes 48 0 ++ [3, 1, 1, 0] ++ leBytes 6 0x1000 ++ leBytes 6 0 ++
    leBytes 240 0 ++ leBytes 2 100 ++ leBytes 2 7
theorem test_jobOrder :
    jobCheck queued order = (Cmd.ok, 0, 0, 1) ∧ jobCheck fabric order = (Cmd.mood, 0, 0, 0) ∧ kvBusyIn queued = false ∧ queued.kv.queue = [] ∧
      seqsOfJob queued 6 = [] := by decide +kernel
/-- Job 5 in slot 0 in a state. -/
def holding (state : Nat) (v : Job) : State :=
  { put R.CJ_JOBA_TREE 0xFFFF 0 0 (put R.CJ_JOBA_JOB 5 0 0 (put R.CJ_JOBA_STATE state 0 0 queued)) with
    jobs := FMap.set job0 [] 0 { v with map := [(100, 7)], committed := 8, ctxs := [⟨3, 0, 0, 0x1000⟩] } }
theorem test_jobCommands :
    operatingIn (holding 1 {}) 2 = true ∧ jobSlotIn (holding 1 {}) 5 = some 0 ∧ treeIn (holding 1 {}) 0 = none ∧
      fieldIn (holding 1 {}) R.PWR_STATE_STATE 0 0 < 2 ∧
      jobOf (after (.advance 63 7 5 9) (holding 2 { isOpen := true })) 0 = { jobOf (holding 2 { isOpen := true }) 0 with release := 9 } ∧
      (after (.advance 63 7 5 0) (holding 2 {})).jobs = (holding 2 {}).jobs ∧ idleIn (holding 2 { isOpen := true }) 0 = false ∧
      idleIn (holding 1 {}) 0 = true ∧ jobOf (after (.endJob 63 7 5) (holding 4 {})) 0 = {} ∧
      (after (.endJob 63 7 5) (holding 2 { isOpen := true })).jobs = (holding 2 { isOpen := true }).jobs := by decide +kernel

theorem test_bar2 :
    let s := put R.HOST_WIN_BASE (100 * 2 ^ 48 + 0x400000000000) 0 0 (hosted fabric)
    let x : State := { s with pcie := { s.pcie with host := [⟨bar2Addr s 64, 8, none, false⟩] } }
    bar2Addr s 64 / 2 ^ 48 = chipIn s ∧ bar2Addr s 64 % 2 ^ 48 = 0x400000000000 + 64 ∧ bar2In s 64 8 = true ∧ s.pcie.host = [] ∧ hostWriteOut s = false ∧
      (given s (do eff (.pcie x.pcie); busRead .host (0x400000000000 + 64) 8)).toOption = some (0, List.replicate 8 0, []) ∧
      (given s (do eff (.pcie { s.pcie with host := [⟨bar2Addr s 64, 8, some (leBytes 8 5), false⟩] }); busWrite .host (0x400000000000 + 64) (leBytes 8 5))).toOption
        = some (0, []) := by decide +kernel
theorem test_bar2Fails :
    let s := put R.HOST_WIN_BASE (100 * 2 ^ 48 + 0xD00000000000) 0 0 (hosted fabric)
    let v := put R.HOST_WIN_BASE (100 * 2 ^ 48 + 0x800000000000) 0 0 (hosted fabric)
    Out.barReply 2 [] ∈ (after (.hostBar2Read 64 8) s).out ∧ fieldIn (after (.hostBar2Read 64 8) s) R.HOST_ERR_STATUS 0 0 = Status.noRoute ∧
      Out.barReply 1 (List.replicate 8 0) ∈ (after (.hostBar2Read 64 8) v).out ∧
      fieldIn (after (.hostBar2Read 64 8) v) R.HOST_ERR_STATUS 0 0 = Status.poison := by decide +kernel
theorem test_registerAccess :
    let o := R.SP_SCRUB_INTERVAL.addr 0 0
    let fabric := hosted fabric
    let world := hosted world
    barsOnIn fabric = true ∧ hostQueuedIn fabric = false ∧
        (findReg o).isSome = true ∧ responds fabric .host o = true ∧ responds world .host o = false ∧ o % 8 = 0 ∧ findReg 0x3FFFFF8 = none ∧
      after (.registerRead .host o 8) fabric = sends { fabric with regs := FMap.set resetValue fabric.regs o (FMap.get resetValue fabric.regs o) }
        (.regReply .host 64) ∧
      after (.registerRead .host o 8) world = sends world (.regReply .host 0) ∧ after (.registerRead .host o 4) fabric = sends fabric (.regReply .host 64) ∧
      after (.registerWrite .host o 4 9) fabric = fabric ∧ fieldIn (after (.registerWrite .host o 8 9) fabric) R.SP_SCRUB_INTERVAL 0 0 = 9 := by decide +kernel
theorem test_specialWrites :
    (match findReg (R.SP_SCRUB_INTERVAL.addr 0 0) with
      | some (r, i, j) => (specialWrite (s0 := fabric) .host r.base i j (R.SP_SCRUB_INTERVAL.addr 0 0) 9).isNone | none => false) = true ∧
    (match findReg (R.PWR_VREQ_REQUEST.addr 7 0) with
      | some (r, i, j) => (match specialWrite (s0 := fabric) .host r.base i j (R.PWR_VREQ_REQUEST.addr 7 0) 700 with
        | some m => (given fabric m).isOk | none => false) | none => false) = true := by decide +kernel
theorem test_doe :
    let s := hosted fabric
    let b : State := { s with pcie := { s.pcie with doeBusy := true } }
    s.pins.pwrgd = true ∧ s.pwr.conversion = true ∧ fieldIn s R.HOST_LINK_UP 0 0 = 1 ∧ s.pcie.doeBusy = false ∧
      after (.doeObject [1, 0, 1, 0]) b = sends b .doeBusy ∧ after (.doeObject [1, 0, 1, 0]) s = b ∧ fieldAt [1, 0, 0, 0] 2 1 = 0 ∧ after (.doeObject [2, 0, 1, 0]) s = s := by decide +kernel

/-- The link may train. -/
def training : State :=
  { put R.INT_LOGC_EN 0 0 0 fabric with pins := { fabric.pins with perst := false }, pcie := { fabric.pcie with resetDue := true } }
theorem test_linkTraining :
    let t := after (.linkTraining 0x0F 5) training
    fieldIn t R.HOST_LINK_UP 0 0 = 1 ∧ fieldIn t R.HOST_LINK_WIDTH 0 0 = 4 ∧ fieldIn t R.HOST_LINK_DEGRADED 0 0 = 1 ∧ fieldIn t R.HOST_LINK_SPEED 0 0 = 5 ∧
      after (.linkTraining 0x0F 5) { training with pins := { training.pins with perst := true } } = { training with pins := { training.pins with perst := true } } := by
  decide +kernel
theorem test_linkLost :
    let s := put R.HOST_LINK_UP 1 0 0 (put R.HOST_SQA_EN 1 63 0 (put R.RST_STATUS_PHASE 2 0 0 training))
    let t := after .perst s
    s.rst.running.any (fun r => coversIn s r (4, 112)) = false ∧ fieldIn t R.HOST_LINK_UP 0 0 = 0 ∧ fieldIn t R.HOST_SQA_EN 63 0 = 0 ∧
      (4, 112) ∈ t.rst.running ∧ fieldIn t R.RST_STATUS_CAUSE 0 0 = 7 ∧ fieldIn t R.RST_STATUS_PHASE 0 0 = 1 ∧ fieldIn t R.RST_FW_STAT_ERR 0 0 = 2 ∧
      (after .perstRelease t).pins.perst = false ∧ fieldIn (after .hotReset s) R.RST_STATUS_CAUSE 0 0 = 9 := by decide +kernel
theorem test_firmwareStart :
    let s := put R.RST_STATUS_PHASE 1 0 0 (hosted fabric)
    let t := after (.firmwareStart ⟨0, []⟩) s
    hostStatusIn s 0 = Status.ok ∧ imageCheck s 0 Status.ok [] ≠ 0 ∧ fieldIn t R.RST_FW_STAT_ERR 0 0 = imageCheck s 0 Status.ok [] ∧ fieldIn t R.RST_STATUS_PHASE 0 0 = 1 ∧
      after (.firmwareStart ⟨0, []⟩) fabric = fabric := by decide +kernel
theorem test_firmwareAccepted :
    let s := put R.RST_STATUS_PHASE 3 0 0 fabric
    let s : State := { s with rst := { s.rst with accepted := true } }
    let t := after (.firmwareAccepted [0x7FFFE] 2) s
    phaseIn s = 3 ∧ s.rst.running = [] ∧ fieldIn t R.RST_STATUS_PHASE 0 0 = 4 ∧ fieldIn t R.DEV_FIELD_MAP_USABLE 0 0 = 0x7FFFE ∧
      fieldIn t R.CORE_STATUS_PCORE 17 0 = 18 ∧ fieldIn t R.GD_STATUS_STATE 1 0 = 1 ∧ fieldIn t R.GD_STATUS_STATE 31 0 = 3 := by decide +kernel

/-! Power and temperature. -/

/-- READY in Operating with the input at 48 V, records of class C not kept, job 0 at an open tense. -/
def powered : State :=
  { put R.CJ_JOBA_STATE 2 0 0 (put R.INT_LOGC_EN 0 0 0 fabric) with
    jobs := FMap.set job0 [] 0 { isOpen := true }, pins := { fabric.pins with vin := 48000 } }
theorem test_warnings :
    let w := put R.PWR_ALERT_WARN 1 0 0 powered
    let t := after (.warningEntered 37999) powered
    (after (.warningEntered 34000) w).pwr.lowest = min w.pwr.lowest 34000 ∧ fieldIn (after (.warningEntered 34000) w) R.PWR_INPUT_VIN 0 0 = 34000 ∧
      powered.pins.pwrgd = true ∧ fieldIn t R.PWR_ALERT_WARN 0 0 = 1 ∧
      fieldIn t R.PWR_VREQ_GRANT 7 0 = 650 ∧ (jobOf t 0).touched = true ∧ powerIn powered < 2 ∧
      fieldIn (after (.warningCleared 5) w) R.PWR_ALERT_WARN 0 0 = 0 ∧ after (.warningCleared 5) powered = powered ∧
      after (.railOutOfRegulation 4700) powered = powered ∧ after (.railOutOfRegulation 5300) powered = powered := by decide +kernel
theorem test_powerLost :
    (after .inputBelowReset powered).jobs = [] ∧ (after (.railOutOfRegulation 4699) powered).jobs = [] ∧
      (after (.railOutOfRegulation 5301) powered).jobs = [] ∧ poweredIn powered = true ∧ (after (.cappingTick 0 50001) powered).jobs = [] ∧
      (after (.cappingTick 0 50000) powered).jobs = powered.jobs ∧ (after .thermtrip powered).pins.thermtrip = true := by decide +kernel
theorem test_capping :
    let cap := effectiveCap powered 48000
    let floor : State := { powered with pwr := { powered.pwr with capGrant := List.replicate 8 650 } }
    let low (m : Nat) : State := { put R.MX_LIMIT_LIMIT m 0 0 powered with pwr := { powered.pwr with capGrant := List.replicate 8 840, below := 9 } }
    cap < 65535 ∧ 0 < cap ∧ (after (.cappingTick 65535 48000) powered).pwr.capGrant = List.replicate 8 840 ∧
      fieldIn (after (.cappingTick 65535 48000) powered) R.MX_LIMIT_LIMIT 0 0 = 16 ∧
      fieldIn (after (.cappingTick 65535 48000) floor) R.MX_LIMIT_LIMIT 0 0 = 15 ∧
      (after (.cappingTick 0 48000) (low 16)).pwr.capGrant = List.replicate 8 850 ∧
      fieldIn (after (.cappingTick 0 48000) (low 15)) R.MX_LIMIT_LIMIT 0 0 = 16 ∧
      (after (.cappingTick 0 48000) powered).pwr.capGrant = powered.pwr.capGrant := by decide +kernel
theorem test_current : fieldIn (after .fastCurrentLimit powered) R.MX_LIMIT_LIMIT 0 0 = 8 ∧
    fieldIn (after .fastCurrentLimit powered) R.PWR_ALERT_CURRENT 0 0 = 1 := by decide +kernel
/-- The readings of 72 sensors, all the same. -/
def temps (t : BitVec 16) : List (BitVec 16) := List.replicate 72 t
theorem test_thermal :
    (fieldTemp (temps 1030) 7).1 = 1030 ∧ (after (.thermalTick (temps 1030)) powered).pwr.thermGrant = List.replicate 8 840 ∧
      (after (.thermalTick (temps 1029)) powered).pwr.thermGrant = List.replicate 8 850 ∧
      fieldIn (after (.thermalTick (temps 1051)) powered) R.PWR_ALERT_THERM 0 0 = 1 ∧
      fieldIn (after (.thermalTick (temps 1000)) powered) R.PWR_VREQ_TJ 7 0 = 1000 := by decide +kernel
theorem test_samples :
    let t := after (.sensorSample ⟨48000, 9, 8, 5000, [3, 4], List.replicate 8 700, List.replicate 8 600⟩) (put R.CORE_STATUS_RUN 1 143 0 powered)
    fieldIn t R.PWR_INPUT_VIN 0 0 = 48000 ∧ fieldIn t R.DEV_STEP_RATE_RATE 0 0 = 0 ∧ fieldIn t R.DEV_STEP_RATE_RATE 1 0 = 4 ∧
      t.pwr.rail.getD 7 0 = 700 ∧ fieldIn t R.PWR_VREQ_TJ 7 0 = 600 := by decide +kernel
theorem test_voltageRequest :
    let t := after (.vreqWrite 7 655) powered
    fieldIn t R.PWR_VREQ_REQUEST 7 0 = 655 ∧ fieldIn t R.PWR_VREQ_GRANT 7 0 = 655 ∧ fieldIn t R.PWR_VREQ_REQUEST 6 0 = 720 ∧
      fieldIn (after (.vreqWrite 7 649) powered) R.PWR_VREQ_REQUEST 7 0 = 720 ∧ fieldIn (after (.vreqWrite 7 653) powered) R.PWR_VREQ_REQUEST 7 0 = 720 ∧
      (powered.pwr.capping == cappedIn t) = true ∧ (let p := left powered regrant; (match gives p regrant with | (.ok (), u) => decide (u = p) | _ => false) = true ∧ after (.vreqWrite 7 649) p = p) ∧
      powerIn t = 0 ∧ powerIn (after (.vreqWrite 7 720) (put R.PWR_ALERT_WARN 1 0 0 powered)) = 1 := by decide +kernel
/-- No job runs, in a power state. -/
def quietP (p : Nat) : State := put R.PWR_STATE_STATE p 0 0 (put R.CJ_JOBA_STATE 4 0 0 powered)
theorem test_powerOrders :
    jobsQuiet powered = false ∧ jobsQuiet (quietP 0) = true ∧ after .toP2 powered = withField powered R.PWR_STATE_ERR 1 ∧
      after .toP3 powered = withField powered R.PWR_STATE_ERR 1 ∧ after .toP2 (quietP 3) = withField (quietP 3) R.PWR_STATE_ERR 2 ∧
      (let s := put R.DEV_MOOD_DEBUG 2 0 0 (quietP 1); after .toP3 s = withField s R.PWR_STATE_ERR 3) ∧
      fieldIn powered R.PWR_STATE_BUSY 0 0 = 0 ∧ after .toP0 (put R.PWR_STATE_BUSY 1 0 0 (quietP 3)) = withField (put R.PWR_STATE_BUSY 1 0 0 (quietP 3)) R.PWR_STATE_ERR 1 ∧
      fieldIn (after .toP2 (quietP 1)) R.PWR_VREQ_GRANT 7 0 = 550 ∧ powerIn (after .toP2 (quietP 0)) = 2 ∧ powerIn (after .toP0 (quietP 2)) = 0 := by
  decide +kernel
theorem test_p3 :
    let t := after .toP3 (quietP 0)
    powerIn t = 3 ∧ fieldIn t R.FAB_LSTAT_STATE 40 0 = 0 ∧ fieldIn t R.GD_STATUS_STATE 31 0 = 2 ∧ fieldIn (quietP 3) R.PWR_STATE_BUSY 0 0 = 0 := by
  decide +kernel
theorem test_powerUp :
    let off : State := { State.reset with pins := { State.reset.pins with pwrgd := false } }
    let low : State := { State.reset with pins := { State.reset.pins with pwrgd := true, vin := 38999 } }
    off.pins.pwrgd = false ∧ low.pwr.conversion = false ∧ low.pins.thermtrip = false ∧
      after (.pwrgdAssert 48000 [7]) powered = powered ∧ (after (.pwrgdAssert 38999 [7]) off).pins.vin = 38999 ∧
      after (.vinReaches39v [7]) powered = powered ∧ after .pwrgdDeassert off = off ∧ (after .pwrgdDeassert powered).pins.pwrgd = false ∧
      phaseIn (after (.pwrgdAssert 50001 [7]) off) = phaseIn off ∧ powered.rst.running = [] := by decide +kernel

/-! Roles, moods and the register of changes. -/

/-- READY in a security state, with the user's key enrolled in both roles, a site record, FPRINT 77 and the fabric time set. -/
def secured (sec : Nat) : State :=
  let s := put R.DEV_MOOD_SEC sec 0 0 (put R.SEC_FPRINT_FPRINT 77 0 0 (put R.MGT_TIME_SET 1 0 0 fabric))
  { s with sec := { s.sec with installer := [userKey], operator := [userKey], site := some [] } }
/-- A signed command (R506): role, operation, SEQ 3, payload and signature, which RFC 8032 gives. -/
def signedC (role op : Byte) (payload : List Byte) (sig : Nat) : List Byte :=
  leBytes 4 0x444D4353 ++ leBytes 2 1 ++ [role, op] ++ leBytes 4 (128 + payload.length) ++ leBytes 4 0 ++ leBytes 8 77 ++ leBytes 8 3 ++
    leBytes 8 userKeyId ++ leBytes 24 0 ++ payload ++ leBytes 64 sig
theorem test_installerKey :
    let d := signedC 1 3 ([3] ++ leBytes 7 0 ++ leBytes 32 userKey.toNat ++ leBytes 24 0)
      415856663287612586482724969374502838596704491534164561301667839665224514020291901313006397154234104696063356471429873763437897127008168699065756661334722
    secCheck (secured 1) d d.length = 0 ∧ 128 ≤ d.length ∧ fieldAt d 7 1 = 3 := by decide +kernel
theorem test_operatorKey :
    let d := signedC 1 16 ([15] ++ leBytes 7 0 ++ leBytes 32 userKey.toNat ++ leBytes 24 0)
      770414286105300649177577911372640545907740959373968203765673532062560720640008642919818229889723623405483759480940693707526630653418390274333055858204250
    secCheck (secured 1) d d.length = 0 ∧ 128 ≤ d.length ∧ fieldAt d 7 1 = 16 := by decide +kernel
theorem test_powerCap :
    let d := signedC 1 17 (leBytes 64 2600)
      760444095226641264293286457086868643240992140688275461281339130691216995854662146625493150520377629953081215207144067339592067676685245789074861521099402
    secCheck (secured 2) d d.length = 0 ∧ 128 ≤ d.length ∧ fieldAt d 7 1 = 17 := by decide +kernel
theorem test_site :
    let d := signedC 1 18 (leBytes 128 (1 + 7 * 256))
      438455976084968634068606968289598210858521046859106752595111302350068130049067690149155869836255020926674377642600036536879382192353764826683518435567729
    secCheck (secured 1) d d.length = 0 ∧ 128 ≤ d.length ∧ fieldAt d 7 1 = 18 := by decide +kernel
theorem test_seal :
    let d := signedC 1 19 ([])
      397117752866192699193702835164886245669975735728790930383661374667176409280254683023128831128799288123835154401126030186739540648009342584501734871582987
    secCheck (secured 1) d d.length = 0 ∧ 128 ≤ d.length ∧ fieldAt d 7 1 = 19 := by decide +kernel
theorem test_unseal :
    let d := signedC 1 20 ([])
      662271484110720715263053276596927850623180988496354009593696048737472356068809333819858254339678354302077638120647286794444328236071401027684570757265686
    secCheck (secured 2) d d.length = 0 ∧ 128 ≤ d.length ∧ fieldAt d 7 1 = 20 := by decide +kernel
theorem test_debug :
    let d := signedC 1 32 (leBytes 64 2)
      794833847741911236854285511649798449347088497945115182391121846164699964173157005714989383182260391009716768443310293450290563248910136237068510443727469
    secCheck (secured 1) d d.length = 0 ∧ 128 ≤ d.length ∧ fieldAt d 7 1 = 32 := by decide +kernel
theorem test_grant :
    let d := signedC 2 33 (leBytes 64 9)
      460933766139222313756616696166064895236647839201413550663115768299540025772196760800207244794962897125413242810323885058871400548685737317470205558248806
    secCheck (secured 2) d d.length = 0 ∧ 128 ≤ d.length ∧ fieldAt d 7 1 = 33 := by decide +kernel
theorem test_securityHypotheses : phaseIn (secured 1) = 4 ∧ (secured 1).load = none ∧ portUpIn (secured 1) = true ∧
    fieldIn (secured 1) R.SEC_CSTAT_BUSY 0 0 = 0 ∧ (secured 1).sec.flashBad = false ∧
    secCheck (secured 1) (List.replicate 128 0) 128 ≠ 0 := by decide +kernel
theorem test_secBytes :
    let s := put R.SEC_CSTAT_BUSY 1 0 0 (put R.SEC_CLEN_LENGTH 128 0 0 (put R.SEC_CSRC_ADDR (100 * 2 ^ 48 + 0x400000000000) 0 0 (secured 1)))
    (match gives s secBytes with | (.ok (some d), t) => d.length == fieldIn s R.SEC_CLEN_LENGTH 0 0 && decide (t = s) | _ => false) = true := by
  decide +kernel
/-- A grant in force until 5 ns, and fabric time. -/
def granted (ns : Nat) : State :=
  let s := put R.SEC_GRANT_NOT_AFTER 5 0 0 (put R.DEV_MOOD_DEBUG 2 0 0 (secured 2))
  { s with mgt := { s.mgt with time := ns * 781250 } }
theorem test_grantEnds : fabricNsIn (granted 5) = 5 ∧ fieldIn (after .grantEnd (granted 5)) R.DEV_MOOD_DEBUG 0 0 = 0 ∧
    after .grantEnd (granted 4) = granted 4 := by decide +kernel
/-- Core 143 runs where HALT is permitted, halted or not. -/
def haltable (h : Nat) : State :=
  put R.SEC_HALT_HALT h 143 0 (put R.SEC_HALT_HALTED h 143 0 (put R.CORE_STATUS_RUN (1 + h) 143 0 (put R.DEV_MOOD_DEBUG 2 0 0 (put R.DEV_MOOD_SEC 1 0 0 running))))
theorem test_halt :
    let t := after (.halt 143 1) (haltable 0)
    let u := after (.halt 143 0) (haltable 1)
    moodAllows (haltable 0) [0, 1, 2] [2] 2 = true ∧ after (.halt 143 1) running = running ∧ fieldIn t R.SEC_HALT_HALTED 143 0 = 1 ∧
      fieldIn t R.CORE_STATUS_RUN 143 0 = 2 ∧ fieldIn u R.SEC_HALT_HALTED 143 0 = 0 ∧
      (FMap.get ctx0 (haltable 0).ctxs (here (haltable 0) 143)).sentence = none := by decide +kernel
/-- The fetch of a step. -/
def steps (s : State) : M s (Option (BitVec 512)) := do
  modCore 143 (fun c => { c with stepping := true })
  modCore 143 (fun c => { c with stepping := false })
  modCtx 143 0 (fun c => { c with yielded := false })
  fetchSentence 143 0
theorem test_stepHypotheses :
    let s := haltable 1
    worksIn s 143 = true ∧ haltedIn s 143 = true ∧ lowVoltageIn s 143 = false ∧ runnableIn s 143 0 = true ∧ switchDueIn s 143 0 = false ∧
      0 < fieldIn s R.CORE_CTX_QUOTA_LEFT 143 0 ∧ (FMap.get ctx0 s.ctxs (here s 143)).yielded = false := by decide +kernel
theorem test_stepFetch :
    let s := haltable 1
    (match gives s (steps s) with
      | (.ok (some raw), t) => raw == 0 && decide (t.ctxs = FMap.set ctx0 s.ctxs (here s 143) { FMap.get ctx0 s.ctxs (here s 143) with yielded := false }) &&
          fieldIn t R.CORE_CTX_QUOTA_LEFT 143 0 == fieldIn s R.CORE_CTX_QUOTA_LEFT 143 0 && fieldIn t R.SEC_HALT_HALT 143 0 == 1 && FMap.wf resetValue t.regs
      | _ => false) = true := by decide +kernel
/-- The register of changes with one entry of zeros, which a copy asks for, after some that are no longer held. -/
def logged (held : Nat) : State :=
  let s := put R.SEC_LOGRD_IDX_INDEX 0 0 0 (put R.SEC_LOGRD_IDX_COUNT 1 0 0 (secured 1))
  { s with log := [List.replicate 256 0], sec := { s.sec with firstHeld := held } }
theorem test_logCopy :
    let v : Word := BitVec.ofNat 64 (2 ^ 48)
    let bad : Word := BitVec.ofNat 64 (2 ^ 48 + 8)
    (findReg (R.SEC_LOGRD_DST_ADDR.addr 0 0)).any (fun r => wordTaken r.1 v) = true ∧
      (findReg (R.SEC_LOGRD_DST_ADDR.addr 0 0)).any (fun r => wordTaken r.1 bad) = false ∧ after (.logCopy bad) (logged 0) = logged 0 ∧ poweredIn (logged 0) = true ∧
      (let s : State := { logged 0 with pins := State.reset.pins }; poweredIn s = false ∧ after (.logCopy v) s = s) ∧
      (logged 0).log[0]? = some (List.replicate 256 0) ∧ fieldIn (after (.logCopy v) (logged 1)) R.SEC_LOGRD_DST_MISSING 0 0 = 1 ∧
      (given (logged 0) (do
        plainWrite (R.SEC_LOGRD_DST_ADDR.addr 0 0) v
        setF R.SEC_LOGRD_DST_MISSING 0
        let _ ← wrGddr (bitsOf v 0 48) (List.replicate 256 0))).isOk = true := by decide +kernel
theorem test_logRetry :
    let s : State := { logged 0 with sec := { (logged 0).sec with flashBad := true, unwritten := [List.replicate 256 0] } }
    s.pins.pwrgd = true ∧ s.pwr.conversion = true ∧ s.log.length % segmentEntries ≠ 0 ∧ s.log.length % segmentEntries + s.sec.unwritten.length ≤ segmentEntries ∧
      after (.logRetry false) s = s ∧ (after (.logRetry true) s).sec.unwritten = [] ∧ (after (.logRetry true) s).log.length = 2 ∧
      after (.logRetry true) State.reset = State.reset := by decide +kernel

/-! SPDM. -/

/-- The states `Obligations.SpdmAnswers` speaks of: by phase, identity and stage of the connections. -/
def spdmS (phase idfail stage : Nat) : State :=
  { put R.RST_STATUS_PHASE phase 0 0 (put R.DEV_MOOD_IDFAIL idfail 0 0 fabric) with spdm := [stage, stage] }
theorem test_spdmHypotheses :
    let s := spdmS 3 0 2
    s.pins.pwrgd = true ∧ s.pwr.conversion = true ∧ portUpIn s = true ∧ phaseIn (spdmS 2 0 0) < 3 ∧ 3 ≤ phaseIn (spdmS 3 1 3) ∧
      fieldIn (spdmS 3 1 3) R.DEV_MOOD_IDFAIL 0 0 = 1 ∧ fieldIn s R.DEV_MOOD_IDFAIL 0 0 = 0 ∧ s.spdm.getD (portOf .mctp) 0 = 2 ∧
      s.spdm.getD (portOf .doe) 0 < min 7 4 - 1 ∧ min 3 4 - 1 ≤ s.spdm.getD (portOf .doe) 0 ∧ min 7 4 - 1 ≤ (spdmS 4 0 3).spdm.getD (portOf .doe) 0 ∧
      bitN (fieldAt [0x11, 0xE0, 1, 0xFF] 2 1) 0 = true ∧ bitN (fieldAt [0x11, 0xE0, 0, 0xFF] 2 1) 0 = false ∧
      (after (.negotiateAlgorithms .mctp []) s).spdm.getD (portOf .mctp) 0 = 3 := by decide +kernel

/-! The management port and fabric time. -/

/-- The port is up, with addresses; the module waits for firmware or is READY. -/
def managed (phase : Nat) : State := put R.RST_STATUS_PHASE phase 0 0 (put R.MGT_STATUS_DADDR 9 0 0 (put R.MGT_STATUS_EID 8 0 0 fabric))
theorem test_addresses :
    let s := managed 1
    portUpIn s = true ∧ after (.setdasa 0x30 0x7F) s = withField s R.MGT_STATUS_DADDR 0x7F ∧ after (.setdasa 0x31 0x7F) s = s ∧
      fieldIn (after (.entdaa 0x7F) s) R.MGT_STATUS_DADDR 0 0 = 0x7F := by decide +kernel
theorem test_targetReset :
    let t := after .targetReset (managed 4)
    (managed 4).rst.running = [] ∧ t.rst.running = [(4, 113)] ∧ fieldIn t R.MGT_STATUS_DADDR 0 0 = 0 ∧ fieldIn t R.MGT_STATUS_EID 0 0 = 0 ∧
      fieldIn t R.MGT_CNT_RESETS 0 0 = 1 := by decide +kernel
theorem test_vendorRefused :
    let heard (s : State) : State := withField s R.MGT_CNT_MESSAGES 1
    let busy := put R.SEC_CSTAT_BUSY 1 0 0 (managed 4)
    after .status (managed 3) = sends (heard (managed 3)) (.mgmt 0x09 Done.notReady 0 []) ∧
      after (.timeSet 5) busy = sends (heard busy) (.mgmt 0x08 Done.busy 0 []) ∧ fieldIn (managed 4) R.SEC_CSTAT_BUSY 0 0 = 0 ∧ (managed 4).load = none := by
  decide +kernel
theorem test_memory :
    let s := managed 4
    let top := 31457280 * 32 * 256
    inGddr s (top - 1) 1 = true ∧ inGddr s top 1 = false ∧
      (given s (do countWrap R.MGT_CNT_MESSAGES; wrMem (top - 256) (List.replicate 256 0))).toOption = some 0 ∧
      (given s (do countWrap R.MGT_CNT_MESSAGES; rdMem (top - 8) 8)).toOption = some (0, List.replicate 8 0) := by decide +kernel
/-- The lanes are idle, one of them FAILED, and a stream gives lane 40 a role. -/
def uncoordinated : State :=
  { put R.CJ_COORD_SET 0 0 0 (put R.FAB_ID_INC 0 0 0 (put R.FAB_LSTAT_ROLE 1 40 0 (put R.FAB_LSTAT_STATE 0 40 0 (put R.FAB_LSTAT_STATE 9 0 0 (managed 4))))) with
    stream := some { tiny with lanes := (List.range 48).map (fun i => ⟨if i = 40 then 1 else 0, false, false, 0⟩) } }
/-- COORDINATES: group, slot, chip and incarnation. -/
def coords (g n chip inc : Nat) : List Byte := leBytes 1 g ++ leBytes 1 n ++ leBytes 2 chip ++ leBytes 2 inc ++ leBytes 2 0
theorem test_coordinates :
    let s := uncoordinated
    let b := coords 1 63 127 5
    let t := after (.coordinates b) s
    let u := after (.coordinates (coords 1 63 126 5)) s
    b.length = 8 ∧ (List.range 48).all (fun i => [0, 8, 9].contains (fieldIn s R.FAB_LSTAT_STATE i 0)) = true ∧
      (s.stream.all (fun x => (routeFault x.lanes (x.routes.map routeBits) 1 63).isNone)) = true ∧ fieldIn s R.CJ_COORD_PREVINC 0 0 ≠ 5 ∧
      chipIn t = 127 ∧ fieldIn t R.FAB_ID_INC 0 0 = 5 ∧ fieldIn t R.CJ_COORD_SET 0 0 = 1 ∧ fieldIn t R.FAB_LSTAT_STATE 40 0 = 1 ∧
      fieldIn t R.FAB_LSTAT_STATE 0 0 = 9 ∧ fieldIn u R.CJ_COORD_REJECTS 0 0 = 1 ∧ chipIn u = chipIn s := by decide +kernel

/-- Fabric time n, set; an armed value. -/
def timed (n : Nat) (armed : Option Word) : State :=
  { put R.MGT_TIME_SET 1 0 0 (managed 4) with mgt := { (managed 4).mgt with time := n * 781250, armed } }
theorem test_timeSet :
    let t := after (.timeSet 5) (timed 7 none)
    t.mgt.armed = some 5 ∧ fieldIn t R.MGT_TIME_ARMED 0 0 = 1 ∧ fieldIn (after .timeSetExpiry (timed 7 (some 5))) R.MGT_TIME_EXPIRED 0 0 = 1 ∧
      after .timeSetExpiry (timed 7 none) = timed 7 none := by decide +kernel
theorem test_pps :
    let e := 10 ^ 9
    fabricNsIn (after .ppsEdge (timed 7 (some 99))) = 99 ∧ toSecond (fabricNsIn (timed (e + 10000) none)) = -10000 ∧
      (after .ppsEdge (timed (e + 10000) none)).mgt.slewCycles = 156250 ∧ (after .ppsEdge (timed (e - 10000) none)).mgt.slewNs = 10000 ∧
      (after .ppsEdge (timed (e + 10001) none)).mgt.slewCycles = 0 ∧ fieldIn (after .ppsEdge (timed (e + 10001) none)) R.MGT_TIME_BADPPS 0 0 = 1 ∧
      after .ppsEdge State.reset = State.reset ∧ State.reset.pwr.conversion = false := by decide +kernel

end Sys2Proof.Tests
end

section
/-! SUPPORT. Meanings that run to their end and make changes of a kind only, for what follows an access: the lanes send what they can. -/

namespace Sys2Proof.Machine

open Sys2Proof

variable {s0 : State} {α β : Type} {P : Eff → Prop}

/-- A meaning runs to its end from every state, and makes changes of a kind only. -/
def Ends (P : Eff → Prop) (m : M s0 α) : Prop := ∀ g, ∃ a h, eval m g = (.ok a, h) ∧ ReachBy P g.val h.val

theorem ends_pure (a : α) : Ends P (pure a : M s0 α) := fun g => ⟨a, g, rfl, .refl⟩
theorem ends_eff {e : Eff} (p : P e) : Ends P (eff e : M s0 Unit) := fun _ => ⟨_, _, rfl, ReachBy.refl.upd p⟩

theorem ends_bind {m : M s0 α} {f : α → M s0 β} (h : Ends P m) (k : ∀ a, Ends P (f a)) : Ends P (m >>= f) := by
  intro g
  obtain ⟨a, g1, e1, r1⟩ := h g
  obtain ⟨b, g2, e2, r2⟩ := k a g1
  exact ⟨b, g2, by rw [eval_bind_ok e1, e2], r1.trans r2⟩

theorem ends_ite {c : Prop} [Decidable c] {a b : M s0 α} (h : Ends P a) (k : Ends P b) : Ends P (if c then a else b) := by
  split <;> assumption

/-- A loop whose body ends each time, with nothing kept between the turns. -/
theorem ends_forIn {γ : Type} {l : List γ} {k : γ → PUnit → M s0 (ForInStep PUnit)} (h : ∀ a b, Ends P (k a b)) :
    Ends P (forIn l PUnit.unit k) := by
  induction l with
  | nil => exact ends_pure _
  | cons a l ih =>
    rw [List.forIn_cons]
    refine ends_bind (h a _) fun r => ?_
    cases r with
    | done b => exact ends_pure _
    | yield b => exact ih

theorem ends_getF (F : Fld) (i j : Nat) : Ends P (getF F i j : M s0 Nat) := fun g => ⟨_, g, rfl, .refl⟩
theorem ends_getLane (i : Nat) : Ends P (getLane i : M s0 Lane) := fun g => ⟨_, g, rfl, .refl⟩

/-- The kind of change that sending makes: the lanes, registers, what was sent and the counter of free values. -/
def sending : Eff → Prop := onlyParts [.lanes, .regs, .out, .fresh]

theorem sending_lane (i : Nat) (v : Lane) : sending (.lane i v) := by simp [sending, onlyParts]
theorem sending_reg (off : Nat) (v : Word) : sending (.reg off v) := by simp [sending, onlyParts]
theorem sending_out (o : Out) : sending (.out o) := by simp [sending, onlyParts]
theorem sending_fresh : sending .fresh := by simp [sending, onlyParts]

theorem ends_setF (F : Fld) (v i j : Nat) : Ends sending (setF F v i j : M s0 Unit) :=
  fun _ => ⟨_, _, rfl, ReachBy.refl.upd (sending_reg _ _)⟩
theorem ends_countSat (F : Fld) (i n : Nat) : Ends sending (countSat F i n : M s0 Unit) :=
  fun _ => ⟨_, _, rfl, ReachBy.refl.upd (sending_reg _ _)⟩
theorem ends_countWrap (F : Fld) (i n : Nat) : Ends sending (countWrap F i n : M s0 Unit) :=
  fun _ => ⟨_, _, rfl, ReachBy.refl.upd (sending_reg _ _)⟩
theorem ends_emit (o : Out) : Ends sending (emit o : M s0 Unit) := ends_eff (sending_out o)
theorem ends_setLane (i : Nat) (v : Lane) : Ends sending (setLane i v : M s0 Unit) := ends_eff (sending_lane i v)
theorem ends_modLane (i : Nat) (f : Lane → Lane) : Ends sending (modLane i f : M s0 Unit) :=
  fun _ => ⟨_, _, rfl, ReachBy.refl.upd (sending_lane _ _)⟩
theorem ends_freeWord : Ends sending (freeWord : M s0 Word) := fun _ => ⟨_, _, rfl, ReachBy.refl.upd sending_fresh⟩

/-! The lanes. -/

theorem ends_startTraining (i cause : Nat) (full : Bool) : Ends sending (startTraining i full cause : M s0 Unit) := by
  refine ends_bind (ends_getF _ _ _) fun _ => ends_ite (ends_bind (ends_modLane _ _) fun _ => ends_ite ?_ ?_) (ends_pure _)
  · exact ends_bind (ends_setF _ _ _ _) fun _ => ends_countWrap _ _ _
  · exact ends_bind (ends_setF _ _ _ _) fun _ => ends_bind (ends_setF _ _ _ _) fun _ => ends_countWrap _ _ _

theorem ends_sendFlit (i : Nat) (f : ReplayFlit) : Ends sending (sendFlit i f : M s0 Unit) := by
  refine ends_bind (ends_getF _ _ _) fun _ => ends_ite ?_ (ends_pure _)
  refine ends_bind (ends_getLane i) fun _ => ends_ite (ends_startTraining _ _ _) ?_
  exact ends_bind (ends_emit _) fun _ => ends_setLane _ _

theorem ends_newFlit (i kind first : Nat) (body : List Byte) (ps : List Packet) :
    Ends sending (newFlit i kind body first ps : M s0 Unit) :=
  ends_bind (ends_getLane i) fun _ => ends_bind (ends_setLane _ _) fun _ => ends_sendFlit _ _

theorem ends_controlBody : Ends sending (controlBody : M s0 (List Byte)) :=
  ends_bind ends_freeWord fun _ => ends_bind ends_freeWord fun _ => ends_pure _

theorem ends_sendControls (i : Nat) (cs : List (Nat × Nat × Nat)) : Ends sending (sendControls i cs : M s0 Unit) := by
  induction cs with
  | nil => exact ends_pure _
  | cons c cs ih =>
    refine ends_bind (ends_getF _ _ _) fun _ => ends_bind (ends_getLane i) fun _ => ends_ite ?_ (ends_pure _)
    refine ends_bind (ends_modLane _ _) fun _ => ends_bind (ends_emit _) fun _ => ?_
    exact ends_bind ends_controlBody fun _ => ends_bind (ends_newFlit _ _ _ _ _) fun _ => ih

theorem ends_pumpLane (i : Nat) : Ends sending (pumpLane i : M s0 Unit) := by
  refine ends_bind (ends_getLane i) fun _ => ends_bind (ends_sendControls _ _) fun _ => ?_
  refine ends_bind (ends_getLane i) fun _ => ends_bind (ends_getF _ _ _) fun _ => ends_ite ?_ (ends_pure _)
  refine ends_bind (ends_getLane _) fun _ => ends_bind (ends_setLane _ _) fun _ => ends_bind (ends_forIn fun p _ => ?_) fun _ => ?_
  · exact ends_bind (ends_emit _) fun _ => ends_pure _
  · exact ends_bind (ends_forIn fun _ _ => ends_bind (ends_newFlit _ _ _ _ _) fun _ => ends_pure _) fun _ => ends_pure _

/-- Sending what is queued always ends. -/
theorem ends_pumpAll : Ends sending (pumpAll : M s0 Unit) := by
  refine ends_bind (ends_forIn fun i _ => ?_) fun _ => ends_pure _
  exact ends_bind (ends_getLane i) fun _ => ends_ite (ends_bind (ends_pumpLane i) fun _ => ends_pure _) (ends_pure _)

/-! What sending leaves. -/

theorem sending_apply_gddr {e : Eff} (h : sending e) (t : State) : (e.apply t).gddr = t.gddr :=
  apply_gddr fun p => by simpa using h _ p
theorem sending_apply_spad {e : Eff} (h : sending e) (t : State) : (e.apply t).spad = t.spad :=
  apply_spad fun p => by simpa using h _ p
theorem sending_apply_pcie {e : Eff} (h : sending e) (t : State) : (e.apply t).pcie = t.pcie :=
  apply_pcie fun p => by simpa using h _ p

theorem ReachBy.sending_gddr {s t : State} (h : ReachBy sending s t) : t.gddr = s.gddr :=
  h.same State.gddr fun _ u p => sending_apply_gddr p u
theorem ReachBy.sending_spad {s t : State} (h : ReachBy sending s t) : t.spad = s.spad :=
  h.same State.spad fun _ u p => sending_apply_spad p u
theorem ReachBy.sending_pcie {s t : State} (h : ReachBy sending s t) : t.pcie = s.pcie :=
  h.same State.pcie fun _ u p => sending_apply_pcie p u

theorem ReachBy.reach {s t : State} (h : ReachBy P s t) : Reach s t := by
  induction h with
  | refl => exact .refl
  | upd _ _ ih => exact ih.upd _

/-- What was sent stays sent. -/
theorem ReachBy.mem_out {s t : State} (h : ReachBy P s t) {o : Out} (m : o ∈ s.out) : o ∈ t.out := by
  obtain ⟨more, e⟩ := h.reach.out_grows
  exact e ▸ List.mem_append_left more m

end Sys2Proof.Machine
end

section
/-! SUPPORT. An access of the host through BAR2 that no other waits before (R309, R327, R459, R460). -/

namespace Sys2Proof.Machine

open Sys2Proof

variable {s0 : State}

/-- The answer to a BAR read that ended with a status (R460). -/
def barAnswer (status : Nat) (d : List Byte) : Out :=
  if status = 0 then .barReply 0 d else if statusClassD status then .barReply 1 d else .barReply 2 []

/-- The statuses that are answered with poisoned data (R460). -/
theorem statusClassD_iff (n : Nat) : statusClassD n = true ↔
    n = Status.poison ∨ n = Status.checkFail ∨ n = Status.sizeMismatch ∨ n = Status.genMissing := by
  simp [statusClassD, Status.poison, Status.checkFail, Status.sizeMismatch, Status.genMissing, or_assoc]

/-- What a failed access leaves in HOST_ERR and its count (R460). -/
theorem ends_hostReply (status g : Nat) (d : List Byte) (write : Bool) : Ends sending (hostReply status d write g : M s0 Unit) := by
  refine ends_ite (ends_ite (ends_pure _) (ends_emit _)) ?_
  refine ends_bind (ends_countSat _ _ _) fun _ => ends_bind (ends_setF _ _ _ _) fun _ => ends_bind (ends_setF _ _ _ _) fun _ => ?_
  exact ends_bind (ends_setF _ _ _ _) fun _ => ends_bind (ends_setF _ _ _ _) fun _ => ends_ite (ends_emit _) (ends_pure _)

/-- A read is answered. -/
theorem eval_hostReply_read (status a : Nat) (d : List Byte) (g : Good s0) :
    ∃ h, eval (hostReply status d false a) g = (.ok (), h) ∧ ReachBy sending g.val h.val ∧ barAnswer status d ∈ h.val.out := by
  obtain ⟨_, h, e, r⟩ := ends_hostReply (s0 := s0) status a d false g
  refine ⟨h, e, r, ?_⟩
  by_cases z : status = 0
  · simp only [hostReply, z, if_true, Bool.false_eq_true, if_false, eval_emit, Prod.mk.injEq] at e
    simp [← e.2, barAnswer, z]
  · simp only [hostReply, z, if_false, eval_bind, eval_countSat, eval_setF, Bool.not_false, if_true, eval_emit, Prod.mk.injEq] at e
    simp [← e.2, barAnswer, z]

/-- An address of this module is its offset there (R306). -/
theorem eval_localOffset {a : Nat} {g : Good s0} (h : a / 2 ^ 48 = chipIn g.val) :
    eval (localOffset a) g = (.ok (some (a % 2 ^ 48)), g) := by
  show (Except.ok (if a / 2 ^ 48 = chipIn g.val then some (a % 2 ^ 48) else none), g) = _
  rw [if_pos h]

section
variable {x : HostOp} {g u : Good s0} {status : Nat} (hc : x.addr / 2 ^ 48 = chipIn g.val) (hl : x.lost = false)
include hc hl

/-- A read of this module's window that nothing is recorded of: what sending the answer leaves. -/
theorem eval_hostPerform_read {d : List Byte} (hd : x.data = none)
    (e : eval (busRead .host (x.addr % 2 ^ 48) x.size) g = (.ok (status, d, []), u)) :
    ∃ h, eval (hostPerform x) g = (.ok (), h) ∧ ReachBy sending u.val h.val ∧ barAnswer status d ∈ h.val.out := by
  obtain ⟨h, eh, r, m⟩ := eval_hostReply_read status x.addr d u
  refine ⟨h, ?_, r, m⟩
  rw [hostPerform, eval_bind_ok (eval_localOffset hc), hd]
  refine (eval_bind_ok e).trans ?_
  simpa [recordAll, eval_bind, hostAnswer, hl, hd] using eh

/-- A write of this module's window that nothing is recorded of. -/
theorem eval_hostPerform_write {bs : List Byte} (hd : x.data = some bs)
    (e : eval (busWrite .host (x.addr % 2 ^ 48) bs) g = (.ok (status, []), u)) :
    ∃ h, eval (hostPerform x) g = (.ok (), h) ∧ ReachBy sending u.val h.val := by
  obtain ⟨_, h, eh, r⟩ := ends_hostReply (s0 := s0) status x.addr [] true u
  refine ⟨h, ?_, r⟩
  rw [hostPerform, eval_bind_ok (eval_localOffset hc), hd]
  refine (eval_bind_ok e).trans ?_
  simpa [recordAll, eval_bind, hostAnswer, hl, hd] using eh

end

/-- The access at the front, with none outstanding, is performed and taken from the queue. -/
theorem eval_serveHost_one {x : HostOp} {g u : Good s0} (hq : g.val.pcie.host = [x]) (ho : hostOutIn g.val = false)
    (e : eval (hostPerform x) g = (.ok (), u)) :
    eval (serveHost 1) g = (.ok (), ⟨(Eff.pcie { u.val.pcie with host := [] }).apply u.val, u.property.upd _⟩) := by
  have es : eval (hostServed x) g = (.ok true, u) := by
    rw [hostServed, eval_ifReady, eval_bind_ok (eval_attempt_ok e)]
    rfl
  rw [serveHost, eval_bind_ok (eval_st g)]
  simp only [ho, Bool.false_eq_true, if_false, hq]
  rw [eval_bind_ok es]
  rfl

/-- The state in which an access of the host waits alone. -/
def hostAlone (s : State) (x : HostOp) : State := { s with pcie := { s.pcie with host := [x] } }

/-- That state, as its queueing reaches it. -/
def hostAloneAt (s : State) (x : HostOp) : Good s := ⟨hostAlone s x, Reach.refl.upd (.pcie { s.pcie with host := [x] })⟩

/-- An access of the host that waits alone is performed; what its command leaves after that is what the lanes send. -/
theorem run_serve_alone {s : State} {x : HostOp} {u : Good s} (ho : hostOutIn s = false)
    (e : eval (hostPerform x) (hostAloneAt s x) = (.ok (), u)) :
    let t := run s (do eff (.pcie { s.pcie with host := [x] }); serveHost 1; pumpAll)
    t.gddr = u.val.gddr ∧ t.spad = u.val.spad ∧ t.pcie.host = [] ∧ ∀ o ∈ u.val.out, o ∈ t.out := by
  have es := eval_serveHost_one (g := hostAloneAt s x) rfl ho e
  obtain ⟨_, v, ev, r⟩ := ends_pumpAll (s0 := s) ⟨(Eff.pcie { u.val.pcie with host := [] }).apply u.val, u.property.upd _⟩
  have et : run s (do eff (.pcie { s.pcie with host := [x] }); serveHost 1; pumpAll) = v.val := by
    refine run_of_ok (u := ()) ((eval_bind_ok (eval_eff _ _)).trans ?_)
    exact (eval_bind_ok es).trans ev
  rw [et]
  exact ⟨by simpa using r.sending_gddr, by simpa using r.sending_spad, by simp [r.sending_pcie], fun o m => r.mem_out (by simpa using m)⟩

/-- What an operation gives on a state to which an access of the host has come alone. -/
theorem eval_of_gives_alone {s u : State} {x : HostOp} {m : M s α} {r : Except Stop α}
    (h : gives s (do eff (.pcie { s.pcie with host := [x] }); m) = (r, u)) : ∃ hr, eval m (hostAloneAt s x) = (r, ⟨u, hr⟩) := by
  obtain ⟨hr, e⟩ := eval_of_gives h
  exact ⟨hr, (eval_bind_ok (eval_eff _ _)).symm.trans e⟩

/-- A read through BAR2 that no other access waits before is answered with what its address holds. -/
theorem exec_hostBar2Read_alone {s u : State} {off n status : Nat} {d : List Byte} (hh : s.pcie.host = []) (ho : hostOutIn s = false)
    (hc : bar2Addr s off / 2 ^ 48 = chipIn s) (hb : bar2In s off n = true) (hp : phaseIn s = 4)
    (e : gives s (do eff (.pcie { s.pcie with host := [{ addr := bar2Addr s off, size := n, data := none }] })
                     busRead .host (bar2Addr s off % 2 ^ 48) n) = (.ok (status, d, []), u)) :
    ∃ t, exec (.hostBar2Read off n) s = .next t ∧ t.gddr = u.gddr ∧ t.spad = u.spad ∧ t.pcie.host = [] ∧ barAnswer status d ∈ t.out := by
  obtain ⟨hr, eb⟩ := eval_of_gives_alone e
  obtain ⟨v, ev, r, m⟩ := eval_hostPerform_read (x := { addr := bar2Addr s off, size := n, data := none }) hc rfl rfl eb
  obtain ⟨hg, hs, ht, hm⟩ := run_serve_alone ho ev
  refine ⟨_, ?_, hg.trans r.sending_gddr, hs.trans r.sending_spad, ht, hm _ m⟩
  simp [exec, execHostBar2Read, hb, hp, hh]

/-- The pieces of a span that lies in one block are the span. -/
theorem spanPieces_one {unit fuel a n : Nat} (hn : 0 < n) (h : a % unit + n ≤ unit) : spanPieces unit (fuel + 2) a n = [(a, n)] := by
  have hm : min n (unit - a % unit) = n := by omega
  simp [spanPieces, hm, show n ≠ 0 by omega]

/-- A list of bytes is the whole slice of itself. -/
theorem slice_self (bs : List Byte) : slice bs 0 bs.length = bs := by simp [slice]

/-- A write through BAR2 within a block of 256 bytes, or to registers, that no other access waits before is performed where it names. -/
theorem exec_hostBar2Write_alone {s u : State} {off status : Nat} {bs : List Byte} (hh : s.pcie.host = []) (ho : hostOutIn s = false)
    (hc : bar2Addr s off / 2 ^ 48 = chipIn s) (hb : bar2In s off bs.length = true) (hp : phaseIn s = 4) (hl : 0 < bs.length)
    (hw : bar2Addr s off % 256 + bs.length ≤ 256 ∨ ∃ x, windowOf (bar2Addr s off % 2 ^ 48) = .registers x)
    (e : gives s (do eff (.pcie { s.pcie with host := [{ addr := bar2Addr s off, size := bs.length, data := some bs }] })
                     busWrite .host (bar2Addr s off % 2 ^ 48) bs) = (.ok (status, []), u)) :
    ∃ t, exec (.hostBar2Write off bs) s = .next t ∧ t.gddr = u.gddr ∧ t.spad = u.spad := by
  obtain ⟨hr, eb⟩ := eval_of_gives_alone e
  obtain ⟨v, ev, r⟩ :=
    eval_hostPerform_write (x := { addr := bar2Addr s off, size := bs.length, data := some bs }) hc rfl rfl eb
  obtain ⟨hg, hs, -, -⟩ := run_serve_alone ho ev
  refine ⟨_, ?_, hg.trans r.sending_gddr, hs.trans r.sending_spad⟩
  rcases hw with hw | ⟨x, hx⟩
  · simp [exec, execHostBar2Write, hb, hp, hh, spanPieces_one hl hw, slice_self]
  · simp [-Nat.reducePow, exec, execHostBar2Write, hb, hp, hh, hc, hx, slice_self]

end Sys2Proof.Machine
end

section
/-! SUPPORT. Accesses of agents to registers through BAR0 (R8 to R12, R443, R542). -/

namespace Sys2Proof.Machine

open Sys2Proof

variable {s0 : State}

/-- The low bytes of a number spell what is left of it. -/
theorem leNat_leBytes (n v : Nat) : leNat (leBytes n v) = v % 256 ^ n := by
  induction n generalizing v with
  | zero => simp [leBytes, leNat, Nat.mod_one]
  | succ n ih =>
    simp only [leBytes, leNat, ih, BitVec.toNat_ofNat]
    rw [pow_succ' 256, Nat.mod_mul]

/-- A word is what its 8 bytes spell. -/
theorem ofNat_leNat_leBytes (v : Word) : BitVec.ofNat 64 (leNat (leBytes 8 v.toNat)) = v := by
  rw [leNat_leBytes, Nat.mod_eq_of_lt (show v.toNat < 256 ^ 8 from v.isLt), BitVec.ofNat_toNat, BitVec.setWidth_eq]

/-- An agent's access is not held back: the host's is where its function answers, behind no access of registers that waits. -/
theorem eval_bar0Ready {a : Agent} {g : Good s0} (h : a = .host → barsOnIn g.val = true ∧ hostQueuedIn g.val = false) :
    eval (bar0Ready a) g = (.ok (), g) := by
  rw [bar0Ready, eval_bind_ok (eval_st g)]
  by_cases ha : a = .host
  · obtain ⟨hb, hq⟩ := h ha
    simp [ha, hb, hq, eval_bind]
  · simp [ha]

/-- The host's function does not answer: its access has no effect. -/
theorem eval_bar0Ready_off {g : Good s0} (hb : barsOnIn g.val = false) (hq : hostQueuedIn g.val = false) :
    eval (bar0Ready .host) g = (.error .done, g) := by
  simp [bar0Ready, hb, hq, eval_bind]

/-- Where the host's function does not answer, no access of registers does anything. -/
theorem exec_register_off {s : State} (hb : barsOnIn s = false) (hq : hostQueuedIn s = false) (off size : Nat) (v : Word) :
    exec (.registerRead .host off size) s = .next s ∧ exec (.registerWrite .host off size v) s = .next s := by
  have e := eval_bar0Ready_off (g := ⟨s, .refl⟩) hb hq
  exact ⟨congrArg _ (run_of_error (eval_bind_error e) (by simp)), congrArg _ (run_of_error (eval_bind_error e) (by simp))⟩

/-- A read of an aligned word shows it and clears what reading clears; where the offset does not respond it shows zero. -/
theorem eval_regRead_word {a : Agent} {off : Nat} (ho : off % 8 = 0) (g : Good s0) :
    (responds g.val a off = true → ∀ r i j, findReg off = some (r, i, j) → eval (regRead a off 8) g =
      (.ok (leBytes 8 (regValueIn g.val off).toNat),
        ⟨(Eff.reg off (readWord r (FMap.get resetValue g.val.regs off))).apply g.val, g.property.upd _⟩)) ∧
    (responds g.val a off = false → eval (regRead a off 8) g = (.ok (leBytes 8 0), g)) := by
  refine ⟨fun hr r i j hf => ?_, fun hr => ?_⟩
  · simp [regRead, eval_bind, ho, hr, hf, shownAt]
  · simp [regRead, eval_bind, ho, hr, shownAt]

/-- Another read clears nothing: it shows the bytes of the words it touches. -/
theorem eval_regRead_bytes {a : Agent} {off n : Nat} (h : ¬ (n = 8 ∧ off % 8 = 0)) (g : Good s0) :
    eval (regRead a off n) g = (.ok ((List.range n).map (fun i =>
      BitVec.ofNat 8 ((shownAt g.val a ((off + i) / 8 * 8)).toNat / 2 ^ (8 * ((off + i) % 8))))), g) := by
  rw [regRead, eval_bind_ok (eval_st g), if_neg h]
  rfl

section
variable {s : State} {a : Agent} (ha : a = .host → barsOnIn s = true ∧ hostQueuedIn s = false)
include ha

/-- A register read sends what its bytes spell. -/
theorem exec_registerRead_of_eval {off size : Nat} {d : List Byte} {g : Good s}
    (e : eval (regRead a off (min size 8)) ⟨s, .refl⟩ = (.ok d, g)) :
    exec (.registerRead a off size) s = .next (sends g.val (.regReply a (BitVec.ofNat 64 (leNat d)))) := by
  refine congrArg _ (run_of_ok (u := ()) (g := ⟨sends g.val _, g.property.upd (.out _)⟩) ?_)
  rw [eval_bind_ok (eval_bar0Ready ha), eval_bind_ok e]
  rfl

/-- A register write leaves what writing the word leaves. -/
theorem exec_registerWrite_of_eval {off size : Nat} {v : Word} {g : Good s}
    (e : eval (regWriteAny a off size v) ⟨s, .refl⟩ = (.ok (), g)) : exec (.registerWrite a off size v) s = .next g.val :=
  congrArg _ (run_of_ok ((eval_bind_ok (eval_bar0Ready ha)).trans e))

/-- A write of another size or alignment, or where no register responds, changes nothing (R11). -/
theorem exec_registerWrite_discarded {off size : Nat} (v : Word)
    (h : size ≠ 8 ∨ off % 8 ≠ 0 ∨ responds s a off = false ∨ findReg off = none) :
    exec (.registerWrite a off size v) s = .next s := by
  refine exec_registerWrite_of_eval ha (g := ⟨s, .refl⟩) ?_
  by_cases hz : size = 8 ∧ off % 8 = 0
  · rcases h with h | h | h | h
    · exact absurd hz.1 h
    · exact absurd hz.2 h
    · simp [regWriteAny, hz, regWrite, eval_bind, h]
    · simp [regWriteAny, hz, regWrite, h]
  · rw [regWriteAny, if_neg hz]
    rfl

/-- A word written to a register that responds has the register's own effect, or gives its fields what their types take. -/
theorem exec_registerWrite_word {off : Nat} (v : Word) (ho : off % 8 = 0) (hr : responds s a off = true) {r : RegDef} {i j : Nat}
    (hf : findReg off = some (r, i, j)) :
    (specialWrite a r.base i j off v = (none : Option (M s Unit)) → exec (.registerWrite a off 8 v) s =
      .next { s with regs := FMap.set resetValue s.regs off (writtenWord r (FMap.get resetValue s.regs off) v) }) ∧
    (∀ m t, specialWrite a r.base i j off v = some m → gives s m = (.ok (), t) → exec (.registerWrite a off 8 v) s = .next t) := by
  refine ⟨fun hn => ?_, fun m t hm ht => ?_⟩
  · refine exec_registerWrite_of_eval ha (g := ⟨_, Reach.refl.upd (.reg off (writtenWord r (FMap.get resetValue s.regs off) v))⟩) ?_
    simp [regWriteAny, ho, regWrite, eval_bind, hr, hf, hn, plainWrite]
  · obtain ⟨hr', em⟩ := eval_of_gives ht
    refine exec_registerWrite_of_eval ha (g := ⟨t, hr'⟩) ?_
    simp [regWriteAny, ho, regWrite, eval_bind, hr, hf, hm, em]

end

/-- An object of the mailbox with power and the link up: refused while it is busy, else taken, answered or discarded (R477). -/
theorem exec_doeObject {s : State} (bs : List Byte) (hp : s.pins.pwrgd = true) (hv : s.pwr.conversion = true)
    (hu : fieldIn s R.HOST_LINK_UP 0 0 = 1) :
    (s.pcie.doeBusy = true → exec (.doeObject bs) s = .next (sends s .doeBusy)) ∧
    (s.pcie.doeBusy = false → bs.length ≤ 16384 → fieldAt bs 0 2 = 1 → fieldAt bs 2 1 = 1 →
      exec (.doeObject bs) s = .next { s with pcie := { s.pcie with doeBusy := true } }) ∧
    (s.pcie.doeBusy = false → bs.length ≤ 16384 → fieldAt bs 0 2 = 1 → fieldAt bs 2 1 = 0 →
      exec (.doeObject bs) s = .next (sends s (.message .doe (Config.standardReply Std.doeDiscovery [] bs)))) ∧
    (s.pcie.doeBusy = false → fieldAt bs 0 2 ≠ 1 ∨ 16384 < bs.length → exec (.doeObject bs) s = .next s) := by
  refine ⟨fun b => ?_, fun b hl hv1 ht => ?_, fun b hl hv1 ht => ?_, fun b h => ?_⟩
  · simp only [exec, execDoeObject, hp, hv, hu, b, and_self, if_true]; rfl
  · simp only [exec, execDoeObject, hp, hv, hu, b, hl, hv1, ht, and_self, if_true, Bool.false_eq_true, if_false]; rfl
  · simp only [exec, execDoeObject, hp, hv, hu, b, hl, hv1, ht, and_self, if_true, Bool.false_eq_true, if_false]; rfl
  · have hd : ¬ (bs.length ≤ 16384 ∧ fieldAt bs 0 2 = 1) := by omega
    simp only [exec, execDoeObject, hp, hv, hu, b, hd, and_self, if_true, Bool.false_eq_true, if_false]; rfl

end Sys2Proof.Machine
end

section
/-! SUPPORT. The statements of one step, of reset and of the host's accesses, settled. -/

namespace Sys2Proof.Machine

open Sys2Proof

/-- The tables of a reset module are empty. -/
theorem canonical_reset : Canonical State.reset := by
  constructor <;> rfl

end Sys2Proof.Machine

open Sys2Proof Sys2Proof.Machine

/-- Settles O1: a step with a command at the front is, by its definition, that command on the rest. -/
theorem stepRunsFront : Obligations.StepRunsFront := by
  unfold Obligations.StepRunsFront
  intro c rest s
  rfl

/-- Settles O5: every command leaves a state reached by elementary changes (`exec_reach`), and none of those takes back a waiting
command, an entry of the register of changes or what was sent. -/
theorem everyCommandCompletes : Obligations.EveryCommandCompletes := by
  unfold Obligations.EveryCommandCompletes
  intro c s
  obtain ⟨t, ht, hr⟩ := exec_reach c s
  obtain ⟨more, hout⟩ := hr.out_grows
  exact ⟨t, ht, hr.pending, hr.log_grows, more, hout.symm⟩

/-- Settles O6: the tables are empty, and an unlisted register reads as its Reset column gives. -/
theorem resetState : Obligations.ResetState := by
  unfold Obligations.ResetState
  refine ⟨canonical_reset, ?product, ?scrub, ?timeout, ?fec, ?classC, ?hangs, ?window, ?volts, ?debug, ?cores, ?controllers, ?lanes,
    ?queues, fun a => rfl, rfl, rfl, rfl, rfl⟩
  all_goals decide +kernel

/-- Settles O51: an access of the host waits alone and is performed at once, and what follows it only sends; an access of
registers is the register's own. -/
theorem hostAccesses : Obligations.HostAccesses := by
  unfold Obligations.HostAccesses
  intro s _
  refine ⟨?_, exec_register_off, ?_, exec_doeObject⟩
  · rintro off o hh ho g hc rfl
    refine ⟨fun n d status u hb hp e => ?_, fun bs status u hb hp hl hw e => exec_hostBar2Write_alone hh ho hc hb hp hl hw e⟩
    simpa only [barAnswer, statusClassD_iff] using exec_hostBar2Read_alone hh ho hc hb hp e
  · intro a off size ha shown
    refine ⟨fun h8 hr r i j hf => ?_, fun h8 hr => ?_, fun h => ?_, fun v => ⟨exec_registerWrite_discarded ha v, ?_⟩⟩
    · rw [exec_registerRead_of_eval ha ((eval_regRead_word h8 _).1 hr r i j hf), ofNat_leNat_leBytes]
      rfl
    · exact exec_registerRead_of_eval (size := 8) ha ((eval_regRead_word h8 _).2 hr)
    · exact exec_registerRead_of_eval ha (eval_regRead_bytes (by omega) _)
    · rintro rfl h8 hr r i j hf
      exact exec_registerWrite_word ha v h8 hr hf
end

section
/-! SUPPORT. A reset whose end has to wait: the core it gives back brings in a context whose image cannot be read yet (R121, R297, log
entry 38). -/

namespace Sys2Proof.Machine

open Sys2Proof

/-- A module in which the reset of core 0 runs: context 1 of the core is runnable and was switched out, and its saved image lies behind a
write of the module itself that is held at a port. -/
def imageBehindHeldWrite : State := { State.reset with
  regs := [(R.CORE_CTX_CSTATE.addr 0 1, 1 <<< R.CORE_CTX_CSTATE.lo)]
  ctxs := [(ctxKey 0 1, { job := some 0, saved := true, savedAt := 0 })]
  held := [(0, [0])]
  rst := { running := [(1, 0)] } }

/-- The end of the reset wakes the core, which waits for the image. -/
theorem endReset_imageBehindHeldWrite : (eval (endReset 1 0) ⟨imageBehindHeldWrite, .refl⟩).1 = .error .later := by
  decide +kernel

/-- A command that waits leaves the state it found: the reset goes on running. -/
theorem exec_resetComplete_imageBehindHeldWrite : exec (.resetComplete 1 0) imageBehindHeldWrite = .next imageBehindHeldWrite :=
  congrArg _ (run_of_later (Prod.ext endReset_imageBehindHeldWrite rfl))

end Sys2Proof.Machine

open Sys2Proof Sys2Proof.Machine

/-- Refutes O46: a reset of a core that ends need not leave the running ones. The core it gives back brings in a context, and where the image
of that lies behind a write held at a port, the whole command waits and the reset still runs. -/
theorem not_resetsBeginAndEnd : ¬ Obligations.ResetsBeginAndEnd := by
  unfold Obligations.ResetsBeginAndEnd
  rintro ⟨-, complete⟩
  obtain ⟨-, ends, -⟩ := complete imageBehindHeldWrite 1 0 (by decide +kernel)
  obtain ⟨u, hu, running, -⟩ := ends rfl (by decide) (by decide) (fun _ => rfl) (by decide)
  rw [exec_resetComplete_imageBehindHeldWrite, Host.Outcome.next.injEq] at hu
  subst hu
  exact absurd running (by decide)
end

section
/-! SUPPORT. Meanings that run to their end and keep off some parts of the state and some register blocks. The registers of a unit lie in
blocks of 1 MiB of BAR0, so a shared operation that leaves the blocks of another unit alone leaves every field there as it is. -/

namespace Sys2Proof.Machine

open Sys2Proof

variable {s0 : State} {α β σ : Type} {P Q : Eff → Prop}

/-! More ways of composing meanings that end. -/

theorem ends_st : Ends P (st : M s0 State) := fun g => ⟨_, g, rfl, .refl⟩

/-- A meaning that only reads ends, and makes no change. -/
theorem ends_read {m : M s0 α} (h : ∀ g, ∃ a, eval m g = (.ok a, g)) : Ends P m := fun g =>
  let ⟨a, e⟩ := h g
  ⟨a, g, e, .refl⟩

theorem ends_mono {m : M s0 α} (h : Ends P m) (pq : ∀ e, P e → Q e) : Ends Q m := fun g =>
  let ⟨a, u, e, r⟩ := h g
  ⟨a, u, e, r.mono pq⟩

/-- Something done under a condition, before the rest. -/
theorem ends_when {c : Prop} [Decidable c] {m : M s0 Unit} {f : Unit → M s0 β} (h : Ends P m) (k : ∀ u, Ends P (f u)) :
    Ends P (if c then m >>= f else f ()) := ends_ite (ends_bind h k) (k ())

/-- A loop whose body ends each time, whatever it keeps between the turns. -/
theorem ends_loop {γ : Type} {l : List γ} {x : σ} {k : γ → σ → M s0 (ForInStep σ)} (h : ∀ a ∈ l, ∀ b, Ends P (k a b)) :
    Ends P (forIn l x k) := by
  induction l generalizing x with
  | nil => exact ends_pure _
  | cons a l ih =>
    rw [List.forIn_cons]
    refine ends_bind (h a List.mem_cons_self x) fun r => ?_
    cases r with
    | done b => exact ends_pure _
    | yield b => exact ih fun c hc => h c (List.mem_cons_of_mem a hc)

/-- A loop that does one thing for each member of a list. -/
theorem ends_each {γ : Type} {l : List γ} {m : γ → M s0 α} (h : ∀ a ∈ l, Ends P (m a)) :
    Ends P (forIn l PUnit.unit fun a _ => do let _ ← m a; pure (ForInStep.yield PUnit.unit)) :=
  ends_loop fun a ha _ => ends_bind (h a ha) fun _ => ends_pure _

/-! Keeping off parts and register blocks. -/

/-- A change names none of the parts listed and no register of the blocks listed. -/
def Eff.spares (ps : List Part) (bs : List Nat) : Eff → Bool
  | .reg off _ => !bs.contains (off / 2 ^ 20)
  | .clearRegs lo hi => bs.all fun b => Nat.ble hi (b * 2 ^ 20) || Nat.ble ((b + 1) * 2 ^ 20) lo
  | .powerOn => false
  | e => ps.all fun p => !e.parts.contains p

/-- The kind of change that names none of the parts and no register of the blocks. -/
def sparing (ps : List Part) (bs : List Nat) (e : Eff) : Prop := e.spares ps bs = true

/-- The registers of a named field up to two indices lie outside the blocks. -/
def Fld.clear (F : Fld) (bs : List Nat) (i j : Nat) : Bool :=
  bs.all fun b => Nat.ble ((b + 1) * 2 ^ 20) F.base || Nat.blt (F.addr i j) (b * 2 ^ 20)

variable {ps qs : List Part} {bs cs : List Nat}

theorem sparing_mono (hp : ∀ p ∈ qs, p ∈ ps) (hb : ∀ b ∈ cs, b ∈ bs) (e : Eff) (h : sparing ps bs e) : sparing qs cs e := by
  have list : (ps.all fun p => !e.parts.contains p) = true → (qs.all fun p => !e.parts.contains p) = true := by
    simp only [List.all_eq_true]
    exact fun h p m => h p (hp p m)
  cases e
  case reg off v =>
    simp only [sparing, Eff.spares, Bool.not_eq_true', List.contains_eq_mem, decide_eq_false_iff_not] at h ⊢
    exact fun m => h (hb _ m)
  case clearRegs lo hi =>
    simp only [sparing, Eff.spares, List.all_eq_true] at h ⊢
    exact fun b m => h b (hb b m)
  case powerOn => exact h
  all_goals exact list h

/-- A change of the kind does not name a part it spares. -/
theorem sparing_part {e : Eff} (h : sparing ps bs e) {p : Part} (hp : p ∈ ps) (hr : p ≠ .regs) : p ∉ e.parts := by
  have list : (ps.all fun p => !e.parts.contains p) = true → p ∉ e.parts := by
    intro k
    simpa using List.all_eq_true.1 k p hp
  cases e
  case reg => simpa using hr
  case clearRegs => simpa using hr
  case powerOn => exact absurd h (by simp [sparing, Eff.spares])
  all_goals exact list h

/-- Registers stay in canonical form. -/
theorem sparing_wf {e : Eff} (h : sparing ps bs e) {t : State} (w : FMap.wf resetValue t.regs = true) :
    FMap.wf resetValue (e.apply t).regs = true := by
  cases e
  case reg => exact FMap.set_wf _ _ w
  case clearRegs => exact FMap.keep_wf _ w
  case powerOn => exact absurd h (by simp [sparing, Eff.spares])
  all_goals exact w

/-- A register of a block that the kind spares stays. -/
theorem sparing_reg {e : Eff} (h : sparing ps bs e) {t : State} (w : FMap.wf resetValue t.regs = true) {off : Nat}
    (ho : off / 2 ^ 20 ∈ bs) : FMap.get resetValue (e.apply t).regs off = FMap.get resetValue t.regs off := by
  cases e
  case reg o v =>
    refine FMap.get_set_other _ fun eq => ?_
    subst eq
    simp only [sparing, Eff.spares, Bool.not_eq_true', List.contains_eq_mem, decide_eq_false_iff_not] at h
    exact h ho
  case clearRegs lo hi =>
    have hb := List.all_eq_true.1 h _ ho
    simp only [Bool.or_eq_true, Nat.ble_eq] at hb
    rw [apply_clearRegs_regs, FMap.get_keep w, if_pos]
    simp only [Bool.not_eq_true', Bool.and_eq_false_imp, decide_eq_true_eq, decide_eq_false_iff_not]
    omega
  case powerOn => exact absurd h (by simp [sparing, Eff.spares])
  all_goals rfl

theorem Fld.clear_le {F : Fld} {i j n m : Nat} (hi : i ≤ n) (hj : j ≤ m) (h : F.clear bs n m = true) : F.clear bs i j = true := by
  have ha : F.addr i j ≤ F.addr n m :=
    Nat.add_le_add (Nat.add_le_add_left (Nat.mul_le_mul_left _ hi) _) (Nat.mul_le_mul_left _ hj)
  simp only [Fld.clear, List.all_eq_true, Bool.or_eq_true, Nat.ble_eq, Nat.blt_eq] at h ⊢
  exact fun b hb => (h b hb).imp id (Nat.lt_of_le_of_lt ha)

theorem Fld.base_le_addr (F : Fld) (i j : Nat) : F.base ≤ F.addr i j :=
  (Nat.le_add_right _ _).trans (Nat.le_add_right _ _)

/-- A change of a register that lies outside the blocks. -/
theorem sparing_of_clear {F : Fld} {i j : Nat} (h : F.clear bs i j = true) (v : Word) : sparing ps bs (.reg (F.addr i j) v) := by
  have hF := F.base_le_addr i j
  simp only [Fld.clear, List.all_eq_true, Bool.or_eq_true, Nat.ble_eq, Nat.blt_eq] at h
  simp only [sparing, Eff.spares, Bool.not_eq_true', List.contains_eq_mem, decide_eq_false_iff_not]
  intro m
  have := h _ m
  omega

/-- A change of a field of a register that lies outside the blocks, whatever the field holds then. -/
theorem ends_wrReg_clear {F : Fld} {i j : Nat} {v : Word} (h : F.clear bs i j = true) :
    Ends (sparing ps bs) (wrReg (F.addr i j) v : M s0 Unit) := ends_eff (sparing_of_clear h v)
theorem ends_setF_clear {F : Fld} {v i j : Nat} (h : F.clear bs i j = true) : Ends (sparing ps bs) (setF F v i j : M s0 Unit) :=
  fun _ => ⟨_, _, rfl, ReachBy.refl.upd (sparing_of_clear h _)⟩
theorem ends_countSat_clear {F : Fld} {i n : Nat} (h : F.clear bs i 0 = true) : Ends (sparing ps bs) (countSat F i n : M s0 Unit) :=
  fun _ => ⟨_, _, rfl, ReachBy.refl.upd (sparing_of_clear h _)⟩
theorem ends_countWrap_clear {F : Fld} {i n : Nat} (h : F.clear bs i 0 = true) :
    Ends (sparing ps bs) (countWrap F i n : M s0 Unit) :=
  fun _ => ⟨_, _, rfl, ReachBy.refl.upd (sparing_of_clear h _)⟩
theorem ends_freeBool (p : P .fresh) : Ends P (freeBool : M s0 Bool) := fun _ => ⟨_, _, rfl, ReachBy.refl.upd p⟩
theorem ends_freeWord_of (p : P .fresh) : Ends P (freeWord : M s0 Word) := fun _ => ⟨_, _, rfl, ReachBy.refl.upd p⟩

/-! What such a meaning leaves. -/

theorem ReachBy.sparing_wf {s t : State} (h : ReachBy (sparing ps bs) s t) (w : FMap.wf resetValue s.regs = true) :
    FMap.wf resetValue t.regs = true :=
  h.keeps (Q := fun u => FMap.wf resetValue u.regs = true) (fun _ _ p w => Machine.sparing_wf p w) w

theorem ReachBy.sparing_reg {s t : State} (h : ReachBy (sparing ps bs) s t) (w : FMap.wf resetValue s.regs = true) {off : Nat}
    (ho : off / 2 ^ 20 ∈ bs) : FMap.get resetValue t.regs off = FMap.get resetValue s.regs off := by
  induction h with
  | refl => rfl
  | upd r p ih => rw [Machine.sparing_reg p (r.sparing_wf w) ho, ih]

/-- A field of a register of a block that was spared reads as before. -/
theorem ReachBy.sparing_field {s t : State} (h : ReachBy (sparing ps bs) s t) (w : FMap.wf resetValue s.regs = true) {F : Fld} {i j : Nat}
    (ho : F.addr i j / 2 ^ 20 ∈ bs) : fieldIn t F i j = fieldIn s F i j := by
  rw [fieldIn, fieldIn, h.sparing_reg w ho]

end Sys2Proof.Machine
end

section
/-! SUPPORT. What an event's record changes (R419 to R422): the ring it is written to, which may lie in GDDR7 and in a compressed range, and
the counts of that. A record always ends, and keeps off resets, power, jobs and pins and off their registers. -/

namespace Sys2Proof.Machine

open Sys2Proof

variable {s0 : State} {α : Type}

/-- What writing a record leaves alone: resets, time, power, pins and jobs, and the register blocks of the device, the matrix array, resets,
power and the management port. -/
abbrev recording : Eff → Prop := sparing [.rst, .ms, .pwr, .pins, .jobs] [0x00, 0x0D, 0x1E, 0x1F, 0x22]

/-! The GDDR7 controllers (R281 to R305). -/

/-- The module has 32 controllers (R283, R284). -/
theorem gddrAt_lt {blocks o k b : Nat} (h : gddrAt blocks o = some (k, b)) : k < 32 := by
  unfold gddrAt at h
  split at h
  · simp only [interleave, Option.some.injEq, Prod.mk.injEq] at h
    omega
  · split at h
    · rename_i hd
      dsimp only at h
      split at h
      · simp only [Option.some.injEq, Prod.mk.injEq] at h
        omega
      · cases h
    · cases h

theorem sidePlaceIn_lt {s : State} {i b k blk off : Nat} (h : sidePlaceIn s i b = some (k, blk, off)) : k < 32 := by
  obtain ⟨p, hp, e⟩ := Option.map_eq_some_iff.1 h
  cases e
  exact gddrAt_lt hp

theorem ends_gdPut (key : Nat) (bs : List Byte) : Ends recording (gdPut key bs : M s0 Unit) :=
  ends_bind (ends_loop fun _ _ _ => ends_bind (ends_eff rfl) fun _ => ends_pure _) fun _ => ends_pure _

theorem ends_getGd {P : Eff → Prop} (k : Nat) : Ends P (getGd k : M s0 GdCtl) := ends_read fun _ => ⟨_, rfl⟩

theorem ends_gdTouch (k phys : Nat) : Ends recording (gdTouch k phys : M s0 Unit) :=
  ends_bind (ends_getGd k) fun _ => ends_bind ends_st fun _ => ends_eff rfl

theorem ends_gdPutBlock (k phys : Nat) (raw : List Byte) : Ends recording (gdPutBlock k phys raw : M s0 Unit) :=
  ends_bind (ends_gdPut _ _) fun _ => ends_gdTouch _ _

theorem ends_gdDecode (k phys : Nat) (raw : List Byte) (units : BitVec 17) :
    Ends recording (gdDecode k phys raw units : M s0 BlockOut) := by
  refine ends_bind (ends_getGd k) fun g => ?_
  dsimp only
  split
  · exact ends_pure _
  · split
    · exact ends_ite (ends_bind (ends_freeBool rfl) fun _ => ends_ite (ends_pure _) (ends_pure _)) (ends_pure _)
    · exact ends_pure _

theorem ends_gdRec {P : Eff → Prop} (k cls block : Nat) (units : BitVec 17) (flags : Nat) :
    Ends P (gdRec k cls block units flags : M s0 Rec) := ends_read fun _ => ⟨_, rfl⟩

section
variable {k : Nat} (hk : k < 32)
include hk

/-- The registers of a controller lie in its own blocks (R300 to R305). -/
theorem gd_clear {F : Fld} {i : Nat} (hi : i ≤ 16) (h : F.clear [0x00, 0x0D, 0x1E, 0x1F, 0x22] 32 16 = true) :
    F.clear [0x00, 0x0D, 0x1E, 0x1F, 0x22] k i = true := Fld.clear_le hk.le hi h

theorem ends_gdSetErr (block : Nat) (units : BitVec 17) (e0 e1 : Nat) (ue poison scrub injected : Bool) :
    Ends recording (gdSetErr k block units e0 e1 ue poison scrub injected : M s0 Unit) :=
  ends_wrReg_clear (gd_clear hk (Nat.zero_le _) rfl)

theorem ends_gdAutoRemap (block : Nat) (data : List Byte) : Ends recording (gdAutoRemap k block data : M s0 Unit) := by
  refine ends_bind ends_st fun s => ends_bind (ends_read fun _ => ⟨_, rfl⟩) fun blocks => ends_ite (ends_pure _) ?_
  split
  · exact ends_countSat_clear (gd_clear hk (Nat.zero_le _) rfl)
  · rename_i i free
    have hi : i < 16 := List.mem_range.1 (List.mem_of_find?_eq_some free)
    refine ends_bind (ends_wrReg_clear (gd_clear hk hi.le rfl)) fun _ => ?_
    exact ends_bind (ends_getGd k) fun _ => ends_eff rfl

theorem ends_gdReadAt (block phys : Nat) (f : BlockFaults) (scrub : Bool) :
    Ends recording (gdReadAt k block phys f scrub : M s0 (Option (List Byte) × List Rec)) := by
  have count {F : Fld} {n : Nat} (h : F.clear [0x00, 0x0D, 0x1E, 0x1F, 0x22] 32 16 = true) :
      Ends recording (countSat F k n : M s0 Unit) := ends_countSat_clear (gd_clear hk (Nat.zero_le _) h)
  refine ends_bind (ends_read fun _ => ⟨_, rfl⟩) fun raw => ends_bind (ends_getGd k) fun g => ends_bind (ends_eff rfl) fun _ => ?_
  refine ends_bind (count rfl) fun _ => ends_bind (count rfl) fun _ => ends_ite (ends_bind (ends_gdRec _ _ _ _ _) fun _ => ?_) ?_
  all_goals
    refine ends_bind (ends_gdDecode _ _ _ _) ?_
    rintro (⟨data, e0, e1⟩ | ⟨e0, e1⟩ | _)
  all_goals dsimp only
  case good | good =>
    refine ends_ite (ends_pure _) (ends_bind (count rfl) fun _ => ends_when (count rfl) fun _ => ?_)
    refine ends_bind (ends_gdSetErr hk _ _ _ _ _ _ _ _) fun _ => ends_bind (ends_gdRec _ _ _ _ _) fun _ => ?_
    exact ends_bind (ends_getGd k) fun _ => ends_bind (ends_eff rfl) fun _ => ends_when (ends_gdAutoRemap hk _ _) fun _ => ends_pure _
  case bad | bad =>
    refine ends_bind (count rfl) fun _ => ends_bind (ends_gdSetErr hk _ _ _ _ _ _ _ _) fun _ => ?_
    exact ends_bind (ends_gdRec _ _ _ _ _) fun _ => ends_bind (ends_gdPutBlock _ _ _) fun _ => ends_pure _
  case poison | poison =>
    exact ends_bind (count rfl) fun _ => ends_bind (ends_gdSetErr hk _ _ _ _ _ _ _ _) fun _ => ends_pure _

theorem ends_gdRead (block : Nat) (f : BlockFaults) :
    Ends recording (gdRead k block f : M s0 (Option (List Byte) × List Rec)) :=
  ends_bind (ends_getF _ _ _) fun _ => ends_ite (ends_pure _) (ends_bind ends_st fun _ => ends_gdReadAt hk _ _ _ _)

theorem ends_gdStore (block : Nat) (data : List Byte) : Ends recording (gdStore k block data : M s0 (List Rec)) := by
  have is (F : Fld) : Ends recording (isF F k : M s0 Bool) := ends_read fun _ => ⟨_, rfl⟩
  refine ends_bind ends_st fun _ => ends_bind (is _) fun _ => ends_bind (is _) fun _ => ends_bind (ends_getF _ _ _) fun _ => ?_
  refine ends_ite ?_ (ends_bind (ends_gdPutBlock _ _ _) fun _ => ends_pure _)
  refine ends_bind (ends_getF _ _ _) fun _ => ends_bind (ends_getF _ _ _) fun _ => ends_bind (ends_getF _ _ _) fun _ => ?_
  refine ends_bind (ends_gdPutBlock _ _ _) fun _ => ends_bind (ends_setF_clear (gd_clear hk (Nat.zero_le _) rfl)) fun _ => ?_
  refine ends_bind (is _) fun _ => ends_bind (is _) fun _ => ends_bind (ends_getGd k) fun _ => ends_bind (ends_eff rfl) fun _ => ?_
  refine ends_ite (ends_bind (ends_countSat_clear (gd_clear hk (Nat.zero_le _) rfl)) fun _ => ?_) (ends_pure _)
  exact ends_bind (ends_gdRec _ _ _ _ _) fun _ => ends_pure _

omit hk in
theorem ends_gdStorePoison (block : Nat) : Ends recording (gdStorePoison k block : M s0 Unit) :=
  ends_bind ends_st fun _ => ends_gdPutBlock _ _ _

theorem ends_gdWrite (block off : Nat) (bytes : List Byte) :
    Ends recording (gdWrite k block off bytes : M s0 (Nat × List Rec)) := by
  refine ends_bind (ends_getF _ _ _) fun _ => ends_ite (ends_pure _) (ends_ite ?_ (ends_bind (ends_gdRead hk _ _) ?_))
  · exact ends_bind (ends_gdStore hk _ _) fun _ => ends_pure _
  · rintro ⟨_ | data, evs⟩
    · exact ends_bind (ends_gdStorePoison _) fun _ => ends_pure _
    · exact ends_bind (ends_gdStore hk _ _) fun _ => ends_pure _

theorem ends_gdReadSpan (block off n : Nat) : Ends recording (gdReadSpan k block off n : M s0 (Nat × List Byte × List Rec)) := by
  refine ends_bind (ends_gdRead hk _ _) ?_
  rintro ⟨_ | d, ev⟩ <;> exact ends_pure _

/-! Compressed ranges (R333 to R349). -/

omit hk in
theorem ends_sideKeep (b v : Nat) : Ends recording (sideKeep k b v : M s0 Unit) := ends_bind ends_st fun _ => ends_eff rfl

theorem ends_cxFail (b cause side : Nat) : Ends recording (cxFail k b cause side : M s0 (List Rec)) := by
  have engine {F : Fld} (h : F.clear [0x00, 0x0D, 0x1E, 0x1F, 0x22] 8 0 = true) : F.clear [0x00, 0x0D, 0x1E, 0x1F, 0x22] (k / 4) 0 = true :=
    Fld.clear_le (by omega) le_rfl h
  refine ends_when (ends_countSat_clear (engine rfl)) fun _ => ends_when (ends_countSat_clear (engine rfl)) fun _ => ?_
  exact ends_when (ends_countSat_clear (engine rfl)) fun _ => ends_bind (ends_wrReg_clear (engine rfl)) fun _ => ends_pure _

theorem ends_readSectors (b n : Nat) : Ends recording (readSectors k b n : M s0 (Option (List Byte) × List Rec)) := by
  refine ends_bind (ends_loop fun i _ x => ends_bind (ends_gdRead hk _ _) ?_) fun _ => ends_pure _
  rintro ⟨_ | d, ev⟩ <;> exact ends_pure _

theorem ends_writeSectors (b : Nat) (bs : List Byte) : Ends recording (writeSectors k b bs : M s0 (List Rec)) :=
  ends_bind (ends_loop fun _ _ _ => ends_bind (ends_gdWrite hk _ _ _) fun _ => ends_pure _) fun _ => ends_pure _

end

theorem ends_sideRead (i b : Nat) : Ends recording (sideRead i b : M s0 (Option Nat × List Rec)) := by
  refine ends_bind ends_st fun s => ends_bind (ends_ite (ends_freeBool rfl) (ends_pure _)) fun hit => ?_
  dsimp only
  split
  · exact ends_bind (ends_sideKeep _ _) fun _ => ends_pure _
  · split
    · exact ends_pure _
    · rename_i c blk off place
      refine ends_bind (ends_gdReadSpan (sidePlaceIn_lt place) _ _ _) fun _ => ?_
      exact ends_ite (ends_bind (ends_sideKeep _ _) fun _ => ends_pure _) (ends_pure _)

theorem ends_sideWrite (i b v : Nat) : Ends recording (sideWrite i b v : M s0 (List Rec)) := by
  refine ends_bind ends_st fun s => ?_
  dsimp only
  split
  · exact ends_pure _
  · rename_i c blk off place
    exact ends_bind (ends_gdWrite (sidePlaceIn_lt place) _ _ _) fun _ => ends_bind (ends_sideKeep _ _) fun _ => ends_pure _

theorem ends_agreeCheck (want : Nat) (bs : List Byte) : Ends recording (agreeCheck want bs : M s0 Bool) :=
  ends_bind (ends_countWrap_clear rfl) fun _ => ends_when (ends_countSat_clear rfl) fun _ => ends_pure _

section
variable {k : Nat} (hk : k < 32)
include hk

theorem ends_cxRead (b i : Nat) : Ends recording (cxRead k b i : M s0 (Nat × List Byte × Nat × List Rec)) := by
  have fail (cause side : Nat) (f : List Rec → Nat × List Byte × Nat × List Rec) :
      Ends recording (do let more ← cxFail k b cause side; pure (f more) : M s0 (Nat × List Byte × Nat × List Rec)) :=
    ends_bind (ends_cxFail hk _ _ _) fun _ => ends_pure _
  refine ends_bind (ends_sideRead _ _) ?_
  rintro ⟨_ | side, ev⟩
  · exact fail _ _ _
  refine ends_bind (ends_readSectors hk _ _) ?_
  rintro ⟨_ | bytes, ev2⟩
  · exact fail _ _ _
  refine ends_ite (ends_bind (ends_agreeCheck _ _) fun _ => ends_ite (ends_pure _) (fail _ _ _)) (ends_bind ends_st fun t => ?_)
  split
  · exact fail _ _ _
  split
  · exact ends_bind (ends_countSat_clear rfl) fun _ => fail _ _ _
  · exact ends_bind (ends_agreeCheck _ _) fun _ => ends_ite (ends_pure _) (fail _ _ _)

theorem ends_cxWrite (b i : Nat) (bs : List Byte) : Ends recording (cxWrite k b i bs : M s0 (Nat × List Rec)) := by
  refine ends_bind (ends_getF _ _ _) fun _ => ends_bind (ends_getF _ _ _) fun _ => ends_bind ends_st fun _ => ?_
  refine ends_when (ends_countSat_clear (Fld.clear_le (n := 8) (by omega) le_rfl rfl)) fun _ => ?_
  exact ends_bind (ends_writeSectors hk _ _) fun _ => ends_bind (ends_sideWrite _ _ _) fun _ => ends_pure _

theorem ends_cxWritePart (b i off : Nat) (bs : List Byte) : Ends recording (cxWritePart k b i off bs : M s0 (Nat × List Rec)) := by
  refine ends_ite (ends_cxWrite hk _ _ _) (ends_bind (ends_cxRead hk _ _) fun _ => ends_ite (ends_pure _) ?_)
  exact ends_bind (ends_cxWrite hk _ _ _) fun _ => ends_pure _

end

/-! GDDR7 by offset. -/

theorem ends_gmWritePiece (o : Nat) (bs : List Byte) : Ends recording (gmWritePiece o bs : M s0 (Nat × List Rec)) := by
  refine ends_bind (ends_read fun _ => ⟨_, rfl⟩) fun blocks => ?_
  split
  · exact ends_pure _
  · rename_i k blk place
    refine ends_bind ends_st fun s => ?_
    split
    · exact ends_gdWrite (gddrAt_lt place) _ _ _
    · exact ends_cxWritePart (gddrAt_lt place) _ _ _ _

/-- What a look for the range of an offset finds. -/
theorem eval_directRange {o : Nat} (ho : ¬ o < 0x100000000000) (g : Good s0) : eval (directRange o) g =
    (.ok ((gddrAt (gdBlocksIn g.val) o).bind fun p => (rangeOfIn g.val p.1 (p.2 / 16)).map fun i => (p.1, p.2 / 16, i)), g) := by
  rw [directRange, if_neg ho, eval_bind_ok (m := gdBlocks) (h := g) (a := gdBlocksIn g.val) rfl]
  rcases gddrAt (gdBlocksIn g.val) o with _ | ⟨k, blk⟩
  · rfl
  rw [eval_bind_ok (eval_st g)]
  dsimp only [Option.bind_some]
  cases rangeOfIn g.val k (blk / 16) <;> rfl

/-- What follows such a look may rely on its naming a controller. -/
theorem ends_directRange_bind {β : Type} {f : Option (Nat × Nat × Nat) → M s0 β} (o : Nat) (hn : Ends recording (f none))
    (hs : ∀ k b i, k < 32 → Ends recording (f (some (k, b, i)))) : Ends recording (directRange o >>= f) := by
  intro g
  by_cases ho : o < 0x100000000000
  · rw [eval_bind_ok (show eval (directRange o) g = (.ok none, g) by rw [directRange, if_pos ho]; rfl)]
    exact hn g
  rw [eval_bind_ok (eval_directRange ho g)]
  rcases place : gddrAt (gdBlocksIn g.val) o with _ | ⟨k, blk⟩
  · exact hn g
  dsimp only [Option.bind_some]
  cases rangeOfIn g.val k (blk / 16)
  · exact hn g
  · exact hs _ _ _ (gddrAt_lt place) g

theorem ends_gmWrite (o : Nat) (bs : List Byte) : Ends recording (gmWrite o bs : M s0 (Nat × List Rec)) := by
  have keep {σ : Type} (c : Prop) [Decidable c] (x y : σ) :
      Ends recording (if c then pure (ForInStep.yield x) else pure (ForInStep.yield y) : M s0 (ForInStep σ)) :=
    ends_ite (ends_pure _) (ends_pure _)
  refine ends_bind (ends_loop fun p _ x => ends_directRange_bind _ ?none ?some) fun _ => ends_pure _
  case none =>
    exact ends_bind (ends_loop fun q _ _ => ends_bind (ends_gmWritePiece _ _) fun _ => keep _ _ _) fun _ => ends_pure _
  case some => exact fun k b i hk => ends_bind (ends_cxWritePart hk _ _ _ _) fun _ => keep _ _ _

theorem ends_setTags (o n : Nat) (tag : Option RelTag) : Ends recording (setTags o n tag : M s0 Unit) := by
  refine ends_bind ends_st fun _ => ends_ite (ends_pure _) (ends_bind (ends_loop fun w _ _ => ends_bind ends_st fun t => ?_) fun _ => ends_pure _)
  split
  · exact ends_bind (ends_eff rfl) fun _ => ends_pure _
  · exact ends_pure _

/-! Rings and records. -/

theorem ends_ringWrite (base size tail : Fld) {head : Fld} (bytes : List Byte)
    (hh : head.clear [0x00, 0x0D, 0x1E, 0x1F, 0x22] 0 0 = true) :
    Ends recording (ringWrite base size head tail bytes : M s0 (Bool × List Rec)) := by
  refine ends_bind (ends_getF _ _ _) fun _ => ends_bind (ends_getF _ _ _) fun _ => ends_bind (ends_getF _ _ _) fun _ => ?_
  refine ends_ite (ends_pure _) (ends_bind (ends_getF _ _ _) fun _ => ends_bind ends_st fun _ => ?_)
  refine ends_bind (ends_setF_clear hh) fun _ => ends_ite (ends_bind (ends_eff rfl) fun _ => ends_pure _) ?_
  exact ends_bind (ends_gmWrite _ _) fun _ => ends_bind (ends_setTags _ _ _) fun _ => ends_pure _

theorem ends_noteFault : Ends recording (noteFault : M s0 Unit) :=
  ends_bind (ends_getF _ _ _) fun _ => ends_ite (ends_bind ends_st fun _ => ends_eff rfl) (ends_pure _)

theorem ends_dRing (bytes : List Byte) : Ends recording (dRing bytes : M s0 (Bool × List Rec)) := by
  refine ends_bind ends_st fun _ => ends_ite (ends_bind (ends_ringWrite _ _ _ _ rfl) fun x => ?_) (ends_ite ?_ ?_)
  · exact ends_ite (ends_bind ends_noteFault fun _ => ends_pure _) (ends_bind (ends_countSat_clear rfl) fun _ => ends_pure _)
  · exact ends_bind (ends_eff rfl) fun _ => ends_bind ends_noteFault fun _ => ends_pure _
  · exact ends_bind (ends_countSat_clear rfl) fun _ => ends_pure _

theorem ends_cRing (bytes : List Byte) : Ends recording (cRing bytes : M s0 (Bool × List Rec)) := by
  refine ends_bind (ends_getF _ _ _) fun _ => ends_ite (ends_bind (ends_ringWrite _ _ _ _ rfl) fun x => ?_) ?_
  · exact ends_when (ends_countSat_clear rfl) fun _ => ends_pure _
  · exact ends_bind (ends_countSat_clear rfl) fun _ => ends_pure _

theorem ends_setCls (r : Rec) (lastMs : Option Nat) (suppressed : Nat) : Ends recording (setCls r lastMs suppressed : M s0 Unit) :=
  ends_bind ends_st fun _ => ends_eff rfl

theorem ends_noteUnrecorded (r : Rec) : Ends recording (noteUnrecorded r : M s0 Unit) :=
  ends_ite (ends_bind ends_st fun _ => ends_setCls _ _ _) (ends_pure _)

theorem ends_writeRecord (r : Rec) (suppressed : Nat) : Ends recording (writeRecord r suppressed : M s0 (List Rec)) := by
  refine ends_bind ends_st fun _ => ends_bind (ends_ite (ends_cRing _) (ends_dRing _)) fun x => ends_ite ?_ ?_
  · exact ends_bind (ends_eff rfl) fun _ => ends_bind (ends_setCls _ _ _) fun _ => ends_pure _
  · exact ends_bind (ends_noteUnrecorded _) fun _ => ends_pure _

theorem ends_recordGo (fuel : Nat) (r : Rec) : Ends recording (recordGo fuel r : M s0 Unit) := by
  induction fuel generalizing r with
  | zero => exact ends_pure _
  | succ fuel ih =>
    rw [recordGo]
    refine ends_bind ends_st fun s => ?_
    split
    · exact ends_noteUnrecorded _
    · exact ends_bind (ends_writeRecord _ _) fun _ => ends_bind (ends_each fun x _ => ih x) fun _ => ends_pure _

/-- A record is written or counted, and always ends. -/
theorem ends_record (r : Rec) : Ends recording (record r : M s0 Unit) := ends_recordGo 4 r

theorem ends_recordAll (evs : List Rec) : Ends recording (recordAll evs : M s0 Unit) :=
  ends_bind (ends_each fun r _ => ends_record r) fun _ => ends_pure _

/-- A write of the module's own GDDR7, held at its port or made at once. -/
theorem ends_wrGddr (o : Nat) (bs : List Byte) (job : Option Nat) : Ends recording (wrGddr o bs job : M s0 Nat) := by
  refine ends_bind ends_st fun _ => ends_ite (ends_bind (ends_eff rfl) fun _ => ends_pure _) ?_
  refine ends_bind (ends_gmWrite _ _) fun _ => ends_bind (ends_recordAll _) fun _ => ends_bind (ends_setTags _ _ _) fun _ => ?_
  exact ends_pure _

end Sys2Proof.Machine
end

section
/-! SUPPORT. Fields of registers: what a field reads after it, or another, was set (R3, R8). -/

namespace Sys2Proof.Machine

open Sys2Proof

/-- A bit of a field. -/
theorem testBit_bitsOf (w : Word) (lo n b : Nat) : (bitsOf w lo n).testBit b = (decide (b < n) && w.getLsbD (lo + b)) := by
  rw [bitsOf, Nat.testBit_mod_two_pow, Nat.testBit_div_two_pow, BitVec.getLsbD, Nat.add_comm lo b]

/-- A number with the bits of a field replaced. -/
theorem testBit_replace {x lo n v : Nat} (b : Nat) :
    (x - x / 2 ^ lo % 2 ^ n * 2 ^ lo + v % 2 ^ n * 2 ^ lo).testBit b =
      if lo ≤ b ∧ b < lo + n then v.testBit (b - lo) else x.testBit b := by
  have split : x = 2 ^ lo * (2 ^ n * (x / 2 ^ lo / 2 ^ n) + x / 2 ^ lo % 2 ^ n) + x % 2 ^ lo := by
    rw [Nat.div_add_mod, Nat.div_add_mod]
  have new : x - x / 2 ^ lo % 2 ^ n * 2 ^ lo + v % 2 ^ n * 2 ^ lo =
      2 ^ lo * (2 ^ n * (x / 2 ^ lo / 2 ^ n) + v % 2 ^ n) + x % 2 ^ lo := by
    conv_lhs => rw [split]
    have mid : (2 ^ lo * (2 ^ n * (x / 2 ^ lo / 2 ^ n) + x / 2 ^ lo % 2 ^ n) + x % 2 ^ lo) / 2 ^ lo % 2 ^ n = x / 2 ^ lo % 2 ^ n := by
      rw [← split]
    rw [mid, Nat.mul_add, Nat.mul_add, Nat.mul_comm (x / 2 ^ lo % 2 ^ n), Nat.mul_comm (v % 2 ^ n)]
    omega
  rw [new, Nat.testBit_two_pow_mul_add _ (Nat.mod_lt _ (Nat.two_pow_pos lo)), Nat.testBit_two_pow_mul_add _ (Nat.mod_lt _ (Nat.two_pow_pos n))]
  rcases Nat.lt_or_ge b lo with low | high
  · rw [if_pos low, if_neg (by omega), Nat.testBit_mod_two_pow, decide_eq_true low, Bool.true_and]
  · rw [if_neg (by omega)]
    by_cases inside : b < lo + n
    · rw [if_pos (by omega), if_pos ⟨high, inside⟩, Nat.testBit_mod_two_pow, decide_eq_true (by omega), Bool.true_and]
    · rw [if_neg (by omega), if_neg (by omega), Nat.testBit_div_two_pow, Nat.testBit_div_two_pow]
      congr 1
      omega

/-- The bits of a word with a field replaced. -/
theorem getLsbD_withBits {w : Word} {lo n v : Nat} (h : lo + n ≤ 64) (b : Nat) :
    (withBits w lo n v).getLsbD b = if lo ≤ b ∧ b < lo + n then v.testBit (b - lo) else w.getLsbD b := by
  rw [withBits, BitVec.getLsbD_ofNat, bitsOf, testBit_replace, BitVec.getLsbD]
  split
  · rw [decide_eq_true (by omega), Bool.true_and]
  · by_cases hb : b < 64
    · rw [decide_eq_true hb, Bool.true_and]
    · rw [decide_eq_false hb, Bool.false_and, Nat.testBit_lt_two_pow]
      exact w.isLt.trans_le (Nat.pow_le_pow_right (by decide) (by omega))

theorem bitsOf_withBits_same {w : Word} {lo n : Nat} (h : lo + n ≤ 64) (v : Nat) : bitsOf (withBits w lo n v) lo n = v % 2 ^ n := by
  refine Nat.eq_of_testBit_eq fun b => ?_
  rw [testBit_bitsOf, getLsbD_withBits h, Nat.testBit_mod_two_pow]
  by_cases hb : b < n
  · rw [if_pos (by omega), Nat.add_sub_cancel_left]
  · simp [hb]

theorem bitsOf_withBits_apart {w : Word} {lo n lo' n' : Nat} (h : lo + n ≤ 64) (ha : lo + n ≤ lo' ∨ lo' + n' ≤ lo) (v : Nat) :
    bitsOf (withBits w lo n v) lo' n' = bitsOf w lo' n' := by
  refine Nat.eq_of_testBit_eq fun b => ?_
  rw [testBit_bitsOf, testBit_bitsOf]
  by_cases hb : b < n'
  · rw [getLsbD_withBits h, if_neg (by omega)]
  · simp [hb]

/-! Fields of a state. -/

/-- Two named fields lie in different registers, or in different bits of one. -/
def Fld.apart (F : Fld) (i : Nat) (G : Fld) (k : Nat) : Bool :=
  !Nat.beq (F.addr i 0) (G.addr k 0) || Nat.ble (F.lo + F.width) G.lo || Nat.ble (G.lo + G.width) F.lo

variable {s : State} {F G : Fld} {i j k : Nat}

theorem withField_wf (w : FMap.wf resetValue s.regs = true) (v : Nat) : FMap.wf resetValue (withField s F v i j).regs = true :=
  FMap.set_wf _ _ w

/-- A field reads as it was set, as far as its bits hold the value. -/
theorem fieldIn_withField_same (w : FMap.wf resetValue s.regs = true) (h : F.lo + F.width ≤ 64) (v : Nat) :
    fieldIn (withField s F v i j) F i j = v % 2 ^ F.width := by
  rw [fieldIn, withField, FMap.get_set w, if_pos rfl, bitsOf_withBits_same h]

/-- Setting a field leaves another. -/
theorem fieldIn_withField_apart (w : FMap.wf resetValue s.regs = true) (h : F.lo + F.width ≤ 64) (ha : F.apart i G k = true) (v : Nat) :
    fieldIn (withField s F v i) G k 0 = fieldIn s G k 0 := by
  rw [fieldIn, fieldIn, withField]
  simp only [Fld.apart, Bool.or_eq_true, Bool.not_eq_true', Nat.ble_eq] at ha
  by_cases same : G.addr k 0 = F.addr i 0
  · rw [same, FMap.get_set w, if_pos rfl, bitsOf_withBits_apart h]
    rcases ha with (ha | ha) | ha
    · exact absurd same.symm (Nat.ne_of_beq_eq_false ha)
    · exact .inl ha
    · exact .inr ha
  · rw [FMap.get_set_other _ same]

theorem fieldIn_lt (s : State) (F : Fld) (i j : Nat) : fieldIn s F i j < 2 ^ F.width := Nat.mod_lt _ (Nat.two_pow_pos _)

end Sys2Proof.Machine
end

section
/-! SUPPORT. Where a meaning leads: it runs to its end from a state, and what holds then. -/

namespace Sys2Proof.Machine

open Sys2Proof

variable {s0 : State} {α β γ : Type} {m : M s0 α} {f : α → M s0 β} {g : Good s0} {Q : α → State → Prop} {R : β → State → Prop}

/-- From a state a meaning runs to its end, with a value and in a state of which a statement holds. -/
def Leads (m : M s0 α) (g : Good s0) (Q : α → State → Prop) : Prop := ∃ a h, eval m g = (.ok a, h) ∧ Q a h.val

theorem leads_pure {a : α} (h : Q a g.val) : Leads (pure a : M s0 α) g Q := ⟨a, g, rfl, h⟩
theorem leads_eff {e : Eff} {Q : Unit → State → Prop} (h : Q () (e.apply g.val)) : Leads (eff e) g Q := ⟨_, _, rfl, h⟩
theorem leads_setF {F : Fld} {v i j : Nat} {Q : Unit → State → Prop} (h : Q () (withField g.val F v i j)) : Leads (setF F v i j) g Q :=
  ⟨_, _, rfl, h⟩

theorem leads_countSat {F : Fld} {i n : Nat} {Q : Unit → State → Prop}
    (h : Q () (withField g.val F (min (fieldIn g.val F i 0 + n) (2 ^ F.width - 1)) i)) : Leads (countSat F i n) g Q :=
  ⟨_, _, eval_countSat F i n g, h⟩

theorem leads_bind (h : Leads m g Q) (k : ∀ a u, Q a u.val → Leads (f a) u R) : Leads (m >>= f) g R := by
  obtain ⟨a, u, e, q⟩ := h
  obtain ⟨b, v, e', r⟩ := k a u q
  exact ⟨b, v, by rw [eval_bind_ok e, e'], r⟩

/-- What reads the state goes on with it. -/
theorem leads_bind_read {a : α} (e : eval m g = (.ok a, g)) (k : Leads (f a) g R) : Leads (m >>= f) g R := by
  obtain ⟨b, v, e', r⟩ := k
  exact ⟨b, v, by rw [eval_bind_ok e, e'], r⟩

theorem leads_bind_st {f : State → M s0 β} (k : Leads (f g.val) g R) : Leads (st >>= f) g R := leads_bind_read (eval_st g) k

theorem leads_bind_eff {e : Eff} {f : Unit → M s0 β} (k : ∀ u : Good s0, u.val = e.apply g.val → Leads (f ()) u R) :
    Leads (eff e >>= f) g R := leads_bind (leads_eff (Q := fun _ t => t = e.apply g.val) rfl) fun _ u h => k u h

theorem leads_bind_setF {F : Fld} {v i j : Nat} {f : Unit → M s0 β}
    (k : ∀ u : Good s0, u.val = withField g.val F v i j → Leads (f ()) u R) : Leads (setF F v i j >>= f) g R :=
  leads_bind (leads_setF (Q := fun _ t => t = withField g.val F v i j) rfl) fun _ u h => k u h

theorem Leads.mono {Q' : α → State → Prop} (h : Leads m g Q) (k : ∀ a t, Q a t → Q' a t) : Leads m g Q' :=
  let ⟨a, u, e, q⟩ := h
  ⟨a, u, e, k a _ q⟩

/-- Something done under a condition, before the rest. -/
theorem leads_when {c : Prop} [Decidable c] {m : M s0 Unit} {f : Unit → M s0 β} {Q : State → Prop} (h : c → Leads m g fun _ => Q)
    (p : ¬ c → Q g.val) (k : ∀ u : Good s0, Q u.val → Leads (f ()) u R) : Leads (if c then m >>= f else f ()) g R := by
  split
  next yes => exact leads_bind (h yes) fun _ => k
  next no => exact k g (p no)

theorem leads_of_ends {P : Eff → Prop} (h : Ends P m) (g : Good s0) : Leads m g fun _ t => ReachBy P g.val t := h g

/-- A command whose meaning leads somewhere leaves that state. -/
theorem leads_run {s : State} {m : M s Unit} {Q : State → Prop} (h : Leads m ⟨s, .refl⟩ fun _ => Q) : Q (run s m) := by
  obtain ⟨a, u, e, q⟩ := h
  rwa [run_of_ok e]

theorem leads_next {s : State} {m : M s Unit} {Q : State → Prop} (h : Leads m ⟨s, .refl⟩ fun _ => Q) :
    ∃ t, (Host.Outcome.next (run s m) : Host.Outcome State Fault Refusal) = .next t ∧ Q t := ⟨_, rfl, leads_run h⟩

/-- A loop that takes every turn: what each turn keeps, and what each gives and the others leave. -/
theorem leads_loop {l : List γ} {k : γ → M s0 (ForInStep PUnit)} {I : State → Prop} {Q : γ → State → Prop}
    (turn : ∀ a ∈ l, ∀ g, I g.val → Leads (k a) g fun r t => r = .yield ⟨⟩ ∧ I t ∧ Q a t ∧ ∀ b ∈ l, Q b g.val → Q b t)
    (start : I g.val) : Leads (forIn l PUnit.unit fun a _ => k a) g fun _ t => I t ∧ ∀ a ∈ l, Q a t := by
  suffices go : ∀ r, (∀ a ∈ r, a ∈ l) → ∀ g : Good s0, I g.val →
      Leads (forIn r PUnit.unit fun a _ => k a) g fun _ t => I t ∧ (∀ a ∈ r, Q a t) ∧ ∀ b ∈ l, Q b g.val → Q b t from
    (go l (fun _ h => h) g start).mono fun _ _ h => ⟨h.1, h.2.1⟩
  intro r sub
  induction r with
  | nil => exact fun g i => leads_pure ⟨i, by simp, fun _ _ q => q⟩
  | cons a r ih =>
    intro g i
    rw [List.forIn_cons]
    refine leads_bind (turn a (sub a List.mem_cons_self) g i) fun x u hu => ?_
    obtain ⟨rfl, iu, qa, keep⟩ := hu
    refine (ih (fun b hb => sub b (List.mem_cons_of_mem a hb)) u iu).mono fun _ t ht => ?_
    obtain ⟨it, qr, keep'⟩ := ht
    refine ⟨it, ?_, fun b hb q => keep' b hb (keep b hb q)⟩
    rintro b (_ | ⟨_, hb⟩)
    · exact keep' a (sub a List.mem_cons_self) qa
    · exact qr b hb

/-! What holds along a meaning. -/

/-- A meaning runs to its end from every state of which a statement holds, and keeps it. -/
def Keeps (I : State → Prop) (m : M s0 α) : Prop := ∀ g, I g.val → Leads m g fun _ => I

variable {I : State → Prop}

theorem keeps_pure (a : α) : Keeps I (pure a : M s0 α) := fun _ i => leads_pure i
theorem keeps_bind (h : Keeps I m) (k : ∀ a, Keeps I (f a)) : Keeps I (m >>= f) := fun g i => leads_bind (h g i) fun a u => k a u

/-- What goes on with the state read may rely on what holds of it. -/
theorem keeps_bind_st {f : State → M s0 β} (k : ∀ s, I s → Keeps I (f s)) : Keeps I (st >>= f) :=
  fun g i => leads_bind_st (k _ i g i)

theorem keeps_read (h : ∀ g, ∃ a, eval m g = (.ok a, g)) : Keeps I m := fun g i =>
  let ⟨a, e⟩ := h g
  ⟨a, g, e, i⟩

theorem keeps_eff {e : Eff} (h : ∀ t, I t → I (e.apply t)) : Keeps I (eff e : M s0 Unit) := fun _ i => leads_eff (h _ i)
theorem keeps_setF {F : Fld} {v i j : Nat} (h : ∀ t, I t → I (withField t F v i j)) : Keeps I (setF F v i j : M s0 Unit) :=
  fun _ p => leads_setF (h _ p)

theorem keeps_ite {c : Prop} [Decidable c] {a b : M s0 α} (h : Keeps I a) (k : Keeps I b) : Keeps I (if c then a else b) := by
  split <;> assumption

theorem keeps_when {c : Prop} [Decidable c] {m : M s0 Unit} {f : Unit → M s0 β} (h : Keeps I m) (k : ∀ u, Keeps I (f u)) :
    Keeps I (if c then m >>= f else f ()) := keeps_ite (keeps_bind h k) (k ())

theorem keeps_loop {σ : Type} {l : List γ} {x : σ} {k : γ → σ → M s0 (ForInStep σ)} (h : ∀ a ∈ l, ∀ b, Keeps I (k a b)) :
    Keeps I (forIn l x k) := by
  induction l generalizing x with
  | nil => exact keeps_pure _
  | cons a l ih =>
    rw [List.forIn_cons]
    refine keeps_bind (h a List.mem_cons_self x) fun r => ?_
    cases r with
    | done b => exact keeps_pure _
    | yield b => exact ih fun c hc => h c (List.mem_cons_of_mem a hc)

/-- A meaning that makes changes of a kind keeps what no change of the kind breaks. -/
theorem keeps_of_ends {P : Eff → Prop} (h : Ends P m) (k : ∀ t u, ReachBy P t u → I t → I u) : Keeps I m := fun g i =>
  (leads_of_ends h g).mono fun _ _ r => k _ _ r i

end Sys2Proof.Machine
end

section
/-! SUPPORT. The power controller (R486 to R493, R496): the fields that computing the grants leaves alone, and what each of its steps sets. -/

namespace Sys2Proof.Machine

open Sys2Proof

variable {s0 : State}

/-! Fields that stand. -/

/-- The fields listed, each of the register of its index, read as in another state. -/
structure Standing (kept : List (Fld × Nat)) (s t : State) : Prop where
  wf : FMap.wf resetValue t.regs = true
  field : ∀ x ∈ kept, fieldIn t x.1 x.2 0 = fieldIn s x.1 x.2 0

variable {kept : List (Fld × Nat)} {s t u : State}

theorem Standing.refl (w : FMap.wf resetValue s.regs = true) : Standing kept s s := ⟨w, fun _ _ => rfl⟩

theorem Standing.trans (h : Standing kept s t) (k : Standing kept t u) : Standing kept s u :=
  ⟨k.wf, fun x hx => (k.field x hx).trans (h.field x hx)⟩

theorem Standing.of_regs (h : Standing kept s t) (e : u.regs = t.regs) : Standing kept s u := by
  refine ⟨e ▸ h.wf, fun x hx => ?_⟩
  rw [fieldIn, e]
  exact h.field x hx

theorem Standing.withField {F : Fld} {i : Nat} (h : Standing kept s t) (hF : F.lo + F.width ≤ 64)
    (ha : (kept.all fun x => F.apart i x.1 x.2) = true) (v : Nat) : Standing kept s (withField t F v i) :=
  ⟨withField_wf h.wf v, fun x hx =>
    (fieldIn_withField_apart h.wf hF (List.all_eq_true.1 ha x hx) v).trans (h.field x hx)⟩

theorem Standing.reach {ps : List Part} {bs : List Nat} (h : Standing kept s t) (r : ReachBy (sparing ps bs) t u)
    (hb : (kept.all fun x => bs.contains (x.1.addr x.2 0 / 2 ^ 20)) = true) : Standing kept s u :=
  ⟨r.sparing_wf h.wf, fun x hx =>
    (r.sparing_field h.wf (List.contains_iff_mem.1 (List.all_eq_true.1 hb x hx))).trans (h.field x hx)⟩

/-! What computing the grants leaves. -/

/-- What the power controller does beside its own registers: jobs stand, and of its own state only whether capping goes on and the lowest
input of that change. -/
structure Granted (kept : List (Fld × Nat)) (s t : State) : Prop where
  standing : Standing kept s t
  jobs : t.jobs = s.jobs
  pwr : ∃ capping capLow, t.pwr = { s.pwr with capping, capLow }

theorem Granted.refl (w : FMap.wf resetValue s.regs = true) : Granted kept s s := ⟨.refl w, rfl, _, _, rfl⟩

theorem Granted.trans (h : Granted kept s t) (k : Granted kept t u) : Granted kept s u := by
  obtain ⟨_, _, hp⟩ := h.pwr
  obtain ⟨_, _, kp⟩ := k.pwr
  exact ⟨h.standing.trans k.standing, k.jobs.trans h.jobs, _, _, by rw [kp, hp]⟩

theorem Granted.withField {F : Fld} {i : Nat} (h : Granted kept s t) (hF : F.lo + F.width ≤ 64)
    (ha : (kept.all fun x => F.apart i x.1 x.2) = true) (v : Nat) : Granted kept s (withField t F v i) :=
  ⟨h.standing.withField hF ha v, h.jobs, h.pwr⟩

/-- Fewer fields stand too. -/
theorem Granted.of_mem {less : List (Fld × Nat)} (h : Granted kept s t) (sub : ∀ x ∈ less, x ∈ kept) : Granted less s t :=
  ⟨⟨h.standing.wf, fun x hx => h.standing.field x (sub x hx)⟩, h.jobs, h.pwr⟩

/-- The list names fields of the blocks only that writing a record leaves alone. -/
def unrecorded (kept : List (Fld × Nat)) : Bool := kept.all fun x => [0x00, 0x0D, 0x1E, 0x1F, 0x22].contains (x.1.addr x.2 0 / 2 ^ 20)

theorem Granted.recorded (h : Granted kept s t) (r : ReachBy recording t u) (hb : unrecorded kept = true) : Granted kept s u := by
  have jobs : u.jobs = t.jobs := r.same State.jobs fun e v p => apply_jobs (sparing_part p (by decide) (by decide))
  have pwr : u.pwr = t.pwr := r.same State.pwr fun e v p => apply_pwr (sparing_part p (by decide) (by decide))
  exact ⟨h.standing.reach r hb, jobs.trans h.jobs, pwr ▸ h.pwr⟩

theorem ends_sendMsix (v : Nat) : Ends recording (sendMsix v : M s0 Unit) :=
  ends_bind ends_st fun _ => ends_ite (ends_ite (ends_eff rfl) (ends_eff rfl)) (ends_pure _)

theorem ends_powerRecord (cause lowest duration : Nat) : Ends recording (powerRecord cause lowest duration : M s0 Unit) :=
  ends_bind ends_st fun _ => ends_record _

theorem ends_thermalRecord (cause field sensor reading : Nat) : Ends recording (thermalRecord cause field sensor reading : M s0 Unit) :=
  ends_bind (ends_ite (ends_getF _ _ _) (ends_pure _)) fun _ => ends_record _

section
variable (hb : unrecorded kept = true)
include hb

theorem keeps_recorded {α : Type} {m : M s0 α} (h : Ends recording m) : Keeps (Granted kept s) m :=
  keeps_of_ends h fun _ _ r i => i.recorded r hb

/-! Alerts (R496). -/

omit hb in
theorem keeps_showAlert (ha : (kept.all fun x => R.MGT_STATUS_ALERT.apart 0 x.1 x.2) = true) :
    Keeps (Granted kept s) (showAlert : M s0 Unit) :=
  keeps_bind_st fun _ _ => keeps_bind (keeps_eff fun _ i => ⟨i.standing.of_regs rfl, i.jobs, i.pwr⟩) fun _ =>
    keeps_setF fun _ i => i.withField (by decide) ha _

/-- The bit of a cause of PWR_ALERT. -/
def alertBit (c : Nat) : Fld := { R.PWR_ALERT_WARN with lo := c, width := 1 }

omit hb in
theorem alertBit_addr (c : Nat) : (alertBit c).addr 0 0 = R.PWR_ALERT_WARN.addr 0 0 := rfl

/-- What shows and reports an alert leaves its bit. -/
theorem keeps_alertTail (c : Nat) (ha : (kept.all fun x => R.MGT_STATUS_ALERT.apart 0 x.1 x.2) = true) :
    Keeps (Granted ((alertBit c, 0) :: kept) s) (do
      showAlert
      if bitN (← getF R.PWR_ALERT_EN_EN) c then sendMsix 5
      emit (.message .mctp (Config.standardReply 4 [BitVec.ofNat 8 c] []))
      return true : M s0 Bool) := by
  have hb' : unrecorded ((alertBit c, 0) :: kept) = true := by
    rw [unrecorded, List.all_cons, Bool.and_eq_true, alertBit_addr]
    exact ⟨rfl, hb⟩
  have ha' : (((alertBit c, 0) :: kept).all fun x => R.MGT_STATUS_ALERT.apart 0 x.1 x.2) = true := by
    rw [List.all_cons, Bool.and_eq_true, Fld.apart, alertBit_addr]
    exact ⟨rfl, ha⟩
  refine keeps_bind (keeps_showAlert ha') fun _ => keeps_bind (keeps_read fun _ => ⟨_, rfl⟩) fun _ => ?_
  refine keeps_when (keeps_recorded hb' (ends_sendMsix _)) fun _ => ?_
  exact keeps_bind (keeps_recorded hb' (ends_eff rfl)) fun _ => keeps_pure _

/-- A cause of PWR_ALERT that becomes set is set. -/
theorem leads_setAlert {c : Nat} {g : Good s0} (hc : c < 4) (w : FMap.wf resetValue g.val.regs = true)
    (ha : (kept.all fun x => R.MGT_STATUS_ALERT.apart 0 x.1 x.2) = true)
    (hk : (kept.all fun x => (alertBit c).apart 0 x.1 x.2) = true) :
    Leads (setAlert c) g fun _ t => fieldIn t (alertBit c) 0 0 = 1 ∧ Granted kept g.val t := by
  have fits : (alertBit c).lo + (alertBit c).width ≤ 64 := by simp only [alertBit]; omega
  refine leads_bind_read (eval_rdReg _ _) ?_
  by_cases set : bitsOf (FMap.get resetValue g.val.regs (R.PWR_ALERT_WARN.addr 0 0)) c 1 = 1
  · rw [if_pos set]
    exact leads_pure ⟨set, .refl w⟩
  rw [if_neg set]
  refine leads_bind (Q := fun _ t => t = withField g.val (alertBit c) 1) ⟨(), _, rfl, rfl⟩ fun _ u hu => ?_
  have now : Granted kept g.val u.val := hu ▸ (Granted.refl w).withField fits hk 1
  have bit : fieldIn u.val (alertBit c) 0 0 = 1 := hu ▸ fieldIn_withField_same w fits 1
  refine (keeps_alertTail hb c ha u (.refl now.standing.wf)).mono fun _ t ht => ?_
  obtain ⟨standing, jobs, pwr⟩ := ht
  refine ⟨(standing.field _ List.mem_cons_self).trans bit, now.trans ⟨⟨standing.wf, fun x hx => ?_⟩, jobs, pwr⟩⟩
  exact standing.field x (List.mem_cons_of_mem _ hx)

variable (ha : (kept.all fun x => R.MGT_STATUS_ALERT.apart 0 x.1 x.2) = true)
include ha

theorem keeps_setAlert {c : Nat} (hc : c < 4) (hk : (kept.all fun x => (alertBit c).apart 0 x.1 x.2) = true) :
    Keeps (Granted kept s) (setAlert c : M s0 Bool) := fun _ i =>
  (leads_setAlert hb hc i.standing.wf ha hk).mono fun _ _ h => i.trans h.2

/-- Capping begins and ends: CAPPED is its alert, and its records are records. -/
theorem keeps_noteCapping (hk : (kept.all fun x => (alertBit 2).apart 0 x.1 x.2) = true) :
    Keeps (Granted kept s) (noteCapping : M s0 Unit) := by
  have mark (capping : Bool) (capLow : State → Nat) (x : State) (hx : Granted kept s x) :
      Keeps (Granted kept s) (eff (.pwr { x.pwr with capping, capLow := capLow x }) : M s0 Unit) := by
    refine keeps_eff fun t i => ⟨i.standing.of_regs rfl, i.jobs, ?_⟩
    obtain ⟨_, _, hp⟩ := hx.pwr
    exact ⟨capping, capLow x, by rw [apply_pwr_pwr, hp]⟩
  refine keeps_bind_st fun x hx => ?_
  have ending : Keeps (Granted kept s) (if (!cappedIn x && x.pwr.capping) = true then do
      eff (.pwr { x.pwr with capping := false }); powerRecord 4 x.pwr.capLow 0 else pure () : M s0 Unit) :=
    keeps_ite (keeps_bind (mark false (fun x => x.pwr.capLow) x hx) fun _ => keeps_recorded hb (ends_powerRecord _ _ _)) (keeps_pure _)
  refine keeps_ite ?_ ending
  refine keeps_bind (mark true (fun x => fieldIn x R.PWR_INPUT_VIN 0 0) x hx) fun _ => ?_
  refine keeps_bind (keeps_setAlert hb ha (by decide) hk) fun _ => ?_
  exact keeps_bind (keeps_recorded hb (ends_powerRecord _ _ _)) fun _ => ending

end

/-! Grants (R490). -/

theorem keeps_setPower (p : Nat) (h : (kept.all fun x => R.PWR_STATE_STATE.apart 0 x.1 x.2 && R.DEV_MOOD_POWER.apart 0 x.1 x.2 &&
      R.DEV_MOOD_MOOD.apart 0 x.1 x.2 && R.DEV_MOOD_TAINT.apart 0 x.1 x.2) = true) : Keeps (Granted kept s) (setPower p : M s0 Unit) := by
  simp only [List.all_eq_true, Bool.and_eq_true] at h
  have one {F : Fld} (v : Nat) (hF : F.lo + F.width ≤ 64) (ha : ∀ x ∈ kept, F.apart 0 x.1 x.2 = true) :
      Keeps (Granted kept s) (setF F v : M s0 Unit) := keeps_setF fun _ i => i.withField hF (List.all_eq_true.2 ha) v
  refine keeps_bind (one _ (by decide) fun x hx => (h x hx).1.1.1) fun _ => ?_
  refine keeps_bind (one _ (by decide) fun x hx => (h x hx).1.1.2) fun _ => keeps_bind_st fun _ _ => ?_
  exact keeps_bind (one _ (by decide) fun x hx => (h x hx).1.2) fun _ => one _ (by decide) fun x hx => (h x hx).2

/-- The temperatures of the eight fields. -/
def temperatureFields : List (Fld × Nat) := (List.range 8).map fun f => (R.PWR_VREQ_TJ, f)

/-- The alerts, their count, the cap and the input voltage. -/
def alertFields : List (Fld × Nat) :=
  [(R.PWR_ALERT_WARN, 0), (R.PWR_ALERT_THERM, 0), (R.PWR_ALERT_CURRENT, 0), (R.PWR_CNT_WARNINGS, 0), (R.PWR_CAP_EFFECTIVE, 0),
   (R.PWR_INPUT_VIN, 0)]

/-- The fields that the statements of the power controller speak of and that computing the grants leaves. -/
def powerFields : List (Fld × Nat) := (R.MX_LIMIT_LIMIT, 0) :: (temperatureFields ++ alertFields)

/-- The grants of the eight fields. -/
def grantFields : List (Fld × Nat) := (List.range 8).map fun f => (R.PWR_VREQ_GRANT, f)

/-- What a turn of the loop over the fields sets is a grant and the reasons for it. -/
def turnFields : List Fld := [R.PWR_VREQ_GRANT, R.PWR_VREQ_BY_CAP, R.PWR_VREQ_BY_THERMAL, R.PWR_VREQ_BY_WARN]

theorem turnFields_apart : ∀ F ∈ turnFields, F.lo + F.width ≤ 64 ∧ ∀ f < 8, (powerFields.all fun x => F.apart f x.1 x.2) = true := by
  decide +kernel

theorem turnFields_apart_grant : ∀ F ∈ turnFields, ∀ f < 8, ∀ k < 8, F = R.PWR_VREQ_GRANT ∧ k = f ∨
    F.apart f R.PWR_VREQ_GRANT k = true := by
  decide +kernel

/-- One field's grant is set, with the reasons for it. -/
theorem leads_grantTurn {f v a b c : Nat} (hf : f < 8) (g : Good s0) (w : FMap.wf resetValue g.val.regs = true) :
    Leads (do
      setF R.PWR_VREQ_GRANT v f
      setF R.PWR_VREQ_BY_CAP a f
      setF R.PWR_VREQ_BY_THERMAL b f
      setF R.PWR_VREQ_BY_WARN c f
      pure (ForInStep.yield PUnit.unit) : M s0 (ForInStep PUnit)) g fun r t => r = .yield ⟨⟩ ∧ Granted powerFields g.val t ∧
        fieldIn t R.PWR_VREQ_GRANT f 0 = v % 2 ^ 16 ∧
        ∀ k < 8, k ≠ f → fieldIn t R.PWR_VREQ_GRANT k 0 = fieldIn g.val R.PWR_VREQ_GRANT k 0 := by
  have step {F : Fld} (hF : F ∈ turnFields) (n : Nat) {u : State} (h : Granted powerFields g.val u) :
      Granted powerFields g.val (withField u F n f) := h.withField (turnFields_apart F hF).1 ((turnFields_apart F hF).2 f hf) n
  have other {F : Fld} (hF : F ∈ turnFields) (n : Nat) {u : State} (h : Granted powerFields g.val u) {k : Nat} (hk : k < 8)
      (ne : F ≠ R.PWR_VREQ_GRANT ∨ k ≠ f) : fieldIn (withField u F n f) R.PWR_VREQ_GRANT k 0 = fieldIn u R.PWR_VREQ_GRANT k 0 :=
    fieldIn_withField_apart h.standing.wf (turnFields_apart F hF).1 ((turnFields_apart_grant F hF f hf k hk).resolve_left
      fun h => ne.elim (· h.1) (· h.2)) n
  have h1 := step (F := R.PWR_VREQ_GRANT) (by decide) v (Granted.refl w)
  have h2 := step (F := R.PWR_VREQ_BY_CAP) (by decide) a h1
  have h3 := step (F := R.PWR_VREQ_BY_THERMAL) (by decide) b h2
  have reasons {k : Nat} (hk : k < 8) := (other (F := R.PWR_VREQ_BY_WARN) (by decide) c h3 hk (.inl (by decide))).trans
    ((other (by decide) b h2 hk (.inl (by decide))).trans (other (by decide) a h1 hk (.inl (by decide))))
  refine ⟨_, ⟨_, _⟩, rfl, rfl, step (by decide) c h3, ?_, fun k hk ne => ?_⟩
  · exact (reasons hf).trans (fieldIn_withField_same w (by decide) v)
  · exact (reasons hk).trans (other (by decide) v (.refl w) hk (.inr ne))

/-- While a warning is set no grant is above 0.65 V, and none is ever below (R490). -/
theorem grantOf_warn (request cap therm : Nat) : (grantOf request cap therm true).1 = 650 := by
  simp only [grantOf, if_true]
  omega

/-- What a warning does to a field's grant. -/
def Floored (s : State) (f : Nat) (t : State) : Prop :=
  fieldIn s R.PWR_ALERT_WARN 0 0 = 1 → powerIn s < 2 → fieldIn t R.PWR_VREQ_GRANT f 0 = 650

/-- A turn that sets a field's grant leaves the others as the warning has them. -/
theorem leads_flooredTurn {s : State} {f v a b c : Nat} (hf : f ∈ List.range 8) {g : Good s0} (i : Granted powerFields s g.val)
    (hv : fieldIn s R.PWR_ALERT_WARN 0 0 = 1 → powerIn s < 2 → v = 650) :
    Leads (do
      setF R.PWR_VREQ_GRANT v f
      setF R.PWR_VREQ_BY_CAP a f
      setF R.PWR_VREQ_BY_THERMAL b f
      setF R.PWR_VREQ_BY_WARN c f
      pure (ForInStep.yield PUnit.unit) : M s0 (ForInStep PUnit)) g fun r t => r = .yield ⟨⟩ ∧ Granted powerFields s t ∧
        Floored s f t ∧ ∀ k ∈ List.range 8, Floored s k g.val → Floored s k t := by
  refine (leads_grantTurn (List.mem_range.1 hf) g i.standing.wf).mono fun r t ht => ?_
  obtain ⟨hr, keep, set, rest⟩ := ht
  have here : Floored s f t := fun w p => by rw [set, hv w p]; rfl
  refine ⟨hr, i.trans keep, here, fun k hk q => ?_⟩
  by_cases e : k = f
  · exact e ▸ here
  · exact fun w p => (rest k (List.mem_range.1 hk) e).trans (q w p)

/-- The grants are computed; while a warning is set, each is 0.65 V in P0 and P1. -/
theorem leads_regrant (g : Good s0) (w : FMap.wf resetValue g.val.regs = true) :
    Leads regrant g fun _ t => Granted powerFields g.val t ∧
      (fieldIn g.val R.PWR_ALERT_WARN 0 0 = 1 → powerIn g.val < 2 → ∀ f < 8, fieldIn t R.PWR_VREQ_GRANT f 0 = 650) := by
  refine leads_bind_st (leads_bind (Q := fun _ t => Granted powerFields g.val t ∧ ∀ f ∈ List.range 8, Floored g.val f t) ?loop
    fun _ u hu => ?rest)
  case loop =>
    refine leads_loop (fun f hf u i => ?_) (.refl w)
    by_cases p : powerIn g.val < 2
    · rw [if_pos p]
      exact leads_flooredTurn hf i fun warned _ => by rw [beq_iff_eq.2 warned]; exact grantOf_warn _ _ _
    · rw [if_neg p]
      exact leads_flooredTurn hf i fun _ low => absurd low p
  case rest =>
    obtain ⟨now, floored⟩ := hu
    have ending : Keeps (Granted (powerFields ++ grantFields) u.val) (noteCapping : M s0 Unit) :=
      keeps_noteCapping (by decide +kernel) (by decide +kernel) (by decide +kernel)
    have moved (p : Nat) : Keeps (Granted (powerFields ++ grantFields) u.val) (setPower p : M s0 Unit) :=
      keeps_setPower p (by decide +kernel)
    refine Leads.mono (Q := fun _ => Granted (powerFields ++ grantFields) u.val)
      (keeps_ite (keeps_bind_st fun _ _ => keeps_bind (moved _) fun _ => ending) ending u (.refl now.standing.wf)) fun _ t ht => ?_
    refine ⟨now.trans (ht.of_mem fun x hx => List.mem_append_left _ hx), fun warned p f hf => ?_⟩
    exact (ht.standing.field (R.PWR_VREQ_GRANT, f) (List.mem_append_right _ (List.mem_map_of_mem (List.mem_range.2 hf)))).trans
      (floored f (List.mem_range.2 hf) warned p)

theorem keeps_regrant (sub : ∀ x ∈ kept, x ∈ powerFields) : Keeps (Granted kept s) (regrant : M s0 Unit) := fun g i =>
  (leads_regrant g i.standing.wf).mono fun _ _ h => i.trans (h.1.of_mem sub)

end Sys2Proof.Machine
end

section
/-! SUPPORT. The steps of the power controller: the ceiling of the ramp, the capping loop, heat, the warning band and the readings (R486 to
R493). -/

namespace Sys2Proof.Machine

open Sys2Proof

variable {s0 s : State} {g : Good s0}

/-! The ceiling of the ramp (R491). -/

/-- What a lowered ceiling leaves: all but the ceiling itself. -/
def limitFields : List (Fld × Nat) := temperatureFields ++ alertFields

theorem enabled_apart : ∀ l < 144, (powerFields.all fun x => R.MX_STAT_ENABLED.apart l x.1 x.2) = true := by decide +kernel

/-- The ceiling is set. -/
theorem leads_setLimit (v : Nat) (w : FMap.wf resetValue g.val.regs = true) :
    Leads (setLimit v) g fun _ t => Granted limitFields g.val t ∧ t.pwr = g.val.pwr ∧ fieldIn t R.MX_LIMIT_LIMIT 0 0 = v % 32 := by
  refine leads_bind_setF fun u hu => ?_
  have now : Granted limitFields g.val u.val := hu ▸ (Granted.refl w).withField (by decide) (by decide +kernel) v
  have set : fieldIn u.val R.MX_LIMIT_LIMIT 0 0 = v % 32 := hu ▸ fieldIn_withField_same w (by decide) v
  have pwr : u.val.pwr = g.val.pwr := by rw [hu]; rfl
  have turns : Keeps (fun t => Standing powerFields u.val t ∧ t.jobs = u.val.jobs ∧ t.pwr = u.val.pwr) (do
      for l in List.range 144 do
        if v < (← getF R.MX_STAT_ENABLED l) then setF R.MX_STAT_ENABLED v l : M s0 Unit) := by
    refine keeps_bind (keeps_loop fun l hl _ => keeps_bind (keeps_read fun _ => ⟨_, rfl⟩) fun n => ?_) fun _ => keeps_pure _
    refine keeps_when (c := v < n) (keeps_setF fun t i => ?_) fun _ => keeps_pure _
    exact ⟨i.1.withField (by decide) (enabled_apart l (List.mem_range.1 hl)) v, i.2⟩
  refine (turns u ⟨.refl now.standing.wf, rfl, rfl⟩).mono fun _ t ht => ?_
  obtain ⟨standing, jobs, same⟩ := ht
  have part : Granted powerFields u.val t := ⟨standing, jobs, _, _, same⟩
  exact ⟨now.trans (part.of_mem fun x => List.mem_cons_of_mem _), same.trans pwr,
    (standing.field (R.MX_LIMIT_LIMIT, 0) List.mem_cons_self).trans set⟩

theorem limit_lt (t : State) : fieldIn t R.MX_LIMIT_LIMIT 0 0 < 32 := fieldIn_lt t R.MX_LIMIT_LIMIT 0 0

theorem leads_lowerLimit (w : FMap.wf resetValue g.val.regs = true) :
    Leads lowerLimit g fun _ t => Granted limitFields g.val t ∧ t.pwr = g.val.pwr ∧
      fieldIn t R.MX_LIMIT_LIMIT 0 0 = max 1 (fieldIn g.val R.MX_LIMIT_LIMIT 0 0 - 1) := by
  refine leads_bind_read (eval_getF _ _ _ _) ((leads_setLimit _ w).mono fun _ t ht => ?_)
  obtain ⟨keep, pwr, set⟩ := ht
  have := limit_lt g.val
  exact ⟨keep, pwr, set.trans (Nat.mod_eq_of_lt (by omega))⟩

/-- The ceiling rises by one below its maximum. -/
theorem leads_raiseLimit (w : FMap.wf resetValue g.val.regs = true) (h : fieldIn g.val R.MX_LIMIT_LIMIT 0 0 < 16) :
    Leads raiseLimit g fun _ t => Standing limitFields g.val t ∧ t.pwr.capGrant = g.val.pwr.capGrant ∧
      fieldIn t R.MX_LIMIT_LIMIT 0 0 = fieldIn g.val R.MX_LIMIT_LIMIT 0 0 + 1 := by
  refine leads_bind_read (eval_getF _ _ _ _) (leads_bind_setF fun u hu => ?_)
  have keep : Standing limitFields g.val u.val := hu ▸ (Standing.refl w).withField (by decide) (by decide +kernel) _
  have set : fieldIn u.val R.MX_LIMIT_LIMIT 0 0 = fieldIn g.val R.MX_LIMIT_LIMIT 0 0 + 1 := by
    rw [hu, fieldIn_withField_same w (by decide)]
    exact Nat.mod_eq_of_lt (Nat.lt_of_le_of_lt (Nat.succ_le_of_lt h) (by decide))
  have grants : u.val.pwr.capGrant = g.val.pwr.capGrant := by rw [hu]; rfl
  by_cases top : 15 ≤ fieldIn g.val R.MX_LIMIT_LIMIT 0 0
  · rw [if_pos top]
    exact leads_bind_st (leads_eff ⟨keep.of_regs rfl, grants, set⟩)
  · rw [if_neg top]
    exact leads_pure ⟨keep, grants, set⟩

/-! The capping loop (R491). -/

/-- What the comparison of power and cap does to the capping grants and to the ceiling. -/
structure CapMoved (power cap : Nat) (s t : State) : Prop where
  floor : cap < power → s.pwr.capGrant.all (fun g => decide (g ≤ 650)) = true ∨ fieldIn s R.PWR_ALERT_WARN 0 0 = 1 →
    t.pwr.capGrant = s.pwr.capGrant ∧ fieldIn t R.MX_LIMIT_LIMIT 0 0 = max 1 (fieldIn s R.MX_LIMIT_LIMIT 0 0 - 1)
  fall : cap < power → s.pwr.capGrant.all (fun g => decide (g ≤ 650)) = false → fieldIn s R.PWR_ALERT_WARN 0 0 = 0 →
    t.pwr.capGrant = s.pwr.capGrant.map (fun g => max 650 (g - 10)) ∧ fieldIn t R.MX_LIMIT_LIMIT 0 0 = fieldIn s R.MX_LIMIT_LIMIT 0 0
  ceiling : power ≤ cap → 100 * power < 97 * cap → 9 ≤ s.pwr.below → fieldIn s R.MX_LIMIT_LIMIT 0 0 < 16 →
    fieldIn t R.MX_LIMIT_LIMIT 0 0 = (if s.pwr.limitFree then fieldIn s R.MX_LIMIT_LIMIT 0 0 + 1 else fieldIn s R.MX_LIMIT_LIMIT 0 0) ∧
      t.pwr.capGrant = s.pwr.capGrant
  rise : power ≤ cap → 100 * power < 97 * cap → 9 ≤ s.pwr.below → 16 ≤ fieldIn s R.MX_LIMIT_LIMIT 0 0 →
    t.pwr.capGrant = s.pwr.capGrant.map (fun g => min 850 (g + 10))
  wait : power ≤ cap → s.pwr.below < 9 → t.pwr.capGrant = s.pwr.capGrant ∧ fieldIn t R.MX_LIMIT_LIMIT 0 0 = fieldIn s R.MX_LIMIT_LIMIT 0 0

/-- The capping grants and the ceiling stand, where neither the cap is exceeded nor recovery is due. -/
theorem CapMoved.of_wait {power cap : Nat} {t : State} (under : power ≤ cap) (short : 9 ≤ s.pwr.below → ¬ 100 * power < 97 * cap)
    (grants : t.pwr.capGrant = s.pwr.capGrant) (limit : fieldIn t R.MX_LIMIT_LIMIT 0 0 = fieldIn s R.MX_LIMIT_LIMIT 0 0) :
    CapMoved power cap s t :=
  ⟨fun h => by omega, fun h => by omega, fun _ low long => absurd low (short long), fun _ low long => absurd low (short long),
    fun _ _ => ⟨grants, limit⟩⟩

theorem leads_capStep (power cap : Nat) (w : FMap.wf resetValue g.val.regs = true) :
    Leads (capStep power cap) g fun _ t => Standing limitFields g.val t ∧ CapMoved power cap g.val t := by
  refine leads_bind_st ?_
  have same {p : Pwr} : Standing limitFields g.val ((Eff.pwr p).apply g.val) := (Standing.refl w).of_regs rfl
  by_cases above : cap < power
  · rw [if_pos above]
    by_cases floor : (g.val.pwr.capGrant.all (· ≤ 650) || fieldIn g.val R.PWR_ALERT_WARN 0 0 == 1) = true
    · rw [if_pos floor]
      refine leads_bind (leads_lowerLimit w) fun _ u hu => leads_eff ?_
      obtain ⟨keep, _, set⟩ := hu
      refine ⟨keep.standing.of_regs rfl, ⟨fun _ _ => ⟨rfl, set⟩, fun _ high calm => ?_, ?_, ?_, ?_⟩⟩
      · rw [high, calm] at floor
        exact absurd floor (by decide)
      all_goals omega
    · rw [if_neg floor]
      refine leads_eff ⟨same, ⟨fun _ low => ?_, fun _ _ _ => ⟨rfl, rfl⟩, ?_, ?_, ?_⟩⟩
      · exact absurd (by simpa using low) floor
      all_goals omega
  rw [if_neg above]
  have under : power ≤ cap := by omega
  by_cases low : 100 * power < 97 * cap
  · rw [if_pos low]
    refine leads_bind_eff fun u hu => ?_
    have keep : Standing limitFields g.val u.val := hu ▸ same
    have wu : FMap.wf resetValue u.val.regs = true := keep.wf
    have limit : fieldIn u.val R.MX_LIMIT_LIMIT 0 0 = fieldIn g.val R.MX_LIMIT_LIMIT 0 0 := by rw [hu]; rfl
    have grants : u.val.pwr.capGrant = g.val.pwr.capGrant := by rw [hu]; rfl
    by_cases long : 9 ≤ g.val.pwr.below
    · rw [if_pos long]
      refine leads_bind_read (eval_getF _ _ _ _) ?_
      by_cases below : fieldIn u.val R.MX_LIMIT_LIMIT 0 0 < 16
      · rw [if_pos below]
        by_cases free : g.val.pwr.limitFree = true
        · rw [if_pos free]
          refine (leads_raiseLimit wu below).mono fun _ t ht => ?_
          obtain ⟨keep', same', rise⟩ := ht
          refine ⟨keep.trans keep', ⟨fun h => by omega, fun h => by omega, fun _ _ _ _ => ?_, by omega, by omega⟩⟩
          exact ⟨by rw [rise, limit, if_pos free], same'.trans grants⟩
        · rw [if_neg free]
          refine leads_pure ⟨keep, ⟨fun h => by omega, fun h => by omega, fun _ _ _ _ => ?_, by omega, by omega⟩⟩
          exact ⟨by rw [limit, if_neg free], grants⟩
      · rw [if_neg below]
        exact leads_bind_st (leads_eff ⟨keep.of_regs rfl, ⟨fun h => by omega, fun h => by omega, by omega, fun _ _ _ _ => rfl, by omega⟩⟩)
    · rw [if_neg long]
      exact leads_pure ⟨keep, .of_wait under (fun h => absurd h long) grants limit⟩
  · rw [if_neg low]
    exact leads_eff ⟨same, .of_wait under (fun _ => low) rfl rfl⟩

end Sys2Proof.Machine
end

section
/-! SUPPORT. The commands of the power controller. -/

namespace Sys2Proof.Machine

open Sys2Proof

variable {s0 s : State} {g : Good s0}

/-! Capping and currents (R491). -/

/-- A reading of the input changes the lowest ones kept only. -/
theorem leads_noteInput (vin : Nat) :
    Leads (noteInput vin) g fun _ t => ∃ lowest capLow, t = { g.val with pwr := { g.val.pwr with lowest, capLow } } :=
  leads_bind_st (leads_eff ⟨_, _, rfl⟩)

/-- The capping loop speaks of the grants, the count, the heat, the warning and the ceiling only. -/
theorem CapMoved.congr {power cap : Nat} {s' t t' : State} (h : CapMoved power cap s t) (grants : s.pwr.capGrant = s'.pwr.capGrant)
    (below : s.pwr.below = s'.pwr.below) (free : s.pwr.limitFree = s'.pwr.limitFree)
    (warn : fieldIn s R.PWR_ALERT_WARN 0 0 = fieldIn s' R.PWR_ALERT_WARN 0 0)
    (limit : fieldIn s R.MX_LIMIT_LIMIT 0 0 = fieldIn s' R.MX_LIMIT_LIMIT 0 0) (grants' : t.pwr.capGrant = t'.pwr.capGrant)
    (limit' : fieldIn t R.MX_LIMIT_LIMIT 0 0 = fieldIn t' R.MX_LIMIT_LIMIT 0 0) : CapMoved power cap s' t' := by
  obtain ⟨floor, fall, ceiling, rise, wait⟩ := h
  simp only [grants, below, free, warn, limit, grants', limit'] at floor fall ceiling rise wait
  exact ⟨floor, fall, ceiling, rise, wait⟩

/-- What a period of the capping loop reads. -/
def cappingFields : List (Fld × Nat) := [(R.MX_LIMIT_LIMIT, 0), (R.PWR_ALERT_WARN, 0), (R.PWR_CAP_SOFT, 0), (R.PWR_CAP_INSTALLED, 0)]

/-- One period of the capping loop at a power and an input voltage. -/
theorem leads_cappingTick (power vin : Nat) (w : FMap.wf resetValue g.val.regs = true) :
    Leads (cappingTick power vin) g fun _ t =>
      fieldIn t R.PWR_CAP_EFFECTIVE 0 0 = effectiveCap g.val vin % 2 ^ R.PWR_CAP_EFFECTIVE.width ∧
        CapMoved power (effectiveCap g.val vin) g.val t := by
  refine leads_bind_setF fun a ha => leads_bind_setF fun b hb => leads_bind (leads_noteInput vin) fun _ c hc => leads_bind_st ?_
  obtain ⟨lowest, capLow, hc⟩ := hc
  have read : Standing cappingFields g.val c.val := by
    rw [hc, hb, ha]
    exact (((Standing.refl w).withField (by decide) (by decide +kernel) _).withField (by decide) (by decide +kernel) _).of_regs rfl
  have cap : effectiveCap c.val vin = effectiveCap g.val vin := by
    simp only [effectiveCap, read.field (R.PWR_CAP_SOFT, 0) (by decide), read.field (R.PWR_CAP_INSTALLED, 0) (by decide)]
  rw [cap]
  refine leads_bind_setF fun d hd => ?_
  have shown : fieldIn d.val R.PWR_CAP_EFFECTIVE 0 0 = effectiveCap g.val vin % 2 ^ R.PWR_CAP_EFFECTIVE.width :=
    hd ▸ fieldIn_withField_same read.wf (by decide) _
  have before : Standing cappingFields g.val d.val := hd ▸ read.withField (by decide) (by decide +kernel) _
  have pwr : d.val.pwr = { g.val.pwr with lowest, capLow } := by rw [hd, hc, hb, ha]; rfl
  refine leads_bind (leads_capStep power _ before.wf) fun _ e he => (leads_regrant e he.1.wf).mono fun _ t ht => ?_
  obtain ⟨stand, moved⟩ := he
  obtain ⟨after, -⟩ := ht
  obtain ⟨_, _, pwr'⟩ := after.pwr
  refine ⟨?_, moved.congr (by rw [pwr]) (by rw [pwr]) (by rw [pwr]; rfl) (before.field (R.PWR_ALERT_WARN, 0) (by decide))
    (before.field (R.MX_LIMIT_LIMIT, 0) (by decide)) (by rw [pwr']) (after.standing.field (R.MX_LIMIT_LIMIT, 0) (by decide)).symm⟩
  rw [after.standing.field (R.PWR_CAP_EFFECTIVE, 0) (by decide), stand.field (R.PWR_CAP_EFFECTIVE, 0) (by decide), shown]

/-- Too much current: the ceiling falls to 8 at most, and CURRENT shows. -/
theorem fastCurrentLimit_lowers (w : FMap.wf resetValue s.regs = true) : ∃ t, exec .fastCurrentLimit s = .next t ∧
    fieldIn t R.MX_LIMIT_LIMIT 0 0 = min 8 (fieldIn s R.MX_LIMIT_LIMIT 0 0) ∧ fieldIn t R.PWR_ALERT_CURRENT 0 0 = 1 := by
  refine leads_next ?_
  refine leads_bind (leads_setLimit (g := ⟨s, .refl⟩) _ w) fun _ u hu => ?_
  obtain ⟨keep, -, set⟩ := hu
  have limit : fieldIn u.val R.MX_LIMIT_LIMIT 0 0 = min 8 (fieldIn s R.MX_LIMIT_LIMIT 0 0) := set.trans (Nat.mod_eq_of_lt (by omega))
  refine leads_bind (leads_setAlert (kept := [(R.MX_LIMIT_LIMIT, 0)]) (by decide +kernel) (by decide) keep.standing.wf
    (by decide +kernel) (by decide +kernel)) fun _ v hv => ?_
  obtain ⟨bit, now⟩ := hv
  have rest : Keeps (Granted [(R.MX_LIMIT_LIMIT, 0), (R.PWR_ALERT_CURRENT, 0)] v.val) (do
      powerRecord 5 (fieldIn s R.PWR_INPUT_VIN 0 0) 0
      regrant : M s Unit) :=
    keeps_bind (keeps_recorded (by decide +kernel) (ends_powerRecord _ _ _)) fun _ => keeps_regrant (by decide +kernel)
  refine (rest v (.refl now.standing.wf)).mono fun _ t ht => ⟨?_, ?_⟩
  · rw [ht.standing.field (R.MX_LIMIT_LIMIT, 0) (by decide), now.standing.field (R.MX_LIMIT_LIMIT, 0) (by decide), limit]
  · exact (ht.standing.field (R.PWR_ALERT_CURRENT, 0) (by decide)).trans bit

/-! Heat (R492). -/

/-- The temperatures of the fields are shown, each its own. -/
theorem leads_temperatures {kept : List (Fld × Nat)} (v : Nat → Nat) (w : FMap.wf resetValue g.val.regs = true)
    (hk : ∀ f < 8, (kept.all fun x => R.PWR_VREQ_TJ.apart f x.1 x.2) = true) :
    Leads (forIn (List.range 8) PUnit.unit fun f _ => do setF R.PWR_VREQ_TJ (v f) f; pure (ForInStep.yield PUnit.unit)) g fun _ t =>
      (Standing kept g.val t ∧ t.pwr = g.val.pwr) ∧ ∀ f ∈ List.range 8, fieldIn t R.PWR_VREQ_TJ f 0 = v f % 2 ^ 16 := by
  have apart : ∀ f < 8, ∀ k < 8, k ≠ f → R.PWR_VREQ_TJ.apart f R.PWR_VREQ_TJ k = true := by decide +kernel
  refine leads_loop (fun f hf u i => leads_bind_setF fun v hv => leads_pure ⟨rfl, ?_, ?_, fun k hk q => ?_⟩) ⟨.refl w, rfl⟩
  · rw [hv]
    exact ⟨i.1.withField (by decide) (hk f (List.mem_range.1 hf)) _, i.2⟩
  · rw [hv]
    exact fieldIn_withField_same i.1.wf (by decide) _
  · by_cases e : k = f
    · rw [hv, e]
      exact fieldIn_withField_same i.1.wf (by decide) _
    · rw [hv, fieldIn_withField_apart i.1.wf (by decide) (apart f (List.mem_range.1 hf) k (List.mem_range.1 hk) e)]
      exact q

/-- A field that is hot sets THERM, before the rest. -/
theorem leads_thermalAlert {β : Type} {c : Bool} {f : Unit → M s0 β} {Q : β → State → Prop} (w : FMap.wf resetValue g.val.regs = true)
    (rest : ∀ v : Good s0, Granted temperatureFields g.val v.val → (c = true → fieldIn v.val R.PWR_ALERT_THERM 0 0 = 1) → Leads (f ()) v Q) :
    Leads (if c = true then do
        let fresh ← setAlert 1
        if fresh = true then do
          let r ← countSat R.PWR_CNT_THERMAL
          f r
        else f ()
      else f ()) g Q := by
  by_cases hot : c = true
  · rw [if_pos hot]
    refine leads_bind (leads_setAlert (kept := temperatureFields) (by decide +kernel) (by decide) w (by decide +kernel) (by decide +kernel))
      fun fresh u hu => ?_
    obtain ⟨bit, keep⟩ := hu
    refine leads_when (Q := fun t => Granted temperatureFields g.val t ∧ fieldIn t R.PWR_ALERT_THERM 0 0 = 1) (fun _ => leads_countSat ?_)
      (fun _ => ⟨keep, bit⟩) fun v hv => rest v hv.1 fun _ => hv.2
    exact ⟨keep.withField (by decide) (by decide +kernel) _,
      (fieldIn_withField_apart keep.standing.wf (by decide) (by decide) _).trans bit⟩
  · rw [if_neg hot]
    exact rest g (.refl w) fun h => absurd h hot

theorem fieldTemps_getD (temps : List (BitVec 16)) {f : Nat} (hf : f < 8) :
    ((List.range 8).map (fieldTemp temps)).getD f (0, 0) = fieldTemp temps f := by
  simp [hf]

/-- The step of a thermal grant: no field beyond the eighth has a temperature. -/
theorem thermalStep_eq (temps : List (BitVec 16)) (x : Nat × Nat) :
    (if 1030 ≤ (((List.range 8).map (fieldTemp temps)).getD x.2 (0, 0)).1 then max 650 (x.1 - 10) else x.1) =
      if x.2 < 8 ∧ 1030 ≤ (fieldTemp temps x.2).1 then max 650 (x.1 - 10) else x.1 := by
  by_cases field : x.2 < 8
  · simp only [fieldTemps_getD temps field, field, true_and]
  · have beyond : ((List.range 8).map (fieldTemp temps)).getD x.2 (0, 0) = (0, 0) :=
      List.getD_eq_default _ _ (by rw [List.length_map, List.length_range]; omega)
    rw [beyond, if_neg (by decide), if_neg fun h => field h.1]

theorem wrapN_mod (x : Int) (n : Nat) : wrapN x n % 2 ^ n = wrapN x n := by
  have pos : (0 : Int) < (2 ^ n : Nat) := Int.natCast_pos.2 (Nat.two_pow_pos n)
  exact Nat.mod_eq_of_lt ((Int.toNat_lt (Int.emod_nonneg x pos.ne')).2 (Int.emod_lt_of_pos x pos))

/-- A period at readings of the sensors. -/
theorem thermalTick_shows (temps : List (BitVec 16)) (w : FMap.wf resetValue s.regs = true) : ∃ t, exec (.thermalTick temps) s = .next t ∧
    (∀ f < 8, fieldIn t R.PWR_VREQ_TJ f 0 = wrapN (fieldTemp temps f).1 16) ∧
    ((∃ f < 8, 1000 ≤ (fieldTemp temps f).1) → t.pwr.thermGrant = s.pwr.thermGrant.zipIdx.map (fun g =>
      if g.2 < 8 ∧ 1030 ≤ (fieldTemp temps g.2).1 then max 650 (g.1 - 10) else g.1)) ∧
    ((∃ f < 8, 1050 < (fieldTemp temps f).1) → fieldIn t R.PWR_ALERT_THERM 0 0 = 1) := by
  refine leads_next ?_
  refine leads_bind (leads_temperatures (kept := []) (fun f => wrapN (((List.range 8).map (fieldTemp temps)).getD f (0, 0)).1 16) w
    (fun _ _ => rfl)) fun _ u hu => ?_
  obtain ⟨⟨now, -⟩, shown⟩ := hu
  refine leads_when (Q := Standing temperatureFields u.val) (fun _ => (leads_lowerLimit now.wf).mono fun _ t ht => ?_)
    (fun _ => .refl now.wf) fun v hv => leads_bind_eff fun x hx => ?_
  · exact (ht.1.of_mem fun x => List.mem_append_left _).standing
  have keep : Standing temperatureFields u.val x.val := hx ▸ hv.of_regs rfl
  refine leads_thermalAlert keep.wf fun y hy alarm => ?_
  have blocks : unrecorded ((R.PWR_ALERT_THERM, 0) :: temperatureFields) = true := by decide +kernel
  refine Leads.mono (Q := fun _ => Granted ((R.PWR_ALERT_THERM, 0) :: temperatureFields) y.val)
    (keeps_bind (keeps_regrant (by decide +kernel)) (fun _ => keeps_bind (keeps_loop fun f _ _ => keeps_ite
      (keeps_bind (keeps_recorded blocks (ends_thermalRecord _ _ _ _)) fun _ => keeps_pure _) (keeps_pure _)) fun _ =>
        keeps_ite (keeps_recorded blocks (ends_thermalRecord _ _ _ _)) (keeps_pure _)) y (.refl hy.standing.wf)) fun _ t ht => ?_
  obtain ⟨_, _, pwr⟩ := hy.pwr
  obtain ⟨_, _, pwr'⟩ := ht.pwr
  have same : t.pwr.thermGrant = x.val.pwr.thermGrant := by rw [pwr', pwr]
  refine ⟨fun f hf => ?_, fun warm => ?_, fun hot => ?_⟩
  · have mem : (R.PWR_VREQ_TJ, f) ∈ temperatureFields := List.mem_map_of_mem (List.mem_range.2 hf)
    rw [ht.standing.field _ (List.mem_cons_of_mem _ mem), hy.standing.field _ mem, keep.field _ mem, shown f (List.mem_range.2 hf),
      fieldTemps_getD temps hf]
    exact wrapN_mod _ _
  · obtain ⟨f, hf, high⟩ := warm
    have notCold : ((List.range 8).map (fieldTemp temps)).all (fun t => decide (t.1 < 1000)) = false := by
      refine List.all_eq_false.2 ⟨fieldTemp temps f, List.mem_map_of_mem (List.mem_range.2 hf), ?_⟩
      rw [decide_eq_true_eq]
      omega
    rw [same, hx]
    refine (if_neg fun h => ?_).trans (List.map_congr_left fun x _ => ?_)
    · rw [notCold] at h
      exact absurd h.1 (by decide)
    · exact thermalStep_eq temps x
  · rw [ht.standing.field (R.PWR_ALERT_THERM, 0) List.mem_cons_self]
    refine alarm ?_
    obtain ⟨f, hf, high⟩ := hot
    rw [Bool.not_eq_true', List.isEmpty_eq_false_iff_exists_mem]
    exact ⟨f, List.mem_filter.2 ⟨List.mem_range.2 hf, by rw [fieldTemps_getD temps hf, decide_eq_true high]⟩⟩

end Sys2Proof.Machine
end

section
/-! SUPPORT. The warning band, the readings and the loss of power (R29, R485 to R488, R493). -/

namespace Sys2Proof.Machine

open Sys2Proof

variable {s0 s : State} {g : Good s0} {kept : List (Fld × Nat)}

/-! Touched tenses (R488). -/

/-- What touching the open tenses keeps: fields but those of the voltage events, and which jobs are open. -/
structure Touching (kept : List (Fld × Nat)) (s t : State) : Prop where
  standing : Standing kept s t
  jobs : FMap.wf job0 t.jobs = true
  same : ∀ j, (jobOf t j).isOpen = (jobOf s j).isOpen

/-- A job that was open has a touched tense. -/
def OpenTouched (s : State) (j : Nat) (t : State) : Prop := (jobOf s j).isOpen = true → (jobOf t j).touched = true

/-- The registers of the voltage events hold no field listed. -/
abbrev Uneventful (kept : List (Fld × Nat)) : Prop := ∀ j < 16, (kept.all fun x => R.PWR_VEVENT_COUNT.apart j x.1 x.2) = true ∧
  (kept.all fun x => R.PWR_VEVENT_TENSE.apart j x.1 x.2) = true ∧ (kept.all fun x => R.PWR_VEVENT_VALID.apart j x.1 x.2) = true

/-- Touching one job's tense. -/
theorem leads_touchJob {j : Nat} (hj : j < 16) (hk : Uneventful kept) (w : FMap.wf resetValue g.val.regs = true)
    (wj : FMap.wf job0 g.val.jobs = true) : Leads (touchJob j) g fun _ t => Touching kept g.val t ∧ (jobOf t j).touched = true ∧
      ∀ k, (jobOf g.val k).touched = true → (jobOf t k).touched = true := by
  obtain ⟨count, tense, valid⟩ := hk j hj
  refine leads_bind_read (a := jobOf g.val j) rfl ?_
  by_cases set : (jobOf g.val j).touched = true
  · rw [if_neg (by rw [set]; decide)]
    exact leads_pure ⟨⟨.refl w, wj, fun _ => rfl⟩, set, fun _ h => h⟩
  rw [if_pos (by rw [Bool.not_eq_true] at set; rw [set]; rfl)]
  have job (t : State) (ht : t.jobs = FMap.set job0 g.val.jobs j { jobOf g.val j with touched := true }) (k : Nat) :
      jobOf t k = if k = j then { jobOf g.val j with touched := true } else jobOf g.val k := by
    rw [jobOf, ht, FMap.get_set wj]
    rfl
  refine leads_bind_eff fun a ha => leads_bind (leads_countSat (Q := fun _ t => t = withField a.val R.PWR_VEVENT_COUNT
    (min (fieldIn a.val R.PWR_VEVENT_COUNT j 0 + 1) (2 ^ R.PWR_VEVENT_COUNT.width - 1)) j) rfl) fun _ b hb => ?_
  refine leads_bind_read (eval_getF _ _ _ _) (leads_bind_setF fun c hc => leads_setF ?_)
  have sa : Standing kept g.val a.val := ha ▸ (Standing.refl w).of_regs rfl
  have sb : Standing kept g.val b.val := hb ▸ sa.withField (by decide) count _
  have sc : Standing kept g.val c.val := hc ▸ sb.withField (by decide) tense _
  have jobs : (withField c.val R.PWR_VEVENT_VALID 1 j).jobs = FMap.set job0 g.val.jobs j { jobOf g.val j with touched := true } := by
    rw [hc, hb, ha]
    rfl
  refine ⟨⟨sc.withField (by decide) valid _, jobs ▸ FMap.set_wf _ _ wj, fun k => ?_⟩, ?_, fun k h => ?_⟩
  · rw [job _ jobs]
    split
    next e => rw [e]
    next => rfl
  · rw [job _ jobs, if_pos rfl]
  · rw [job _ jobs]
    split
    next => rfl
    next => exact h

/-- The open tenses are touched. -/
theorem leads_touchOpen (hk : Uneventful kept) (w : FMap.wf resetValue g.val.regs = true) (wj : FMap.wf job0 g.val.jobs = true) :
    Leads (do
      for j in List.range 16 do
        if (← getJob j).isOpen then touchJob j) g fun _ t => Standing kept g.val t ∧ ∀ j < 16, OpenTouched g.val j t := by
  refine leads_bind (leads_loop (I := Touching kept g.val) (Q := OpenTouched g.val) (fun j hj u i => ?_) ⟨.refl w, wj, fun _ => rfl⟩)
    fun _ t ht => leads_pure ⟨ht.1.standing, fun j hj => ht.2 j (List.mem_range.2 hj)⟩
  refine leads_bind_read (a := jobOf u.val j) rfl ?_
  by_cases isOpen : (jobOf u.val j).isOpen = true
  · rw [if_pos isOpen]
    refine leads_bind (leads_touchJob (List.mem_range.1 hj) hk i.standing.wf i.jobs) fun _ v hv => leads_pure ?_
    obtain ⟨keep, here, there⟩ := hv
    exact ⟨rfl, ⟨i.standing.trans keep.standing, keep.jobs, fun k => (keep.same k).trans (i.same k)⟩, fun _ => here,
      fun k _ q o => there k (q o)⟩
  · rw [if_neg isOpen]
    exact leads_pure ⟨rfl, i, fun o => absurd ((i.same j).trans o) isOpen, fun _ _ q => q⟩

/-! The warning band (R486 to R488). -/

/-- A reading in the band while WARN is set is only noted. -/
theorem warningEntered_again (vin : BitVec 16) (w : FMap.wf resetValue s.regs = true) (band : s.pins.pwrgd = true ∧ 34000 ≤ vin.toNat ∧
    vin.toNat < 38000) (warned : fieldIn s R.PWR_ALERT_WARN 0 0 = 1) : ∃ t, exec (.warningEntered vin) s = .next t ∧
      t = { s with regs := t.regs, pwr := t.pwr } ∧ t.pwr.lowest = min s.pwr.lowest vin.toNat ∧
      fieldIn t R.PWR_INPUT_VIN 0 0 = vin.toNat := by
  refine leads_next ?_
  rw [if_pos band]
  refine leads_bind_setF fun u hu => ?_
  rw [if_pos warned]
  have still : fieldIn u.val R.PWR_ALERT_WARN 0 0 = 1 := by
    rw [hu, fieldIn_withField_apart w (by decide) (by decide)]
    exact warned
  have shown : fieldIn u.val R.PWR_INPUT_VIN 0 0 = vin.toNat := by
    rw [hu, fieldIn_withField_same w (by decide)]
    exact Nat.mod_eq_of_lt vin.isLt
  refine leads_bind_st (leads_eff ⟨?_, ?_, shown⟩)
  · rw [hu]
    rfl
  · rw [apply_pwr_pwr, if_pos still, hu]
    rfl

theorem keeps_showCap (hk : (kept.all fun x => R.PWR_CAP_EFFECTIVE.apart 0 x.1 x.2) = true) :
    Keeps (Granted kept s) (showCap : M s0 Unit) := keeps_bind_st fun _ _ => keeps_setF fun _ i => i.withField (by decide) hk _

/-- What a warning's count and the power state are kept in. -/
def warningFields : List (Fld × Nat) := [(R.PWR_CNT_WARNINGS, 0), (R.PWR_STATE_STATE, 0)]

/-- What stands once a warning has set it. -/
def warnedFields : List (Fld × Nat) := (R.PWR_ALERT_WARN, 0) :: (R.PWR_CNT_WARNINGS, 0) :: grantFields

/-- The first reading in the band sets WARN and counts the warning, floors the grants and touches the open tenses. -/
theorem warningEntered_first (vin : BitVec 16) (w : FMap.wf resetValue s.regs = true) (wj : FMap.wf job0 s.jobs = true)
    (band : s.pins.pwrgd = true ∧ 34000 ≤ vin.toNat ∧ vin.toNat < 38000) (calm : fieldIn s R.PWR_ALERT_WARN 0 0 = 0) :
    ∃ t, exec (.warningEntered vin) s = .next t ∧ fieldIn t R.PWR_ALERT_WARN 0 0 = 1 ∧
      fieldIn t R.PWR_CNT_WARNINGS 0 0 = min (fieldIn s R.PWR_CNT_WARNINGS 0 0 + 1) (2 ^ R.PWR_CNT_WARNINGS.width - 1) ∧
      (powerIn s < 2 → ∀ f < 8, fieldIn t R.PWR_VREQ_GRANT f 0 = 650) ∧
      ∀ j < 16, (jobOf s j).isOpen = true → (jobOf t j).touched = true := by
  refine leads_next ?_
  rw [if_pos band]
  refine leads_bind_setF fun a ha => ?_
  rw [if_neg (by rw [calm]; decide)]
  refine leads_bind_eff fun b hb => ?_
  have sb : Standing warningFields s b.val := by
    rw [hb, ha]
    exact ((Standing.refl w).withField (by decide) (by decide) _).of_regs rfl
  have jb : b.val.jobs = s.jobs := by
    rw [hb, ha]
    rfl
  refine leads_bind (keeps_showCap (kept := warningFields) (by decide) b (.refl sb.wf)) fun _ c hc => ?_
  refine leads_bind (leads_setAlert (kept := warningFields) (by decide) (by decide) hc.standing.wf (by decide) (by decide)) fun _ d hd => ?_
  obtain ⟨warned, keep⟩ := hd
  have sd : Granted warningFields b.val d.val := hc.trans keep
  refine leads_bind (leads_countSat (Q := fun _ t => t = withField d.val R.PWR_CNT_WARNINGS _) rfl) fun _ e he => ?_
  have we : FMap.wf resetValue e.val.regs = true := he ▸ withField_wf sd.standing.wf _
  have warned' : fieldIn e.val R.PWR_ALERT_WARN 0 0 = 1 := by
    rw [he, fieldIn_withField_apart sd.standing.wf (by decide) (by decide)]
    exact warned
  have counted : fieldIn e.val R.PWR_CNT_WARNINGS 0 0 = min (fieldIn s R.PWR_CNT_WARNINGS 0 0 + 1) (2 ^ R.PWR_CNT_WARNINGS.width - 1) := by
    rw [he, fieldIn_withField_same sd.standing.wf (by decide), sd.standing.field (R.PWR_CNT_WARNINGS, 0) (by decide),
      sb.field (R.PWR_CNT_WARNINGS, 0) (by decide)]
    exact Nat.mod_eq_of_lt (Nat.lt_of_le_of_lt (min_le_right _ _) (by decide))
  have power : powerIn e.val = powerIn s := by
    rw [powerIn, he, fieldIn_withField_apart sd.standing.wf (by decide) (by decide), sd.standing.field (R.PWR_STATE_STATE, 0) (by decide),
      sb.field (R.PWR_STATE_STATE, 0) (by decide)]
    rfl
  refine leads_bind (leads_regrant e we) fun _ f hf => ?_
  obtain ⟨granted, floored⟩ := hf
  refine leads_bind (Q := fun _ => Granted warnedFields f.val) (keeps_recorded (by decide +kernel) (ends_powerRecord _ _ _) f
    (.refl granted.standing.wf)) fun _ h hh => ?_
  have jh : h.val.jobs = s.jobs := by
    rw [hh.jobs, granted.jobs, he]
    exact sd.jobs.trans jb
  refine (leads_touchOpen (kept := warnedFields) (by decide +kernel) hh.standing.wf (jh ▸ wj)).mono fun _ t ht => ?_
  obtain ⟨stand, touched⟩ := ht
  have final : Standing warnedFields f.val t := hh.standing.trans stand
  refine ⟨?_, ?_, fun low k hk => ?_, fun j hj o => touched j hj ?_⟩
  · rw [final.field (R.PWR_ALERT_WARN, 0) (by decide), granted.standing.field (R.PWR_ALERT_WARN, 0) (by decide), warned']
  · rw [final.field (R.PWR_CNT_WARNINGS, 0) (by decide), granted.standing.field (R.PWR_CNT_WARNINGS, 0) (by decide), counted]
  · have mem : (R.PWR_VREQ_GRANT, k) ∈ warnedFields := List.mem_cons_of_mem _ (List.mem_cons_of_mem _ (List.mem_map_of_mem (List.mem_range.2 hk)))
    rw [final.field _ mem]
    exact floored warned' (by rwa [power]) k hk
  · rw [jobOf, jh]
    exact o

/-- The end of the warning clears WARN. -/
theorem warningCleared_ends (duration : BitVec 32) (w : FMap.wf resetValue s.regs = true) (warned : fieldIn s R.PWR_ALERT_WARN 0 0 = 1) :
    ∃ t, exec (.warningCleared duration) s = .next t ∧ fieldIn t R.PWR_ALERT_WARN 0 0 = 0 := by
  refine leads_next ?_
  rw [if_pos warned]
  refine leads_bind_setF fun u hu => ?_
  have clear : fieldIn u.val R.PWR_ALERT_WARN 0 0 = 0 := by
    rw [hu, fieldIn_withField_same w (by decide), Nat.zero_mod]
  have wu : FMap.wf resetValue u.val.regs = true := hu ▸ withField_wf w _
  refine Leads.mono (Q := fun _ => Granted [(R.PWR_ALERT_WARN, 0)] u.val) (keeps_bind (keeps_showAlert (by decide)) (fun _ =>
    keeps_bind (keeps_recorded (by decide) (ends_powerRecord _ _ _)) fun _ => keeps_regrant (by decide)) u (.refl wu)) fun _ t ht => ?_
  exact (ht.standing.field _ List.mem_cons_self).trans clear

/-- A clearance while WARN is not set changes nothing. -/
theorem warningCleared_calm (duration : BitVec 32) (calm : fieldIn s R.PWR_ALERT_WARN 0 0 = 0) :
    exec (.warningCleared duration) s = .next s := by
  show Host.Outcome.next (run s (if fieldIn s R.PWR_ALERT_WARN 0 0 = 1 then _ else pure ())) = .next s
  rw [if_neg (by rw [calm]; decide)]
  rfl

/-! Readings (R29, R493). -/

/-- The input as read. -/
def inputFields : List (Fld × Nat) := [(R.PWR_INPUT_VIN, 0), (R.PWR_INPUT_IIN, 0), (R.PWR_INPUT_PIN, 0), (R.PWR_INPUT_V5, 0)]

/-- The input and the temperatures. -/
def readFields : List (Fld × Nat) := inputFields ++ temperatureFields

/-- What a turn of the loop over the dies sets. -/
def dieFields : List Fld := [R.DEV_STEP_RATE_RATE, R.DEV_STEP_RATE_VCORE, R.DEV_STEP_RATE_TJ]

theorem dieFields_apart : ∀ F ∈ dieFields, F.lo + F.width ≤ 64 ∧ ∀ d < 2, (readFields.all fun x => F.apart d x.1 x.2) = true ∧
    ∀ k < 2, F = R.DEV_STEP_RATE_RATE ∧ k = d ∨ F.apart d R.DEV_STEP_RATE_RATE k = true := by decide +kernel

/-- The readings of the two dies are shown, each its own. -/
theorem leads_dies (rate vcore tj : Nat → Nat) (w : FMap.wf resetValue g.val.regs = true) :
    Leads (forIn (List.range 2) PUnit.unit fun d _ => do
      setF R.DEV_STEP_RATE_RATE (rate d) d
      setF R.DEV_STEP_RATE_VCORE (vcore d) d
      setF R.DEV_STEP_RATE_TJ (tj d) d
      pure (ForInStep.yield PUnit.unit)) g fun _ t => (Standing readFields g.val t ∧ t.pwr = g.val.pwr) ∧
        ∀ d ∈ List.range 2, fieldIn t R.DEV_STEP_RATE_RATE d 0 = rate d % 2 ^ R.DEV_STEP_RATE_RATE.width := by
  refine leads_loop (fun d hd u i => leads_bind_setF fun a ha => leads_bind_setF fun b hb => leads_bind_setF fun c hc => leads_pure ?_)
    ⟨.refl w, rfl⟩
  obtain ⟨stand, pwr⟩ := i
  have step {F : Fld} (hF : F ∈ dieFields) (n : Nat) {x : State} (h : Standing readFields g.val x) :
      Standing readFields g.val (withField x F n d) :=
    h.withField (dieFields_apart F hF).1 ((dieFields_apart F hF).2 d (List.mem_range.1 hd)).1 n
  have other {F : Fld} (hF : F ∈ dieFields) (n : Nat) {x : State} (h : Standing readFields g.val x) {k : Nat} (hk : k < 2)
      (ne : F ≠ R.DEV_STEP_RATE_RATE ∨ k ≠ d) : fieldIn (withField x F n d) R.DEV_STEP_RATE_RATE k 0 = fieldIn x R.DEV_STEP_RATE_RATE k 0 :=
    fieldIn_withField_apart h.wf (dieFields_apart F hF).1 ((((dieFields_apart F hF).2 d (List.mem_range.1 hd)).2 k hk).resolve_left
      fun h => ne.elim (· h.1) (· h.2)) n
  have sa : Standing readFields g.val a.val := ha ▸ step (by decide) _ stand
  have sb : Standing readFields g.val b.val := hb ▸ step (by decide) _ sa
  have late {k : Nat} (hk : k < 2) : fieldIn c.val R.DEV_STEP_RATE_RATE k 0 = fieldIn a.val R.DEV_STEP_RATE_RATE k 0 := by
    rw [hc, other (by decide) _ sb hk (.inl (by decide)), hb, other (by decide) _ sa hk (.inl (by decide))]
  have here : fieldIn c.val R.DEV_STEP_RATE_RATE d 0 = rate d % 2 ^ R.DEV_STEP_RATE_RATE.width := by
    rw [late (List.mem_range.1 hd), ha, fieldIn_withField_same stand.wf (by decide)]
  refine ⟨rfl, ⟨hc ▸ step (by decide) _ sb, ?_⟩, here, fun k hk q => ?_⟩
  · rw [hc, hb, ha]
    exact pwr
  · by_cases e : k = d
    · exact e ▸ here
    · rw [late (List.mem_range.1 hk), ha, other (by decide) _ stand (List.mem_range.1 hk) (.inr e)]
      exact q

/-- The readings sampled show; a die of which no core issues has the rate 0. -/
theorem leads_sample (x : Samples) (w : FMap.wf resetValue g.val.regs = true) (powered : g.val.pins.pwrgd = true) :
    Leads (sample x) g fun _ t => fieldIn t R.PWR_INPUT_VIN 0 0 = x.vin.toNat ∧
      fieldIn t R.PWR_INPUT_IIN 0 0 = x.iin.toNat ∧ fieldIn t R.PWR_INPUT_PIN 0 0 = x.pin.toNat ∧ fieldIn t R.PWR_INPUT_V5 0 0 = x.v5.toNat ∧
      (∀ f < 8, t.pwr.rail.getD f 0 = (x.rail.getD f 0).toNat ∧ fieldIn t R.PWR_VREQ_TJ f 0 = (x.temp.getD f 0).toNat) ∧
      ∀ d < 2, fieldIn t R.DEV_STEP_RATE_RATE d 0 = (if dieIssuesIn g.val d then (x.rate.getD d 0).toNat else 0) := by
  refine leads_bind_st ?_
  rw [if_pos powered]
  refine leads_bind (leads_noteInput _) fun _ a ha => ?_
  obtain ⟨lowest, capLow, ha⟩ := ha
  have wa : FMap.wf resetValue a.val.regs = true := by rwa [ha]
  refine leads_bind_setF fun b hb => leads_bind_setF fun c hc => leads_bind_setF fun d hd => leads_bind_setF fun e he => ?_
  have sb : FMap.wf resetValue b.val.regs = true := hb ▸ withField_wf wa _
  have sc : FMap.wf resetValue c.val.regs = true := hc ▸ withField_wf sb _
  have sd : FMap.wf resetValue d.val.regs = true := hd ▸ withField_wf sc _
  have se : FMap.wf resetValue e.val.regs = true := he ▸ withField_wf sd _
  have vin : fieldIn e.val R.PWR_INPUT_VIN 0 0 = x.vin.toNat := by
    rw [he, fieldIn_withField_apart sd (by decide) (by decide), hd, fieldIn_withField_apart sc (by decide) (by decide), hc,
      fieldIn_withField_apart sb (by decide) (by decide), hb, fieldIn_withField_same wa (by decide)]
    exact Nat.mod_eq_of_lt x.vin.isLt
  have iin : fieldIn e.val R.PWR_INPUT_IIN 0 0 = x.iin.toNat := by
    rw [he, fieldIn_withField_apart sd (by decide) (by decide), hd, fieldIn_withField_apart sc (by decide) (by decide), hc,
      fieldIn_withField_same sb (by decide)]
    exact Nat.mod_eq_of_lt x.iin.isLt
  have pin : fieldIn e.val R.PWR_INPUT_PIN 0 0 = x.pin.toNat := by
    rw [he, fieldIn_withField_apart sd (by decide) (by decide), hd, fieldIn_withField_same sc (by decide)]
    exact Nat.mod_eq_of_lt x.pin.isLt
  have v5 : fieldIn e.val R.PWR_INPUT_V5 0 0 = x.v5.toNat := by
    rw [he, fieldIn_withField_same sd (by decide)]
    exact Nat.mod_eq_of_lt x.v5.isLt
  refine leads_bind_st (leads_bind_eff fun f hf => ?_)
  have sf : Standing inputFields e.val f.val := hf ▸ (Standing.refl se).of_regs rfl
  have rails : f.val.pwr.rail = (List.range 8).map fun f => (x.rail.getD f 0).toNat := by
    rw [hf]
    rfl
  refine leads_bind (leads_temperatures (kept := inputFields) (fun f => (x.temp.getD f 0).toNat) sf.wf (by decide)) fun _ h hh => ?_
  obtain ⟨⟨sh, ph⟩, temps⟩ := hh
  refine leads_bind (leads_dies (fun d => if dieIssuesIn g.val d then (x.rate.getD d 0).toNat else 0) _ _ sh.wf) fun _ i hi => ?_
  obtain ⟨⟨si, pi⟩, rates⟩ := hi
  refine (keeps_showCap (kept := (R.DEV_STEP_RATE_RATE, 0) :: (R.DEV_STEP_RATE_RATE, 1) :: readFields) (by decide) i (.refl si.wf)).mono
    fun _ t ht => ?_
  obtain ⟨_, _, pwr⟩ := ht.pwr
  have input (F : Fld) (mem : (F, 0) ∈ inputFields) : fieldIn t F 0 0 = fieldIn e.val F 0 0 := by
    rw [ht.standing.field _ (List.mem_cons_of_mem _ (List.mem_cons_of_mem _ (List.mem_append_left _ mem))),
      si.field _ (List.mem_append_left _ mem), sh.field _ mem, sf.field _ mem]
  refine ⟨(input _ (by decide)).trans vin, (input _ (by decide)).trans iin, (input _ (by decide)).trans pin, (input _ (by decide)).trans v5,
    fun k hk => ⟨?_, ?_⟩, fun d hd => ?_⟩
  · rw [pwr, pi, ph, rails]
    simp [hk]
  · have mem : (R.PWR_VREQ_TJ, k) ∈ readFields := List.mem_append_right _ (List.mem_map_of_mem (List.mem_range.2 hk))
    rw [ht.standing.field _ (List.mem_cons_of_mem _ (List.mem_cons_of_mem _ mem)), si.field _ mem, temps k (List.mem_range.2 hk)]
    exact Nat.mod_eq_of_lt (x.temp.getD k 0).isLt
  · have mem : (R.DEV_STEP_RATE_RATE, d) ∈ (R.DEV_STEP_RATE_RATE, 0) :: (R.DEV_STEP_RATE_RATE, 1) :: readFields := by
      interval_cases d <;> simp
    rw [ht.standing.field _ mem, rates d (List.mem_range.2 hd)]
    split
    · exact Nat.mod_eq_of_lt (x.rate.getD d 0).isLt
    · rfl

end Sys2Proof.Machine
end

section
/-! SUPPORT. The loss of power (R433 domain 7, R485, R492). -/

namespace Sys2Proof.Machine

open Sys2Proof

variable {s0 s : State}

/-- What a power-on reset leaves of a state: nothing but what flash holds, and the pin that says that the module was too hot. -/
structure Lost (s t : State) : Prop where
  jobs : t.jobs = []
  ctxs : t.ctxs = []
  gddr : t.gddr = []
  spad : t.spad = []
  stream : t.stream = none
  log : t.log = s.log
  thermtrip : t.pins.thermtrip = s.pins.thermtrip

theorem keeps_lost_setF {F : Fld} {v i j : Nat} : Keeps (Lost s) (setF F v i j : M s0 Unit) :=
  keeps_setF fun _ ⟨jobs, ctxs, gddr, spad, stream, log, pin⟩ => ⟨jobs, ctxs, gddr, spad, stream, log, pin⟩

/-- A power-on reset loses everything but what flash holds. -/
theorem leads_powerOnResetNow (g : Good s0) : Leads powerOnResetNow g fun _ => Lost g.val := by
  refine leads_bind_read (eval_getF _ _ _ _) (leads_bind_eff fun u hu => ?_)
  have lost : Lost g.val u.val := hu ▸ ⟨rfl, rfl, rfl, rfl, rfl, rfl, rfl⟩
  have lost' (t : State) (i : Lost g.val t) (off : Nat) (v : Word) : Lost g.val ((Eff.reg off v).apply t) :=
    ⟨i.jobs, i.ctxs, i.gddr, i.spad, i.stream, i.log, i.thermtrip⟩
  refine leads_bind_eff fun a ha => leads_bind_st (leads_bind_eff fun b hb => ?_)
  have la : Lost g.val a.val := ha ▸ lost' _ lost _ _
  have lb : Lost g.val b.val := hb ▸ ⟨la.jobs, la.ctxs, la.gddr, la.spad, la.stream, la.log, la.thermtrip⟩
  refine (?_ : Keeps (Lost g.val) _) b lb
  refine keeps_bind keeps_lost_setF fun _ => keeps_bind keeps_lost_setF fun _ => keeps_bind keeps_lost_setF fun _ =>
    keeps_bind keeps_lost_setF fun _ => keeps_bind keeps_lost_setF fun _ => ?_
  refine keeps_bind (keeps_bind_st fun _ _ => keeps_bind keeps_lost_setF fun _ => keeps_lost_setF) fun _ => ?_
  refine keeps_bind keeps_lost_setF fun _ => keeps_bind keeps_lost_setF fun _ => keeps_eff fun _ i => ?_
  exact ⟨i.jobs, i.ctxs, i.gddr, i.spad, i.stream, i.log, la.thermtrip⟩

/-- A power-on reset of a command. -/
theorem lost_run (s : State) : Lost s (run s powerOnResetNow) := leads_run (leads_powerOnResetNow ⟨s, .refl⟩)

/-- A reading of the input above 50.0 V resets a powered module (R485). -/
theorem run_withInput_above {vin : Nat} (act : M s Unit) (h : 50000 < vin) (powered : poweredIn s = true) :
    run s (withInput vin act) = run s powerOnResetNow := by
  have e : eval (withInput vin act) ⟨s, .refl⟩ = eval (powerOnResetNow : M s Unit) ⟨s, .refl⟩ := by
    rw [withInput, eval_bind_ok (eval_st _), if_pos ⟨h, powered⟩]
  rw [run_eq, run_eq, e]

/-- Below that the reading is acted on. -/
theorem leads_withInput {vin : Nat} {act : M s0 Unit} {g : Good s0} {Q : Unit → State → Prop} (h : vin ≤ 50000) (k : Leads act g Q) :
    Leads (withInput vin act) g Q :=
  leads_bind_st (by rwa [if_neg fun over50 => absurd over50.1 (by omega)])

/-- A sensor too hot sets the pin and resets everything (R492). -/
theorem thermtrip_loses : ∃ t, exec .thermtrip s = .next t ∧ t.pins.thermtrip = true ∧ t.jobs = [] ∧ t.gddr = [] ∧ t.spad = [] :=
  leads_next (leads_bind_eff fun u hu => (leads_powerOnResetNow u).mono fun _ _ lost =>
    ⟨lost.thermtrip.trans (hu ▸ rfl), lost.jobs, lost.gddr, lost.spad⟩)

/-- A rail in regulation changes nothing. -/
theorem railOutOfRegulation_within {mv : BitVec 16} (low : 4700 ≤ mv.toNat) (high : mv.toNat ≤ 5300) :
    exec (.railOutOfRegulation mv) s = .next s := by
  show Host.Outcome.next (run s (if mv.toNat < 4700 ∨ 5300 < mv.toNat then powerOnResetNow else pure ())) = .next s
  rw [if_neg (by omega)]
  rfl

/-- A rail out of regulation resets everything. -/
theorem railOutOfRegulation_beyond {mv : BitVec 16} (h : mv.toNat < 4700 ∨ 5300 < mv.toNat) :
    exec (.railOutOfRegulation mv) s = .next (run s powerOnResetNow) := by
  show Host.Outcome.next (run s (if mv.toNat < 4700 ∨ 5300 < mv.toNat then powerOnResetNow else pure ())) = _
  rw [if_pos h]

end Sys2Proof.Machine
end

section
/-! OBLIGATION O53. -/

open Sys2Proof Sys2Proof.Machine

/-- Settles O53: each command of the power controller runs to its end, and computing the grants leaves the fields the others speak of. -/
theorem powerEvents : Obligations.PowerEvents := by
  intro s w wj _ warn limit lower
  refine ⟨fun vin power low high => ⟨warningEntered_again vin w ⟨power, low, high⟩, warningEntered_first vin w wj ⟨power, low, high⟩⟩,
    fun d => ⟨warningCleared_ends d w, warningCleared_calm d⟩, ?_, fun _ => railOutOfRegulation_within, thermtrip_loses, ?_,
    fastCurrentLimit_lowers w, fun temps => thermalTick_shows temps w, fun x power low => ?_⟩
  · have lost := lost_run s
    refine ⟨run s powerOnResetNow, rfl, lost.jobs, lost.ctxs, lost.gddr, lost.spad, lost.stream, lost.log, rfl,
      fun _ => railOutOfRegulation_beyond, fun powered => ⟨fun power vin above => ?_, fun x above => ?_⟩⟩
    · exact congrArg Host.Outcome.next (run_withInput_above _ above powered)
    · exact congrArg Host.Outcome.next (run_withInput_above _ above powered)
  · intro power vin within cap
    refine leads_next (leads_withInput within ((leads_cappingTick power.toNat vin.toNat w).mono fun _ t ht => ?_))
    obtain ⟨shown, moved⟩ := ht
    refine ⟨shown, fun above => ⟨moved.floor above, moved.fall above⟩, fun under low long => ?_, moved.wait⟩
    exact ⟨moved.ceiling under low long, moved.rise under low long⟩
  · exact leads_next (leads_withInput low (leads_sample x w power))

end

section
/-! SUPPORT. What a reset does to the units it meets (R433 to R437): lanes, packets, requests, the host link, sequences, jobs and the register of
changes. All of it ends, and keeps off the resets' own state and registers and off the fields' map. -/

namespace Sys2Proof.Machine

open Sys2Proof

variable {s0 : State} {α : Type}

/-- What the work of a reset at its units leaves alone: the resets' state, time, and the register blocks of the device and of resets. -/
abbrev serving : Eff → Prop := sparing [.rst, .ms] [0x00, 0x1E]

theorem serves_of_recording {m : M s0 α} (h : Ends recording m) : Ends serving m := ends_mono h (sparing_mono (by decide) (by decide))

/-! Lanes and packets (R354 to R369). -/

theorem serves_modLane (i : Nat) (f : Lane → Lane) : Ends serving (modLane i f : M s0 Unit) :=
  ends_bind (ends_getLane i) fun _ => ends_eff rfl

section
variable {i : Nat} (hi : i < 48)
include hi

theorem lane_clear {F : Fld} (h : F.clear [0x00, 0x1E] 48 0 = true) : F.clear [0x00, 0x1E] i 0 = true := Fld.clear_le hi.le le_rfl h

theorem serves_startTraining (full : Bool) (cause : Nat) : Ends serving (startTraining i full cause : M s0 Unit) := by
  refine ends_bind (ends_getF _ _ _) fun _ => ends_ite (ends_bind (serves_modLane _ _) fun _ => ends_ite ?_ ?_) (ends_pure _)
  · exact ends_bind (ends_setF_clear (lane_clear hi rfl)) fun _ => ends_countWrap_clear (lane_clear hi rfl)
  · refine ends_bind (ends_setF_clear (lane_clear hi rfl)) fun _ => ends_bind (ends_setF_clear (lane_clear hi rfl)) fun _ => ?_
    exact ends_countWrap_clear (lane_clear hi rfl)

theorem serves_sendFlit (f : ReplayFlit) : Ends serving (sendFlit i f : M s0 Unit) := by
  refine ends_bind (ends_getF _ _ _) fun _ => ends_ite (ends_bind (ends_getLane i) fun _ => ends_ite ?_ ?_) (ends_pure _)
  · exact serves_startTraining hi _ _
  · exact ends_bind (ends_eff rfl) fun _ => ends_eff rfl

theorem serves_newFlit (kind : Nat) (body : List Byte) (first : Nat) (packets : List Packet) :
    Ends serving (newFlit i kind body first packets : M s0 Unit) :=
  ends_bind (ends_getLane i) fun _ => ends_bind (ends_eff rfl) fun _ => serves_sendFlit hi _

omit hi in
theorem serves_controlBody : Ends serving (controlBody : M s0 (List Byte)) :=
  ends_bind (ends_freeWord_of rfl) fun _ => ends_bind (ends_freeWord_of rfl) fun _ => ends_pure _

theorem serves_sendControls (q : List (Nat × Nat × Nat)) : Ends serving (sendControls i q : M s0 Unit) := by
  induction q with
  | nil => exact ends_pure _
  | cons c q ih =>
    obtain ⟨kind, a, b⟩ := c
    refine ends_bind (ends_getF _ _ _) fun _ => ends_bind (ends_getLane i) fun _ => ends_ite ?_ (ends_pure _)
    refine ends_bind (serves_modLane _ _) fun _ => ends_bind (ends_eff rfl) fun _ => ends_bind serves_controlBody fun _ => ?_
    exact ends_bind (serves_newFlit hi _ _ _ _) fun _ => ih

theorem serves_sendControl (kind a b : Nat) : Ends serving (sendControl i kind a b : M s0 Unit) := by
  refine ends_bind (ends_getF _ _ _) fun _ => ends_ite (ends_bind (ends_getLane i) fun _ => ?_) (ends_pure _)
  exact ends_bind (serves_modLane _ _) fun _ => serves_sendControls hi _

theorem serves_laneOff : Ends serving (laneOff i : M s0 Unit) :=
  ends_bind (ends_getLane i) fun _ => ends_bind (ends_eff rfl) fun _ => ends_setF_clear (lane_clear hi rfl)

end

theorem serves_sendNotices : Ends serving (sendNotices : M s0 Unit) := by
  refine ends_bind ends_st fun s => ends_bind (ends_loop fun i hi _ => ends_ite ?_ (ends_pure _)) fun _ => ends_pure _
  have control := serves_sendControl (s0 := s0) (List.mem_range.1 hi) 2 (chipIn s) (fieldIn s R.FAB_ID_INC 0 0)
  exact ends_bind control fun _ => ends_bind control fun _ => ends_pure _

theorem serves_queuePacket (i : Nat) (p : Packet) : Ends serving (queuePacket i p : M s0 Unit) := serves_modLane _ _

theorem serves_sendPacket (p : Packet) (arrived : Option Nat) : Ends serving (sendPacket p arrived : M s0 (Option Nat)) := by
  refine ends_bind ends_st fun s => ?_
  split
  · exact ends_bind (serves_queuePacket _ _) fun _ => ends_pure _
  · exact ends_pure _

theorem serves_freshTag : Ends serving (freshTag : M s0 Nat) := ends_bind ends_st fun _ => ends_bind (ends_eff rfl) fun _ => ends_pure _

theorem ends_ownChip {P : Eff → Prop} : Ends P (ownChip : M s0 Nat) := ends_bind ends_st fun _ => ends_pure _

theorem serves_ownPacket (p : Packet) : Ends serving (ownPacket p : M s0 Packet) :=
  ends_bind ends_ownChip fun _ => ends_bind (ends_getF _ _ _) fun _ => ends_pure _

theorem serves_noRoute (chip : Nat) : Ends serving (countStatus Status.noRoute chip : M s0 Unit) :=
  ends_ite (ends_bind (ends_countSat_clear rfl) fun _ => ends_setF_clear rfl) (ends_pure _)

theorem serves_sendRequest (p : Packet) (purpose : Purpose) : Ends serving (sendRequest p purpose : M s0 (Option Nat)) := by
  refine ends_bind serves_freshTag fun _ => ends_bind (serves_ownPacket _) fun _ => ends_bind (serves_sendPacket _ _) ?_
  rintro (_ | i)
  · exact ends_bind (serves_noRoute _) fun _ => ends_pure _
  · exact ends_bind ends_st fun _ => ends_bind (ends_eff rfl) fun _ => ends_pure _

theorem serves_dropReqs (f : Purpose → Bool) : Ends serving (dropReqs f : M s0 Unit) := ends_bind ends_st fun _ => ends_eff rfl

/-! Sequences (R232, R243). -/

theorem serves_decRef (f : Nat) : Ends serving (decRef f : M s0 Unit) := by
  refine ends_bind ends_st fun _ => ends_ite (ends_bind (ends_eff rfl) fun _ => ends_ite ?_ (ends_pure _)) (ends_pure _)
  exact ends_bind (ends_getF _ _ _) fun _ => ends_setF_clear rfl

theorem serves_decRefs (fs : List Nat) : Ends serving (decRefs fs : M s0 Unit) :=
  ends_bind (ends_each fun f _ => serves_decRef f) fun _ => ends_pure _

theorem serves_putSeq (n : Nat) (q : Seq) : Ends serving (putSeq n q : M s0 Unit) := by
  refine ends_bind (ends_eff rfl) fun _ => ends_bind (ends_getF _ _ _) fun _ => ends_ite ?_ (ends_pure _)
  exact ends_bind (ends_getF _ _ _) fun _ => ends_bind (serves_of_recording (ends_wrGddr _ _ _)) fun _ => ends_pure _

theorem serves_modSeq (n : Nat) (f : Seq → Seq) : Ends serving (modSeq n f : M s0 Unit) :=
  ends_bind (ends_read fun _ => ⟨_, rfl⟩) fun _ => serves_putSeq _ _

theorem serves_freeSlots (n k : Nat) : Ends serving (freeSlots n k : M s0 Unit) := by
  refine ends_bind (ends_read fun _ => ⟨_, rfl⟩) fun _ => ends_bind (ends_each fun _ _ => ends_eff rfl) fun _ => ?_
  exact ends_bind (ends_eff rfl) fun _ => ends_bind ends_st fun _ => ends_ite (serves_modSeq _ _) (ends_pure _)

theorem serves_kvInterrupt : Ends serving (kvInterrupt : M s0 Unit) := by
  refine ends_bind ends_st fun _ => ends_bind (ends_loop fun p _ _ => ends_ite ?spilling (ends_ite ?fetching (ends_pure _))) fun _ => ?_
  case spilling => exact ends_bind (ends_eff rfl) fun _ => ends_bind (serves_freeSlots _ _) fun _ => ends_pure _
  case fetching => exact ends_bind (serves_decRefs _) fun _ => ends_bind (ends_eff rfl) fun _ => ends_pure _
  exact ends_bind (serves_dropReqs _) fun _ => ends_bind ends_st fun _ => ends_eff rfl

/-! Completions and faults of jobs (R41, R467 to R474). -/

theorem serves_writeEntry (c : Nat) (bs : List Byte) : Ends serving (writeEntry c bs : M s0 Unit) := by
  refine ends_bind (ends_getF _ _ _) fun _ => ends_bind (ends_getF _ _ _) fun _ => ends_bind (ends_getF _ _ _) fun _ => ?_
  refine ends_bind (ends_eff rfl) fun _ => ends_bind ends_st fun _ => ends_bind (ends_setF_clear rfl) fun _ => ?_
  exact ends_when (ends_setF_clear rfl) fun _ => ends_bind (ends_getF _ _ _) fun _ => serves_of_recording (ends_sendMsix _)

theorem serves_postEntry (c : Nat) (bs : List Byte) : Ends serving (postEntry c bs : M s0 Unit) :=
  ends_bind ends_st fun _ => ends_ite (ends_countSat_clear rfl) (ends_ite (ends_eff rfl) (serves_writeEntry _ _))

theorem ends_getJob {P : Eff → Prop} (j : Nat) : Ends P (getJob j : M s0 Job) := ends_read fun _ => ⟨_, rfl⟩

theorem serves_modJob (j : Nat) (f : Job → Job) : Ends serving (modJob j f : M s0 Unit) := ends_bind (ends_getJob j) fun _ => ends_eff rfl

theorem serves_jobEvent (j status detail : Nat) : Ends serving (jobEvent j status detail : M s0 Unit) := by
  refine ends_bind (ends_getJob j) fun v => ?_
  split
  · exact ends_pure _
  · refine ends_bind (ends_getF _ _ _) fun _ => ends_bind (ends_getF _ _ _) fun _ => ends_bind (ends_getF _ _ _) fun _ => ?_
    exact serves_postEntry _ _

theorem serves_jobFaultD (j : Nat) : Ends serving (jobFaultD j : M s0 Unit) :=
  ends_bind (ends_getJob j) fun _ => ends_ite (ends_eff rfl) (ends_pure _)

theorem serves_jobFaultH (j cause : Nat) : Ends serving (jobFaultH j cause : M s0 Unit) :=
  ends_bind (ends_getJob j) fun _ => ends_ite (ends_eff rfl) (ends_pure _)

theorem ends_getCtx {P : Eff → Prop} (l k : Nat) : Ends P (getCtx l k : M s0 Ctx) := ends_read fun _ => ⟨_, rfl⟩

theorem serves_stopWaiters (l k : Nat) : Ends serving (stopWaiters l k : M s0 Unit) := by
  refine ends_bind ends_st fun s => ?_
  split
  · exact ends_pure _
  · refine ends_bind (ends_loop fun m _ _ => ends_bind (ends_getCtx _ _) fun x => ?_) fun _ => ends_pure _
    split
    · exact ends_bind (ends_eff rfl) fun _ => ends_pure _
    · exact ends_bind (ends_eff rfl) fun _ => ends_pure _
    · exact ends_pure _

theorem serves_sendMsg (j node code : Nat) (payload : List Byte) (tense : Option Nat) :
    Ends serving (sendMsg j node code payload tense : M s0 Bool) :=
  ends_bind ends_st fun _ => ends_bind (serves_sendRequest _ _) fun _ => ends_pure _

theorem serves_writeCommit (j : Nat) : Ends serving (writeCommit j : M s0 Nat) := ends_bind ends_st fun _ => serves_of_recording (ends_wrGddr _ _ _)

theorem serves_setTent (v : List TentEntry) : Ends serving (setTent v : M s0 Unit) := ends_bind (ends_eff rfl) fun _ => ends_setF_clear rfl

theorem serves_recordConj (j cls cause : Nat) (detail : List Byte) (opId : Nat) :
    Ends serving (recordConj j cls cause detail opId : M s0 Unit) :=
  ends_bind (ends_read fun _ => ⟨_, rfl⟩) fun _ => serves_of_recording (ends_record _)

theorem serves_abandonColls (j : Nat) : Ends serving (abandonColls j : M s0 Unit) := by
  refine ends_bind ends_st fun _ => ends_bind (ends_eff rfl) fun _ => ends_bind ends_st fun _ => ?_
  refine ends_bind (ends_loop fun m _ _ => ends_bind (ends_getCtx _ _) fun x => ?_) fun _ => ends_pure _
  split
  · exact ends_bind (ends_eff rfl) fun _ => ends_pure _
  · exact ends_bind (ends_eff rfl) fun _ => ends_pure _
  · exact ends_pure _

end Sys2Proof.Machine
end

section
/-! SUPPORT. What a reset does to jobs, cores and controllers (R22, R41, R433). -/

namespace Sys2Proof.Machine

open Sys2Proof

variable {s0 : State} {α : Type}

/-! Holding jobs. -/

/-- The cores of a job's contexts are cores of the module. -/
theorem partsIn_core_lt {s : State} {j : Nat} {p : Nat × Nat × JobCtx} (h : p ∈ partsIn s j) : p.1 < 144 := by
  simp only [partsIn, List.mem_flatMap] at h
  obtain ⟨e, -, h⟩ := h
  split at h
  · cases h
  · split at h
    · simp only [List.mem_map, List.mem_filter, decide_eq_true_eq] at h
      obtain ⟨l, ⟨-, hl⟩, rfl⟩ := h
      exact hl
    · cases h

/-- The registers of a job and of a core lie in their own blocks. -/
theorem job_clear {F : Fld} {j : Nat} (hj : j < 16) (h : F.clear [0x00, 0x1E] 16 0 = true) : F.clear [0x00, 0x1E] j 0 = true :=
  Fld.clear_le hj.le le_rfl h
theorem core_clear {F : Fld} {l : Nat} (hl : l < 144) (h : F.clear [0x00, 0x1E] 144 0 = true) : F.clear [0x00, 0x1E] l 0 = true :=
  Fld.clear_le hl.le le_rfl h

section
variable {j : Nat} (hj : j < 16)
include hj

theorem serves_holdJob (cause chip noticeCause : Nat) (skip : Option Nat) (noted finish : Bool) :
    Ends serving (holdJob j cause chip skip noticeCause noted finish : M s0 Unit) := by
  refine ends_bind ends_st fun s => ends_ite ?_ (ends_pure _)
  refine ends_bind (ends_setF_clear (job_clear hj rfl)) fun _ => ends_bind (ends_setF_clear (job_clear hj rfl)) fun _ => ?_
  refine ends_bind (ends_setF_clear (job_clear hj rfl)) fun _ => ends_bind (serves_modJob _ _) fun _ => ?_
  refine ends_bind (serves_abandonColls _) fun _ => ends_bind (ends_loop fun p hp _ => ?stopping) fun _ => ?_
  case stopping =>
    refine ends_bind (ends_getF _ _ _) fun _ => ends_bind (ends_getF _ _ _) fun _ => ends_bind (ends_getCtx _ _) fun _ => ?_
    exact ends_ite (ends_bind (ends_setF_clear (core_clear (partsIn_core_lt hp) rfl)) fun _ => ends_pure _) (ends_pure _)
  refine ends_bind (serves_writeCommit _) fun _ => ends_when (serves_recordConj _ _ _ _ _) fun _ => ?_
  refine ends_bind (ends_loop fun n _ _ => ends_ite ?_ (ends_pure _)) fun _ => serves_jobEvent _ _ _
  exact ends_bind (serves_sendMsg _ _ _ _ _) fun _ => ends_pure _

end

theorem serves_holdAll (cause : Nat) (noted finish : Bool) : Ends serving (holdAll cause noted finish : M s0 Unit) :=
  ends_bind ends_ownChip fun _ => ends_bind (ends_each fun _ hj => serves_holdJob (List.mem_range.1 hj) _ _ _ _ _ _) fun _ => ends_pure _

theorem serves_holdInReset (chip : Nat) : Ends serving (holdInReset chip : M s0 Unit) := by
  refine ends_bind (ends_loop fun j hj _ => ends_bind ends_st fun s => ends_ite ?_ (ends_pure _)) fun _ => ends_pure _
  have hj := List.mem_range.1 hj
  refine ends_bind (ends_setF_clear (job_clear hj rfl)) fun _ => ends_bind (ends_setF_clear (job_clear hj rfl)) fun _ => ?_
  refine ends_bind (ends_setF_clear (job_clear hj rfl)) fun _ => ends_bind (serves_modJob _ _) fun _ => ?_
  refine ends_bind (serves_abandonColls _) fun _ => ends_bind (serves_recordConj _ _ _ _ _) fun _ => ?_
  exact ends_bind (serves_jobEvent _ _ _) fun _ => ends_pure _

/-! The register of changes (R515, R516). -/

theorem serves_sealEntry (body : List Byte) : Ends serving (sealEntry body : M s0 Unit) := by
  refine ends_bind ends_st fun _ => ends_bind (ends_eff rfl) fun _ => ends_bind (ends_setF_clear rfl) fun _ => ?_
  exact ends_bind (ends_each fun _ _ => ends_wrReg_clear rfl) fun _ => ends_pure _

theorem serves_startSegment : Ends serving (startSegment : M s0 Unit) := by
  refine ends_bind ends_st fun _ => ends_ite (ends_bind (ends_ite (ends_pure _) ?_) fun _ => ?_) (ends_pure _)
  · exact ends_bind (ends_freeWord_of rfl) fun _ => ends_pure _
  · exact ends_bind (serves_sealEntry _) fun _ => ends_bind ends_st fun _ => ends_eff rfl

theorem serves_writeChange (body : List Byte) : Ends serving (writeChange body : M s0 Bool) := by
  refine ends_bind ends_st fun _ => ends_ite (ends_pure _) (ends_bind serves_startSegment fun _ => ?_)
  exact ends_bind (serves_sealEntry _) fun _ => ends_pure _

theorem serves_noteChange (kind role keyId subject : Nat) (detail : List Byte) :
    Ends serving (noteChange kind role keyId subject detail : M s0 Unit) := by
  refine ends_bind ends_st fun _ => ends_bind (serves_writeChange _) fun _ => ends_ite ?_ (ends_pure _)
  exact ends_bind (ends_setF_clear rfl) fun _ => ends_bind (ends_eff rfl) fun _ => ends_setF_clear rfl

/-! Units. -/

theorem serves_showPasses : Ends serving (showPasses : M s0 Unit) := by
  refine ends_bind ends_st fun _ => ?_
  split
  · exact ends_pure _
  · exact ends_setF_clear rfl

theorem serves_abandonLoad : Ends serving (abandonLoad : M s0 Unit) := by
  refine ends_bind ends_st fun _ => ends_ite (ends_bind (ends_eff rfl) fun _ => ends_bind ends_st fun _ => ?_) (ends_pure _)
  exact ends_setF_clear rfl

theorem serves_coreRec (l k slot : Nat) (r : Rec) : Ends serving (coreRec l k slot r : M s0 Rec) :=
  ends_bind ends_st fun _ => ends_bind (ends_getF _ _ _) fun _ => ends_pure _

section
variable {k : Nat} (hk : k < 32)
include hk

theorem serves_gdWriteWith (block off : Nat) (bytes : List Byte) (f : BlockFaults) :
    Ends serving (gdWriteWith k block off bytes f : M s0 Unit) := by
  refine ends_bind (ends_getF _ _ _) fun _ => ends_ite (ends_pure _) (ends_ite ?_ ?_)
  · exact ends_bind (serves_of_recording (ends_gdStore hk _ _)) fun _ => serves_of_recording (ends_recordAll _)
  · refine ends_bind (serves_of_recording (ends_gdRead hk _ _)) ?_
    rintro ⟨_ | data, evs⟩
    · exact ends_bind (serves_of_recording (ends_recordAll _)) fun _ => serves_of_recording (ends_gdStorePoison _)
    · refine ends_bind (serves_of_recording (ends_recordAll _)) fun _ => ?_
      exact ends_bind (serves_of_recording (ends_gdStore hk _ _)) fun _ => serves_of_recording (ends_recordAll _)

theorem serves_gdSleep : Ends serving (gdSleep k : M s0 Unit) := by
  refine ends_bind (ends_getGd k) fun g => ends_bind (ends_eff rfl) fun _ => ?_
  refine ends_bind (ends_each fun w _ => serves_gdWriteWith hk _ _ _ _) fun _ => ends_bind (ends_loop fun i hi _ => ?_) fun _ => ?_
  · refine ends_bind (ends_getF _ _ _) fun _ => ends_ite (ends_bind (ends_setF_clear ?_) fun _ => ends_pure _) (ends_pure _)
    exact Fld.clear_le hk.le (List.mem_range.1 hi).le rfl
  · exact ends_bind (ends_getF _ _ _) fun _ => ends_ite (ends_setF_clear (Fld.clear_le hk.le le_rfl rfl)) (ends_pure _)

theorem serves_gdReset : Ends serving (gdReset k : M s0 Unit) := by
  refine ends_bind (serves_gdSleep hk) fun _ => ends_bind (ends_setF_clear (Fld.clear_le hk.le le_rfl rfl)) fun _ => ?_
  exact ends_setF_clear (Fld.clear_le hk.le le_rfl rfl)

end

/-- The registers of a range lie with its table. -/
theorem range_clear {F : Fld} {i : Nat} (h : F.clear [0x00, 0x1E] 7 0 = true) (hi : i < 8) : F.clear [0x00, 0x1E] i 0 = true :=
  Fld.clear_le (by omega) le_rfl h

theorem serves_showQueues : Ends serving (showQueues : M s0 Unit) :=
  ends_bind ends_st fun _ => ends_bind (ends_each fun _ he => ends_setF_clear (range_clear rfl (List.mem_range.1 he))) fun _ => ends_pure _

end Sys2Proof.Machine
end

section
/-! SUPPORT. What a reset of a core, of the host link and of the management port does (R433). -/

namespace Sys2Proof.Machine

open Sys2Proof

variable {s0 : State} {α : Type}

/-! A core. -/

/-- A range of registers of a core, lane by lane of 64 KiB or less, keeps off the device's and the resets' blocks. -/
theorem serving_clearRegs {lo hi : Nat} (h : 2 ^ 20 ≤ lo) (k : hi ≤ 0x1E00000) : serving (.clearRegs lo hi) := by
  simp only [serving, sparing, Eff.spares, List.all_cons, List.all_nil, Bool.and_true, Bool.and_eq_true, Bool.or_eq_true, Nat.ble_eq]
  omega

theorem serves_clearCore {F : Fld} {l n : Nat} (hl : l < 144) (h : (Nat.ble (2 ^ 20) F.base && Nat.ble (F.addr 144 0 + n) 0x1E00000) = true) :
    Ends serving (eff (.clearRegs (F.addr l 0) (F.addr l 0 + n)) : M s0 Unit) := by
  rw [Bool.and_eq_true, Nat.ble_eq, Nat.ble_eq] at h
  have mono : F.addr l 0 ≤ F.addr 144 0 := Nat.add_le_add_right (Nat.add_le_add_left (Nat.mul_le_mul_left _ hl.le) _) _
  exact ends_eff (serving_clearRegs (h.1.trans (F.base_le_addr l 0)) ((Nat.add_le_add_right mono n).trans h.2))

theorem ends_getCore {P : Eff → Prop} (l : Nat) : Ends P (getCore l : M s0 CoreSt) := ends_read fun _ => ⟨_, rfl⟩

theorem serves_modCore (l : Nat) (f : CoreSt → CoreSt) : Ends serving (modCore l f : M s0 Unit) :=
  ends_bind (ends_getCore l) fun _ => ends_eff rfl

section
variable {l : Nat} (hl : l < 144)
include hl

theorem serves_resetCore : Ends serving (resetCore l : M s0 Unit) := by
  have zero {F : Fld} {v : Nat} (h : F.clear [0x00, 0x1E] 144 0 = true) : Ends serving (setF F v l : M s0 Unit) :=
    ends_setF_clear (core_clear hl h)
  refine ends_bind ends_st fun s => ends_bind (serves_clearCore hl rfl) fun _ => ends_bind (serves_clearCore hl rfl) fun _ => ?_
  refine ends_bind (serves_clearCore hl rfl) fun _ => ends_bind (zero rfl) fun _ => ends_bind (zero rfl) fun _ => ?_
  refine ends_bind (zero rfl) fun _ => ends_bind (zero rfl) fun _ => ends_bind (zero rfl) fun _ => ends_bind (zero rfl) fun _ => ?_
  refine ends_bind (zero rfl) fun _ => ends_bind (ends_getF _ _ _) fun _ => ends_bind (serves_clearCore hl rfl) fun _ => ?_
  refine ends_bind (zero rfl) fun _ => ends_when (ends_eff rfl) fun _ => ends_bind (ends_loop fun k _ _ => ?contexts) fun _ => ?_
  case contexts =>
    refine ends_bind (ends_getCtx _ _) fun _ => ends_bind (ends_eff rfl) fun _ => ends_ite ?_ (ends_pure _)
    exact ends_bind (serves_stopWaiters _ _) fun _ => ends_pure _
  refine ends_bind (ends_getCore l) fun _ => ends_bind (ends_eff rfl) fun _ => ends_bind (ends_each fun _ _ => ends_eff rfl) fun _ => ?_
  refine ends_bind (ends_bind ends_st fun _ => ends_eff rfl) fun _ => ends_bind ends_st fun _ => ends_bind (ends_eff rfl) fun _ => ?_
  exact ends_bind ends_st fun _ => ends_eff rfl

end

/-- The cores a reset takes are cores of the module. -/
theorem ownCoresOf_lt {s : State} {d t l : Nat} (h : l ∈ ownCoresOf s d t) : l < 144 := by
  simp only [ownCoresOf, coresOf, List.mem_filter, decide_eq_true_eq] at h
  exact h.1.2

theorem serves_resetCores {ls : List Nat} (h : ∀ l ∈ ls, l < 144) : Ends serving (resetCores ls : M s0 Unit) :=
  ends_bind (ends_each fun l hl => serves_resetCore (h l hl)) fun _ => ends_pure _

/-! The host link and the management port. -/

theorem serves_loseAnswers : Ends serving (loseAnswers : M s0 Unit) := by
  refine ends_bind ends_st fun s => ends_bind (ends_eff rfl) fun _ => ?_
  dsimp only
  split
  · exact ends_bind (ends_eff rfl) fun _ => ends_eff rfl
  · exact ends_eff rfl

theorem serves_linkReset : Ends serving (linkReset : M s0 Unit) := by
  refine ends_bind ends_st fun s => ends_bind (ends_eff rfl) fun _ => ends_bind (ends_setF_clear rfl) fun _ => ?_
  refine ends_bind (ends_countSat_clear rfl) fun _ => ends_bind (ends_each fun _ _ => ends_eff rfl) fun _ => ?_
  exact ends_bind (ends_eff rfl) fun _ => ends_bind serves_loseAnswers fun _ => ends_eff rfl

theorem serves_mgtPortReset : Ends serving (mgtPortReset : M s0 Unit) := by
  refine ends_bind (ends_getF _ _ _) fun _ => ends_bind (ends_getF _ _ _) fun _ => ends_bind (ends_eff rfl) fun _ => ?_
  refine ends_bind (ends_setF_clear rfl) fun _ => ends_bind (ends_setF_clear rfl) fun _ => ends_bind (ends_setF_clear rfl) fun _ => ?_
  refine ends_bind (ends_setF_clear rfl) fun _ => ends_bind (ends_setF_clear rfl) fun _ => ends_bind ends_st fun _ => ends_eff rfl

/-! The stream a lost core leaves degraded (R22, R69). -/

theorem serves_degrade : Ends serving (degrade : M s0 Unit) := by
  refine ends_bind ends_st fun s => ?_
  split
  · exact ends_pure _
  refine ends_bind (ends_loop fun c _ _ => ends_ite ?_ (ends_pure _)) fun _ => ends_pure _
  refine ends_bind (ends_setF_clear rfl) fun _ => ends_bind (ends_loop fun j hj _ => ends_bind (ends_getJob j) fun v => ?_) fun _ => ends_pure _
  refine ends_ite (ends_ite ?_ ?_) (ends_pure _)
  · exact ends_bind (serves_recordConj _ _ _ _ _) fun _ => ends_bind (serves_jobFaultH _ _) fun _ => ends_pure _
  · refine ends_bind ends_ownChip fun _ => ends_bind (serves_holdJob (List.mem_range.1 hj) _ _ _ _ _ _) fun _ => ends_pure _

end Sys2Proof.Machine
end

section
/-! SUPPORT. What a reset keeps of the resets' own state (R433 to R439): which run, which cores are fenced, time, and the fields that say why. -/

namespace Sys2Proof.Machine

open Sys2Proof

variable {s0 : State} {α : Type}

/-! The power controller of a module that is made afresh. -/

/-- What making the module afresh leaves alone: the resets' state and registers, and time. -/
abbrev remaking : Eff → Prop := sparing [.rst, .ms] [0x1E]

theorem remakes_of_recording {m : M s0 α} (h : Ends recording m) : Ends remaking m := ends_mono h (sparing_mono (by decide) (by decide))

theorem remakes_showMood : Ends remaking (showMood : M s0 Unit) :=
  ends_bind ends_st fun _ => ends_bind (ends_setF_clear rfl) fun _ => ends_setF_clear rfl

theorem remakes_setPower (p : Nat) : Ends remaking (setPower p : M s0 Unit) :=
  ends_bind (ends_setF_clear rfl) fun _ => ends_bind (ends_setF_clear rfl) fun _ => remakes_showMood

theorem remakes_showAlert : Ends remaking (showAlert : M s0 Unit) :=
  ends_bind ends_st fun _ => ends_bind (ends_eff rfl) fun _ => ends_setF_clear rfl

theorem remakes_setAlert (c : Nat) : Ends remaking (setAlert c : M s0 Bool) := by
  refine ends_bind (ends_read fun _ => ⟨_, rfl⟩) fun _ => ends_ite (ends_pure _) (ends_bind (ends_wrReg_clear rfl) fun _ => ?_)
  refine ends_bind remakes_showAlert fun _ => ends_bind (ends_getF _ _ _) fun _ => ends_when (remakes_of_recording (ends_sendMsix _)) fun _ => ?_
  exact ends_bind (ends_eff rfl) fun _ => ends_pure _

theorem remakes_noteCapping : Ends remaking (noteCapping : M s0 Unit) := by
  refine ends_bind ends_st fun s => ?_
  have record (cause lowest : Nat) := remakes_of_recording (ends_powerRecord (s0 := s0) cause lowest 0)
  have ending : Ends remaking (if (!cappedIn s && s.pwr.capping) = true then do
      eff (.pwr { s.pwr with capping := false }); powerRecord 4 s.pwr.capLow 0 else pure () : M s0 Unit) :=
    ends_ite (ends_bind (ends_eff rfl) fun _ => record _ _) (ends_pure _)
  exact ends_ite (ends_bind (ends_eff rfl) fun _ => ends_bind (remakes_setAlert _) fun _ => ends_bind (record _ _) fun _ => ending) ending

theorem remakes_regrant : Ends remaking (regrant : M s0 Unit) := by
  have field {F : Fld} {v f : Nat} (h : F.clear [0x1E] f 0 = true) : Ends remaking (setF F v f : M s0 Unit) := ends_setF_clear h
  refine ends_bind ends_st fun s => ends_bind (ends_loop fun f _ _ => ends_ite ?_ ?_) fun _ => ?_
  · exact ends_bind (field rfl) fun _ => ends_bind (field rfl) fun _ => ends_bind (field rfl) fun _ => ends_bind (field rfl) fun _ => ends_pure _
  · exact ends_bind (field rfl) fun _ => ends_bind (field rfl) fun _ => ends_bind (field rfl) fun _ => ends_bind (field rfl) fun _ => ends_pure _
  · exact ends_ite (ends_bind ends_st fun _ => ends_bind (remakes_setPower _) fun _ => remakes_noteCapping) remakes_noteCapping

theorem remakes_showCap : Ends remaking (showCap : M s0 Unit) := ends_bind ends_st fun _ => ends_setF_clear rfl

/-! What a reset keeps. -/

/-- The resets that run, the cores fenced, the resets counted, the time and the fields listed stand, and a heartbeat that is not there does
not come. -/
structure Kept (kept : List (Fld × Nat)) (s t : State) : Prop where
  standing : Standing kept s t
  ms : t.ms = s.ms
  running : t.rst.running = s.rst.running
  fenced : t.rst.fenced = s.rst.fenced
  recent : t.rst.recent = s.rst.recent
  beat : s.rst.beat = false → t.rst.beat = false

variable {kept : List (Fld × Nat)} {s t u : State}

theorem Kept.refl (w : FMap.wf resetValue s.regs = true) : Kept kept s s := ⟨.refl w, rfl, rfl, rfl, rfl, id⟩

theorem Kept.trans (h : Kept kept s t) (k : Kept kept t u) : Kept kept s u :=
  ⟨h.standing.trans k.standing, k.ms.trans h.ms, k.running.trans h.running, k.fenced.trans h.fenced, k.recent.trans h.recent,
    fun b => k.beat (h.beat b)⟩

/-- Fewer fields stand too. -/
theorem Kept.of_mem {less : List (Fld × Nat)} (h : Kept kept s t) (sub : ∀ x ∈ less, x ∈ kept) : Kept less s t :=
  ⟨⟨h.standing.wf, fun x hx => h.standing.field x (sub x hx)⟩, h.ms, h.running, h.fenced, h.recent, h.beat⟩

theorem Kept.withField {F : Fld} {i : Nat} (h : Kept kept s t) (hF : F.lo + F.width ≤ 64)
    (ha : (kept.all fun x => F.apart i x.1 x.2) = true) (v : Nat) : Kept kept s (withField t F v i) :=
  ⟨h.standing.withField hF ha v, h.ms, h.running, h.fenced, h.recent, h.beat⟩

/-- A change of the resets' state that leaves what runs and what is fenced, and brings no heartbeat. -/
theorem Kept.withRst {r : Rst} (h : Kept kept s t) (running : r.running = s.rst.running) (fenced : r.fenced = s.rst.fenced)
    (recent : r.recent = s.rst.recent) (beat : s.rst.beat = false → r.beat = false) : Kept kept s ((Eff.rst r).apply t) :=
  ⟨h.standing.of_regs rfl, h.ms, running, fenced, recent, beat⟩

theorem Kept.reach {bs : List Nat} (h : Kept kept s t) (r : ReachBy (sparing [.rst, .ms] bs) t u)
    (hb : (kept.all fun x => bs.contains (x.1.addr x.2 0 / 2 ^ 20)) = true) : Kept kept s u := by
  have rst : u.rst = t.rst := r.same State.rst fun e v p => apply_rst (sparing_part p (by decide) (by decide))
  have ms : u.ms = t.ms := r.same State.ms fun e v p => apply_ms (sparing_part p (by decide) (by decide))
  exact ⟨h.standing.reach r hb, ms.trans h.ms, rst ▸ h.running, rst ▸ h.fenced, rst ▸ h.recent, rst ▸ h.beat⟩

/-- The list names fields of the blocks of the device and of resets only. -/
abbrev served (kept : List (Fld × Nat)) : Prop := (kept.all fun x => [0x00, 0x1E].contains (x.1.addr x.2 0 / 2 ^ 20)) = true

theorem keeps_serving {m : M s0 α} (hb : served kept) (h : Ends serving m) : Keeps (Kept kept s) m :=
  keeps_of_ends h fun _ _ r i => i.reach r hb

/-- The list names fields of the block of resets only. -/
abbrev remade (kept : List (Fld × Nat)) : Prop := (kept.all fun x => [0x1E].contains (x.1.addr x.2 0 / 2 ^ 20)) = true

theorem keeps_remaking {m : M s0 α} (hb : remade kept) (h : Ends remaking m) : Keeps (Kept kept s) m :=
  keeps_of_ends h fun _ _ r i => i.reach r hb

/-! The parts of a reset that touch the resets' state. -/

theorem keeps_countReset (d : Nat) (ha : (kept.all fun x => R.RST_CNT_DOMAINS.apart 0 x.1 x.2) = true) :
    Keeps (Kept kept s) (countReset d : M s0 Unit) :=
  keeps_bind (keeps_read fun _ => ⟨_, rfl⟩) fun _ => keeps_ite (keeps_setF fun _ i => i.withField (by decide) ha _) (keeps_pure _)

theorem keeps_affectJobs (d t : Nat) (cores : List Nat) (hb : served kept) : Keeps (Kept kept s) (affectJobs d t cores : M s0 Unit) := by
  refine keeps_bind (keeps_loop fun j _ _ => keeps_bind_st fun x _ => keeps_ite ?_ (keeps_pure _)) fun _ => keeps_pure _
  refine keeps_bind (keeps_serving hb (serves_jobFaultD _)) fun _ => keeps_bind_st fun y hy => ?_
  exact keeps_bind (keeps_eff fun _ i => i.withRst hy.running hy.fenced hy.recent hy.beat) fun _ => keeps_pure _

theorem keeps_disarm (ha : (kept.all fun x => R.RST_MON_ARMED.apart 0 x.1 x.2) = true)
    (hm : (kept.all fun x => R.RST_MON_MISSED.apart 0 x.1 x.2) = true) : Keeps (Kept kept s) (disarm : M s0 Unit) := by
  refine keeps_bind (keeps_setF fun _ i => i.withField (by decide) ha _) fun _ => ?_
  refine keeps_bind (keeps_setF fun _ i => i.withField (by decide) hm _) fun _ => keeps_bind_st fun y hy => ?_
  exact keeps_eff fun _ i => i.withRst hy.running hy.fenced hy.recent fun _ => rfl

end Sys2Proof.Machine
end

section
/-! SUPPORT. The reset of the control complex and of the module (R433 to R435, R437, R439). -/

namespace Sys2Proof.Machine

open Sys2Proof

variable {s0 : State} {α : Type} {s t : State}

/-- The cause that RST_STATUS shows. -/
abbrev causeField : List (Fld × Nat) := [(R.RST_STATUS_CAUSE, 0)]

theorem keeps_byServing {m : M s0 α} (h : Ends serving m) : Keeps (Kept causeField s) m := keeps_serving (by decide) h

theorem keeps_byRemaking {m : M s0 α} (h : Ends remaking m) : Keeps (Kept causeField s) m := keeps_remaking (by decide) h

/-- A field that is not the cause. -/
theorem keeps_setOther {F : Fld} {v i : Nat} (hF : F.lo + F.width ≤ 64) (ha : F.apart i R.RST_STATUS_CAUSE 0 = true) :
    Keeps (Kept causeField s) (setF F v i : M s0 Unit) :=
  keeps_setF fun _ k => k.withField hF (by rw [List.all_cons, ha]; rfl) v

/-! The control complex. -/

theorem keeps_dropCheck : Keeps (Kept causeField s) (dropCheck : M s0 Unit) := by
  refine keeps_bind_st fun _ _ => keeps_ite (keeps_bind ?_ fun _ => ?_) (keeps_pure _)
  · exact keeps_setOther (by decide) (by decide)
  · exact keeps_setOther (by decide) (by decide)

theorem keeps_controlLost : Keeps (Kept causeField s) (controlLost : M s0 Unit) := by
  refine keeps_bind (keeps_disarm (by decide) (by decide)) fun _ => keeps_bind (keeps_byServing serves_abandonLoad) fun _ => ?_
  refine keeps_bind keeps_dropCheck fun _ => keeps_bind (keeps_byServing (ends_eff rfl)) fun _ => ?_
  refine keeps_bind (keeps_setOther (by decide) (by decide)) fun _ => keeps_bind_st fun y hy => ?_
  refine keeps_bind (keeps_eff fun _ i => i.withRst hy.running hy.fenced hy.recent hy.beat) fun _ => keeps_byServing ?_
  refine ends_bind ends_st fun _ => ends_bind (ends_eff rfl) fun _ => ?_
  exact ends_bind (ends_each fun _ _ => serves_modCore _ _) fun _ => ends_pure _

/-! The module. -/

/-- The compression engines' enables lie at multiples of 16, where RST_STATUS does not, whatever list of ranges is to be disabled. -/
theorem range_apart (i : Nat) {F : Fld} (hb : F.base = R.CX_RANGE_A_EN.base) (h1 : F.s1 = R.CX_RANGE_A_EN.s1) (h2 : F.s2 = R.CX_RANGE_A_EN.s2) :
    F.apart i R.RST_STATUS_CAUSE 0 = true := by
  have differ : F.addr i 0 ≠ R.RST_STATUS_CAUSE.addr 0 0 := by
    simp only [Fld.addr, hb, h1, h2, R.CX_RANGE_A_EN, R.RST_STATUS_CAUSE]
    omega
  rw [Fld.apart, Bool.eq_false_iff.2 fun h => differ (Nat.eq_of_beq_eq_true h)]
  rfl

theorem keeps_finishDisables : Keeps (Kept causeField s) (finishDisables : M s0 Unit) := by
  refine keeps_bind_st fun _ _ => keeps_bind (keeps_loop fun i _ _ => keeps_bind_st fun x _ => keeps_ite ?_ (keeps_pure _)) fun _ =>
    keeps_pure _
  refine keeps_bind (keeps_byServing (ends_eff rfl)) fun _ => keeps_bind (keeps_setOther (by decide) (range_apart i rfl rfl rfl)) fun _ => ?_
  exact keeps_bind (keeps_setOther (by decide) (range_apart i rfl rfl rfl)) fun _ => keeps_pure _

theorem keeps_cxReset (hit : Nat → Bool) : Keeps (Kept causeField s) (cxReset hit : M s0 Unit) :=
  keeps_bind_st fun _ _ => keeps_bind (keeps_byServing (ends_eff rfl)) fun _ => keeps_bind (keeps_byServing serves_showQueues) fun _ =>
    keeps_finishDisables

/-- While the module is under reset no core is brought in. -/
theorem keeps_wakeCore (l : Nat) (h : (6, 0) ∈ s.rst.running) : Keeps (Kept causeField s) (wakeCore l : M s0 Unit) := by
  refine keeps_bind_st fun x hx => ?_
  have under : underResetIn x l = true := by
    rw [underResetIn, hx.running]
    exact List.any_eq_true.2 ⟨_, h, rfl⟩
  dsimp only
  rw [if_pos under]
  exact keeps_pure _

theorem keeps_resumeCore {l : Nat} (hl : l < 144) (h : (6, 0) ∈ s.rst.running) : Keeps (Kept causeField s) (resumeCore l : M s0 Unit) := by
  refine keeps_bind (keeps_byServing (ends_setF_clear (core_clear hl rfl))) fun _ => ?_
  refine keeps_bind (keeps_byServing (ends_setF_clear (core_clear hl rfl))) fun _ => keeps_bind (keeps_byServing (serves_modCore _ _)) fun _ => ?_
  refine keeps_bind (keeps_read fun _ => ⟨_, rfl⟩) fun _ => keeps_ite ?_ (keeps_pure _)
  exact keeps_bind (keeps_byServing (ends_setF_clear (core_clear hl rfl))) fun _ => keeps_wakeCore l h

theorem keeps_setDebug (d : Nat) (h : (6, 0) ∈ s.rst.running) : Keeps (Kept causeField s) (setDebug d : M s0 Unit) := by
  refine keeps_bind_st fun x _ => keeps_bind (keeps_setOther (by decide) (by decide)) fun _ => keeps_when ?tags fun _ => ?_
  case tags => exact keeps_byServing (ends_each fun _ _ => ends_eff rfl)
  refine keeps_bind (keeps_setOther (by decide) (by decide)) fun _ => keeps_bind (keeps_byServing (ends_eff rfl)) fun _ => ?_
  refine keeps_bind (keeps_byRemaking remakes_showMood) fun _ => keeps_when ?halted fun _ => ?_
  case halted =>
    refine keeps_loop fun l hl _ => keeps_bind (keeps_read fun _ => ⟨_, rfl⟩) fun _ => keeps_ite ?_ (keeps_pure _)
    exact keeps_bind (keeps_resumeCore (List.mem_range.1 hl) h) fun _ => keeps_pure _
  refine keeps_bind (keeps_read fun _ => ⟨_, rfl⟩) fun _ => keeps_ite ?_ (keeps_pure _)
  exact keeps_byServing (ends_bind (ends_each fun _ _ => serves_modJob _ _) fun _ => ends_pure _)

theorem keeps_resetModule (h : (6, 0) ∈ s.rst.running) : Keeps (Kept causeField s) (resetModule : M s0 Unit) := by
  have made {e : Eff} (p : serving e) : Keeps (Kept causeField s) (eff e : M s0 Unit) := keeps_byServing (ends_eff p)
  refine keeps_bind (keeps_byServing serves_sendNotices) fun _ => ?_
  refine keeps_bind (keeps_byServing (ends_each fun k hk => serves_gdReset (List.mem_range.1 hk))) fun _ => ?_
  refine keeps_bind (keeps_byServing (ends_each fun i hi => serves_laneOff (List.mem_range.1 hi))) fun _ => ?_
  refine keeps_bind (keeps_cxReset _) fun _ => keeps_bind (keeps_byServing serves_kvInterrupt) fun _ => keeps_bind (made rfl) fun _ => ?_
  refine keeps_bind (made rfl) fun _ => keeps_bind (made rfl) fun _ => keeps_bind (made rfl) fun _ => ?_
  refine keeps_bind (keeps_byServing (serves_setTent _)) fun _ => keeps_bind (made rfl) fun _ => keeps_bind (made rfl) fun _ => ?_
  refine keeps_bind (made rfl) fun _ => keeps_bind (made rfl) fun _ => keeps_bind (keeps_byServing serves_linkReset) fun _ => ?_
  refine keeps_bind (keeps_byServing serves_mgtPortReset) fun _ => keeps_bind (keeps_read fun _ => ⟨_, rfl⟩) fun _ => ?_
  refine keeps_when (keeps_setOther (by decide) (by decide)) fun _ => keeps_bind (keeps_setOther (by decide) (by decide)) fun _ => ?_
  refine keeps_bind (keeps_setOther (by decide) (by decide)) fun _ => keeps_bind (keeps_setDebug 0 h) fun _ => keeps_bind_st fun _ _ => ?_
  refine keeps_bind (made rfl) fun _ => keeps_bind (keeps_setOther (by decide) (by decide)) fun _ => ?_
  refine keeps_bind (keeps_setOther (by decide) (by decide)) fun _ => keeps_bind (keeps_byRemaking remakes_showCap) fun _ => ?_
  refine keeps_bind (made rfl) fun _ => keeps_bind (keeps_byRemaking remakes_regrant) fun _ => ?_
  exact keeps_setOther (by decide) (by decide)

/-! The effects of a domain's reset. -/

variable {kept : List (Fld × Nat)}

/-- A reset of a core or of a clause. -/
theorem keeps_resetEffects_cores {d t : Nat} (hd : d = 1 ∨ d = 2) (hb : served kept) :
    Keeps (Kept kept s) (resetEffects d t : M s0 Unit) := by
  refine keeps_bind_st fun x _ => ?_
  rcases hd with rfl | rfl
  all_goals exact keeps_bind (keeps_affectJobs _ _ _ hb) fun _ => keeps_serving hb (serves_resetCores fun l => ownCoresOf_lt)

/-- A reset of the control complex. -/
theorem keeps_resetEffects_control : Keeps (Kept causeField s) (resetEffects 3 0 : M s0 Unit) :=
  keeps_bind_st fun _ _ => keeps_bind keeps_controlLost fun _ => keeps_byServing (serves_holdAll _ _ _)

/-- A warm reset of the module. -/
theorem keeps_resetEffects_module (h : (6, 0) ∈ s.rst.running) : Keeps (Kept causeField s) (resetEffects 6 0 : M s0 Unit) :=
  keeps_bind_st fun _ _ => keeps_bind keeps_controlLost fun _ => keeps_bind (keeps_byServing ends_ownChip) fun _ =>
    keeps_bind (keeps_resetModule h) fun _ => keeps_bind (keeps_byServing (serves_resetCores fun _ => ownCoresOf_lt)) fun _ =>
      keeps_byServing (serves_holdInReset _)

end Sys2Proof.Machine
end

section
/-! SUPPORT. How a reset begins (R433, R434, R439). -/

namespace Sys2Proof.Machine

open Sys2Proof

variable {s0 : State} {s t : State} {kept : List (Fld × Nat)} {d n cause : Nat} {g : Good s0}

/-- A reset of a domain has begun: it runs with those it does not cover, its cause shows, and of the resets' other state what is fenced
stands and no heartbeat came. -/
structure Begun (kept : List (Fld × Nat)) (d n cause : Nat) (s t : State) : Prop where
  standing : Standing kept s t
  ms : t.ms = s.ms
  running : t.rst.running = s.rst.running.filter (fun r => !coversIn s (d, n) r) ++ [(d, n)]
  fenced : t.rst.fenced = s.rst.fenced
  recent : t.rst.recent = s.rst.recent
  beat : s.rst.beat = false → t.rst.beat = false
  cause : fieldIn t R.RST_STATUS_CAUSE 0 0 = cause

/-- What beginning a reset sets, beside the cause. -/
abbrev Beginning (kept : List (Fld × Nat)) : Prop := ∀ F ∈ [R.RST_CNT_ABSORBED, R.RST_STATUS_LAST, R.RST_STATUS_CAUSE, R.RST_STATUS_BUSY,
  R.RST_CNT_DOMAINS], (kept.all fun x => F.apart 0 x.1 x.2) = true

/-- A reset that no running one covers begins. -/
theorem leads_startReset (hk : Beginning kept) (hc : cause < 16) (w : FMap.wf resetValue g.val.regs = true)
    (free : g.val.rst.running.any (fun r => coversIn g.val r (d, n)) = false)
    (effects : ∀ u : State, (d, n) ∈ u.rst.running → Keeps (Kept ((R.RST_STATUS_CAUSE, 0) :: kept) u) (resetEffects d n : M s0 Unit)) :
    Leads (startReset d n cause) g fun r t => r = true ∧ Begun kept d n cause g.val t := by
  refine leads_bind_st ?_
  dsimp only
  rw [if_neg (by rw [free]; decide)]
  refine leads_bind (leads_countSat (Q := fun _ t => t = withField g.val R.RST_CNT_ABSORBED _) rfl) fun _ a ha => leads_bind_eff fun b hb => ?_
  refine leads_bind_setF fun e he => leads_bind_setF fun f hf => leads_bind_setF fun h hh => ?_
  have sa : Standing kept g.val a.val := ha ▸ (Standing.refl w).withField (by decide) (hk _ (by simp)) _
  have sb : Standing kept g.val b.val := hb ▸ sa.of_regs rfl
  have se : Standing kept g.val e.val := he ▸ sb.withField (by decide) (hk _ (by simp)) _
  have sf : Standing kept g.val f.val := hf ▸ se.withField (by decide) (hk _ (by simp)) _
  have sh : Standing kept g.val h.val := hh ▸ sf.withField (by decide) (hk _ (by simp)) _
  have shown : fieldIn h.val R.RST_STATUS_CAUSE 0 0 = cause := by
    rw [hh, fieldIn_withField_apart sf.wf (by decide) (by decide), hf, fieldIn_withField_same se.wf (by decide)]
    exact Nat.mod_eq_of_lt (hc.trans_le (by decide))
  have running : h.val.rst.running = g.val.rst.running.filter (fun r => !coversIn g.val (d, n) r) ++ [(d, n)] := by
    rw [hh, hf, he, hb]
    rfl
  have fenced : h.val.rst.fenced = g.val.rst.fenced := by
    rw [hh, hf, he, hb]
    rfl
  have recent : h.val.rst.recent = g.val.rst.recent := by
    rw [hh, hf, he, hb]
    rfl
  have beat : h.val.rst.beat = g.val.rst.beat := by
    rw [hh, hf, he, hb]
    rfl
  have ms : h.val.ms = g.val.ms := by
    rw [hh, hf, he, hb, ha]
    rfl
  refine leads_bind (keeps_countReset (kept := (R.RST_STATUS_CAUSE, 0) :: kept) d ?_ h (.refl sh.wf)) fun _ i hi => ?_
  · rw [List.all_cons, hk _ (by simp)]
    rfl
  refine leads_bind (effects h.val (by rw [running]; simp) i hi) fun _ v hv => leads_pure ⟨rfl, ?_⟩
  exact ⟨sh.trans ⟨hv.standing.wf, fun x hx => hv.standing.field x (List.mem_cons_of_mem _ hx)⟩, hv.ms.trans ms,
    hv.running.trans running, hv.fenced.trans fenced, hv.recent.trans recent, fun still => hv.beat (beat.trans still),
    (hv.standing.field (R.RST_STATUS_CAUSE, 0) List.mem_cons_self).trans shown⟩

end Sys2Proof.Machine
end

section
/-! SUPPORT. The monitor, hang detection and retirement (R22, R438 to R441). -/

namespace Sys2Proof.Machine

open Sys2Proof

variable {s0 : State} {s : State} {g : Good s0} {kept : List (Fld × Nat)}

/-! Resets of the module's own. -/

/-- A reset that begins while none runs is the one that runs. -/
theorem Begun.running_one {d n cause : Nat} {t : State} (h : Begun kept d n cause s t) (idle : s.rst.running = []) : t.rst.running = [(d, n)] := by
  rw [h.running, idle]
  rfl

theorem any_covers_nil {d n : Nat} (idle : s.rst.running = []) : s.rst.running.any (fun r => coversIn s r (d, n)) = false := by
  rw [idle]
  rfl

/-- A reset of a core or of a clause, while none runs. -/
theorem leads_beginReset_cores {d n cause : Nat} (hd : d = 1 ∨ d = 2) (hk : Beginning kept) (hb : served kept) (hc : cause < 16)
    (w : FMap.wf resetValue g.val.regs = true) (idle : g.val.rst.running = []) :
    Leads (beginReset d n cause) g fun _ t => Begun kept d n cause g.val t := by
  refine leads_bind (leads_startReset hk hc w (any_covers_nil idle) fun u _ => keeps_resetEffects_cores hd ?_) fun r u hu => ?_
  · rw [served, List.all_cons, hb]
    rfl
  · rw [if_neg fun h => by omega]
    exact leads_pure hu.2

/-- A warm reset of the module, while none runs. -/
theorem leads_beginReset_module {cause : Nat} (hc : cause < 16) (w : FMap.wf resetValue g.val.regs = true) (idle : g.val.rst.running = []) :
    Leads (beginReset 6 0 cause) g fun _ t => Begun [] 6 0 cause g.val t := by
  refine leads_bind (leads_startReset (by decide) hc w (any_covers_nil idle) fun u => keeps_resetEffects_module) fun r u hu => ?_
  rw [if_neg fun h => absurd h.1 (by decide)]
  exact leads_pure hu.2

/-- A reset of the control complex, while none runs: the third within a second resets the module. -/
theorem leads_beginReset_control {cause : Nat} (hc : cause < 16) (w : FMap.wf resetValue g.val.regs = true) (idle : g.val.rst.running = []) :
    Leads (beginReset 3 0 cause) g fun _ t => t.ms = g.val.ms ∧ (g.val.rst.beat = false → t.rst.beat = false) ∧
      ((g.val.rst.recent.filter (fun x => decide (g.val.ms < x + 1000))).length < 2 →
        t.rst.running = [(3, 0)] ∧ fieldIn t R.RST_STATUS_CAUSE 0 0 = cause) := by
  refine leads_bind (leads_startReset (kept := []) (by decide) hc w (any_covers_nil idle) fun u _ => keeps_resetEffects_control)
    fun r a ha => ?_
  obtain ⟨rfl, begun⟩ := ha
  rw [if_pos ⟨rfl, rfl⟩]
  refine leads_bind_st (leads_bind_eff fun b hb => ?_)
  refine leads_bind (leads_countSat (Q := fun _ t => t = withField b.val R.RST_MON_CCRESETS _) rfl) fun _ c hc => leads_bind_setF fun e he => ?_
  have sb : Standing causeField a.val b.val := hb ▸ (Standing.refl begun.standing.wf).of_regs rfl
  have sc : Standing causeField a.val c.val := hc ▸ sb.withField (by decide) (by decide) _
  have se : Standing causeField a.val e.val := he ▸ sc.withField (by decide) (by decide) _
  have running : e.val.rst.running = [(3, 0)] := by
    rw [he, hc, hb]
    exact begun.running_one idle
  have ms : e.val.ms = g.val.ms := by
    rw [he, hc, hb]
    exact begun.ms
  have beat : g.val.rst.beat = false → e.val.rst.beat = false := by
    rw [he, hc, hb]
    exact begun.beat
  by_cases third : 3 ≤ (a.val.rst.recent.filter (fun x => decide (a.val.ms < x + 1000)) ++ [a.val.ms]).length
  · rw [if_pos third]
    refine leads_bind (leads_startReset (kept := []) (by decide) (by decide) se.wf (by rw [running]; rfl) fun u => keeps_resetEffects_module)
      fun _ f hf => leads_pure ⟨hf.2.ms.trans ms, fun still => hf.2.beat (beat still), fun few => ?_⟩
    rw [begun.recent, begun.ms, List.length_append] at third
    exact absurd third (by simp only [List.length_cons, List.length_nil]; omega)
  · rw [if_neg third]
    exact leads_pure ⟨ms, beat, fun _ => ⟨running, (se.field _ List.mem_cons_self).trans begun.cause⟩⟩

end Sys2Proof.Machine
end

section
/-! SUPPORT. The commands of the monitor, of hang detection and of retirement (R22, R438 to R441). -/

namespace Sys2Proof.Machine

open Sys2Proof

variable {s0 : State} {s : State} {g : Good s0} {kept : List (Fld × Nat)}

/-! The heartbeat (R438, R439). -/

/-- A heartbeat of the firmware arms the monitor and clears what was missed. -/
theorem heartbeat_firmware (v : Word) (w : FMap.wf resetValue s.regs = true) (idle : s.rst.running = []) :
    ∃ t, exec (.heartbeat .firmware v) s = .next t ∧ t = { s with regs := t.regs, rst := { s.rst with beat := true, awaiting := false } } ∧
      fieldIn t R.RST_HEART_BEAT 0 0 = bitsOf v 0 32 ∧ fieldIn t R.RST_MON_ARMED 0 0 = 1 ∧ fieldIn t R.RST_MON_MISSED 0 0 = 0 := by
  refine leads_next ?_
  refine leads_bind_st ?_
  rw [if_pos (by rw [idle]; rfl)]
  refine leads_bind_setF fun a ha => leads_bind_setF fun b hb => leads_bind_setF fun c hc => leads_eff ?_
  have wa : FMap.wf resetValue a.val.regs = true := ha ▸ withField_wf w _
  have wb : FMap.wf resetValue b.val.regs = true := hb ▸ withField_wf wa _
  have beat : fieldIn c.val R.RST_HEART_BEAT 0 0 = bitsOf v 0 32 := by
    rw [hc, fieldIn_withField_apart wb (by decide) (by decide), hb, fieldIn_withField_apart wa (by decide) (by decide), ha,
      fieldIn_withField_same w (by decide)]
    exact Nat.mod_eq_of_lt (Nat.mod_lt _ (Nat.two_pow_pos 32))
  have armed : fieldIn c.val R.RST_MON_ARMED 0 0 = 1 := by
    rw [hc, fieldIn_withField_apart wb (by decide) (by decide), hb, fieldIn_withField_same wa (by decide)]
    rfl
  have missed : fieldIn c.val R.RST_MON_MISSED 0 0 = 0 := by
    rw [hc, fieldIn_withField_same wb (by decide), Nat.zero_mod]
  refine ⟨?_, beat, armed, missed⟩
  rw [hc, hb, ha]
  rfl

/-- A heartbeat of another agent is only counted. -/
theorem heartbeat_foreign {a : Agent} (v : Word) (h : a ≠ .firmware) : exec (.heartbeat a v) s = .next (withField s R.RST_MON_FOREIGN
    (min (fieldIn s R.RST_MON_FOREIGN 0 0 + 1) (2 ^ R.RST_MON_FOREIGN.width - 1))) := by
  refine congrArg Host.Outcome.next (leads_run (Q := fun t => t = withField s _ _) ?_)
  rw [heartbeatWrite, if_neg h]
  exact leads_countSat rfl

/-- The count of missed heartbeats. -/
abbrev missedField : List (Fld × Nat) := [(R.RST_MON_MISSED, 0)]

/-- A period of the monitor: what was missed is counted, and at the fourth the control complex is reset. -/
theorem heartbeatPeriod_counts (w : FMap.wf resetValue s.regs = true) (idle : s.rst.running = []) :
    ∃ t, exec .heartbeatPeriod s = .next t ∧ t.ms = s.ms + 1 ∧ t.rst.beat = false ∧
      (fieldIn s R.RST_MON_ARMED 0 0 = 0 → fieldIn t R.RST_MON_MISSED 0 0 = fieldIn s R.RST_MON_MISSED 0 0) ∧
      (fieldIn s R.RST_MON_ARMED 0 0 = 1 → s.rst.beat = true → fieldIn t R.RST_MON_MISSED 0 0 = 0) ∧
      (fieldIn s R.RST_MON_ARMED 0 0 = 1 → s.rst.beat = false → fieldIn s R.RST_MON_MISSED 0 0 < 3 →
        fieldIn t R.RST_MON_MISSED 0 0 = fieldIn s R.RST_MON_MISSED 0 0 + 1 ∧ t.rst.running = []) ∧
      (fieldIn s R.RST_MON_ARMED 0 0 = 1 → s.rst.beat = false → fieldIn s R.RST_MON_MISSED 0 0 = 3 →
        (s.rst.recent.filter (fun x => decide (s.ms + 1 < x + 1000))).length < 2 →
        t.rst.running = [(3, 0)] ∧ fieldIn t R.RST_STATUS_CAUSE 0 0 = 2) := by
  refine leads_next (leads_bind_eff fun a ha => leads_bind_st (leads_bind_eff fun b hb => ?_))
  have wb : FMap.wf resetValue b.val.regs = true := by
    rw [hb, ha]
    exact w
  have ms : b.val.ms = s.ms + 1 := by
    rw [hb, ha]
    rfl
  have beat : b.val.rst.beat = false := by
    rw [hb]
    rfl
  have running : b.val.rst.running = [] := by
    rw [hb, ha]
    exact idle
  have recent : b.val.rst.recent = s.rst.recent.filter (fun x => decide (s.ms + 1 < x + 1000)) := by
    rw [hb, ha]
    rfl
  have count : fieldIn b.val R.RST_MON_MISSED 0 0 = fieldIn s R.RST_MON_MISSED 0 0 := by
    rw [hb, ha]
    rfl
  refine leads_bind (keeps_setF (I := Kept missedField b.val) (fun _ i => i.withField (by decide) (by decide) _) b (.refl wb)) fun _ c hc => ?_
  refine leads_when (Q := Kept missedField b.val) (fun _ => leads_countSat (hc.withField (by decide) (by decide) _)) (fun _ => hc) fun e he => ?_
  refine leads_when (Q := Kept missedField b.val) (fun _ => leads_setF (he.withField (by decide) (by decide) _)) (fun _ => he) fun f hf => ?_
  have shown : fieldIn f.val R.RST_MON_MISSED 0 0 = fieldIn s R.RST_MON_MISSED 0 0 :=
    (hf.standing.field _ List.mem_cons_self).trans count
  by_cases armed : fieldIn s R.RST_MON_ARMED 0 0 = 1
  case neg =>
    rw [if_neg armed]
    exact leads_pure ⟨hf.ms.trans ms, hf.beat beat, fun _ => shown, fun h => absurd h armed, fun h => absurd h armed, fun h => absurd h armed⟩
  have notOff : fieldIn s R.RST_MON_ARMED 0 0 ≠ 0 := by omega
  rw [if_pos armed]
  by_cases beaten : s.rst.beat = true
  · rw [if_pos beaten]
    refine leads_setF ⟨hf.ms.trans ms, hf.beat beat, fun h => absurd h notOff, fun _ _ => ?_, fun _ h => ?_, fun _ h => ?_⟩
    · rw [fieldIn_withField_same hf.standing.wf (by decide), Nat.zero_mod]
    all_goals exact absurd (beaten.symm.trans h) (by decide)
  rw [if_neg beaten]
  refine leads_bind_setF fun h hh => ?_
  have kept : Kept [] f.val h.val := hh ▸ (Kept.refl hf.standing.wf).withField (by decide) rfl _
  by_cases fourth : 4 ≤ fieldIn s R.RST_MON_MISSED 0 0 + 1
  case neg =>
    rw [if_neg fourth]
    refine leads_pure ⟨kept.ms.trans (hf.ms.trans ms), kept.beat (hf.beat beat), fun h => absurd h notOff, fun _ h => absurd h beaten,
      fun _ _ _ => ⟨?_, kept.running.trans (hf.running.trans running)⟩, by omega⟩
    rw [hh, fieldIn_withField_same hf.standing.wf (by decide)]
    exact Nat.mod_eq_of_lt (show _ < 8 by omega)
  rw [if_pos fourth]
  refine leads_bind (keeps_serving (kept := []) rfl (serves_of_recording (ends_record _)) h (.refl kept.standing.wf)) fun _ i hi => ?_
  have all : Kept [] b.val i.val := ((hf.of_mem (by simp)).trans kept).trans hi
  refine (leads_beginReset_control (by decide) all.standing.wf (all.running.trans running)).mono fun _ t ht => ?_
  obtain ⟨ht1, ht2, begun⟩ := ht
  refine ⟨ht1.trans (all.ms.trans ms), ht2 (all.beat beat), fun h => absurd h notOff, fun _ h => absurd h beaten, fun _ _ _ => by omega,
    fun _ _ _ few => begun ?_⟩
  rw [all.recent, all.ms, ms, recent]
  exact (List.length_filter_le _ _).trans_lt few

/-- Firmware that beat in time after its restart is not reset. -/
theorem firstHeartbeatTimeout_beaten (h : s.rst.awaiting = false) : exec .firstHeartbeatTimeout s = .next s := by
  refine congrArg Host.Outcome.next (leads_run (Q := fun t => t = s) ?_)
  rw [if_neg (by rw [h]; decide)]
  exact leads_pure rfl

/-- Firmware that does not beat in time after its restart resets the module. -/
theorem firstHeartbeatTimeout_resets (w : FMap.wf resetValue s.regs = true) (idle : s.rst.running = []) (h : s.rst.awaiting = true) :
    ∃ t, exec .firstHeartbeatTimeout s = .next t ∧ t.rst.running = [(6, 0)] ∧ fieldIn t R.RST_STATUS_CAUSE 0 0 = 6 := by
  refine leads_next ?_
  rw [if_pos h]
  refine leads_bind (keeps_serving (kept := []) rfl (serves_of_recording (ends_record _)) _ (.refl w)) fun _ a ha => ?_
  have none : a.val.rst.running = [] := ha.running.trans idle
  refine (leads_beginReset_module (by decide) ha.standing.wf none).mono fun _ t ht => ⟨ht.running_one none, ht.cause⟩

/-! Hangs (R440). -/

/-- The state with the count last seen of a core replaced. -/
def withWatched (s : State) (l : Nat) (watched : Option Nat) : State :=
  { s with cores := FMap.set core0 s.cores l { FMap.get core0 s.cores l with watched } }

/-- A check of a core: its watching starts anew, or goes on, or it is hung. -/
theorem coreHangCheck_cases {l : Nat} (w : FMap.wf resetValue s.regs = true) (idle : s.rst.running = []) (bound : boundIn s l = true)
    (ready : phaseIn s = 4) (limit : fieldIn s R.RST_HANGCFG_LIMIT 0 0 = 0) :
    (watchedIn s l = false → exec (.coreHangCheck l) s = .next (withWatched s l none)) ∧
    (watchedIn s l = true → (FMap.get core0 s.cores l).watched ≠ some (fieldIn s R.CORE_RETIRED_COUNT l 0) →
      exec (.coreHangCheck l) s = .next (withWatched s l (some (fieldIn s R.CORE_RETIRED_COUNT l 0)))) ∧
    (watchedIn s l = true → (FMap.get core0 s.cores l).watched = some (fieldIn s R.CORE_RETIRED_COUNT l 0) →
      ∃ t, exec (.coreHangCheck l) s = .next t ∧ t.rst.running = [(1, l)] ∧ fieldIn t R.RST_STATUS_CAUSE 0 0 = 3 ∧
        fieldIn t R.RST_HANGCFG_HANGS 0 0 = min (fieldIn s R.RST_HANGCFG_HANGS 0 0 + 1) (2 ^ R.RST_HANGCFG_HANGS.width - 1)) := by
  have checked : boundIn s l = true ∧ phaseIn s = 4 ∧ (!s.rst.running.any fun r => r.1 == 3) = true := ⟨bound, ready, by rw [idle]; rfl⟩
  refine ⟨fun off => ?_, fun on moved => ?_, fun on still => ?_⟩
  · refine congrArg Host.Outcome.next (leads_run (Q := fun t => t = withWatched s l none) ?_)
    rw [if_pos checked, if_pos (by rw [off]; rfl)]
    exact leads_eff rfl
  · refine congrArg Host.Outcome.next (leads_run (Q := fun t => t = withWatched s l (some (fieldIn s R.CORE_RETIRED_COUNT l 0))) ?_)
    rw [if_pos checked, if_neg (by rw [on]; decide), if_neg moved]
    exact leads_eff rfl
  · refine leads_next ?_
    rw [if_pos checked, if_neg (by rw [on]; decide), if_pos still]
    have fields : served [(R.RST_HANGCFG_HANGS, 0)] := by decide
    refine leads_bind (keeps_serving fields (serves_coreRec _ _ _ _) _ (.refl w)) fun r a ha => ?_
    refine leads_bind (keeps_serving fields (serves_of_recording (ends_record _)) a ha) fun _ b hb => ?_
    refine leads_bind (keeps_serving fields (ends_eff (e := .core l _) rfl) b hb) fun _ c hc => leads_bind_st (leads_bind_eff fun d hd => ?_)
    have kept : Kept [(R.RST_HANGCFG_HANGS, 0)] s d.val := hd ▸ hc.withRst hc.running hc.fenced hc.recent hc.beat
    refine leads_bind (leads_countSat (Q := fun _ t => t = withField d.val R.RST_HANGCFG_HANGS _) rfl) fun _ e he => ?_
    have we : FMap.wf resetValue e.val.regs = true := he ▸ withField_wf kept.standing.wf _
    have none : e.val.rst.running = [] := by
      rw [he]
      exact kept.running.trans idle
    have counted : fieldIn e.val R.RST_HANGCFG_HANGS 0 0 =
        min (fieldIn s R.RST_HANGCFG_HANGS 0 0 + 1) (2 ^ R.RST_HANGCFG_HANGS.width - 1) := by
      rw [he, fieldIn_withField_same kept.standing.wf (by decide), kept.standing.field _ List.mem_cons_self]
      exact Nat.mod_eq_of_lt (Nat.lt_of_le_of_lt (min_le_right _ _) (by decide))
    refine leads_bind (leads_beginReset_cores (.inl rfl) (by decide) fields (by decide) we none) fun _ f hf => ?_
    rw [if_neg fun h => h.1 limit]
    exact leads_pure ⟨hf.running_one none, hf.cause, (hf.standing.field _ List.mem_cons_self).trans counted⟩

/-! Retirement (R22, R441). -/

/-- The map of a field of cores: which are usable, how many are retired, whether a change waits, and the spare. -/
abbrev mapFields (f : Nat) : List (Fld × Nat) :=
  [(R.DEV_FIELD_MAP_USABLE, f), (R.DEV_FIELD_MAP_RETIRED, f), (R.DEV_FIELD_MAP_PENDING, f), (R.DEV_FIELD_MAP_SPARE_POS, f)]

theorem mapFields_served : ∀ f < 8, served (mapFields f) ∧ Beginning (mapFields f) ∧
    ((mapFields f).all fun x => R.DEV_ID_CORES_ENABLED.apart 0 x.1 x.2) = true := by decide +kernel

/-- A bit that is set, cleared. -/
theorem bitN_sub_self {n b : Nat} (h : bitN n b = true) : bitN (n - 2 ^ b) b = false := by
  rw [bitN, beq_iff_eq] at h
  have less : (n - 2 ^ b) / 2 ^ b = n / 2 ^ b - 1 := by
    rw [← Nat.sub_mul_div n (2 ^ b) 1, Nat.mul_one]
  rw [bitN, less, beq_eq_false_iff_ne]
  omega

theorem mapFields_apart : ∀ f < 8, ∀ x ∈ mapFields f, ∀ y ∈ mapFields f, x = y ∨ x.1.apart f y.1 f = true := by decide +kernel

theorem keeps_showEnabled (ha : (kept.all fun x => R.DEV_ID_CORES_ENABLED.apart 0 x.1 x.2) = true) :
    Keeps (Kept kept s) (showEnabled : M s0 Unit) := keeps_bind_st fun _ _ => keeps_setF fun _ i => i.withField (by decide) ha _

/-- What a retirement of a core at a position of a field leaves. -/
structure Retired (p : Nat) (s t : State) : Prop where
  fenced : p ∈ t.rst.fenced
  usable : bitN (fieldIn t R.DEV_FIELD_MAP_USABLE (p / 19) 0) (p % 19) = false
  retired : fieldIn t R.DEV_FIELD_MAP_RETIRED (p / 19) 0 =
    min (fieldIn s R.DEV_FIELD_MAP_RETIRED (p / 19) 0 + 1) (2 ^ R.DEV_FIELD_MAP_RETIRED.width - 1)
  pending : fieldIn t R.DEV_FIELD_MAP_PENDING (p / 19) 0 = 1

theorem Retired.of_standing {p : Nat} {t u : State} (h : Retired p s t) (k : Standing (mapFields (p / 19)) t u)
    (fenced : u.rst.fenced = t.rst.fenced) : Retired p s u :=
  ⟨fenced ▸ h.fenced, (k.field (R.DEV_FIELD_MAP_USABLE, p / 19) (by simp)).symm ▸ h.usable,
    (k.field (R.DEV_FIELD_MAP_RETIRED, p / 19) (by simp)).trans h.retired, (k.field (R.DEV_FIELD_MAP_PENDING, p / 19) (by simp)).trans h.pending⟩

/-- The cores enabled are shown again, which leaves the map and what runs. -/
theorem leads_showRetired {p : Nat} (hf : p / 19 < 8) (h : Retired p s g.val) (w : FMap.wf resetValue g.val.regs = true) :
    Leads showEnabled g fun _ t => Retired p s t ∧ t.rst.running = g.val.rst.running ∧
      fieldIn t R.DEV_FIELD_MAP_SPARE_POS (p / 19) 0 = fieldIn g.val R.DEV_FIELD_MAP_SPARE_POS (p / 19) 0 := by
  obtain ⟨-, -, shows⟩ := mapFields_served (p / 19) hf
  refine (keeps_showEnabled shows g (.refl w)).mono fun _ t ht => ⟨h.of_standing ht.standing ht.fenced, ht.running, ?_⟩
  exact ht.standing.field (R.DEV_FIELD_MAP_SPARE_POS, p / 19) (by simp)

/-- A field's change of its map leaves the map's other parts. -/
theorem fieldIn_withField_map {p : Nat} {F G : Fld} {t : State} (hf : p / 19 < 8) (w : FMap.wf resetValue t.regs = true)
    (hF : (F, p / 19) ∈ mapFields (p / 19)) (hG : (G, p / 19) ∈ mapFields (p / 19)) (ne : F ≠ G) (fits : F.lo + F.width ≤ 64) (v : Nat) :
    fieldIn (withField t F v (p / 19)) G (p / 19) 0 = fieldIn t G (p / 19) 0 :=
  fieldIn_withField_apart w fits ((mapFields_apart _ hf _ hF _ hG).resolve_left fun e => ne (congrArg Prod.fst e)) v

/-- A field whose spare is retired has no spare any more. -/
theorem leads_retireSpare {p : Nat} (hf : p / 19 < 8) (h : Retired p s g.val) (w : FMap.wf resetValue g.val.regs = true) :
    Leads (do setF R.DEV_FIELD_MAP_SPARE_POS 31 (p / 19); showEnabled) g fun _ t => Retired p s t ∧
      fieldIn t R.DEV_FIELD_MAP_SPARE_POS (p / 19) 0 = 31 := by
  refine leads_bind_setF fun u hu => ?_
  have stands (F : Fld) (hF : (F, p / 19) ∈ mapFields (p / 19)) (ne : R.DEV_FIELD_MAP_SPARE_POS ≠ F) :
      fieldIn u.val F (p / 19) 0 = fieldIn g.val F (p / 19) 0 := hu ▸ fieldIn_withField_map hf w (by simp) hF ne (by decide) _
  have out : Retired p s u.val := by
    refine ⟨by rw [hu]; exact h.fenced, ?_, (stands _ (by simp) (by decide)).trans h.retired, (stands _ (by simp) (by decide)).trans h.pending⟩
    rw [stands _ (by simp) (by decide)]
    exact h.usable
  refine (leads_showRetired hf out (hu ▸ withField_wf w _)).mono fun _ t ht => ⟨ht.1, ht.2.2.trans ?_⟩
  rw [hu, fieldIn_withField_same w (by decide)]
  rfl

/-- The clause of a bound core is reset. -/
theorem leads_retireClause {p n : Nat} (hf : p / 19 < 8) (h : Retired p s g.val) (w : FMap.wf resetValue g.val.regs = true)
    (idle : g.val.rst.running = []) :
    Leads (do beginReset 2 n 4; showEnabled) g fun _ t => Retired p s t ∧ t.rst.running = [(2, n)] := by
  obtain ⟨fields, begins, -⟩ := mapFields_served (p / 19) hf
  refine leads_bind (leads_beginReset_cores (.inr rfl) begins fields (by decide) w idle) fun _ u hu => ?_
  exact (leads_showRetired hf (h.of_standing hu.standing hu.fenced) hu.standing.wf).mono fun _ t ht =>
    ⟨ht.1, ht.2.1.trans (hu.running_one idle)⟩

/-- A retirement fences the core and takes it out of its field; a bound core's clause is reset. -/
theorem coreRetirement_fences {p : Nat} (w : FMap.wf resetValue s.regs = true) (idle : s.rst.running = []) (hp : p < 152)
    (usable : bitN (fieldIn s R.DEV_FIELD_MAP_USABLE (p / 19) 0) (p % 19) = true) : ∃ t, exec (.coreRetirement p) s = .next t ∧
      Retired p s t ∧
      (logicalOf s p = none → fieldIn s R.DEV_FIELD_MAP_SPARE_POS (p / 19) 0 = p % 19 → fieldIn t R.DEV_FIELD_MAP_SPARE_POS (p / 19) 0 = 31) ∧
      (∀ l c, logicalOf s p = some l → clauseOfIn s l = some c → t.rst.running = [(2, c.num)]) := by
  have hf : p / 19 < 8 := by omega
  obtain ⟨fields, begins, -⟩ := mapFields_served (p / 19) hf
  refine leads_next (leads_bind_st ?_)
  rw [if_pos ⟨hp, usable⟩]
  refine leads_bind_eff fun a ha => leads_bind_setF fun b hb => ?_
  refine leads_bind (leads_countSat (Q := fun _ t => t = withField b.val R.DEV_FIELD_MAP_RETIRED _ (p / 19)) rfl) fun _ c hc => ?_
  have wa : FMap.wf resetValue a.val.regs = true := by
    rw [ha]
    exact w
  have wb : FMap.wf resetValue b.val.regs = true := hb ▸ withField_wf wa _
  have wc : FMap.wf resetValue c.val.regs = true := hc ▸ withField_wf wb _
  refine leads_bind (keeps_serving fields serves_showPasses c (.refl wc)) fun _ d hd => ?_
  refine leads_bind (keeps_serving fields (serves_noteChange _ _ _ _ _) d hd) fun _ e he => leads_bind_setF fun f hef => ?_
  have fenced : f.val.rst.fenced = s.rst.fenced ++ [p] := by
    rw [hef]
    refine he.fenced.trans ?_
    rw [hc, hb, ha]
    rfl
  have running : f.val.rst.running = [] := by
    rw [hef]
    refine he.running.trans ?_
    rw [hc, hb, ha]
    exact idle
  have wf : FMap.wf resetValue f.val.regs = true := hef ▸ withField_wf he.standing.wf _
  have stands {F : Fld} (hF : (F, p / 19) ∈ mapFields (p / 19)) : fieldIn e.val F (p / 19) 0 = fieldIn c.val F (p / 19) 0 :=
    he.standing.field _ hF
  have out : Retired p s f.val := by
    refine ⟨by rw [fenced]; simp, ?_, ?_, ?_⟩
    · rw [hef, fieldIn_withField_map hf he.standing.wf (by simp) (by simp) (by decide) (by decide),
        stands (by simp), hc,
        fieldIn_withField_map hf wb (by simp) (by simp) (by decide) (by decide), hb, fieldIn_withField_same wa (by decide),
        Nat.mod_eq_of_lt (Nat.lt_of_le_of_lt (Nat.sub_le _ _) (fieldIn_lt s R.DEV_FIELD_MAP_USABLE _ _))]
      exact bitN_sub_self usable
    · rw [hef, fieldIn_withField_map hf he.standing.wf (by simp) (by simp) (by decide) (by decide),
        stands (by simp), hc, fieldIn_withField_same wb (by decide), hb,
        fieldIn_withField_map hf wa (by simp) (by simp) (by decide) (by decide), ha]
      exact Nat.mod_eq_of_lt (Nat.lt_of_le_of_lt (min_le_right _ _) (by decide))
    · rw [hef, fieldIn_withField_same he.standing.wf (by decide)]
      rfl
  dsimp only
  split
  next unbound =>
    have noCore (l : Nat) (bound : logicalOf s p = some l) : False := by cases unbound.symm.trans bound
    by_cases spare : fieldIn s R.DEV_FIELD_MAP_SPARE_POS (p / 19) 0 = p % 19
    · rw [if_pos spare]
      exact (leads_retireSpare hf out wf).mono fun _ t ht => ⟨ht.1, fun _ _ => ht.2, fun l _ bound => (noCore l bound).elim⟩
    · rw [if_neg spare]
      exact (leads_showRetired hf out wf).mono fun _ t ht => ⟨ht.1, fun _ h => absurd h spare, fun l _ bound => (noCore l bound).elim⟩
  next l bound =>
    have isBound (h : logicalOf s p = none) : False := by cases bound.symm.trans h
    refine leads_bind (keeps_serving fields serves_degrade f (.refl wf)) fun _ h hh => ?_
    have out' : Retired p s h.val := out.of_standing hh.standing hh.fenced
    split
    next c clause =>
      refine (leads_retireClause hf out' hh.standing.wf (hh.running.trans running)).mono fun _ t ht => ⟨ht.1, fun h => (isBound h).elim, ?_⟩
      rintro l' c' bound' clause'
      cases bound.symm.trans bound'
      cases clause.symm.trans clause'
      exact ht.2
    next clauseless =>
      refine (leads_showRetired hf out' hh.standing.wf).mono fun _ t ht => ⟨ht.1, fun h => (isBound h).elim, ?_⟩
      rintro l' c' bound' clause'
      cases bound.symm.trans bound'
      exact absurd (clauseless.symm.trans clause') (by simp)

end Sys2Proof.Machine
end

section
/-! OBLIGATION O47. -/

open Sys2Proof Sys2Proof.Machine

/-- Settles O47: what a reset does at its units keeps the resets' own state, so that what began runs, shows its cause, and time and the
heartbeat are as the period left them. -/
theorem monitorAndRetirement : Obligations.MonitorAndRetirement := by
  intro s w _ idle
  refine ⟨fun v => heartbeat_firmware v w idle, fun a v => heartbeat_foreign v, heartbeatPeriod_counts w idle, firstHeartbeatTimeout_beaten,
    firstHeartbeatTimeout_resets w idle, fun l bound ready limit => coreHangCheck_cases w idle bound ready limit, fun p hp usable => ?_⟩
  obtain ⟨t, ht, out, spare, clause⟩ := coreRetirement_fences w idle hp usable
  exact ⟨t, ht, out.fenced, out.usable, out.retired, out.pending, spare, clause⟩

end

section
/-! SUPPORT. An atomic that has to wait for its turn at a scratchpad's banks (R264, log entry 38): a state and a packet. -/

namespace Sys2Proof.Machine

open Sys2Proof

/-- Chip 1, in its first incarnation, is a node of job 0, which is in its conjunction; a packet of its lies in the receive buffer of lane 0. -/
def peerPacketHere (p : Packet) : State := { State.reset with
  regs := [(R.CJ_JOBA_STATE.addr 0 0, 2 <<< R.CJ_JOBA_STATE.lo)]
  jobs := [(0, { map := [(1, 1)] })]
  lanes := [(0, { received := [p] })] }

/-- An atomic of chip 1 on the first word of core 0's scratchpad. -/
def scratchpadAtomic : Packet :=
  { emptyPacket with typ := Ty.at, src := 1, inc := 1, job := 0, tag := 7, addr := 0x400000000000, data := List.replicate 16 0 }

/-- That atomic has arrived while a requester of another group is promoted at the scratchpad. -/
def atomicBehindPromoted : State := { peerPacketHere scratchpadAtomic with spctls := [(0, { promoted := [0] })] }

/-- The atomic operation by itself, as the statement takes it. -/
abbrev scratchpadAdd : M atomicBehindPromoted (Nat × Word × List Rec) :=
  modAtomic (scratchpadAtomic.addr.toNat % 2 ^ 48 / 8 * 8) (atomicFn scratchpadAtomic.aux.toNat
    (BitVec.ofNat 64 (fieldAt scratchpadAtomic.data 0 8)) (BitVec.ofNat 64 (fieldAt scratchpadAtomic.data 8 8)))

theorem arrives_atomicBehindPromoted : arrives atomicBehindPromoted 0 scratchpadAtomic Ty.at := by
  unfold arrives
  decide +kernel

theorem scratchpadAdd_performed : (gives atomicBehindPromoted scratchpadAdd).1 = .ok (Status.ok, 0, []) ∧
    (gives atomicBehindPromoted scratchpadAdd).2.lanes = atomicBehindPromoted.lanes := by
  decide +kernel

/-- Its turn has not come. -/
theorem receive_atomicBehindPromoted : (eval (receive 0 scratchpadAtomic Ty.at (actAtomic scratchpadAtomic))
    (⟨atomicBehindPromoted, .refl⟩ : Good atomicBehindPromoted)).1 = .error .later := by
  decide +kernel

/-- So the command leaves the state it found. -/
theorem exec_atReq_atomicBehindPromoted : exec (.atReq 0 scratchpadAtomic) atomicBehindPromoted = .next atomicBehindPromoted :=
  congrArg _ (run_of_later (Prod.ext receive_atomicBehindPromoted rfl))

end Sys2Proof.Machine

open Sys2Proof Sys2Proof.Machine

/-- Refutes O43: an atomic on a scratchpad at which a requester of another group is promoted waits for its turn, so that its packet stays in
the receive buffer, though the operation it names could be performed. -/
theorem not_requestsServed : ¬ Obligations.RequestsServed := by
  unfold Obligations.RequestsServed
  intro h
  obtain ⟨-, -, atomic, -⟩ := h atomicBehindPromoted 0 scratchpadAtomic (by decide +kernel) (by decide +kernel)
  obtain ⟨performed, lanes⟩ := scratchpadAdd_performed
  obtain ⟨t, ht, -, -, -, left, -⟩ := atomic arrives_atomicBehindPromoted (by decide) _ _ _ (Prod.ext performed rfl)
  rw [exec_atReq_atomicBehindPromoted, Host.Outcome.next.injEq] at ht
  subst ht
  change (FMap.get lane0 atomicBehindPromoted.lanes 0).received =
    eraseFirst scratchpadAtomic (FMap.get lane0 (gives atomicBehindPromoted scratchpadAdd).2.lanes 0).received at left
  rw [lanes] at left
  exact absurd left (by decide +kernel)

end

section
/-! SUPPORT. A confirmation that covers an entry of a lower SERIAL (R373, R374): a state and a packet. -/

namespace Sys2Proof.Machine

open Sys2Proof

/-- A sweep of chip 1 that confirms the writes of job 0 in tense 1 up to SERIAL 2. -/
def sweepToTwo : Packet := { emptyPacket with typ := Ty.conf, src := 1, inc := 1, job := 0, tag := 7, tense := 1, serial := 2 }

/-- A write of that tense with SERIAL 1, which the sweep covers. -/
def writeOne : TentEntry := { src := 1, job := 0, tense := 1, serial := 1, isBlock := false }

/-- The sweep has arrived, and the write is tentative. -/
def sweepOverWrite : State := { peerPacketHere sweepToTwo with tent := [writeOne] }

theorem arrives_sweepOverWrite : arrives sweepOverWrite 0 sweepToTwo Ty.conf := by
  unfold arrives
  decide +kernel

/-- What is kept of the sweep is one entry with its own SERIAL. -/
theorem tentDone_sweepOverWrite : (run sweepOverWrite (receive 0 sweepToTwo Ty.conf (actSettle sweepToTwo))).tentDone = [tentOf sweepToTwo] := by
  decide +kernel

end Sys2Proof.Machine

open Sys2Proof Sys2Proof.Machine

/-- Refutes O44: a sweep takes away every tentative entry up to its SERIAL, and keeps one entry for itself; the entries of lower SERIALs do not
stand among those kept. -/
theorem not_packetsArrive : ¬ Obligations.PacketsArrive := by
  unfold Obligations.PacketsArrive
  intro h
  obtain ⟨settles, -⟩ := h sweepOverWrite 0 sweepToTwo (by decide +kernel) (by decide +kernel) (by decide +kernel)
  obtain ⟨-, covers⟩ := settles (.conf 0 sweepToTwo) Ty.conf 0 (.inl ⟨rfl, rfl⟩) arrives_sweepOverWrite (by decide +kernel) (by decide)
    (by decide +kernel)
  obtain ⟨t, ht, -, -, kept, -⟩ := covers (by decide +kernel) (by decide +kernel)
  have left : t = run sweepOverWrite (receive 0 sweepToTwo Ty.conf (actSettle sweepToTwo)) := (Host.Outcome.next.inj ht).symm
  have mem := kept writeOne (by decide +kernel)
  rw [left, tentDone_sweepOverWrite] at mem
  exact absurd mem (by decide)

end

section
/-! SUPPORT. The most that can be said of what writing the module's memory and a record leaves alone (R281 to R305, R333 to R349, R419 to R422):
every part of the state but the memory, its controllers and compressed ranges, the rings and the counts of events, and every register block but
those of the controllers, the compression engines, the rings and the host interface. What spares less of this follows (`sparing_mono`). -/

namespace Sys2Proof.Machine

open Sys2Proof

variable {s0 : State}

/-- The parts that neither memory nor records are. -/
abbrev unstored : List Part :=
  [.spad, .sregs, .aregs, .pregs, .vregs, .banks, .rowDescs, .accs, .accRows, .ctxs, .cores, .dmas, .flagUpds, .partials, .seqs, .rows, .frames,
   .nodes, .spillSlots, .kv, .jobs, .tent, .tentDone, .sent, .colls, .reqs, .nextTag, .lateDrops, .lanes, .blockBufs, .spctls, .stream, .load,
   .proofKey, .proofs, .dicts, .rst, .pcie, .pwr, .pins, .sec, .log, .spdm, .ms]

/-- The register blocks that neither memory nor records have. -/
abbrev unstoredBlocks : List Nat :=
  [0x00, 0x01, 0x02, 0x03, 0x04, 0x05, 0x06, 0x07, 0x08, 0x09, 0x0A, 0x0B, 0x0C, 0x0D, 0x0E, 0x0F, 0x19, 0x1A, 0x1B, 0x1C, 0x1E, 0x1F, 0x20, 0x22]

/-- What writing memory and records leaves alone. -/
abbrev storing : Eff → Prop := sparing unstored unstoredBlocks

theorem stores_gdPut (key : Nat) (bs : List Byte) : Ends storing (gdPut key bs : M s0 Unit) :=
  ends_bind (ends_loop fun _ _ _ => ends_bind (ends_eff rfl) fun _ => ends_pure _) fun _ => ends_pure _

theorem stores_gdTouch (k phys : Nat) : Ends storing (gdTouch k phys : M s0 Unit) :=
  ends_bind (ends_getGd k) fun _ => ends_bind ends_st fun _ => ends_eff rfl

theorem stores_gdPutBlock (k phys : Nat) (raw : List Byte) : Ends storing (gdPutBlock k phys raw : M s0 Unit) :=
  ends_bind (stores_gdPut _ _) fun _ => stores_gdTouch _ _

theorem stores_gdDecode (k phys : Nat) (raw : List Byte) (units : BitVec 17) :
    Ends storing (gdDecode k phys raw units : M s0 BlockOut) := by
  refine ends_bind (ends_getGd k) fun g => ?_
  dsimp only
  split
  · exact ends_pure _
  · split
    · exact ends_ite (ends_bind (ends_freeBool rfl) fun _ => ends_ite (ends_pure _) (ends_pure _)) (ends_pure _)
    · exact ends_pure _

section
variable {k : Nat} (hk : k < 32)
include hk

/-- The registers of a controller lie in its own blocks (R300 to R305). -/
theorem stores_clear {F : Fld} {i : Nat} (hi : i ≤ 16) (h : F.clear unstoredBlocks 32 16 = true) :
    F.clear unstoredBlocks k i = true := Fld.clear_le hk.le hi h

theorem stores_gdSetErr (block : Nat) (units : BitVec 17) (e0 e1 : Nat) (ue poison scrub injected : Bool) :
    Ends storing (gdSetErr k block units e0 e1 ue poison scrub injected : M s0 Unit) :=
  ends_wrReg_clear (stores_clear hk (Nat.zero_le _) rfl)

theorem stores_gdAutoRemap (block : Nat) (data : List Byte) : Ends storing (gdAutoRemap k block data : M s0 Unit) := by
  refine ends_bind ends_st fun s => ends_bind (ends_read fun _ => ⟨_, rfl⟩) fun blocks => ends_ite (ends_pure _) ?_
  split
  · exact ends_countSat_clear (stores_clear hk (Nat.zero_le _) rfl)
  · rename_i i free
    have hi : i < 16 := List.mem_range.1 (List.mem_of_find?_eq_some free)
    refine ends_bind (ends_wrReg_clear (stores_clear hk hi.le rfl)) fun _ => ?_
    exact ends_bind (ends_getGd k) fun _ => ends_eff rfl

theorem stores_gdReadAt (block phys : Nat) (f : BlockFaults) (scrub : Bool) :
    Ends storing (gdReadAt k block phys f scrub : M s0 (Option (List Byte) × List Rec)) := by
  have count {F : Fld} {n : Nat} (h : F.clear unstoredBlocks 32 16 = true) :
      Ends storing (countSat F k n : M s0 Unit) := ends_countSat_clear (stores_clear hk (Nat.zero_le _) h)
  refine ends_bind (ends_read fun _ => ⟨_, rfl⟩) fun raw => ends_bind (ends_getGd k) fun g => ends_bind (ends_eff rfl) fun _ => ?_
  refine ends_bind (count rfl) fun _ => ends_bind (count rfl) fun _ => ends_ite (ends_bind (ends_gdRec _ _ _ _ _) fun _ => ?_) ?_
  all_goals
    refine ends_bind (stores_gdDecode _ _ _ _) ?_
    rintro (⟨data, e0, e1⟩ | ⟨e0, e1⟩ | _)
  all_goals dsimp only
  case good | good =>
    refine ends_ite (ends_pure _) (ends_bind (count rfl) fun _ => ends_when (count rfl) fun _ => ?_)
    refine ends_bind (stores_gdSetErr hk _ _ _ _ _ _ _ _) fun _ => ends_bind (ends_gdRec _ _ _ _ _) fun _ => ?_
    exact ends_bind (ends_getGd k) fun _ => ends_bind (ends_eff rfl) fun _ => ends_when (stores_gdAutoRemap hk _ _) fun _ => ends_pure _
  case bad | bad =>
    refine ends_bind (count rfl) fun _ => ends_bind (stores_gdSetErr hk _ _ _ _ _ _ _ _) fun _ => ?_
    exact ends_bind (ends_gdRec _ _ _ _ _) fun _ => ends_bind (stores_gdPutBlock _ _ _) fun _ => ends_pure _
  case poison | poison =>
    exact ends_bind (count rfl) fun _ => ends_bind (stores_gdSetErr hk _ _ _ _ _ _ _ _) fun _ => ends_pure _

theorem stores_gdRead (block : Nat) (f : BlockFaults) :
    Ends storing (gdRead k block f : M s0 (Option (List Byte) × List Rec)) :=
  ends_bind (ends_getF _ _ _) fun _ => ends_ite (ends_pure _) (ends_bind ends_st fun _ => stores_gdReadAt hk _ _ _ _)

theorem stores_gdStore (block : Nat) (data : List Byte) : Ends storing (gdStore k block data : M s0 (List Rec)) := by
  have is (F : Fld) : Ends storing (isF F k : M s0 Bool) := ends_read fun _ => ⟨_, rfl⟩
  refine ends_bind ends_st fun _ => ends_bind (is _) fun _ => ends_bind (is _) fun _ => ends_bind (ends_getF _ _ _) fun _ => ?_
  refine ends_ite ?_ (ends_bind (stores_gdPutBlock _ _ _) fun _ => ends_pure _)
  refine ends_bind (ends_getF _ _ _) fun _ => ends_bind (ends_getF _ _ _) fun _ => ends_bind (ends_getF _ _ _) fun _ => ?_
  refine ends_bind (stores_gdPutBlock _ _ _) fun _ => ends_bind (ends_setF_clear (stores_clear hk (Nat.zero_le _) rfl)) fun _ => ?_
  refine ends_bind (is _) fun _ => ends_bind (is _) fun _ => ends_bind (ends_getGd k) fun _ => ends_bind (ends_eff rfl) fun _ => ?_
  refine ends_ite (ends_bind (ends_countSat_clear (stores_clear hk (Nat.zero_le _) rfl)) fun _ => ?_) (ends_pure _)
  exact ends_bind (ends_gdRec _ _ _ _ _) fun _ => ends_pure _

omit hk in
theorem stores_gdStorePoison (block : Nat) : Ends storing (gdStorePoison k block : M s0 Unit) :=
  ends_bind ends_st fun _ => stores_gdPutBlock _ _ _

theorem stores_gdWrite (block off : Nat) (bytes : List Byte) :
    Ends storing (gdWrite k block off bytes : M s0 (Nat × List Rec)) := by
  refine ends_bind (ends_getF _ _ _) fun _ => ends_ite (ends_pure _) (ends_ite ?_ (ends_bind (stores_gdRead hk _ _) ?_))
  · exact ends_bind (stores_gdStore hk _ _) fun _ => ends_pure _
  · rintro ⟨_ | data, evs⟩
    · exact ends_bind (stores_gdStorePoison _) fun _ => ends_pure _
    · exact ends_bind (stores_gdStore hk _ _) fun _ => ends_pure _

theorem stores_gdReadSpan (block off n : Nat) : Ends storing (gdReadSpan k block off n : M s0 (Nat × List Byte × List Rec)) := by
  refine ends_bind (stores_gdRead hk _ _) ?_
  rintro ⟨_ | d, ev⟩ <;> exact ends_pure _

/-! Compressed ranges (R333 to R349). -/

omit hk in
theorem stores_sideKeep (b v : Nat) : Ends storing (sideKeep k b v : M s0 Unit) := ends_bind ends_st fun _ => ends_eff rfl

theorem stores_cxFail (b cause side : Nat) : Ends storing (cxFail k b cause side : M s0 (List Rec)) := by
  have engine {F : Fld} (h : F.clear unstoredBlocks 8 0 = true) : F.clear unstoredBlocks (k / 4) 0 = true :=
    Fld.clear_le (by omega) le_rfl h
  refine ends_when (ends_countSat_clear (engine rfl)) fun _ => ends_when (ends_countSat_clear (engine rfl)) fun _ => ?_
  exact ends_when (ends_countSat_clear (engine rfl)) fun _ => ends_bind (ends_wrReg_clear (engine rfl)) fun _ => ends_pure _

theorem stores_readSectors (b n : Nat) : Ends storing (readSectors k b n : M s0 (Option (List Byte) × List Rec)) := by
  refine ends_bind (ends_loop fun i _ x => ends_bind (stores_gdRead hk _ _) ?_) fun _ => ends_pure _
  rintro ⟨_ | d, ev⟩ <;> exact ends_pure _

theorem stores_writeSectors (b : Nat) (bs : List Byte) : Ends storing (writeSectors k b bs : M s0 (List Rec)) :=
  ends_bind (ends_loop fun _ _ _ => ends_bind (stores_gdWrite hk _ _ _) fun _ => ends_pure _) fun _ => ends_pure _

end

theorem stores_sideRead (i b : Nat) : Ends storing (sideRead i b : M s0 (Option Nat × List Rec)) := by
  refine ends_bind ends_st fun s => ends_bind (ends_ite (ends_freeBool rfl) (ends_pure _)) fun hit => ?_
  dsimp only
  split
  · exact ends_bind (stores_sideKeep _ _) fun _ => ends_pure _
  · split
    · exact ends_pure _
    · rename_i c blk off place
      refine ends_bind (stores_gdReadSpan (sidePlaceIn_lt place) _ _ _) fun _ => ?_
      exact ends_ite (ends_bind (stores_sideKeep _ _) fun _ => ends_pure _) (ends_pure _)

theorem stores_sideWrite (i b v : Nat) : Ends storing (sideWrite i b v : M s0 (List Rec)) := by
  refine ends_bind ends_st fun s => ?_
  dsimp only
  split
  · exact ends_pure _
  · rename_i c blk off place
    exact ends_bind (stores_gdWrite (sidePlaceIn_lt place) _ _ _) fun _ => ends_bind (stores_sideKeep _ _) fun _ => ends_pure _

theorem stores_agreeCheck (want : Nat) (bs : List Byte) : Ends storing (agreeCheck want bs : M s0 Bool) :=
  ends_bind (ends_countWrap_clear rfl) fun _ => ends_when (ends_countSat_clear rfl) fun _ => ends_pure _

section
variable {k : Nat} (hk : k < 32)
include hk

theorem stores_cxRead (b i : Nat) : Ends storing (cxRead k b i : M s0 (Nat × List Byte × Nat × List Rec)) := by
  have fail (cause side : Nat) (f : List Rec → Nat × List Byte × Nat × List Rec) :
      Ends storing (do let more ← cxFail k b cause side; pure (f more) : M s0 (Nat × List Byte × Nat × List Rec)) :=
    ends_bind (stores_cxFail hk _ _ _) fun _ => ends_pure _
  refine ends_bind (stores_sideRead _ _) ?_
  rintro ⟨_ | side, ev⟩
  · exact fail _ _ _
  refine ends_bind (stores_readSectors hk _ _) ?_
  rintro ⟨_ | bytes, ev2⟩
  · exact fail _ _ _
  refine ends_ite (ends_bind (stores_agreeCheck _ _) fun _ => ends_ite (ends_pure _) (fail _ _ _)) (ends_bind ends_st fun t => ?_)
  split
  · exact fail _ _ _
  split
  · exact ends_bind (ends_countSat_clear rfl) fun _ => fail _ _ _
  · exact ends_bind (stores_agreeCheck _ _) fun _ => ends_ite (ends_pure _) (fail _ _ _)

theorem stores_cxWrite (b i : Nat) (bs : List Byte) : Ends storing (cxWrite k b i bs : M s0 (Nat × List Rec)) := by
  refine ends_bind (ends_getF _ _ _) fun _ => ends_bind (ends_getF _ _ _) fun _ => ends_bind ends_st fun _ => ?_
  refine ends_when (ends_countSat_clear (Fld.clear_le (n := 8) (by omega) le_rfl rfl)) fun _ => ?_
  exact ends_bind (stores_writeSectors hk _ _) fun _ => ends_bind (stores_sideWrite _ _ _) fun _ => ends_pure _

theorem stores_cxWritePart (b i off : Nat) (bs : List Byte) : Ends storing (cxWritePart k b i off bs : M s0 (Nat × List Rec)) := by
  refine ends_ite (stores_cxWrite hk _ _ _) (ends_bind (stores_cxRead hk _ _) fun _ => ends_ite (ends_pure _) ?_)
  exact ends_bind (stores_cxWrite hk _ _ _) fun _ => ends_pure _

end

/-! GDDR7 by offset. -/

theorem stores_gmWritePiece (o : Nat) (bs : List Byte) : Ends storing (gmWritePiece o bs : M s0 (Nat × List Rec)) := by
  refine ends_bind (ends_read fun _ => ⟨_, rfl⟩) fun blocks => ?_
  split
  · exact ends_pure _
  · rename_i k blk place
    refine ends_bind ends_st fun s => ?_
    split
    · exact stores_gdWrite (gddrAt_lt place) _ _ _
    · exact stores_cxWritePart (gddrAt_lt place) _ _ _ _

/-- What follows such a look may rely on its naming a controller. -/
theorem stores_directRange_bind {β : Type} {f : Option (Nat × Nat × Nat) → M s0 β} (o : Nat) (hn : Ends storing (f none))
    (hs : ∀ k b i, k < 32 → Ends storing (f (some (k, b, i)))) : Ends storing (directRange o >>= f) := by
  intro g
  by_cases ho : o < 0x100000000000
  · rw [eval_bind_ok (show eval (directRange o) g = (.ok none, g) by rw [directRange, if_pos ho]; rfl)]
    exact hn g
  rw [eval_bind_ok (eval_directRange ho g)]
  rcases place : gddrAt (gdBlocksIn g.val) o with _ | ⟨k, blk⟩
  · exact hn g
  dsimp only [Option.bind_some]
  cases rangeOfIn g.val k (blk / 16)
  · exact hn g
  · exact hs _ _ _ (gddrAt_lt place) g

theorem stores_gmWrite (o : Nat) (bs : List Byte) : Ends storing (gmWrite o bs : M s0 (Nat × List Rec)) := by
  have keep {σ : Type} (c : Prop) [Decidable c] (x y : σ) :
      Ends storing (if c then pure (ForInStep.yield x) else pure (ForInStep.yield y) : M s0 (ForInStep σ)) :=
    ends_ite (ends_pure _) (ends_pure _)
  refine ends_bind (ends_loop fun p _ x => stores_directRange_bind _ ?none ?some) fun _ => ends_pure _
  case none =>
    exact ends_bind (ends_loop fun q _ _ => ends_bind (stores_gmWritePiece _ _) fun _ => keep _ _ _) fun _ => ends_pure _
  case some => exact fun k b i hk => ends_bind (stores_cxWritePart hk _ _ _ _) fun _ => keep _ _ _

theorem stores_setTags (o n : Nat) (tag : Option RelTag) : Ends storing (setTags o n tag : M s0 Unit) := by
  refine ends_bind ends_st fun _ => ends_ite (ends_pure _) (ends_bind (ends_loop fun w _ _ => ends_bind ends_st fun t => ?_) fun _ => ends_pure _)
  split
  · exact ends_bind (ends_eff rfl) fun _ => ends_pure _
  · exact ends_pure _

/-! Rings and records. -/

theorem stores_ringWrite (base size tail : Fld) {head : Fld} (bytes : List Byte)
    (hh : head.clear unstoredBlocks 0 0 = true) :
    Ends storing (ringWrite base size head tail bytes : M s0 (Bool × List Rec)) := by
  refine ends_bind (ends_getF _ _ _) fun _ => ends_bind (ends_getF _ _ _) fun _ => ends_bind (ends_getF _ _ _) fun _ => ?_
  refine ends_ite (ends_pure _) (ends_bind (ends_getF _ _ _) fun _ => ends_bind ends_st fun _ => ?_)
  refine ends_bind (ends_setF_clear hh) fun _ => ends_ite (ends_bind (ends_eff rfl) fun _ => ends_pure _) ?_
  exact ends_bind (stores_gmWrite _ _) fun _ => ends_bind (stores_setTags _ _ _) fun _ => ends_pure _

theorem stores_noteFault : Ends storing (noteFault : M s0 Unit) :=
  ends_bind (ends_getF _ _ _) fun _ => ends_ite (ends_bind ends_st fun _ => ends_eff rfl) (ends_pure _)

theorem stores_dRing (bytes : List Byte) : Ends storing (dRing bytes : M s0 (Bool × List Rec)) := by
  refine ends_bind ends_st fun _ => ends_ite (ends_bind (stores_ringWrite _ _ _ _ rfl) fun x => ?_) (ends_ite ?_ ?_)
  · exact ends_ite (ends_bind stores_noteFault fun _ => ends_pure _) (ends_bind (ends_countSat_clear rfl) fun _ => ends_pure _)
  · exact ends_bind (ends_eff rfl) fun _ => ends_bind stores_noteFault fun _ => ends_pure _
  · exact ends_bind (ends_countSat_clear rfl) fun _ => ends_pure _

theorem stores_cRing (bytes : List Byte) : Ends storing (cRing bytes : M s0 (Bool × List Rec)) := by
  refine ends_bind (ends_getF _ _ _) fun _ => ends_ite (ends_bind (stores_ringWrite _ _ _ _ rfl) fun x => ?_) ?_
  · exact ends_when (ends_countSat_clear rfl) fun _ => ends_pure _
  · exact ends_bind (ends_countSat_clear rfl) fun _ => ends_pure _

theorem stores_setCls (r : Rec) (lastMs : Option Nat) (suppressed : Nat) : Ends storing (setCls r lastMs suppressed : M s0 Unit) :=
  ends_bind ends_st fun _ => ends_eff rfl

theorem stores_noteUnrecorded (r : Rec) : Ends storing (noteUnrecorded r : M s0 Unit) :=
  ends_ite (ends_bind ends_st fun _ => stores_setCls _ _ _) (ends_pure _)

theorem stores_writeRecord (r : Rec) (suppressed : Nat) : Ends storing (writeRecord r suppressed : M s0 (List Rec)) := by
  refine ends_bind ends_st fun _ => ends_bind (ends_ite (stores_cRing _) (stores_dRing _)) fun x => ends_ite ?_ ?_
  · exact ends_bind (ends_eff rfl) fun _ => ends_bind (stores_setCls _ _ _) fun _ => ends_pure _
  · exact ends_bind (stores_noteUnrecorded _) fun _ => ends_pure _

theorem stores_recordGo (fuel : Nat) (r : Rec) : Ends storing (recordGo fuel r : M s0 Unit) := by
  induction fuel generalizing r with
  | zero => exact ends_pure _
  | succ fuel ih =>
    rw [recordGo]
    refine ends_bind ends_st fun s => ?_
    split
    · exact stores_noteUnrecorded _
    · exact ends_bind (stores_writeRecord _ _) fun _ => ends_bind (ends_each fun x _ => ih x) fun _ => ends_pure _

/-- A record is written or counted, and always ends. -/
theorem stores_record (r : Rec) : Ends storing (record r : M s0 Unit) := stores_recordGo 4 r

theorem stores_recordAll (evs : List Rec) : Ends storing (recordAll evs : M s0 Unit) :=
  ends_bind (ends_each fun r _ => stores_record r) fun _ => ends_pure _

/-- A write of the module's own GDDR7, held at its port or made at once. -/
theorem stores_wrGddr (o : Nat) (bs : List Byte) (job : Option Nat) : Ends storing (wrGddr o bs job : M s0 Nat) := by
  refine ends_bind ends_st fun _ => ends_ite (ends_bind (ends_eff rfl) fun _ => ends_pure _) ?_
  refine ends_bind (stores_gmWrite _ _) fun _ => ends_bind (stores_recordAll _) fun _ => ends_bind (stores_setTags _ _ _) fun _ => ?_
  exact ends_pure _

theorem stores_sendMsix (v : Nat) : Ends storing (sendMsix v : M s0 Unit) :=
  ends_bind ends_st fun _ => ends_ite (ends_ite (ends_eff rfl) (ends_eff rfl)) (ends_pure _)

end Sys2Proof.Machine
end

section
/-! SUPPORT. What memory, records, packets and completions leave alone of jobs: their table and their registers, contexts and their registers,
sequences and the KV engine, the stream and what was sent. -/

namespace Sys2Proof.Machine

open Sys2Proof

variable {s0 : State} {α : Type}

/-- What memory, records, packets and completions leave alone: jobs and all that runs, waits or is sent for them, and the jobs' registers. -/
abbrev offJobs : Eff → Prop := sparing
  [.sregs, .aregs, .pregs, .vregs, .ctxs, .cores, .partials, .seqs, .rows, .frames, .nodes, .spillSlots, .kv, .jobs, .tent, .tentDone, .sent,
   .colls, .stream, .proofs] [0x1C]

theorem offJobs_of_storing {m : M s0 α} (h : Ends storing m) : Ends offJobs m := ends_mono h (sparing_mono (by decide) (by decide))

/-! Lanes and packets (R354 to R373). -/

theorem offJobs_modLane (i : Nat) (f : Lane → Lane) : Ends offJobs (modLane i f : M s0 Unit) :=
  ends_bind (ends_getLane i) fun _ => ends_eff rfl

section
variable {i : Nat} (hi : i < 48)
include hi

theorem offJobs_lane {F : Fld} (h : F.clear [0x1C] 48 0 = true) : F.clear [0x1C] i 0 = true := Fld.clear_le hi.le le_rfl h

theorem offJobs_startTraining (full : Bool) (cause : Nat) : Ends offJobs (startTraining i full cause : M s0 Unit) := by
  refine ends_bind (ends_getF _ _ _) fun _ => ends_ite (ends_bind (offJobs_modLane _ _) fun _ => ends_ite ?_ ?_) (ends_pure _)
  · exact ends_bind (ends_setF_clear (offJobs_lane hi rfl)) fun _ => ends_countWrap_clear (offJobs_lane hi rfl)
  · refine ends_bind (ends_setF_clear (offJobs_lane hi rfl)) fun _ => ends_bind (ends_setF_clear (offJobs_lane hi rfl)) fun _ => ?_
    exact ends_countWrap_clear (offJobs_lane hi rfl)

theorem offJobs_sendFlit (f : ReplayFlit) : Ends offJobs (sendFlit i f : M s0 Unit) := by
  refine ends_bind (ends_getF _ _ _) fun _ => ends_ite (ends_bind (ends_getLane i) fun _ => ends_ite ?_ ?_) (ends_pure _)
  · exact offJobs_startTraining hi _ _
  · exact ends_bind (ends_eff rfl) fun _ => ends_eff rfl

theorem offJobs_newFlit (kind : Nat) (body : List Byte) (first : Nat) (packets : List Packet) :
    Ends offJobs (newFlit i kind body first packets : M s0 Unit) :=
  ends_bind (ends_getLane i) fun _ => ends_bind (ends_eff rfl) fun _ => offJobs_sendFlit hi _

omit hi in
theorem offJobs_controlBody : Ends offJobs (controlBody : M s0 (List Byte)) :=
  ends_bind (ends_freeWord_of rfl) fun _ => ends_bind (ends_freeWord_of rfl) fun _ => ends_pure _

theorem offJobs_sendControls (q : List (Nat × Nat × Nat)) : Ends offJobs (sendControls i q : M s0 Unit) := by
  induction q with
  | nil => exact ends_pure _
  | cons c q ih =>
    obtain ⟨kind, a, b⟩ := c
    refine ends_bind (ends_getF _ _ _) fun _ => ends_bind (ends_getLane i) fun _ => ends_ite ?_ (ends_pure _)
    refine ends_bind (offJobs_modLane _ _) fun _ => ends_bind (ends_eff rfl) fun _ => ends_bind offJobs_controlBody fun _ => ?_
    exact ends_bind (offJobs_newFlit hi _ _ _ _) fun _ => ih

theorem offJobs_pumpLane : Ends offJobs (pumpLane i : M s0 Unit) := by
  refine ends_bind (ends_getLane i) fun _ => ends_bind (offJobs_sendControls hi _) fun _ => ?_
  refine ends_bind (ends_getLane i) fun _ => ends_bind (ends_getF _ _ _) fun _ => ends_ite ?_ (ends_pure _)
  refine ends_bind (ends_getLane _) fun _ => ends_bind (ends_eff rfl) fun _ => ends_bind (ends_each fun _ _ => ends_eff rfl) fun _ => ?_
  exact ends_bind (ends_each fun _ _ => offJobs_newFlit hi _ _ _ _) fun _ => ends_pure _

end

/-- The lanes send what they can. -/
theorem offJobs_pumpAll : Ends offJobs (pumpAll : M s0 Unit) := by
  refine ends_bind (ends_loop fun i hi _ => ends_bind (ends_getLane i) fun _ => ends_ite ?_ (ends_pure _)) fun _ => ends_pure _
  exact ends_bind (offJobs_pumpLane (List.mem_range.1 hi)) fun _ => ends_pure _

theorem offJobs_queuePacket (i : Nat) (p : Packet) : Ends offJobs (queuePacket i p : M s0 Unit) := offJobs_modLane _ _

theorem offJobs_sendPacket (p : Packet) (arrived : Option Nat) : Ends offJobs (sendPacket p arrived : M s0 (Option Nat)) := by
  refine ends_bind ends_st fun s => ?_
  split
  · exact ends_bind (offJobs_queuePacket _ _) fun _ => ends_pure _
  · exact ends_pure _

theorem offJobs_freshTag : Ends offJobs (freshTag : M s0 Nat) := ends_bind ends_st fun _ => ends_bind (ends_eff rfl) fun _ => ends_pure _

theorem offJobs_ownPacket (p : Packet) : Ends offJobs (ownPacket p : M s0 Packet) :=
  ends_bind ends_ownChip fun _ => ends_bind (ends_getF _ _ _) fun _ => ends_pure _

theorem offJobs_noRoute (chip : Nat) : Ends offJobs (countStatus Status.noRoute chip : M s0 Unit) :=
  ends_ite (ends_bind (ends_countSat_clear rfl) fun _ => ends_setF_clear rfl) (ends_pure _)

theorem offJobs_sendRequest (p : Packet) (purpose : Purpose) : Ends offJobs (sendRequest p purpose : M s0 (Option Nat)) := by
  refine ends_bind offJobs_freshTag fun _ => ends_bind (offJobs_ownPacket _) fun _ => ends_bind (offJobs_sendPacket _ _) ?_
  rintro (_ | i)
  · exact ends_bind (offJobs_noRoute _) fun _ => ends_pure _
  · exact ends_bind ends_st fun _ => ends_bind (ends_eff rfl) fun _ => ends_pure _

/-! Completions, events and messages of jobs (R35, R390, R467 to R474). -/

theorem offJobs_writeEntry (c : Nat) (bs : List Byte) : Ends offJobs (writeEntry c bs : M s0 Unit) := by
  refine ends_bind (ends_getF _ _ _) fun _ => ends_bind (ends_getF _ _ _) fun _ => ends_bind (ends_getF _ _ _) fun _ => ?_
  refine ends_bind (ends_eff rfl) fun _ => ends_bind ends_st fun _ => ends_bind (ends_setF_clear rfl) fun _ => ?_
  exact ends_when (ends_setF_clear rfl) fun _ => ends_bind (ends_getF _ _ _) fun _ => offJobs_of_storing (stores_sendMsix _)

theorem offJobs_postEntry (c : Nat) (bs : List Byte) : Ends offJobs (postEntry c bs : M s0 Unit) :=
  ends_bind ends_st fun _ => ends_ite (ends_countSat_clear rfl) (ends_ite (ends_eff rfl) (offJobs_writeEntry _ _))

theorem offJobs_jobEvent (j status detail : Nat) : Ends offJobs (jobEvent j status detail : M s0 Unit) := by
  refine ends_bind (ends_getJob j) fun v => ?_
  split
  · exact ends_pure _
  · refine ends_bind (ends_getF _ _ _) fun _ => ends_bind (ends_getF _ _ _) fun _ => ends_bind (ends_getF _ _ _) fun _ => ?_
    exact offJobs_postEntry _ _

theorem offJobs_sendMsg (j node code : Nat) (payload : List Byte) (tense : Option Nat) :
    Ends offJobs (sendMsg j node code payload tense : M s0 Bool) :=
  ends_bind ends_st fun _ => ends_bind (offJobs_sendRequest _ _) fun _ => ends_pure _

theorem offJobs_writeCommit (j : Nat) : Ends offJobs (writeCommit j : M s0 Nat) :=
  ends_bind ends_st fun _ => offJobs_of_storing (stores_wrGddr _ _ _)

theorem offJobs_recordConj (j cls cause : Nat) (detail : List Byte) (opId : Nat) :
    Ends offJobs (recordConj j cls cause detail opId : M s0 Unit) :=
  ends_bind (ends_read fun _ => ⟨_, rfl⟩) fun _ => offJobs_of_storing (stores_record _)

end Sys2Proof.Machine
end

section
/-! SUPPORT. Work at one job: what it leaves of the other jobs, of the job's own fields and of the KV engine, and how an attempt is closed and a
job held (R40, R55, R57, R400, R403). -/

namespace Sys2Proof.Machine

open Sys2Proof

variable {s0 s t u : State} {α : Type}

/-! Canonical form. -/

/-- No change takes the registers out of canonical form. -/
theorem apply_regs_wf {e : Eff} (w : FMap.wf resetValue t.regs = true) : FMap.wf resetValue (e.apply t).regs = true := by
  cases e
  case reg => exact FMap.set_wf _ _ w
  case clearRegs => exact FMap.keep_wf _ w
  case powerOn => exact List.foldlRecOn _ _ (motive := fun m => FMap.wf resetValue m = true) (FMap.keep_wf _ w) fun _ h _ _ => FMap.set_wf _ _ h
  all_goals exact w

theorem Reach.regs_wf (h : Reach s u) (w : FMap.wf resetValue s.regs = true) : FMap.wf resetValue u.regs = true :=
  h.keeps (P := fun t => FMap.wf resetValue t.regs = true) (fun _ _ => apply_regs_wf) w

/-! The fields of the jobs' registers. -/

/-- The fields of a job's two registers. -/
def jobFields : List Fld := [R.CJ_JOBA_JOB, R.CJ_JOBA_TREE, R.CJ_JOBA_NODE, R.CJ_JOBA_STATE, R.CJ_JOBB_TENSE, R.CJ_JOBB_RERUNS, R.CJ_JOBB_CAUSE,
  R.CJ_JOBB_FROM]

/-- They stand 16 bytes apart from one job to the next. -/
theorem jobFields_place : ∀ F ∈ jobFields, F.base / 16 = 0x1C0010 ∧ F.s1 = 16 ∧ F.s2 = 0 ∧ F.lo + F.width ≤ 64 := by decide

theorem jobFields_differ : ∀ F ∈ jobFields, ∀ G ∈ jobFields, F ≠ G → F.base ≠ G.base ∨ F.lo + F.width ≤ G.lo ∨ G.lo + G.width ≤ F.lo := by decide

/-- Two fields of jobs are apart when they are different fields, or of different jobs. -/
theorem jobFields_apart {F G : Fld} {i k : Nat} (hF : F ∈ jobFields) (hG : G ∈ jobFields) (h : i ≠ k ∨ F ≠ G) : F.apart i G k = true := by
  obtain ⟨baseF, strideF, zeroF, -⟩ := jobFields_place F hF
  obtain ⟨baseG, strideG, zeroG, -⟩ := jobFields_place G hG
  simp only [Fld.apart, Fld.addr, strideF, zeroF, strideG, zeroG, Bool.or_eq_true, Bool.not_eq_true', Bool.eq_false_iff, ne_eq, Nat.ble_eq, Nat.beq_eq]
  by_cases same : i = k
  · have differ := jobFields_differ F hF G hG (h.resolve_left (not_not.2 same))
    omega
  · omega

/-- The registers of the jobs lie in their block. -/
theorem jobFields_block {F : Fld} (hF : F ∈ jobFields) {i : Nat} (hi : i < 16) : F.addr i 0 / 2 ^ 20 ∈ [0x1C] := by
  obtain ⟨base, stride, zero, -⟩ := jobFields_place F hF
  rw [Fld.addr, stride, zero, List.mem_singleton]
  omega

/-! What work at a job leaves. -/

/-- From one state to another only job `j` differs of the jobs, and of its registers at most the fields `fs`; sequences, the KV engine, the
stream and the contexts' scalar registers are the same. -/
structure Around (j : Nat) (fs : List Fld) (s u : State) : Prop where
  jobsWf : FMap.wf job0 u.jobs = true
  regsWf : FMap.wf resetValue u.regs = true
  others : ∀ i, i ≠ j → jobOf u i = jobOf s i
  fields : ∀ F ∈ jobFields, ∀ i < 16, i ≠ j ∨ F ∉ fs → fieldIn u F i 0 = fieldIn s F i 0
  kv : u.kv = s.kv
  seqs : u.seqs = s.seqs
  rows : u.rows = s.rows
  stream : u.stream = s.stream
  sregs : u.sregs = s.sregs

variable {j : Nat} {fs gs : List Fld}

theorem Around.refl (jobs : FMap.wf job0 s.jobs = true) (regs : FMap.wf resetValue s.regs = true) : Around j fs s s :=
  ⟨jobs, regs, fun _ _ => rfl, fun _ _ _ _ _ => rfl, rfl, rfl, rfl, rfl, rfl⟩

theorem Around.trans (h : Around j fs s t) (k : Around j fs t u) : Around j fs s u where
  jobsWf := k.jobsWf
  regsWf := k.regsWf
  others i hi := (k.others i hi).trans (h.others i hi)
  fields F hF i hi hj := (k.fields F hF i hi hj).trans (h.fields F hF i hi hj)
  kv := k.kv.trans h.kv
  seqs := k.seqs.trans h.seqs
  rows := k.rows.trans h.rows
  stream := k.stream.trans h.stream
  sregs := k.sregs.trans h.sregs

theorem Around.mono (h : Around j fs s u) (sub : ∀ F ∈ fs, F ∈ gs) : Around j gs s u :=
  { h with fields := fun F hF i hi hj => h.fields F hF i hi (hj.imp_right fun out hin => out (sub F hin)) }

/-- A field of the job that may change is set. -/
theorem Around.withField (h : Around j fs s t) {F : Fld} (hF : F ∈ jobFields) (may : F ∈ fs) (v : Nat) : Around j fs s (withField t F v j) :=
  { h with
    regsWf := withField_wf h.regsWf v
    fields := fun G hG i hi hj => by
      have differ : j ≠ i ∨ F ≠ G := hj.imp (fun ne => ne.symm) fun out eq => out (eq ▸ may)
      rw [fieldIn_withField_apart h.regsWf (jobFields_place F hF).2.2.2 (jobFields_apart hF hG differ)]
      exact h.fields G hG i hi hj }

/-- The job is set. -/
theorem Around.setJob (h : Around j fs s t) (v : Job) : Around j fs s ((Eff.job j v).apply t) :=
  { h with
    jobsWf := FMap.set_wf _ _ h.jobsWf
    others := fun i hi => (FMap.get_set_other _ hi).trans (h.others i hi) }

theorem jobOf_setJob (w : FMap.wf job0 t.jobs = true) (v : Job) : jobOf ((Eff.job j v).apply t) j = v :=
  (FMap.get_set w j v j).trans (if_pos rfl)

/-! Changes that are of no job. -/

/-- What neither the jobs' table nor the jobs' registers, the KV engine, sequences or the stream are. -/
abbrev aside : Eff → Prop := sparing [.sregs, .cores, .seqs, .rows, .kv, .jobs, .stream] [0x1C]

theorem aside_of_offJobs {m : M s0 α} (h : Ends offJobs m) : Ends aside m := ends_mono h (sparing_mono (by decide) (by decide))

theorem ReachBy.aside_jobs (h : ReachBy aside s u) : u.jobs = s.jobs :=
  h.same State.jobs fun _ _ p => apply_jobs (sparing_part p (by decide) (by decide))

theorem ReachBy.aside_jobOf (h : ReachBy aside s u) (i : Nat) : jobOf u i = jobOf s i := congrArg (FMap.get job0 · i) h.aside_jobs

theorem ReachBy.aside_field (h : ReachBy aside s u) (w : FMap.wf resetValue s.regs = true) {F : Fld} (hF : F ∈ jobFields) {i : Nat} (hi : i < 16) :
    fieldIn u F i 0 = fieldIn s F i 0 := h.sparing_field w (jobFields_block hF hi)

theorem Around.aside (h : Around j fs s t) (r : ReachBy aside t u) : Around j fs s u where
  jobsWf := r.aside_jobs ▸ h.jobsWf
  regsWf := r.sparing_wf h.regsWf
  others i hi := (r.aside_jobOf i).trans (h.others i hi)
  fields F hF i hi hj := (r.aside_field h.regsWf hF hi).trans (h.fields F hF i hi hj)
  kv := (r.same State.kv fun _ _ p => apply_kv (sparing_part p (by decide) (by decide))).trans h.kv
  seqs := (r.same State.seqs fun _ _ p => apply_seqs (sparing_part p (by decide) (by decide))).trans h.seqs
  rows := (r.same State.rows fun _ _ p => apply_rows (sparing_part p (by decide) (by decide))).trans h.rows
  stream := (r.same State.stream fun _ _ p => apply_stream (sparing_part p (by decide) (by decide))).trans h.stream
  sregs := (r.same State.sregs fun _ _ p => apply_sregs (sparing_part p (by decide) (by decide))).trans h.sregs

/-! Closing an attempt. -/

theorem aside_setTent (v : List TentEntry) : Ends aside (setTent v : M s0 Unit) := ends_bind (ends_eff rfl) fun _ => ends_setF_clear rfl

theorem aside_abandonColls (j : Nat) : Ends aside (abandonColls j : M s0 Unit) := by
  refine ends_bind ends_st fun _ => ends_bind (ends_eff rfl) fun _ => ends_bind ends_st fun _ => ?_
  refine ends_bind (ends_loop fun m _ _ => ends_bind (ends_getCtx _ _) fun x => ?_) fun _ => ends_pure _
  split
  · exact ends_bind (ends_eff rfl) fun _ => ends_pure _
  · exact ends_bind (ends_eff rfl) fun _ => ends_pure _
  · exact ends_pure _

theorem aside_core {F : Fld} {l k : Nat} (hl : l < 144) (hk : k < 16) (h : F.clear [0x1C] 144 16 = true) : F.clear [0x1C] l k = true :=
  Fld.clear_le hl.le hk.le h

theorem aside_stopCtx {l k : Nat} (hl : l < 144) (hk : k < 16) : Ends aside (stopCtx l k : M s0 Unit) := by
  have zero {F : Fld} (h : F.clear [0x1C] 144 16 = true) : Ends aside (setF F 0 l : M s0 Unit) :=
    ends_setF_clear (aside_core hl (by decide) h)
  refine ends_bind (ends_bind ends_st fun _ => ends_eff rfl) fun _ => ends_bind ends_st fun _ => ?_
  refine ends_when (ends_setF_clear (aside_core hl hk rfl)) fun _ => ends_bind (ends_bind (ends_getCtx _ _) fun _ => ends_eff rfl) fun _ => ?_
  refine ends_bind (ends_getF _ _ _) fun _ => ends_ite ?_ (ends_pure _)
  exact ends_bind (zero rfl) fun _ => ends_bind (zero rfl) fun _ => ends_bind (zero rfl) fun _ => zero rfl

/-- The slots of a job's contexts are slots of a core. -/
theorem partsIn_slot_lt {p : Nat × Nat × JobCtx} (h : p ∈ partsIn s j) : p.2.1 < 16 := by
  simp only [partsIn, List.mem_flatMap] at h
  obtain ⟨e, -, h⟩ := h
  split at h
  · cases h
  · split at h
    · obtain ⟨l, -, rfl⟩ := List.mem_map.1 h
      exact Nat.mod_lt _ (by decide)
    · cases h

/-- What closing an attempt makes of its job. -/
def Job.closed (v : Job) : Job :=
  { v with isOpen := false, released := false, phase := 0, waits := false, finishing := false, voted := none, sentUp := false, votes := [], maps := [],
           mapsSent := [], union := [] }

theorem leads_modJob {f : Job → Job} {g : Good s0} {Q : Unit → State → Prop} (h : Q () ((Eff.job j (f (jobOf g.val j))).apply g.val)) :
    Leads (modJob j f) g Q := ⟨_, _, rfl, h⟩

theorem leads_closeAttempt {g : Good s0} (jobs : FMap.wf job0 g.val.jobs = true) (regs : FMap.wf resetValue g.val.regs = true) :
    Leads (closeAttempt j) g fun _ u => Around j [] g.val u ∧ jobOf u j = (jobOf g.val j).closed := by
  have stop : ∀ p ∈ partsIn g.val j, Ends aside (stopCtx p.1 p.2.1 : M s0 Unit) := fun p hp => aside_stopCtx (partsIn_core_lt hp) (partsIn_slot_lt hp)
  have contexts : Ends aside (forIn (partsIn g.val j) PUnit.unit fun p _ => do
      if (← getCtx p.1 p.2.1).job = some j then
        stopCtx p.1 p.2.1
        pure (ForInStep.yield PUnit.unit)
      else pure (ForInStep.yield PUnit.unit) : M s0 PUnit) :=
    ends_loop fun p hp _ => ends_bind (ends_getCtx _ _) fun _ => ends_ite (ends_bind (stop p hp) fun _ => ends_pure _) (ends_pure _)
  refine leads_bind_st (leads_bind (leads_of_ends contexts g) fun _ _ r1 => leads_bind (leads_of_ends (aside_abandonColls j) _) fun _ _ r2 => ?_)
  refine leads_bind_st (leads_bind (leads_of_ends (ends_eff (P := aside) (by rfl)) _) fun _ _ r3 => leads_bind_st ?_)
  refine leads_bind (leads_of_ends (aside_setTent _) _) fun _ _ r4 => leads_bind_st ?_
  refine leads_bind (leads_of_ends (ends_eff (P := aside) (by rfl)) _) fun _ _ r5 => leads_bind_st ?_
  refine leads_bind (leads_of_ends (ends_eff (P := aside) (by rfl)) _) fun _ _ r6 => leads_modJob ?_
  have r : ReachBy aside g.val _ := (((r1.trans r2).trans r3).trans r4).trans (r5.trans r6)
  have around : Around j [] g.val _ := (Around.refl jobs regs).aside r
  exact ⟨around.setJob _, by rw [jobOf_setJob around.jobsWf, r.aside_jobOf]; rfl⟩

end Sys2Proof.Machine
end

section
/-! SUPPORT. Holding a job, and what lasts of a job through openings and holds (R40, R230, R231, R394, R400, R403). -/

namespace Sys2Proof.Machine

open Sys2Proof

variable {s0 s t u : State} {α : Type} {j : Nat}

theorem Leads.and {m : M s0 α} {g : Good s0} {Q R : α → State → Prop} (h : Leads m g Q) (k : Leads m g R) : Leads m g fun a u => Q a u ∧ R a u := by
  obtain ⟨a, u, e, q⟩ := h
  obtain ⟨b, v, e', r⟩ := k
  cases e.symm.trans e'
  exact ⟨a, u, e, q, r⟩

/-- What neither opening nor holding a job changes in it, nor the forgetting of a taint. -/
def Job.lasting (v : Job) : Job :=
  { v with word := 0, phase := 0, waits := false, finishing := false, tainted := false, touched := false, joined := false, heldTenses := [],
           joins := [], mapsSent := [], union := [] }

/-- No context changes its job. -/
def Manned (s u : State) : Prop := FMap.wf ctx0 s.ctxs = true →
  FMap.wf ctx0 u.ctxs = true ∧ ∀ k, (FMap.get ctx0 u.ctxs k).job = (FMap.get ctx0 s.ctxs k).job

theorem Manned.refl : Manned s s := fun w => ⟨w, fun _ => rfl⟩

theorem Manned.trans (h : Manned s t) (k : Manned t u) : Manned s u := fun w =>
  ⟨(k (h w).1).1, fun i => ((k (h w).1).2 i).trans ((h w).2 i)⟩

theorem Manned.of_ctxs (h : Manned s t) (e : u.ctxs = t.ctxs) : Manned s u := fun w => by
  rw [e]
  exact h w

/-- A context is set with the job it had. -/
theorem Manned.setCtx (h : Manned s t) (k : Nat) {c : Ctx} (hc : c.job = (FMap.get ctx0 t.ctxs k).job) : Manned s ((Eff.ctx k c).apply t) := fun w => by
  obtain ⟨wf, same⟩ := h w
  refine ⟨FMap.set_wf _ _ wf, fun i => ?_⟩
  rw [apply_ctx_ctxs, FMap.get_set wf]
  split
  · next eq => rw [hc, ← eq, same]
  · exact same i

theorem Manned.reach {ps : List Part} {bs : List Nat} (h : Manned s t) (r : ReachBy (sparing ps bs) t u) (hp : Part.ctxs ∈ ps) : Manned s u :=
  h.of_ctxs (r.same State.ctxs fun _ _ p => apply_ctxs (sparing_part p hp (by decide)))

/-- The fields of a job's registers that holding it sets. -/
abbrev holdFields : List Fld := [R.CJ_JOBA_STATE, R.CJ_JOBB_CAUSE, R.CJ_JOBB_FROM]

/-- From one state to another the lasting part of a job, its tense and its count of reruns are the same, and nothing else differs but that the
job may be held or its opening be further on. -/
structure Lasts (j : Nat) (s u : State) : Prop where
  around : Around j holdFields s u
  job : (jobOf u j).lasting = (jobOf s j).lasting
  manned : Manned s u

theorem Lasts.refl (jobs : FMap.wf job0 s.jobs = true) (regs : FMap.wf resetValue s.regs = true) : Lasts j s s :=
  ⟨.refl jobs regs, rfl, .refl⟩

theorem Lasts.trans (h : Lasts j s t) (k : Lasts j t u) : Lasts j s u := ⟨h.around.trans k.around, k.job.trans h.job, h.manned.trans k.manned⟩

theorem Lasts.setJob (h : Lasts j s t) {v : Job} (hv : v.lasting = (jobOf t j).lasting) : Lasts j s ((Eff.job j v).apply t) :=
  ⟨h.around.setJob v, (congrArg _ (jobOf_setJob h.around.jobsWf v)).trans (hv.trans h.job), h.manned.of_ctxs rfl⟩

theorem Lasts.withField (h : Lasts j s t) {F : Fld} (hF : F ∈ jobFields) (may : F ∈ holdFields) (v : Nat) : Lasts j s (withField t F v j) :=
  ⟨h.around.withField hF may v, h.job, h.manned.of_ctxs rfl⟩

theorem Lasts.aside (h : Lasts j s t) (r : ReachBy aside t u) (m : Manned t u) : Lasts j s u :=
  ⟨h.around.aside r, (congrArg _ (r.aside_jobOf j)).trans h.job, h.manned.trans m⟩

theorem aside_of_reach (r : ReachBy offJobs t u) : ReachBy aside t u := r.mono (sparing_mono (by decide) (by decide))

theorem Lasts.offJobs (h : Lasts j s t) (r : ReachBy offJobs t u) : Lasts j s u := h.aside (aside_of_reach r) (Manned.refl.reach r (by decide))

theorem lasts_offJobs {m : M s0 α} (h : Ends offJobs m) : Keeps (Lasts j s) m := keeps_of_ends h fun _ _ r l => l.offJobs r

theorem lasts_modJob {f : Job → Job} (h : ∀ v, (f v).lasting = v.lasting) : Keeps (Lasts j s) (modJob j f : M s0 Unit) :=
  fun _ l => leads_modJob (l.setJob (h _))

/-! Holding. -/

theorem manned_abandonColls : Keeps (Manned s) (abandonColls j : M s0 Unit) := by
  refine keeps_bind_st fun _ _ => keeps_bind (keeps_eff fun _ h => h.of_ctxs rfl) fun _ => keeps_bind_st fun t _ => ?_
  refine keeps_bind (keeps_loop fun p _ _ g h => leads_bind_read rfl ?_) fun _ => keeps_pure _
  split
  · exact leads_bind (leads_eff (Q := fun _ => Manned s) (h.setCtx _ rfl)) fun _ _ k => leads_pure k
  · exact leads_bind (leads_eff (Q := fun _ => Manned s) (h.setCtx _ rfl)) fun _ _ k => leads_pure k
  · exact leads_pure h

theorem leads_abandonColls (g : Good s0) : Leads (abandonColls j) g fun _ u => ReachBy aside g.val u ∧ Manned g.val u :=
  (leads_of_ends (aside_abandonColls j) g).and (manned_abandonColls g .refl)

/-- What holding a job makes of it. -/
def Job.onHold (v : Job) (finish : Bool) (tense : Nat) : Job :=
  { v with word := 1, waits := false, joined := false, finishing := finish, joins := [], heldTenses := v.heldTenses.filter (· != tense) ++ [tense] }

/-- A job that was in its conjunction or joining it is held. -/
structure HeldBy (j cause chip : Nat) (u : State) : Prop where
  state : jobStateIn u j = 3
  cause : fieldIn u R.CJ_JOBB_CAUSE j 0 = cause % 16
  source : fieldIn u R.CJ_JOBB_FROM j 0 = chip % 2 ^ 14
  waits : (jobOf u j).waits = false

theorem fieldIn_setField {F G : Fld} {v : Nat} (w : FMap.wf resetValue s.regs = true) (hF : F ∈ jobFields) (hG : G ∈ jobFields) :
    fieldIn (withField s F v j) G j 0 = if F = G then v % 2 ^ F.width else fieldIn s G j 0 := by
  obtain ⟨-, -, -, wide⟩ := jobFields_place F hF
  split
  · next eq => rw [← eq, fieldIn_withField_same w wide]
  · next ne => exact fieldIn_withField_apart w wide (jobFields_apart hF hG (.inr ne)) v

theorem leads_holdJob {g : Good s0} (hj : j < 16) (jobs : FMap.wf job0 g.val.jobs = true) (regs : FMap.wf resetValue g.val.regs = true)
    (cause chip noticeCause : Nat) (skip : Option Nat) (noted finish : Bool) :
    Leads (holdJob j cause chip skip noticeCause noted finish) g fun _ u => Lasts j g.val u ∧
      (jobStateIn g.val j = 1 ∨ jobStateIn g.val j = 2 → HeldBy j cause chip u) := by
  refine leads_bind_st ?_
  split
  case isFalse no => exact leads_pure ⟨.refl jobs regs, fun h => absurd h no⟩
  refine leads_bind_setF fun u1 e1 => leads_bind_setF fun u2 e2 => leads_bind_setF fun u3 e3 => ?_
  refine leads_bind (leads_modJob (Q := fun _ u => u = (Eff.job j ((jobOf u3.val j).onHold finish (nextTenseIn g.val j))).apply u3.val) rfl)
    fun _ u4 e4 => ?_
  refine leads_bind (leads_abandonColls _) fun _ u5 r5 => (leads_of_ends (P := offJobs) ?told _).mono fun _ u r => ?_
  case told =>
    refine ends_bind (ends_loop fun p hp _ => ?_) fun _ => ends_bind (offJobs_writeCommit _) fun _ => ?_
    · refine ends_bind (ends_getF _ _ _) fun _ => ends_bind (ends_getF _ _ _) fun _ => ends_bind (ends_getCtx _ _) fun _ => ends_ite ?_ (ends_pure _)
      exact ends_bind (ends_setF_clear (aside_core (partsIn_core_lt hp) (by decide) rfl)) fun _ => ends_pure _
    · refine ends_when (offJobs_recordConj _ _ _ _ _) fun _ => ends_bind (ends_loop fun n _ _ => ?_) fun _ => offJobs_jobEvent _ _ _
      exact ends_ite (ends_bind (offJobs_sendMsg _ _ _ _ _) fun _ => ends_pure _) (ends_pure _)
  have l1 : Lasts j g.val u1.val := e1 ▸ (Lasts.refl jobs regs).withField (by decide) (by decide) 3
  have l2 : Lasts j g.val u2.val := e2 ▸ l1.withField (by decide) (by decide) cause
  have l3 : Lasts j g.val u3.val := e3 ▸ l2.withField (by decide) (by decide) chip
  have l4 : Lasts j g.val u4.val := e4 ▸ l3.setJob rfl
  have after : ReachBy aside u4.val u := r5.1.trans (aside_of_reach r)
  have set (F : Fld) (hF : F ∈ jobFields) : fieldIn u F j 0 = fieldIn (withField (withField (withField g.val R.CJ_JOBA_STATE 3 j)
      R.CJ_JOBB_CAUSE cause j) R.CJ_JOBB_FROM chip j) F j 0 := by
    rw [after.aside_field l4.around.regsWf hF hj, e4, ← e1, ← e2, ← e3]
    rfl
  refine ⟨(l4.aside r5.1 r5.2).offJobs r, fun _ => ⟨?_, ?_, ?_, ?_⟩⟩
  · rw [jobStateIn, set _ (by decide), ← e1, ← e2, fieldIn_setField l2.around.regsWf (by decide) (by decide), if_neg (by decide), e2,
      fieldIn_setField l1.around.regsWf (by decide) (by decide), if_neg (by decide), e1, fieldIn_setField regs (by decide) (by decide), if_pos rfl]
    rfl
  · rw [set _ (by decide), ← e1, ← e2, fieldIn_setField l2.around.regsWf (by decide) (by decide), if_neg (by decide), e2,
      fieldIn_setField l1.around.regsWf (by decide) (by decide), if_pos rfl]
    rfl
  · rw [set _ (by decide), ← e1, ← e2, fieldIn_setField l2.around.regsWf (by decide) (by decide), if_pos rfl]
    rfl
  · rw [after.aside_jobOf, e4, jobOf_setJob l3.around.jobsWf]
    rfl

theorem lasts_holdJob (hj : j < 16) (cause chip noticeCause : Nat) (skip : Option Nat) (noted finish : Bool) :
    Keeps (Lasts j s) (holdJob j cause chip skip noticeCause noted finish : M s0 Unit) := fun _ l =>
  (leads_holdJob hj l.around.jobsWf l.around.regsWf cause chip noticeCause skip noted finish).mono fun _ _ h => l.trans h.1

end Sys2Proof.Machine
end

section
/-! SUPPORT. The KV engine for a job without sequences, and the commit and the rollback of its tense (R36, R40, R225, R233). -/

namespace Sys2Proof.Machine

open Sys2Proof

variable {s0 s t u : State} {α : Type} {j : Nat} {fs : List Fld}

/-! The engine. -/

/-- Work set to none where there was none. -/
theorem apply_kv_idle (h : s.kv.work = none) : (Eff.kv { s.kv with work := none }).apply s = s := by
  rw [← h]
  rfl

theorem offJobs_kvCached : Ends offJobs (kvCached : M s0 Unit) := ends_bind ends_st fun _ => ends_setF_clear rfl

/-- A commit of a job without sequences publishes nothing. -/
theorem leads_kvCommit {g : Good s0} {n : Nat} (seqs : seqsOfJob g.val n = []) (work : g.val.kv.work = none) :
    Leads (kvCommit n) g fun _ u => ReachBy aside g.val u := by
  refine leads_bind_st ?_
  rw [seqs, List.forIn_nil, pure_bind]
  refine leads_bind_st ?_
  dsimp only
  rw [seqs, List.filter_nil, publishSeqs]
  refine leads_bind_st (leads_bind_eff fun u e => ?_)
  rw [apply_kv_idle work] at e
  exact e ▸ leads_of_ends (aside_of_offJobs offJobs_kvCached) u

theorem leads_kvRollback {g : Good s0} {n : Nat} (seqs : seqsOfJob g.val n = []) : Leads (kvRollback n) g fun _ u => ReachBy offJobs g.val u := by
  refine leads_bind_st ?_
  rw [seqs, List.forIn_nil, pure_bind]
  exact leads_of_ends offJobs_kvCached g

theorem openingIn_eq_none : openingIn s = none ↔ ∀ i < 16, (jobStateIn s i == 2 && (jobOf s i).isOpen && !(jobOf s i).released) = false := by
  rw [openingIn, List.find?_eq_none]
  simp only [List.mem_range, Bool.not_eq_true]
  rfl

/-- No opening begins where only a job differs that is not being opened. -/
theorem Around.openingIn_none (h : Around j fs s u) (none : openingIn s = none) (own : (jobOf u j).isOpen = false ∨ (jobOf u j).released = true) :
    openingIn u = .none := by
  rw [openingIn_eq_none] at none ⊢
  intro i hi
  by_cases same : i = j
  · subst same
    rcases own with own | own <;> simp [own]
  · rw [jobStateIn, h.others i same, h.fields _ (by decide) i hi (.inl same)]
    exact none i hi

/-- With nothing to do the engine does nothing. -/
theorem leads_kvServe_idle {g : Good s0} (opening : openingIn g.val = none) (queue : g.val.kv.queue = []) (fuel : Nat) :
    Leads (kvServe fuel) g fun _ u => u = g.val := by
  cases fuel with
  | zero => exact leads_pure rfl
  | succ fuel =>
    refine leads_bind_st ?_
    split
    · exact leads_pure rfl
    · rw [opening, queue]
      exact leads_pure rfl

theorem kvBusyIn_eq_false : kvBusyIn s = false ↔ s.kv.work = none ∧ openingIn s = none ∧ spillingIn s = false := by
  simp [kvBusyIn, and_assoc]

/-- A free engine stays free where only a job differs that is not being opened. -/
theorem Around.free (h : Around j fs s u) (free : kvBusyIn s = false) (own : (jobOf u j).isOpen = false ∨ (jobOf u j).released = true) :
    kvBusyIn u = false := by
  obtain ⟨work, opening, spilling⟩ := kvBusyIn_eq_false.1 free
  refine kvBusyIn_eq_false.2 ⟨by rw [h.kv]; exact work, h.openingIn_none opening own, ?_⟩
  rw [spillingIn, h.kv, h.rows]
  exact spilling

/-- Being free it does what came first. -/
theorem leads_kvServe_item {g : Good s0} {x : KvItem} {xs : List KvItem} {fuel : Nat} {Q R : State → Prop} (free : kvBusyIn g.val = false)
    (queue : g.val.kv.queue = x :: xs)
    (item : ∀ h : Good s0, h.val = { g.val with kv := { g.val.kv with queue := xs, serving := none, awaited := none } } → Leads (kvItem x) h fun _ => Q)
    (after : ∀ h : Good s0, Q h.val → Leads (kvServe fuel) h fun _ => R) : Leads (kvServe (fuel + 1)) g fun _ => R := by
  obtain ⟨work, opening, spilling⟩ := kvBusyIn_eq_false.1 free
  refine leads_bind_st ?_
  rw [if_neg (by simp [work, spilling]), opening]
  dsimp only
  rw [queue]
  exact leads_bind_eff fun h e => leads_bind (item h e) fun _ => after

/-- What reaches the engine while it is free is done at once. -/
theorem leads_kvAsk {g : Good s0} {x : KvItem} (hx : ∀ c r, x ≠ .command c r) (free : kvBusyIn g.val = false) (queue : g.val.kv.queue = [])
    {Q : State → Prop}
    (item : ∀ h : Good s0, h.val = { g.val with kv := { g.val.kv with queue := [], serving := none, awaited := none } } →
      Leads (kvItem x) h fun _ => Q)
    (after : ∀ h : Good s0, Q h.val → Leads (kvServe 3) h fun _ => Q) : Leads (kvAsk x) g fun _ => Q := by
  refine leads_bind_st (leads_bind_eff fun h e => leads_bind (Q := fun _ => Q) (leads_bind_st ?_) fun _ _ q => ?_)
  · rw [e, apply_kv_kv, queue]
    refine leads_kvServe_item (by rw [e]; exact free) (by rw [e, apply_kv_kv, queue]; rfl) (fun k ek => item k ?_) after
    rw [ek, e]
    rfl
  · cases x with
    | opening j => exact leads_pure q
    | commit j => exact leads_pure q
    | command c r => exact absurd rfl (hx c r)

/-! Commit and rollback. -/

/-- A tense is committed. -/
structure Committed (j tense : Nat) (parity : Bool) (u : State) : Prop where
  committed : (jobOf u j).committed = tense
  closed : (jobOf u j).isOpen = false
  parity : (jobOf u j).parity = !parity
  pending : (jobOf u j).pending = false
  reruns : fieldIn u R.CJ_JOBB_RERUNS j 0 = 0

/-- A tense is rolled back. -/
structure RolledBack (j committed reruns : Nat) (parity : Bool) (u : State) : Prop where
  committed : (jobOf u j).committed = committed
  closed : (jobOf u j).isOpen = false
  parity : (jobOf u j).parity = parity
  rerun : (jobOf u j).rerun = true
  reruns : fieldIn u R.CJ_JOBB_RERUNS j 0 = reruns

/-- A job that lasts has the same count of reruns. -/
theorem Lasts.reruns (h : Lasts j s u) (hj : j < 16) : fieldIn u R.CJ_JOBB_RERUNS j 0 = fieldIn s R.CJ_JOBB_RERUNS j 0 :=
  h.around.fields _ (by decide) j hj (.inr (by decide))

theorem Committed.lasts {tense : Nat} {parity : Bool} (h : Committed j tense parity s) (l : Lasts j s u) (hj : j < 16) : Committed j tense parity u where
  committed := (congrArg Job.committed l.job).trans h.committed
  closed := (congrArg Job.isOpen l.job).trans h.closed
  parity := (congrArg Job.parity l.job).trans h.parity
  pending := (congrArg Job.pending l.job).trans h.pending
  reruns := (l.reruns hj).trans h.reruns

/-- Changes that are of no job leave what was decided. -/
theorem Committed.aside {tense : Nat} {parity : Bool} (h : Committed j tense parity s) (r : ReachBy aside s u)
    (w : FMap.wf resetValue s.regs = true) (hj : j < 16) : Committed j tense parity u := by
  obtain ⟨committed, closed, parity, pending, reruns⟩ := h
  constructor
  · rwa [r.aside_jobOf]
  · rwa [r.aside_jobOf]
  · rwa [r.aside_jobOf]
  · rwa [r.aside_jobOf]
  · rwa [r.aside_field w (by decide) hj]

theorem RolledBack.aside {committed reruns : Nat} {parity : Bool} (h : RolledBack j committed reruns parity s) (r : ReachBy Machine.aside s u)
    (w : FMap.wf resetValue s.regs = true) (hj : j < 16) : RolledBack j committed reruns parity u := by
  obtain ⟨committed, closed, parity, rerun, reruns⟩ := h
  constructor
  · rwa [r.aside_jobOf]
  · rwa [r.aside_jobOf]
  · rwa [r.aside_jobOf]
  · rwa [r.aside_jobOf]
  · rwa [r.aside_field w (by decide) hj]

theorem RolledBack.lasts {committed reruns : Nat} {parity : Bool} (h : RolledBack j committed reruns parity s) (l : Lasts j s u) (hj : j < 16) :
    RolledBack j committed reruns parity u where
  committed := (congrArg Job.committed l.job).trans h.committed
  closed := (congrArg Job.isOpen l.job).trans h.closed
  parity := (congrArg Job.parity l.job).trans h.parity
  rerun := (congrArg Job.rerun l.job).trans h.rerun
  reruns := (l.reruns hj).trans h.reruns

theorem eval_ownChip (g : Good s0) : eval ownChip g = (.ok (chipIn g.val), g) := rfl

theorem leads_commitWordLost {g : Good s0} (hj : j < 16) (jobs : FMap.wf job0 g.val.jobs = true) (regs : FMap.wf resetValue g.val.regs = true) :
    Leads (commitWordLost j) g fun _ u => Lasts j g.val u ∧
      (jobStateIn g.val j = 1 ∨ jobStateIn g.val j = 2 → HeldBy j 7 (chipIn g.val) u) :=
  leads_bind_read (eval_ownChip g) (leads_holdJob hj jobs regs _ _ _ _ _ _)

theorem lasts_commitWordLost (hj : j < 16) : Keeps (Lasts j s) (commitWordLost j : M s0 Unit) :=
  fun _ l => (leads_commitWordLost hj l.around.jobsWf l.around.regsWf).mono fun _ _ h => l.trans h.1

/-- The fields of a job's registers that the end of its tense sets. -/
abbrev endFields : List Fld := R.CJ_JOBB_RERUNS :: holdFields

/-- A job's value known before it is modified, and after. -/
theorem leads_modJob_at {g : Good s0} {f : Job → Job} {v : Job} (a : Around j fs s g.val) (e : jobOf g.val j = v) :
    Leads (modJob j f) g fun _ u => Around j fs s u ∧ jobOf u j = f v :=
  leads_modJob ⟨a.setJob _, by rw [jobOf_setJob a.jobsWf, e]⟩

section
variable {g : Good s0} (hj : j < 16) (jobs : FMap.wf job0 g.val.jobs = true) (regs : FMap.wf resetValue g.val.regs = true)
  (seqs : seqsOfJob g.val (jobNumIn g.val j) = [])
include hj jobs regs seqs

theorem leads_commitNow (work : g.val.kv.work = none) : Leads (commitNow j) g fun _ u =>
    Around j endFields g.val u ∧ Committed j (jobTenseIn g.val j) (jobOf g.val j).parity u := by
  refine leads_bind_st (leads_bind (leads_closeAttempt jobs regs) fun _ u1 h1 => leads_bind (leads_modJob_at h1.1 h1.2) fun _ u2 h2 => ?_)
  obtain ⟨a2, v2⟩ := h2
  refine leads_bind (leads_kvCommit (by rw [seqsOfJob, a2.seqs]; exact seqs) (by rw [a2.kv]; exact work)) fun _ u3 r3 => ?_
  refine leads_bind (leads_modJob_at (a2.aside r3) ((r3.aside_jobOf j).trans v2)) fun _ u4 h4 => ?_
  refine leads_bind (leads_modJob_at h4.1 h4.2) fun _ u5 h5 => leads_bind_setF fun u6 e6 => ?_
  obtain ⟨a5, v5⟩ := h5
  have a6 : Around j endFields g.val u6.val := e6 ▸ (a5.mono (by simp)).withField (by decide) (by decide) 0
  have v6 : jobOf u6.val j = _ := (congrArg (jobOf · j) e6).trans v5
  have done : Committed j (jobTenseIn g.val j) (jobOf g.val j).parity u6.val := by
    refine ⟨by rw [v6], by rw [v6]; rfl, by rw [v6]; rfl, by rw [v6], ?_⟩
    rw [e6, fieldIn_setField a5.regsWf (by decide) (by decide), if_pos rfl]
    rfl
  have rest : Keeps (Lasts j u6.val) (do
      let status ← writeCommit j
      if status ≠ 0 then commitWordLost j
      else if (← getJob j).release = 0 then jobEvent j 1
      modJob j (fun v => { v with tainted := false, touched := false }) : M s0 Unit) := by
    have last : Keeps (Lasts j u6.val) (modJob j fun v => { v with tainted := false, touched := false } : M s0 Unit) := lasts_modJob fun _ => rfl
    refine keeps_bind (lasts_offJobs (offJobs_writeCommit j)) fun _ => keeps_ite (keeps_bind (lasts_commitWordLost hj) fun _ => last) ?_
    exact keeps_bind (lasts_offJobs (ends_getJob j)) fun _ => keeps_when (lasts_offJobs (offJobs_jobEvent _ _ _)) fun _ => last
  exact (rest u6 (.refl a6.jobsWf a6.regsWf)).mono fun _ u l => ⟨a6.trans (l.around.mono (by simp)), done.lasts l hj⟩

theorem leads_rollbackJob : Leads (rollbackJob j) g fun _ u => Around j endFields g.val u ∧
    RolledBack j (jobOf g.val j).committed (fieldIn g.val R.CJ_JOBB_RERUNS j 0) (jobOf g.val j).parity u := by
  refine leads_bind_st (leads_bind (leads_closeAttempt jobs regs) fun _ u1 h1 => ?_)
  obtain ⟨a1, v1⟩ := h1
  refine leads_bind (leads_kvRollback (by rw [seqsOfJob, a1.seqs]; exact seqs)) fun _ u2 r2 => ?_
  replace r2 := aside_of_reach r2
  refine leads_bind (leads_modJob_at (a1.aside r2) ((r2.aside_jobOf j).trans v1)) fun _ u3 h3 => ?_
  obtain ⟨a3, v3⟩ := h3
  have done : RolledBack j (jobOf g.val j).committed (fieldIn g.val R.CJ_JOBB_RERUNS j 0) (jobOf g.val j).parity u3.val :=
    ⟨by rw [v3]; rfl, by rw [v3]; rfl, by rw [v3]; rfl, by rw [v3], a3.fields _ (by decide) j hj (.inr (by decide))⟩
  have rest : Keeps (Lasts j u3.val) (do let status ← writeCommit j; if status ≠ 0 then commitWordLost j : M s0 Unit) :=
    keeps_bind (lasts_offJobs (offJobs_writeCommit j)) fun _ => keeps_ite (lasts_commitWordLost hj) (keeps_pure _)
  exact (rest u3 (.refl a3.jobsWf a3.regsWf)).mono fun _ u l => ⟨(a3.mono (by simp)).trans (l.around.mono (by simp)), done.lasts l hj⟩

end

end Sys2Proof.Machine
end

section
/-! SUPPORT. The decision of a job confined to this module that has no sequences (R36, R39, R40, R42, R393). -/

namespace Sys2Proof.Machine

open Sys2Proof

variable {s0 s t u : State} {j : Nat}

/-- A job confined to the module and without sequences, in its conjunction with its tense released, while the KV engine is free. -/
structure Alone (j : Nat) (s : State) : Prop where
  jobs : FMap.wf job0 s.jobs = true
  regs : FMap.wf resetValue s.regs = true
  state : jobStateIn s j = 2
  tree : treeIn s j = none
  seqs : seqsOfJob s (jobNumIn s j) = []
  free : kvBusyIn s = false
  queue : s.kv.queue = []
  isOpen : (jobOf s j).isOpen = true
  released : (jobOf s j).released = true

theorem kidsIn_confined (h : treeIn s j = none) : kidsIn s j = [] := by rw [kidsIn, h]
theorem parentIn_confined (h : treeIn s j = none) : parentIn s j = none := by rw [parentIn, h]; rfl
theorem nodesIn_confined (h : treeIn s j = none) : nodesIn s j = 1 := by rw [nodesIn, h]

/-- What stands alone still does where the job's fields are the same and it is still open and released. -/
theorem Alone.around {fs : List Fld} (h : Alone j s) (hj : j < 16) (a : Around j fs s u) (own : R.CJ_JOBA_JOB ∉ fs ∧ R.CJ_JOBA_TREE ∉ fs ∧ R.CJ_JOBA_STATE ∉ fs)
    (isOpen : (jobOf u j).isOpen = true) (released : (jobOf u j).released = true) : Alone j u where
  jobs := a.jobsWf
  regs := a.regsWf
  state := (a.fields _ (by decide) j hj (.inr own.2.2)).trans h.state
  tree := by
    rw [treeIn, a.stream, a.fields R.CJ_JOBA_TREE (by decide) j hj (.inr own.2.1)]
    exact h.tree
  seqs := by
    rw [seqsOfJob, a.seqs, jobNumIn, a.fields _ (by decide) j hj (.inr own.1)]
    exact h.seqs
  free := a.free h.free (.inr released)
  queue := by rw [a.kv]; exact h.queue
  isOpen := isOpen
  released := released

theorem Alone.commitStands (h : Alone j s) : commitStands s j = true := by
  rw [Machine.commitStands, h.state, show (FMap.get job0 s.jobs j).isOpen = true from h.isOpen]
  rfl

theorem eval_passDown_confined {g : Good s0} (h : treeIn g.val j = none) (code : Nat) (payload : List Byte) (tense : Option Nat) :
    eval (passDown j code payload tense) g = (.ok true, g) := by
  rw [passDown, eval_bind_ok (eval_st g), kidsIn_confined h]
  rfl

/-- The state in which the engine has taken up the only thing that waited. -/
def takenUp (s : State) : State := { s with kv := { s.kv with queue := [], serving := none, awaited := none } }

/-- What casting a vote makes of a job. -/
def Job.cast (v : Job) (own : Nat) : Job := { v with voted := some own, waits := true, pending := v.pending || own == 0 }

section
variable {g : Good s0} (hj : j < 16) (h : Alone j g.val)
include hj h

omit hj in
/-- Once the job's attempt is closed the engine finds nothing to do. -/
theorem Alone.leads_kvServe {fs : List Fld} {k : State} (kv : k = g.val ∨ k = takenUp g.val) {u : Good s0} (a : Around j fs k u.val)
    (closed : (jobOf u.val j).isOpen = false) (fuel : Nat) : Leads (kvServe fuel) u fun _ t => t = u.val := by
  obtain ⟨-, opening, -⟩ := kvBusyIn_eq_false.1 h.free
  refine leads_kvServe_idle (a.openingIn_none ?_ (.inl closed)) ?_ fuel
  · rcases kv with rfl | rfl <;> exact opening
  · rw [a.kv]
    rcases kv with rfl | rfl
    · exact h.queue
    · rfl

theorem leads_actOn_commit : Leads (actOn j 0 0) g fun _ u => Committed j (jobTenseIn g.val j) (jobOf g.val j).parity u := by
  obtain ⟨work, -, -⟩ := kvBusyIn_eq_false.1 h.free
  refine leads_bind_read (eval_passDown_confined h.tree _ _ _) ?_
  rw [if_pos rfl]
  refine leads_bind_st ?_
  rw [if_pos (by rw [h.queue]; rfl)]
  refine leads_bind (Q := fun _ u => Around j endFields (takenUp g.val) u ∧ Committed j (jobTenseIn g.val j) (jobOf g.val j).parity u) ?_
    fun _ u hu => ?_
  · refine leads_kvAsk (by simp) h.free h.queue (fun k ek => ?_) fun k hk =>
      (h.leads_kvServe (.inr rfl) hk.1 hk.2.closed 3).mono fun _ t e => e ▸ hk
    have stands : commitStands k.val j = true := by
      rw [ek]
      exact h.commitStands
    refine leads_bind_st ?_
    rw [if_pos stands]
    have commit := leads_commitNow (g := k) hj (by rw [ek]; exact h.jobs) (by rw [ek]; exact h.regs) (by rw [ek]; exact h.seqs) (by rw [ek]; exact work)
    rw [ek] at commit
    exact commit
  · exact leads_bind_st ((h.leads_kvServe (.inr rfl) hu.1 hu.2.closed _).mono fun _ t e => e ▸ hu.2)

theorem leads_actOn_rollback : Leads (actOn j 1 0) g fun _ u =>
    RolledBack j (jobOf g.val j).committed (fieldIn g.val R.CJ_JOBB_RERUNS j 0) (jobOf g.val j).parity u := by
  refine leads_bind_read (eval_passDown_confined h.tree _ _ _) ?_
  rw [if_neg (by decide), if_pos rfl]
  refine leads_bind (leads_rollbackJob hj h.jobs h.regs h.seqs) fun _ u hu => ?_
  exact leads_bind_st ((h.leads_kvServe (.inl rfl) hu.1 hu.2.closed _).mono fun _ t e => e ▸ hu.2)

theorem leads_decideRoot_commit : Leads (decideRoot j 0 1) g fun _ u => Committed j (jobTenseIn g.val j) (jobOf g.val j).parity u := by
  refine leads_bind_st ?_
  rw [h.tree, nodesIn_confined h.tree]
  exact leads_actOn_commit hj h

theorem leads_decideRoot_rollback (reruns : fieldIn g.val R.CJ_JOBB_RERUNS j 0 < 3) : Leads (decideRoot j 1 1) g fun _ u =>
    RolledBack j (jobOf g.val j).committed (fieldIn g.val R.CJ_JOBB_RERUNS j 0 + 1) (jobOf g.val j).parity u := by
  refine leads_bind_st ?_
  rw [h.tree]
  dsimp only
  simp only [OfNat.one_ne_ofNat, one_ne_zero, false_and, if_false, if_neg (not_le.2 reruns), if_true]
  refine leads_bind_setF fun u e => ?_
  have a : Around j [R.CJ_JOBB_RERUNS] g.val u.val := e ▸ (Around.refl h.jobs h.regs).withField (by decide) (by decide) _
  have same : jobOf u.val j = jobOf g.val j := by rw [e]; rfl
  have count : fieldIn u.val R.CJ_JOBB_RERUNS j 0 = fieldIn g.val R.CJ_JOBB_RERUNS j 0 + 1 := by
    rw [e, fieldIn_setField h.regs (by decide) (by decide), if_pos rfl, Nat.min_eq_left (by omega)]
    exact Nat.mod_eq_of_lt (by change _ < 16; omega)
  have end_ := leads_actOn_rollback hj (h.around hj a (by decide) (same ▸ h.isOpen) (same ▸ h.released))
  rwa [count, same] at end_

omit hj in
/-- The own vote is the whole vote, and the root decides by it. -/
theorem leads_combineVotes {own : Nat} {Q : State → Prop} (voted : (jobOf g.val j).voted = some own) (first : (jobOf g.val j).sentUp = false)
    (decide : ∀ u : Good s0, Around j [] g.val u.val → jobOf u.val j = { (jobOf g.val j) with sentUp := true } →
      Leads (decideRoot j own 1) u fun _ => Q) : Leads (combineVotes j) g fun _ => Q := by
  refine leads_bind_st (leads_bind_read rfl ?_)
  rw [kidsIn_confined h.tree, parentIn_confined h.tree]
  dsimp only
  split
  · next none => cases none.symm.trans voted
  next own' e =>
  cases e.symm.trans voted
  rw [if_pos (by simp [show (FMap.get job0 g.val.jobs j).sentUp = false from first])]
  refine leads_bind_eff fun u e => ?_
  have a : Around j [] g.val u.val := e ▸ (Around.refl h.jobs h.regs).setJob _
  exact decide u a (e ▸ jobOf_setJob h.jobs _)

omit hj h in
theorem eval_settleAll_nothing (unsettled : unsettledIn g.val j = []) : eval (settleAll j) g = (.ok (), g) := by
  have blocks : eval (settleBlocks j) g = (.ok (), g) := by
    rw [settleBlocks, eval_bind_ok (eval_st g), unsettled]
    rfl
  rw [settleAll, eval_bind_ok blocks, eval_bind_ok (eval_st g), unsettled]
  rfl

/-- A member that has nothing to settle votes, unless its commit word is lost. -/
theorem leads_castVote {own : Nat} {Q : State → Prop} (unsettled : unsettledIn g.val j = []) (lost : own = 0 → ∀ u, jobStateIn u j ≠ 2 → Q u)
    (combine : ∀ u : Good s0, Around j [] g.val u.val → jobOf u.val j = (jobOf g.val j).cast own → Leads (combineVotes j) u fun _ => Q) :
    Leads (castVote j own) g fun _ => Q := by
  refine leads_bind_read (eval_settleAll_nothing unsettled) (leads_bind_st ?_)
  rw [if_pos h.state]
  refine leads_bind (leads_modJob_at (fs := []) (.refl h.jobs h.regs) rfl) fun _ u1 h1 => ?_
  have state {u : State} (a : Around j [] g.val u) : jobStateIn u j = 2 := (a.fields _ (by decide) j hj (.inr (by decide))).trans h.state
  have go (u : Good s0) (hu : Around j [] g.val u.val ∧ jobOf u.val j = (jobOf g.val j).cast own ∨ own = 0 ∧ jobStateIn u.val j ≠ 2) :
      Leads (do if jobStateIn (← st) j = 2 then combineVotes j : M s0 Unit) u fun _ => Q := by
    refine leads_bind_st ?_
    rcases hu with ⟨a, v⟩ | ⟨agree, no⟩
    · rw [if_pos (state a)]
      exact combine u a v
    · rw [if_neg no]
      exact leads_pure (lost agree _ no)
  dsimp only
  split
  next agree =>
    refine leads_bind (leads_of_ends (offJobs_writeCommit j) _) fun status u2 r2 => ?_
    have a2 : Around j [] g.val u2.val := h1.1.aside (aside_of_reach r2)
    refine leads_when (Q := fun u => Around j [] g.val u ∧ jobOf u j = (jobOf g.val j).cast own ∨ own = 0 ∧ jobStateIn u j ≠ 2) (fun _ => ?_)
      (fun _ => .inl ⟨a2, ((aside_of_reach r2).aside_jobOf j).trans h1.2⟩) go
    refine (leads_commitWordLost hj a2.jobsWf a2.regsWf).mono fun _ u hu => Or.inr ⟨agree, ?_⟩
    rw [(hu.2 (.inr (state a2))).state]
    decide
  next => exact go u1 (.inl h1)

omit hj in
/-- A member whose part of the attempt is over casts its vote. -/
theorem leads_memberVoteJob {Q : State → Prop} (tainted : (jobOf g.val j).tainted = false) (fault : (jobOf g.val j).faultH = none)
    (voted : (jobOf g.val j).voted = none) (done : memberDoneIn g.val j = true) (unsettled : unsettledIn g.val j = [])
    (inputs : inputsIn g.val j = false) (proofs : proofsIn g.val j = false)
    (cast : Leads (castVote j (if (jobOf g.val j).faultD || (jobOf g.val j).badInput then 1 else 0)) g fun _ => Q) :
    Leads (memberVoteJob j) g fun _ => Q := by
  refine leads_bind_st (leads_bind_read (a := jobOf g.val j) rfl ?_)
  rw [if_pos (by simp [h.state, h.isOpen, h.released, voted, done, unsettled, inputs, proofs]), unexcludedIn, h.seqs, List.filter_nil,
    List.forIn_nil, pure_bind]
  refine leads_bind_read (a := jobOf g.val j) rfl ?_
  rw [if_neg (by simp [tainted, fault]), unsettled]
  simp only [List.any_nil, Bool.or_false]
  split at cast
  · next yes => rwa [if_pos yes]
  · next no => rwa [if_neg no]

/-- The vote of a member without a tree is decided on at once. -/
theorem leads_vote {own : Nat} {Q : State → Prop} (first : (jobOf g.val j).sentUp = false) (unsettled : unsettledIn g.val j = [])
    (lost : own = 0 → ∀ u, jobStateIn u j ≠ 2 → Q u)
    (decide : ∀ u : Good s0, Alone j u.val → Around j [] g.val u.val → (jobOf u.val j).committed = (jobOf g.val j).committed →
      (jobOf u.val j).parity = (jobOf g.val j).parity → Leads (decideRoot j own 1) u fun _ => Q) : Leads (castVote j own) g fun _ => Q := by
  refine leads_castVote hj h unsettled lost fun u a v => ?_
  have alone : Alone j u.val := h.around hj a (by simp) (by rw [v]; exact h.isOpen) (by rw [v]; exact h.released)
  refine leads_combineVotes alone (own := own) (by rw [v]; rfl) (by rw [v]; exact first) fun w b x => ?_
  rw [v] at x
  refine decide w (alone.around hj b (by simp) (by rw [x]; exact h.isOpen) (by rw [x]; exact h.released)) (a.trans b) ?_ ?_
  · rw [x]; rfl
  · rw [x]; rfl

end

end Sys2Proof.Machine
end

section
/-! OBLIGATION O32. -/

open Sys2Proof Sys2Proof.Machine

/-- Settles O32: with nothing to settle, no child and no parent the member's own vote is decided on at once, and the KV engine, being free and
without sequences to serve, commits or rolls back there and then; all that follows it, a lost commit word too, leaves what was decided. -/
theorem memberVoteDecides : Obligations.MemberVoteDecides := by
  unfold Obligations.MemberVoteDecides
  intro s j hj jobs regs state tree done seqs free queue v isOpen released voted tainted fault first unsettled inputs proofs
  have alone : Alone j s := ⟨jobs, regs, state, tree, seqs, free, queue, isOpen, released⟩
  have vote {Q : State → Prop} (own : Nat) (ownVote : (if v.faultD || v.badInput then 1 else 0) = own) (lost : own = 0 → ∀ u, jobStateIn u j ≠ 2 → Q u)
      (sent : ∀ t u, FMap.wf resetValue t.regs = true → ReachBy aside t u → Q t → Q u)
      (decide : ∀ u : Good s, Alone j u.val → Around j [] s u.val → (jobOf u.val j).committed = v.committed →
        (jobOf u.val j).parity = v.parity → Leads (decideRoot j own 1) u fun _ => Q) :
      Q (run s (do if j < 16 then memberVoteJob j; pumpAll)) := by
    refine leads_run ?_
    rw [if_pos hj]
    have cast := leads_vote (g := ⟨s, .refl⟩) hj alone first unsettled lost decide
    rw [← ownVote] at cast
    refine leads_bind (leads_memberVoteJob alone tainted fault voted done unsettled inputs proofs cast) fun _ u q => ?_
    exact (leads_of_ends offJobs_pumpAll u).mono fun _ t r => sent _ _ (u.property.regs_wf regs) (aside_of_reach r) q
  refine ⟨_, rfl, fun faultD badInput stands => ?_, fun faulty few => ?_⟩
  · have done := vote (Q := fun u => jobStateIn u j = 2 → Committed j (jobTenseIn s j) v.parity u) 0 (by rw [faultD, badInput]; rfl)
      (fun _ _ no yes => absurd yes no) (fun t u w r q yes => ?_) (fun u b a committed parity => ?_)
    · obtain ⟨committed, closed, parity, pending, reruns⟩ := done stands
      exact ⟨committed, closed, parity, pending, reruns⟩
    · exact (q (by rw [jobStateIn, ← r.aside_field w (by decide) hj]; exact yes)).aside r w hj
    · have end_ := leads_decideRoot_commit hj b
      rw [parity, jobTenseIn, a.fields _ (by decide) j hj (.inr (by simp))] at end_
      exact end_.mono fun _ _ h _ => h
  · have faulty' : (v.faultD || v.badInput) = true := by simpa using faulty
    have done := vote (Q := RolledBack j v.committed (fieldIn s R.CJ_JOBB_RERUNS j 0 + 1) v.parity) 1 (by rw [faulty']; rfl) (by simp)
      (fun t u w r q => q.aside r w hj) (fun u b a committed parity => ?_)
    · obtain ⟨committed, closed, parity, rerun, reruns⟩ := done
      exact ⟨committed, closed, parity, rerun, reruns⟩
    · have end_ := leads_decideRoot_rollback hj b (by rw [a.fields _ (by decide) j hj (.inr (by simp))]; exact few)
      rwa [parity, committed, a.fields _ (by decide) j hj (.inr (by simp))] at end_

end

section
/-! SUPPORT. The opening of an attempt of a job without sequences: it runs to its end, and what of the job lasts is as it was begun (R40, R190,
R230, R231, R394). -/

namespace Sys2Proof.Machine

open Sys2Proof

variable {s0 s w u : State} {j : Nat}

/-- A state from which nothing is served at the KV engine but the opening of a job without sequences. -/
structure Unserved (j : Nat) (w : State) : Prop where
  seqs : seqsOfJob w (jobNumIn w j) = []
  queue : w.kv.queue = []
  others : ∀ i < 16, i ≠ j → (jobStateIn w i == 2 && (jobOf w i).isOpen && !(jobOf w i).released) = false

theorem Unserved.no_seqs (h : Unserved j w) (hj : j < 16) (l : Lasts j w u) : seqsOfJob u (jobNumIn u j) = [] := by
  rw [seqsOfJob, l.around.seqs, jobNumIn, l.around.fields _ (by decide) j hj (.inr (by decide))]
  exact h.seqs

/-- The only opening there can be is the job's own. -/
theorem Unserved.openingIn_eq (h : Unserved j w) (l : Lasts j w u) {i : Nat} (opening : openingIn u = some i) : i = j := by
  by_contra ne
  have found := List.find?_some opening
  have hi : i < 16 := List.mem_range.1 (List.mem_of_find?_eq_some opening)
  rw [show FMap.get job0 u.jobs i = jobOf w i from l.around.others i ne, l.around.fields _ (by decide) i hi (.inl ne)] at found
  exact absurd found (by simpa [jobStateIn] using h.others i hi ne)

theorem lasts_touchJob (hj : j < 16) : Keeps (Lasts j w) (touchJob j : M s0 Unit) := by
  have clear {F : Fld} (h : F.clear [0x1C] 16 0 = true) : F.clear [0x1C] j 0 = true := Fld.clear_le hj.le le_rfl h
  intro g l
  refine leads_bind_read (a := jobOf g.val j) rfl ?_
  split
  · refine leads_bind (leads_eff (Q := fun _ => Lasts j w) (l.setJob rfl)) fun _ u l => ?_
    refine (lasts_offJobs (ends_bind (ends_countSat_clear (clear rfl)) fun _ => ends_bind (ends_getF _ _ _) fun _ => ?_)) u l
    exact ends_bind (ends_setF_clear (clear rfl)) fun _ => ends_setF_clear (clear rfl)
  · exact leads_pure l

theorem lasts_zeroFlags : Keeps (Lasts j w) (zeroFlags j : M s0 Unit) := by
  refine lasts_offJobs (ends_bind (ends_getJob j) fun v => ends_bind (ends_each fun i _ => ?_) fun _ => ends_pure _)
  exact offJobs_of_storing (stores_wrGddr _ _ _)

theorem lasts_sendMsg (node code : Nat) (payload : List Byte) (tense : Option Nat) :
    Keeps (Lasts j w) (sendMsg j node code payload tense : M s0 Bool) := lasts_offJobs (offJobs_sendMsg _ _ _ _ _)

theorem lasts_lostRoute (hj : j < 16) : Keeps (Lasts j w) (do holdJob j 4 (← ownChip) : M s0 Unit) :=
  keeps_bind (lasts_offJobs ends_ownChip) fun _ => lasts_holdJob hj _ _ _ _ _ _

theorem lasts_sendUp (hj : j < 16) (code : Nat) (payload : List Byte) (tense : Option Nat) :
    Keeps (Lasts j w) (sendUp j code payload tense : M s0 Unit) := by
  refine keeps_bind_st fun s _ => ?_
  split
  · exact keeps_bind (lasts_sendMsg _ _ _ _) fun _ => keeps_ite (lasts_lostRoute hj) (keeps_pure _)
  · exact keeps_pure _

theorem lasts_sendDown (hj : j < 16) (code : Nat) (payload : List Byte) (tense : Option Nat) :
    Keeps (Lasts j w) (sendDown j code payload tense : M s0 Unit) := by
  refine keeps_bind (keeps_bind_st fun s _ => keeps_bind (keeps_loop fun n _ _ => ?_) fun _ => keeps_pure _) fun _ =>
    keeps_ite (lasts_lostRoute hj) (keeps_pure _)
  exact keeps_bind (lasts_sendMsg _ _ _ _) fun _ => keeps_ite (keeps_pure _) (keeps_pure _)

section
variable (hj : j < 16) (h : Unserved j w)
include hj h

theorem lasts_finishOpen (isHeld : Nat → Bool) : Keeps (Lasts j w) (finishOpen j isHeld : M s0 Unit) := by
  refine fun g l => leads_bind_st ?_
  have none := h.no_seqs hj l
  refine leads_bind_read (by rw [applyUnion, eval_bind_ok (eval_st g), none]; rfl) (leads_bind_read (by rw [openMap, eval_bind_ok (eval_st g), none]; rfl) ?_)
  exact leads_bind_st (leads_modJob (l.setJob rfl))

theorem lasts_unionDone : Keeps (Lasts j w) (unionDone j : M s0 Unit) :=
  keeps_bind (lasts_offJobs (ends_getJob j)) fun _ => keeps_ite (lasts_finishOpen hj h _) (keeps_pure _)

theorem lasts_openRound : Keeps (Lasts j w) (openRound j : M s0 Unit) := by
  refine keeps_bind_st fun s _ => keeps_bind (lasts_offJobs (ends_getJob j)) fun v => keeps_ite ?_ (keeps_pure _)
  refine keeps_bind (keeps_loop fun p _ _ g l => leads_bind_read (a := jobOf g.val j) rfl ?_) fun _ => lasts_unionDone hj h
  have mark : Leads (setJob j { (jobOf g.val j) with mapsSent := (jobOf g.val j).mapsSent ++ [p] }) g fun _ => Lasts j w := leads_eff (l.setJob rfl)
  split
  all_goals dsimp only; split
  · exact leads_bind mark fun _ => keeps_bind (lasts_sendUp hj _ _ _) fun _ => keeps_pure _
  · exact leads_pure l
  · exact leads_bind mark fun _ => keeps_bind (lasts_modJob fun _ => rfl) fun _ => keeps_bind (lasts_sendDown hj _ _ _) fun _ => keeps_pure _
  · exact leads_pure l

theorem lasts_openOn : Keeps (Lasts j w) (openOn j : M s0 Unit) := by
  refine fun g l => leads_bind_st ?_
  refine leads_bind_read (a := true) (by rw [openObtain, eval_bind_ok (eval_st g), h.no_seqs hj l]; rfl) ?_
  rw [if_pos rfl]
  refine leads_bind (Q := fun _ => Lasts j w) (leads_modJob (l.setJob rfl)) fun _ t lt => keeps_bind_st (fun s _ => ?_) t lt
  exact keeps_ite (lasts_finishOpen hj h _) (keeps_bind (lasts_modJob fun _ => rfl) fun _ => lasts_openRound hj h)

theorem lasts_kvServe (fuel : Nat) : Keeps (Lasts j w) (kvServe fuel : M s0 Unit) := by
  induction fuel with
  | zero => exact keeps_pure _
  | succ fuel ih =>
    refine fun g l => leads_bind_st ?_
    split
    · exact leads_pure l
    split
    · next i opening =>
      cases h.openingIn_eq l opening
      refine keeps_ite (keeps_bind (lasts_openOn hj h) fun _ => ?_) (keeps_pure _) g l
      exact keeps_bind (lasts_offJobs (ends_getJob j)) fun _ => keeps_ite ih (keeps_pure _)
    · rw [l.around.kv, h.queue]
      exact leads_pure l

end

/-! The beginning of an attempt. -/

/-- What beginning an attempt of a tense makes of its job. -/
def Job.begun (v : Job) (tense : Nat) (taint : Bool) (policies : Nat) : Job :=
  { v with
    release := if v.rerun then v.release else v.release - 1
    opened := tense, isOpen := true, phase := 1, released := false, waits := false, voted := none, sentUp := false
    faultD := false, failed := [], badInput := v.earlyBad == some tense, faultH := none, tainted := (v.rerun && v.tainted) || taint
    serial := if v.rerun then v.serial else 0
    votes := v.votes.filter (fun x => x.2.1 == tense), maps := v.maps.filter (fun x => x.2.1 == tense)
    mapsSent := [], union := [], earlyBad := none, policies }

/-- An attempt has been begun. -/
structure AttemptBegun (j : Nat) (s u : State) : Prop where
  job : ∃ taint policies, (jobOf u j).lasting = ((jobOf s j).begun (nextTenseIn s j) taint policies).lasting
  tense : jobTenseIn u j = nextTenseIn s j

/-- What is done once an attempt has been begun. -/
def openFrom (s : State) (j : Nat) (rerun : Bool) : M s0 Unit := do
  if fieldIn s R.PWR_ALERT_WARN 0 0 = 1 then touchJob j
  zeroFlags j
  openBegin (jobNumIn s j) rerun
  openOn j

/-- The fields of a job's registers that the beginning of an attempt sets. -/
abbrev beginFields : List Fld := [R.CJ_JOBB_TENSE, R.CJ_JOBB_RERUNS]

theorem eval_setJob (j : Nat) (v : Job) (g : Good s0) : eval (setJob j v) g = (.ok (), ⟨(Eff.job j v).apply g.val, g.property.upd _⟩) := rfl
theorem eval_getJob_jobOf (j : Nat) (g : Good s0) : eval (getJob j) g = (.ok (jobOf g.val j), g) := rfl

/-- Something done under a condition, before what goes on as another meaning does. -/
theorem goesOn_when {β : Type} {c : Prop} [Decidable c] {m : M s0 Unit} {f : Unit → M s0 β} {k : M s0 β} {g : Good s0} {Q R : State → Prop}
    (h : c → Leads m g fun _ => Q) (p : ¬ c → Q g.val) (rest : ∀ u : Good s0, Q u.val → ∃ w : Good s0, eval (f ()) u = eval k w ∧ R w.val) :
    ∃ w : Good s0, eval (if c then m >>= f else f ()) g = eval k w ∧ R w.val := by
  by_cases yes : c
  · obtain ⟨_, u, e, q⟩ := h yes
    rw [if_pos yes, eval_bind_ok e]
    exact rest u q
  · rw [if_neg yes]
    exact rest g (p yes)

/-- An attempt that may be opened is begun, and its opening goes on. -/
theorem eval_openNow {g : Good s0} (jobs : FMap.wf job0 g.val.jobs = true) (regs : FMap.wf resetValue g.val.regs = true)
    (may : mayOpenIn g.val j = true) : ∃ u : Good s0, eval (openNow j) g = eval (openFrom g.val j (jobOf g.val j).rerun) u ∧
      Around j beginFields g.val u.val ∧ AttemptBegun j g.val u.val := by
  have begins : Around j beginFields g.val (withField g.val R.CJ_JOBB_TENSE (nextTenseIn g.val j) j) :=
    (Around.refl jobs regs).withField (by decide) (by decide) _
  have tense : jobTenseIn (withField g.val R.CJ_JOBB_TENSE (nextTenseIn g.val j) j) j = nextTenseIn g.val j := by
    rw [jobTenseIn, fieldIn_setField regs (by decide) (by decide), if_pos rfl]
    exact Nat.mod_eq_of_lt (Nat.mod_lt _ (by decide))
  obtain ⟨_, u1, e1, v1⟩ := leads_setF (g := g) (F := R.CJ_JOBB_TENSE) (v := nextTenseIn g.val j) (i := j) (j := 0)
    (Q := fun _ t => t = withField g.val R.CJ_JOBB_TENSE (nextTenseIn g.val j) j) rfl
  rw [openNow, eval_bind_ok (eval_st g), eval_bind_ok (eval_getJob_jobOf j g), if_pos may]
  dsimp only
  rw [eval_bind_ok e1]
  refine goesOn_when (R := fun u => Around j beginFields g.val u ∧ AttemptBegun j g.val u)
    (Q := fun u => Around j beginFields g.val u ∧ jobTenseIn u j = nextTenseIn g.val j) (fun _ => leads_setF ?_) (fun _ => v1 ▸ ⟨begins, tense⟩)
    fun u2 h2 => ?_
  · rw [v1]
    refine ⟨begins.withField (by decide) (by decide) _, ?_⟩
    rw [jobTenseIn, fieldIn_setField begins.regsWf (by decide) (by decide), if_neg (by decide)]
    exact tense
  · obtain ⟨a2, t2⟩ := h2
    exact ⟨_, eval_bind_ok (eval_setJob _ _ _), a2.setJob _, ⟨_, _, congrArg Job.lasting (jobOf_setJob a2.jobsWf _)⟩, t2⟩

theorem Unserved.around {fs : List Fld} (h : Unserved j w) (hj : j < 16) (a : Around j fs w u) (own : R.CJ_JOBA_JOB ∉ fs) : Unserved j u where
  seqs := by
    rw [seqsOfJob, a.seqs, jobNumIn, a.fields _ (by decide) j hj (.inr own)]
    exact h.seqs
  queue := by rw [a.kv]; exact h.queue
  others i hi ne := by
    rw [jobStateIn, a.others i ne, a.fields _ (by decide) i hi (.inl ne)]
    exact h.others i hi ne

/-- The opening of a job without sequences goes on to its end. -/
theorem lasts_openFrom (hj : j < 16) (h : Unserved j w) (num : jobNumIn s j = jobNumIn w j) (rerun : Bool) :
    Keeps (Lasts j w) (openFrom s j rerun : M s0 Unit) := by
  have rest : Keeps (Lasts j w) (do zeroFlags j; openBegin (jobNumIn s j) rerun; openOn j : M s0 Unit) := by
    refine keeps_bind lasts_zeroFlags fun _ => keeps_bind (fun g l => ?_) fun _ => lasts_openOn hj h
    refine leads_bind (lasts_offJobs (ends_countWrap_clear rfl) g l) fun _ t lt => leads_bind_read rfl (leads_bind_st ?_)
    rw [num, show jobNumIn w j = jobNumIn t.val j from (lt.around.fields _ (by decide) j hj (.inr (by decide))).symm, h.no_seqs hj lt,
      List.forIn_nil, pure_bind]
    exact lasts_offJobs offJobs_kvCached t lt
  exact keeps_when (lasts_touchJob hj) fun _ => rest

theorem AttemptBegun.lasts (h : AttemptBegun j s w) (l : Lasts j w u) (hj : j < 16) : AttemptBegun j s u := by
  obtain ⟨⟨taint, policies, job⟩, tense⟩ := h
  exact ⟨⟨taint, policies, l.job.trans job⟩, (l.around.fields _ (by decide) j hj (.inr (by decide))).trans tense⟩

/-- A job without sequences whose engine is free opens its attempt at once, if it may open one. -/
theorem leads_openTense {g : Good s0} (hj : j < 16) (jobs : FMap.wf job0 g.val.jobs = true) (regs : FMap.wf resetValue g.val.regs = true)
    (seqs : seqsOfJob g.val (jobNumIn g.val j) = []) (free : kvBusyIn g.val = false) (queue : g.val.kv.queue = []) :
    Leads (openTense j) g fun _ u => if mayOpenIn g.val j = true then AttemptBegun j g.val u else u = g.val := by
  refine leads_bind_st ?_
  by_cases may : mayOpenIn g.val j = true
  swap
  · simp only [may]
    exact leads_pure rfl
  simp only [may, queue, List.contains_nil, Bool.not_false, Bool.and_self, if_true]
  have before : Unserved j (takenUp g.val) :=
    ⟨seqs, rfl, fun i hi _ => openingIn_eq_none.1 (kvBusyIn_eq_false.1 free).2.1 i hi⟩
  refine (leads_kvAsk (by simp) free queue (Q := fun u => ∃ w, Around j beginFields (takenUp g.val) w ∧ AttemptBegun j g.val w ∧ Lasts j w u)
    (fun k ek => ?_) (fun k hk => ?_)).mono fun _ u hu => ?_
  · change k.val = takenUp g.val at ek
    obtain ⟨w, e, a, b⟩ := eval_openNow (g := k) (j := j) (by rw [ek]; exact jobs) (by rw [ek]; exact regs) (by rw [ek]; exact may)
    obtain ⟨x, v, ev, l⟩ := lasts_openFrom hj (before.around hj (ek ▸ a) (by decide)) (a.fields R.CJ_JOBA_JOB (by decide) j hj (.inr (by decide))).symm
      (jobOf k.val j).rerun w (.refl a.jobsWf a.regsWf)
    rw [ek] at a b
    exact ⟨x, v, e.trans ev, w, a, ⟨b.job, b.tense⟩, l⟩
  · obtain ⟨w, a, b, l⟩ := hk
    exact (lasts_kvServe hj (before.around hj a (by decide)) 3 k l).mono fun _ u l => ⟨w, a, b, l⟩
  · obtain ⟨w, -, b, l⟩ := hu
    exact b.lasts l hj

end Sys2Proof.Machine
end

section
/-! SUPPORT. Orders to held jobs: the reform of a job and joining again, and standing a job down (R55, R57, R392, R402). -/

namespace Sys2Proof.Machine

open Sys2Proof

variable {s0 s t u : State} {j : Nat}

/-! What a reform leaves of a job. -/

/-- The fields of a job's registers that a reform and joining again set. -/
abbrev reformFields : List Fld := [R.CJ_JOBA_NODE, R.CJ_JOBA_STATE, R.CJ_JOBB_TENSE, R.CJ_JOBB_RERUNS, R.CJ_JOBB_CAUSE, R.CJ_JOBB_FROM]

/-- The committed tense, whether one is pending, and the map are the same. -/
structure SameRoot (j : Nat) (s u : State) : Prop where
  committed : (jobOf u j).committed = (jobOf s j).committed
  pending : (jobOf u j).pending = (jobOf s j).pending
  map : (jobOf u j).map = (jobOf s j).map

/-- From one state to another a job may have joined its conjunction, or have been held. -/
structure Joins (j : Nat) (s u : State) : Prop where
  around : Around j reformFields s u
  root : SameRoot j s u
  isOpen : (jobOf u j).isOpen = (jobOf s j).isOpen

theorem SameRoot.trans (h : SameRoot j s t) (k : SameRoot j t u) : SameRoot j s u :=
  ⟨k.committed.trans h.committed, k.pending.trans h.pending, k.map.trans h.map⟩

theorem Joins.refl (jobs : FMap.wf job0 s.jobs = true) (regs : FMap.wf resetValue s.regs = true) : Joins j s s :=
  ⟨.refl jobs regs, ⟨rfl, rfl, rfl⟩, rfl⟩

theorem Joins.lasts (h : Joins j s t) (l : Lasts j t u) : Joins j s u :=
  ⟨h.around.trans (l.around.mono (by simp)), h.root.trans ⟨(congrArg Job.committed l.job :), (congrArg Job.pending l.job :), (congrArg Job.map l.job :)⟩,
    (congrArg Job.isOpen l.job).trans h.isOpen⟩

theorem Joins.setJob (h : Joins j s t) {v : Job} (root : v.committed = (jobOf t j).committed ∧ v.pending = (jobOf t j).pending ∧ v.map = (jobOf t j).map)
    (isOpen : v.isOpen = (jobOf t j).isOpen) : Joins j s ((Eff.job j v).apply t) := by
  have e := jobOf_setJob h.around.jobsWf (j := j) v
  obtain ⟨committed, pending, map⟩ := root
  exact ⟨h.around.setJob v, h.root.trans ⟨by rw [e, committed], by rw [e, pending], by rw [e, map]⟩, by rw [e, isOpen, h.isOpen]⟩

theorem Joins.withField (h : Joins j s t) {F : Fld} (hF : F ∈ jobFields) (may : F ∈ reformFields) (v : Nat) : Joins j s (withField t F v j) :=
  ⟨h.around.withField hF may v, ⟨h.root.committed, h.root.pending, h.root.map⟩, h.isOpen⟩

/-- What keeps a job's lasting part lets it join. -/
theorem joins_lasts {α : Type} {m : M s0 α} (h : ∀ t, Keeps (Lasts j t) m) : Keeps (Joins j s) m := fun g k =>
  (h g.val g (.refl k.around.jobsWf k.around.regsWf)).mono fun _ _ l => k.lasts l

theorem AttemptBegun.root (h : AttemptBegun j s u) : SameRoot j s u := by
  obtain ⟨⟨taint, policies, job⟩, -⟩ := h
  exact ⟨(congrArg Job.committed job :), (congrArg Job.pending job :), (congrArg Job.map job :)⟩

/-- A job that is not open joins again: it waits, or opens its attempt, and its root is the same. -/
theorem leads_joinRound {g : Good s0} (hj : j < 16) (jobs : FMap.wf job0 g.val.jobs = true) (regs : FMap.wf resetValue g.val.regs = true)
    (seqs : seqsOfJob g.val (jobNumIn g.val j) = []) (free : kvBusyIn g.val = false) (queue : g.val.kv.queue = [])
    (closed : (jobOf g.val j).isOpen = false) : Leads (joinRound j) g fun _ => SameRoot j g.val := by
  have opens (u : Good s0) (h : Joins j g.val u.val) : Leads (openTense j) u fun _ => SameRoot j g.val := by
    have a := h.around
    refine (leads_openTense hj a.jobsWf a.regsWf (by rw [seqsOfJob, a.seqs, jobNumIn, a.fields _ (by decide) j hj (.inr (by decide))]; exact seqs)
      (a.free free (.inl (h.isOpen.trans closed))) (by rw [a.kv]; exact queue)).mono fun _ t ht => h.root.trans ?_
    split at ht
    · exact ht.root
    · rw [ht]
      exact ⟨rfl, rfl, rfl⟩
  refine leads_bind_st (leads_bind_read (eval_getJob_jobOf j g) ?_)
  split
  case isFalse => exact leads_pure ⟨rfl, rfl, rfl⟩
  refine leads_when (Q := Joins j g.val) (fun _ => leads_eff ((Joins.refl jobs regs).setJob ⟨rfl, rfl, rfl⟩ rfl)) (fun _ => .refl jobs regs) fun u hu => ?_
  refine leads_bind_read (eval_getJob_jobOf j u) ?_
  split
  case isFalse => exact leads_pure hu.root
  refine leads_bind (Q := fun _ => Joins j g.val) (leads_eff (hu.setJob ⟨rfl, rfl, rfl⟩ rfl)) fun _ x hx => ?_
  split
  · exact (joins_lasts (fun _ => lasts_sendUp hj _ _ _) x hx).mono fun _ _ h => h.root
  refine leads_bind (joins_lasts (fun _ => lasts_sendDown hj _ _ _) x hx) fun _ y hy => leads_bind_st ?_
  split
  case isFalse => exact leads_pure hy.root
  refine leads_bind (Q := fun _ => Joins j g.val) (leads_setF (hy.withField (by decide) (by decide) 2)) fun _ z hz => ?_
  exact leads_bind (Q := fun _ => Joins j g.val) (leads_modJob (hz.setJob ⟨rfl, rfl, rfl⟩ rfl)) fun _ => opens

/-! Reform. -/

theorem leads_kvReform {g : Good s0} {n : Nat} (seqs : seqsOfJob g.val n = []) : Leads (kvReform n) g fun _ u => ReachBy aside g.val u := by
  refine leads_bind_st ?_
  rw [seqs, List.forIn_nil, pure_bind]
  exact leads_of_ends (aside_of_offJobs offJobs_kvCached) g

/-- One thing or another done under conditions, before the rest. -/
theorem leads_when_else {β : Type} {c d : Prop} [Decidable c] [Decidable d] {a b : M s0 Unit} {f : Unit → M s0 β} {g : Good s0} {Q : State → Prop}
    {R : β → State → Prop} (ha : Leads a g fun _ => Q) (hb : Leads b g fun _ => Q) (p : Q g.val)
    (k : ∀ u : Good s0, Q u.val → Leads (f ()) u R) : Leads (if c then a >>= f else if d then b >>= f else f ()) g R := by
  split
  · exact leads_bind ha fun _ => k
  · exact leads_when (fun _ => hb) (fun _ => p) k

/-- A reform gives a job of a free engine the tense as committed, with nothing pending, and the map. -/
theorem leads_reformApply {g : Good s0} (hj : j < 16) (jobs : FMap.wf job0 g.val.jobs = true) (regs : FMap.wf resetValue g.val.regs = true)
    (seqs : seqsOfJob g.val (jobNumIn g.val j) = []) (free : kvBusyIn g.val = false) (queue : g.val.kv.queue = [])
    (r what : Nat) (m : List (BitVec 14 × BitVec 16)) (node : Nat) : Leads (reformApply j r what m node) g fun _ u =>
      (jobOf u j).committed = r ∧ (jobOf u j).pending = false ∧ (jobOf u j).map = m := by
  refine leads_bind_st (leads_bind_read (eval_getJob_jobOf j g) ?_)
  rw [queue, free, need, if_pos (by simp)]
  refine leads_bind_read (eval_pure _ g) (leads_bind (leads_closeAttempt jobs regs) fun _ u1 h1 => ?_)
  have stands {m : M s0 Unit} {x : Good s0} (hx : Around j [] g.val x.val ∧ jobOf x.val j = (jobOf g.val j).closed)
      (h : Leads m x fun _ u => ReachBy aside x.val u) : Leads m x fun _ u => Around j [] g.val u ∧ jobOf u j = (jobOf g.val j).closed :=
    h.mono fun _ _ r => ⟨hx.1.aside r, (r.aside_jobOf j).trans hx.2⟩
  have none {u : State} (a : Around j [] g.val u) : seqsOfJob u (jobNumIn g.val j) = [] := by rw [seqsOfJob, a.seqs]; exact seqs
  have work {u : State} (a : Around j [] g.val u) : u.kv.work = .none := by rw [a.kv]; exact (kvBusyIn_eq_false.1 free).1
  refine leads_when_else (stands h1 (leads_kvCommit (none h1.1) (work h1.1))) (stands h1 ((leads_kvRollback (none h1.1)).mono fun _ _ => aside_of_reach)) h1 fun u2 h2 => ?_
  refine leads_when (fun _ => stands h2 (leads_kvReform (none h2.1))) (fun _ => h2) fun u3 h3 => ?_
  refine leads_bind (leads_modJob_at h3.1 h3.2) fun _ u4 h4 => ?_
  obtain ⟨a4, v4⟩ := h4
  have set {F : Fld} (v : Nat) (hF : F ∈ jobFields) (may : F ∈ reformFields) : Keeps (Joins j u4.val) (setF F v j : M s0 Unit) :=
    keeps_setF fun _ h => h.withField hF may v
  refine leads_bind (set _ (by decide) (by decide) u4 (.refl a4.jobsWf a4.regsWf)) fun _ u5 k5 => ?_
  refine leads_bind (set _ (by decide) (by decide) u5 k5) fun _ u6 k6 => leads_bind (set _ (by decide) (by decide) u6 k6) fun _ u7 k7 => ?_
  refine leads_bind (set _ (by decide) (by decide) u7 k7) fun _ u8 k8 => leads_bind (set _ (by decide) (by decide) u8 k8) fun _ u9 k9 => ?_
  refine leads_bind (set _ (by decide) (by decide) u9 k9) fun _ u10 k10 => ?_
  refine leads_bind (joins_lasts (fun _ => lasts_offJobs (offJobs_writeCommit j)) u10 k10) fun _ u11 k11 => ?_
  have a : Around j reformFields g.val u11.val := (a4.mono (by simp)).trans k11.around
  have closed : (jobOf u11.val j).isOpen = false := by rw [k11.isOpen, v4]; rfl
  refine (leads_joinRound hj a.jobsWf a.regsWf ?_ (a.free free (.inl closed)) (by rw [a.kv]; exact queue) closed).mono fun _ u h => ?_
  · rw [seqsOfJob, a.seqs, jobNumIn, a.fields _ (by decide) j hj (.inr (by decide))]
    exact seqs
  · obtain ⟨committed, pending, map⟩ := k11.root.trans h
    rw [committed, pending, map, v4]
    exact ⟨rfl, rfl, rfl⟩

/-! Standing down. -/

/-- Changes of no context. -/
abbrev noCtx : Eff → Prop := sparing [.ctxs] []

theorem ReachBy.noCtx_ctxs (r : ReachBy noCtx s u) : u.ctxs = s.ctxs := r.same State.ctxs fun _ _ p => apply_ctxs (sparing_part p (by decide) (by decide))

theorem leads_modCtx {g : Good s0} {l k : Nat} {f : Ctx → Ctx} {Q : Unit → State → Prop}
    (h : Q () ((Eff.ctx (ctxKey l k) (f (FMap.get ctx0 g.val.ctxs (ctxKey l k)))).apply g.val)) : Leads (modCtx l k f) g Q := ⟨_, _, rfl, h⟩

theorem manned_noCtx {α : Type} {m : M s0 α} (h : Ends noCtx m) : Keeps (Manned s) m := keeps_of_ends h fun _ _ r k => k.of_ctxs r.noCtx_ctxs

/-- A context that is stopped is of no job any more, and the others are as they were. -/
theorem leads_stopCtx {g : Good s0} (ctxs : FMap.wf ctx0 g.val.ctxs = true) (l k : Nat) : Leads (stopCtx l k) g fun _ u =>
    FMap.wf ctx0 u.ctxs = true ∧ (FMap.get ctx0 u.ctxs (ctxKey l k)).job = none ∧
      ∀ i, i ≠ ctxKey l k → FMap.get ctx0 u.ctxs i = FMap.get ctx0 g.val.ctxs i := by
  have zero (F : Fld) (i m : Nat) : Ends noCtx (setF F 0 i m : M s0 Unit) := ends_setF_clear rfl
  refine leads_bind (leads_of_ends (P := noCtx) (ends_bind ends_st fun _ => ends_eff (by rfl)) g) fun _ u1 r1 => leads_bind_st ?_
  refine leads_when (Q := fun t => t.ctxs = g.val.ctxs) (fun _ => (leads_of_ends (zero _ _ _) u1).mono fun _ _ r => r.noCtx_ctxs.trans r1.noCtx_ctxs)
    (fun _ => r1.noCtx_ctxs) fun u2 e2 => ?_
  refine leads_bind (Q := fun _ t => FMap.wf ctx0 t.ctxs = true ∧ (FMap.get ctx0 t.ctxs (ctxKey l k)).job = none ∧
      ∀ i, i ≠ ctxKey l k → FMap.get ctx0 t.ctxs i = FMap.get ctx0 g.val.ctxs i) (leads_modCtx ?_) fun _ u3 h3 => ?_
  · rw [apply_ctx_ctxs, e2]
    exact ⟨FMap.set_wf _ _ ctxs, by rw [FMap.get_set ctxs, if_pos rfl], fun i hi => FMap.get_set_other _ hi⟩
  · refine (leads_of_ends (P := noCtx) (ends_bind (ends_getF _ _ _) fun _ => ends_ite ?_ (ends_pure _)) u3).mono fun _ u r => ?_
    · exact ends_bind (zero _ _ _) fun _ => ends_bind (zero _ _ _) fun _ => ends_bind (zero _ _ _) fun _ => zero _ _ _
    · rw [r.noCtx_ctxs]
      exact h3

theorem leads_closeAttempt_stops {g : Good s0} (ctxs : FMap.wf ctx0 g.val.ctxs = true) : Leads (closeAttempt j) g fun _ u =>
    ∀ p ∈ partsIn g.val j, (FMap.get ctx0 u.ctxs (ctxKey p.1 p.2.1)).job ≠ some j := by
  refine leads_bind_st (leads_bind (leads_loop (I := fun u => FMap.wf ctx0 u.ctxs = true)
    (Q := fun p u => (FMap.get ctx0 u.ctxs (ctxKey p.1 p.2.1)).job ≠ some j) (fun p _ h wf => ?_) ctxs) fun _ u1 h1 => ?_)
  · refine leads_bind_read (a := FMap.get ctx0 h.val.ctxs (ctxKey p.1 p.2.1)) rfl ?_
    split
    case isFalse other => exact leads_pure ⟨rfl, wf, other, fun _ _ q => q⟩
    refine leads_bind (leads_stopCtx wf _ _) fun _ u hu => leads_pure ⟨rfl, hu.1, by simp [hu.2.1], fun q _ hq => ?_⟩
    by_cases same : ctxKey q.1 q.2.1 = ctxKey p.1 p.2.1
    · simp [same, hu.2.1]
    · rw [hu.2.2 _ same]
      exact hq
  · have quiet {e : Eff} (h : noCtx e) : Keeps (Manned u1.val) (eff e : M s0 Unit) := manned_noCtx (ends_eff h)
    refine Leads.mono (keeps_bind manned_abandonColls (fun _ => keeps_bind_st fun _ _ => keeps_bind (quiet (by rfl)) fun _ => keeps_bind_st fun _ _ => ?_)
      u1 .refl) fun _ u m p hp => ?_
    · refine keeps_bind (manned_noCtx (ends_bind (ends_eff (by rfl)) fun _ => ends_setF_clear rfl)) fun _ => keeps_bind_st fun _ _ => ?_
      refine keeps_bind (quiet (by rfl)) fun _ => keeps_bind_st fun _ _ => keeps_bind (quiet (by rfl)) fun _ => ?_
      exact manned_noCtx (ends_bind (ends_getJob j) fun _ => ends_eff (by rfl))
    · rw [(m h1.1).2]
      exact h1.2 p hp

/-- A job that is stood down reads so, is closed, and its contexts are of it no more. -/
theorem leads_standDown {g : Good s0} (hj : j < 16) (jobs : FMap.wf job0 g.val.jobs = true) (regs : FMap.wf resetValue g.val.regs = true)
    (ctxs : FMap.wf ctx0 g.val.ctxs = true) (seqs : seqsOfJob g.val (jobNumIn g.val j) = []) : Leads (standDown j) g fun _ u =>
      jobStateIn u j = 4 ∧ (jobOf u j).word = 2 ∧ (jobOf u j).isOpen = false ∧
        ∀ p ∈ partsIn g.val j, (FMap.get ctx0 u.ctxs (ctxKey p.1 p.2.1)).job ≠ some j := by
  refine leads_bind_st (leads_bind_read (eval_getJob_jobOf j g) ?_)
  refine leads_bind ((leads_closeAttempt jobs regs).and (leads_closeAttempt_stops ctxs)) fun _ u1 h1 => ?_
  obtain ⟨⟨a1, v1⟩, stopped⟩ := h1
  refine leads_when (Q := fun u => ReachBy offJobs u1.val u) (fun _ => leads_kvRollback (by rw [seqsOfJob, a1.seqs]; exact seqs)) (fun _ => .refl)
    fun u2 r2 => leads_bind_setF fun u3 e3 => ?_
  have a2 := a1.aside (aside_of_reach r2)
  have a3 : Around j [R.CJ_JOBA_STATE] g.val u3.val := e3 ▸ (a2.mono (by simp)).withField (by decide) (by decide) 4
  have v3 : jobOf u3.val j = (jobOf g.val j).closed := by
    rw [← v1, ← (aside_of_reach r2).aside_jobOf j, e3]
    rfl
  have s3 : jobStateIn u3.val j = 4 := by
    rw [e3, jobStateIn, fieldIn_setField a2.regsWf (by decide) (by decide), if_pos rfl]
    rfl
  refine leads_bind (leads_modJob (Q := fun _ t => t = (Eff.job j { (jobOf u3.val j) with word := 2, joined := false, joins := [] }).apply u3.val) rfl)
    fun _ u4 e4 => ?_
  refine (leads_of_ends (P := offJobs) (ends_bind (offJobs_writeCommit j) fun _ => offJobs_jobEvent _ _ _) u4).mono fun _ u r => ?_
  have v4 : jobOf u j = { (jobOf g.val j).closed with word := 2, joined := false, joins := [] } := by
    rw [(aside_of_reach r).aside_jobOf, e4, jobOf_setJob a3.jobsWf, v3]
  refine ⟨?_, by rw [v4], by rw [v4]; rfl, fun p hp => ?_⟩
  · rw [jobStateIn, (aside_of_reach r).aside_field (e4 ▸ a3.regsWf) (by decide) hj, e4]
    exact s3
  · have same : u.ctxs = u1.val.ctxs := by
      rw [r.same State.ctxs fun _ _ p => apply_ctxs (sparing_part p (by decide) (by decide)), e4]
      change u3.val.ctxs = _
      rw [e3]
      exact r2.same State.ctxs fun _ _ p => apply_ctxs (sparing_part p (by decide) (by decide))
    rw [same]
    exact stopped p hp

/-! Orders. -/

theorem offJobs_complete (q cid type status detail jobNum tense : Nat) : Ends offJobs (complete q cid type status detail jobNum tense : M s0 Unit) :=
  ends_bind (ends_getF _ _ _) fun _ => offJobs_postEntry _ _

/-- An order of its kind from a queue is run, and completed there. -/
theorem leads_heldOrder {g : Good s0} {kind q : Nat} {cid : BitVec 16} {p : List Byte} {Q : State → Prop} (phase : phaseIn g.val = 4) (hq : q < 64)
    (own : fieldAt p 0 1 = kind) (runs : Leads (orderRun p) g fun _ => Q) (keeps : ∀ (t : Good s0) u, ReachBy offJobs t.val u → Q t.val → Q u) :
    Leads (heldOrder kind (.queue q cid p)) g fun _ => Q := by
  refine leads_bind_st ?_
  rw [if_pos ⟨phase, hq, by simp [otherKind, own]⟩]
  exact leads_bind runs fun _ t q => (leads_of_ends (offJobs_complete _ _ _ _ _ _ _) t).mono fun _ u r => keeps t u r q

section
variable {g : Good s0} {p : List Byte} (mood : operatingIn g.val 3 = true) (long : 16 ≤ p.length) (zero1 : zeros p 1 3 = true)
  (zero2 : zeros p 14 2 = true) (slot : jobSlotIn g.val (fieldAt p 4 2) = some j) (tree : fieldAt p 6 2 = fieldIn g.val R.CJ_JOBA_TREE j 0)
include mood long zero1 zero2 slot tree

/-- An order that names the job and its tree, and the nodes its kind has, is a reform or a stand-down of the job. -/
theorem leads_orderRun_standDown {Q : State → Prop} (kind : fieldAt p 0 1 = 2) (nodes : fieldAt p 12 2 = 0) (size : p.length = 16)
    (state : jobStateIn g.val j ≠ 4) (runs : Leads (standDown j) g fun _ => Q) : Leads (orderRun p) g fun _ => Q := by
  refine leads_bind_st ?_
  rw [if_neg (by simp [mood]), if_neg (by simp [zero1, zero2, kind, long]), slot]
  simp only [kind, tree, nodes, size, state, ne_eq, not_true, or_self, if_false, Nat.reduceBEq, Bool.false_eq_true, mul_zero, Nat.add_zero,
    Bool.not_false, if_true]
  exact leads_bind runs fun _ _ h => leads_pure h

theorem leads_orderRun_reform {Q : State → Prop} {node what : Nat} (kind : fieldAt p 0 1 = 1) (nodes : fieldAt p 12 2 = nodesIn g.val j)
    (size : p.length = 16 + 4 * nodesIn g.val j) (state : jobStateIn g.val j = 3) (own : ownNodeIn g.val (mapOf p 16 (nodesIn g.val j)) = some node)
    (tense : reformCase (jobOf g.val j) (fieldAt p 8 4) = some what)
    (runs : Leads (reformApply j (fieldAt p 8 4) what (mapOf p 16 (nodesIn g.val j)) node) g fun _ => Q) : Leads (orderRun p) g fun _ => Q := by
  refine leads_bind_st ?_
  rw [if_neg (by simp [mood]), if_neg (by simp [zero1, zero2, kind, long]), slot]
  simp only [kind, tree, nodes, size, state, own, ne_eq, not_true, or_self, if_false, Nat.reduceBEq, Nat.reduceEqDiff, Bool.not_true,
    Bool.false_eq_true, if_true]
  refine leads_bind_read (eval_getJob_jobOf j g) ?_
  simp only [tense]
  exact leads_bind runs fun _ _ h => leads_pure h

end

end Sys2Proof.Machine
end

section
/-! OBLIGATION O35. -/

open Sys2Proof Sys2Proof.Machine

/-- Settles O35: the KV engine is free and has no row of the job, so the order does not wait; what follows it, joining again and its completion,
leaves what it gave the job. -/
theorem heldOrders : Obligations.HeldOrders := by
  unfold Obligations.HeldOrders
  intro s q j cid p phase hq jobs regs ctxs mood long zero1 zero2 slot seqs free queue tree
  have hj : j < 16 := List.mem_range.1 (List.mem_of_find?_eq_some slot)
  refine ⟨fun kind nodes size state own tense => ?_, fun kind nodes size state => ?_⟩
  · obtain ⟨node, own⟩ := Option.isSome_iff_exists.1 own
    obtain ⟨what, tense⟩ := Option.isSome_iff_exists.1 tense
    have reform := leads_reformApply (g := ⟨s, .refl⟩) hj jobs regs seqs free queue (fieldAt p 8 4) what (mapOf p 16 (nodesIn s j)) node
    have order := leads_orderRun_reform (g := ⟨s, .refl⟩) mood long zero1 zero2 slot tree kind nodes size state own tense reform
    refine leads_next (leads_heldOrder phase hq kind order fun t u r h => ?_)
    rw [(aside_of_reach r).aside_jobOf]
    exact h
  · have down := leads_standDown (g := ⟨s, .refl⟩) hj jobs regs ctxs seqs
    have order := leads_orderRun_standDown (g := ⟨s, .refl⟩) mood long zero1 zero2 slot tree kind nodes size state down
    refine leads_next (leads_heldOrder phase hq kind order fun t u r h => ?_)
    rw [(aside_of_reach r).aside_jobOf, jobStateIn, (aside_of_reach r).aside_field (t.property.regs_wf regs) (by decide) hj,
      r.same State.ctxs fun _ _ p => apply_ctxs (sparing_part p (by decide) (by decide))]
    exact h

end

section
/-! SUPPORT. Settling what was sent: a confirmation or retraction settles the entries it covers, unless it finds no route and the job is held; and the
timers of a job (R43 to R46, R48, R60, R373, R374). -/

namespace Sys2Proof.Machine

open Sys2Proof

variable {s0 s t u : State} {j : Nat}

theorem gives_eq {α : Type} {m : M s α} {a : α} {g : Good s} (e : eval m ⟨s, .refl⟩ = (.ok a, g)) : gives s m = (.ok a, g.val) :=
  congrArg (fun r => (r.1, r.2.val)) e

/-- What was sent stands settled where it was covered, unless the job is held; nothing else of it differs that lasts. -/
structure Settles (j : Nat) (covered : SentEntry → Prop) (s u : State) : Prop where
  lasts : Lasts j s u
  sent : jobStateIn s j = 2 → jobStateIn u j = 2 → ∀ e ∈ s.sent, covered e → { e with settled := true } ∈ u.sent

theorem ReachBy.offJobs_sent (r : ReachBy offJobs s u) : u.sent = s.sent :=
  r.same State.sent fun _ _ p => apply_sent (sparing_part p (by decide) (by decide))

theorem leads_sendSettle {g : Good s0} {e : SentEntry} {covered : SentEntry → Bool} (hj : j < 16) (own : e.j = j)
    (jobs : FMap.wf job0 g.val.jobs = true) (regs : FMap.wf resetValue g.val.regs = true) (confirm : Bool) :
    Leads (sendSettle confirm e covered) g fun _ u => Settles j (fun x => covered x = true) g.val u := by
  refine leads_bind_st (leads_bind (leads_of_ends (offJobs_sendRequest _ _) g) fun r u1 r1 => ?_)
  have l1 : Lasts j g.val u1.val := (Lasts.refl jobs regs).offJobs r1
  split
  · refine leads_bind_st (leads_eff ⟨l1.aside (ReachBy.refl.upd rfl) (Manned.refl.of_ctxs rfl), fun _ _ x hx hc => ?_⟩)
    rw [apply_sent_sent, r1.offJobs_sent]
    exact List.mem_map.2 ⟨x, hx, if_pos hc⟩
  · refine leads_bind_read (eval_ownChip u1) ?_
    rw [own]
    refine (leads_holdJob hj l1.around.jobsWf l1.around.regsWf _ _ _ _ _ _).mono fun _ u hu => ⟨l1.trans hu.1, fun s2 t2 => ?_⟩
    have still : jobStateIn u1.val j = 2 := ((aside_of_reach r1).aside_field regs (F := R.CJ_JOBA_STATE) (by decide) hj).trans s2
    rw [(hu.2 (.inr still)).state] at t2
    exact absurd t2 (by decide)

/-- A sweep settles the entries it is made of. -/
theorem leads_sweep {g : Good s0} {es : List SentEntry} (hj : j < 16) (own : ∀ e ∈ es, e.j = j)
    (jobs : FMap.wf job0 g.val.jobs = true) (regs : FMap.wf resetValue g.val.regs = true) (confirm : Bool) :
    Leads (sweep confirm es) g fun _ u => Settles j (· ∈ es) g.val u := by
  unfold sweep
  split
  · next e last =>
    refine (leads_sendSettle hj (own e (List.mem_of_getLast? last)) jobs regs confirm).mono fun _ u h => ⟨h.lasts, fun s2 t2 x hx hc => ?_⟩
    exact h.sent s2 t2 x hx (by simpa using hc)
  · next none =>
    rw [List.getLast?_eq_none_iff.1 none]
    exact leads_pure ⟨.refl jobs regs, by simp⟩

/-- What was sent that is not settled is of the job. -/
theorem mem_unsettledIn {e : SentEntry} (h : e ∈ unsettledIn s j) : e ∈ s.sent ∧ e.j = j := by
  obtain ⟨mem, cond⟩ := List.mem_filter.1 h
  simp only [Bool.and_eq_true, beq_iff_eq] at cond
  exact ⟨mem, cond.1.1⟩

theorem mem_sweepable {es : List SentEntry} {chip : BitVec 14} {e : SentEntry} :
    e ∈ sweepable es chip ↔ e ∈ es ∧ e.isBlock = false ∧ e.dst = chip := by
  simp [sweepable]

/-! The step-hold timeout. -/

theorem HeldBy.aside {cause chip : Nat} (h : HeldBy j cause chip t) (r : ReachBy Machine.aside t u) (w : FMap.wf resetValue t.regs = true) (hj : j < 16) :
    HeldBy j cause chip u where
  state := (r.aside_field w (by decide) hj).trans h.state
  cause := (r.aside_field w (by decide) hj).trans h.cause
  source := (r.aside_field w (by decide) hj).trans h.source
  waits := (congrArg Job.waits (r.aside_jobOf j)).trans h.waits

theorem stepHoldTimeout_holds (hj : j < 16) (jobs : FMap.wf job0 s.jobs = true) (regs : FMap.wf resetValue s.regs = true)
    (waits : (jobOf s j).waits = true) (state : jobStateIn s j = 1 ∨ jobStateIn s j = 2) :
    ∃ t, exec (.stepHoldTimeout j) s = .next t ∧ HeldBy j 2 (chipIn s) t ∧ (jobOf t j).lasting = (jobOf s j).lasting := by
  refine leads_next (m := _) ?_
  rw [if_pos ⟨hj, waits⟩]
  refine leads_bind_read (eval_ownChip _) (leads_bind (leads_holdJob hj jobs regs _ _ _ _ _ _) fun _ u hu => ?_)
  refine (leads_of_ends offJobs_pumpAll u).mono fun _ t r => ?_
  have a := aside_of_reach r
  exact ⟨(hu.2 state).aside a (u.property.regs_wf regs) hj, (congrArg Job.lasting (a.aside_jobOf j)).trans hu.1.job⟩

/-! The bound of a tentative write. -/

theorem leads_jobFaultD {g : Good s0} (jobs : FMap.wf job0 g.val.jobs = true) (regs : FMap.wf resetValue g.val.regs = true) :
    Leads (jobFaultD j) g fun _ u => Around j [] g.val u ∧ u.sent = g.val.sent ∧ ((jobOf g.val j).isOpen = true → (jobOf u j).faultD = true) := by
  refine leads_bind_read (eval_getJob_jobOf j g) ?_
  split
  · exact leads_eff ⟨(Around.refl jobs regs).setJob _, rfl, fun _ => by rw [jobOf_setJob jobs]⟩
  · next no => exact leads_pure ⟨.refl jobs regs, rfl, fun yes => absurd yes no⟩

theorem tentativeBoundExpiry_retracts (hj : j < 16) (jobs : FMap.wf job0 s.jobs = true) (regs : FMap.wf resetValue s.regs = true)
    {serial : BitVec 32} {e : SentEntry} (found : (unsettledIn s j).find? (fun e => e.serial == serial.toNat) = some e) (unanswered : e.status = none) :
    ∃ t, exec (.tentativeBoundExpiry j serial) s = .next t ∧ ((jobOf s j).isOpen = true → (jobOf t j).faultD = true) ∧
      (jobStateIn s j = 2 → jobStateIn t j = 2 → { e with settled := true } ∈ t.sent) := by
  obtain ⟨mem, own⟩ := mem_unsettledIn (List.mem_of_find?_eq_some found)
  refine leads_next ?_
  rw [found]
  dsimp only
  rw [if_pos (by simp [unanswered])]
  refine leads_bind (leads_of_ends (offJobs_recordConj _ _ _ _ _) _) fun _ u1 r1 => ?_
  have a1 : Around j [] s u1.val := (Around.refl jobs regs).aside (aside_of_reach r1)
  refine leads_bind (leads_jobFaultD a1.jobsWf a1.regsWf) fun _ u2 h2 => ?_
  obtain ⟨a2, sent, faultD⟩ := h2
  have regs2 : FMap.wf resetValue u2.val.regs = true := a2.regsWf
  have same : jobStateIn u2.val j = jobStateIn s j := ((a1.trans a2).fields _ (by decide) j hj (.inr (by simp)))
  have last {C : SentEntry → Prop} (u3 : Good s) (h : Settles j C u2.val u3.val) (hC : C e) : Leads pumpAll u3 fun _ t =>
      ((jobOf s j).isOpen = true → (jobOf t j).faultD = true) ∧ (jobStateIn s j = 2 → jobStateIn t j = 2 → { e with settled := true } ∈ t.sent) := by
    refine (leads_of_ends offJobs_pumpAll u3).mono fun _ t r => ⟨fun isOpen => ?_, fun s2 t2 => ?_⟩
    · rw [(aside_of_reach r).aside_jobOf]
      refine (congrArg Job.faultD h.lasts.job :).trans (faultD ?_)
      rw [(aside_of_reach r1).aside_jobOf]
      exact isOpen
    · rw [r.offJobs_sent]
      refine h.sent (same.trans s2) ?_ e ((sent.trans r1.offJobs_sent) ▸ mem) hC
      rw [← t2, jobStateIn, jobStateIn, (aside_of_reach r).aside_field h.lasts.around.regsWf (by decide) hj]
  split
  · exact leads_bind (leads_sendSettle hj own a2.jobsWf a2.regsWf false) fun _ u3 h3 => last u3 h3 (by simp)
  · next other =>
    refine leads_bind (leads_sweep hj (fun x hx => ?_) a2.jobsWf a2.regsWf false) fun _ u3 h3 => last u3 h3 ?_
    · exact (mem_unsettledIn (mem_sweepable.1 (List.mem_filter.1 hx).1).1).2
    · refine List.mem_filter.2 ⟨mem_sweepable.2 ⟨List.mem_of_find?_eq_some found, by simpa using other, rfl⟩, by simp⟩

/-! Sweeps. -/

theorem sweepSend_settles (hj : j < 16) (jobs : FMap.wf job0 s.jobs = true) (regs : FMap.wf resetValue s.regs = true)
    (state : jobStateIn s j = 2) {chip : BitVec 14} {confirm : Bool} {es : List SentEntry} (own : ∀ e ∈ es, e ∈ unsettledIn s j)
    (sweeps : exec (.sweepSend j chip) s = .next (run s (do sweep confirm es; pumpAll))) :
    ∃ t, exec (.sweepSend j chip) s = .next t ∧ (∃ u, gives s (sweep confirm es) = (.ok (), u) ∧ t.reqs = u.reqs) ∧
      (jobStateIn t j = 2 → ∀ e ∈ es, { e with settled := true } ∈ t.sent) := by
  obtain ⟨_, u, e, h⟩ := leads_sweep (g := ⟨s, .refl⟩) hj (fun x hx => (mem_unsettledIn (own x hx)).2) jobs regs confirm
  obtain ⟨_, t, e', sends, r⟩ := (leads_of_ends ends_pumpAll u).and (leads_of_ends offJobs_pumpAll u)
  refine ⟨t.val, by rw [sweeps, run_of_ok ((eval_bind_ok e).trans e')], ⟨u.val, gives_eq e, ?_⟩, fun t2 x hx => ?_⟩
  · exact sends.same State.reqs fun _ _ p => apply_reqs fun q => by simpa using p _ q
  · rw [r.offJobs_sent]
    refine h.sent state ?_ x (mem_unsettledIn (own x hx)).1 hx
    rw [← t2, jobStateIn, jobStateIn, (aside_of_reach r).aside_field h.lasts.around.regsWf (by decide) hj]

theorem takeWhile_eq_of_forall_mem {α : Type} {p q : α → Bool} {l : List α} (h : ∀ a ∈ l, p a = q a) : l.takeWhile p = l.takeWhile q := by
  induction l with
  | nil => rfl
  | cons a l ih =>
    rw [List.takeWhile_cons, List.takeWhile_cons, h a List.mem_cons_self, ih fun b hb => h b (List.mem_cons_of_mem a hb)]

/-- The writes a sweep to a chip may cover: those answered before the first that is not. -/
def answeredTo (s : State) (j : Nat) (chip : BitVec 14) : List SentEntry :=
  (sweepable (unsettledIn s j) chip).takeWhile (fun e => e.status.isSome)

/-- An entry that is to be retracted. -/
def BadEntry (s : State) (j : Nat) (e : SentEntry) : Prop :=
  e.bad = true ∨ e.status ≠ some 0 ∨ (e.core, e.slot) ∈ (jobOf s j).failed ∨ (jobOf s j).faultH.isSome = true

theorem mem_answeredTo {chip : BitVec 14} {e : SentEntry} (h : e ∈ answeredTo s j chip) : e ∈ unsettledIn s j ∧ e.status.isSome = true :=
  ⟨(mem_sweepable.1 (List.takeWhile_subset _ h)).1, List.mem_takeWhile_imp (p := fun e : SentEntry => e.status.isSome) h⟩

/-- Of an answered entry the model's test says this. -/
theorem failedIn_iff {chip : BitVec 14} {e : SentEntry} (h : e ∈ answeredTo s j chip) : failedIn s e = true ↔ BadEntry s j e := by
  obtain ⟨mem, answered⟩ := mem_answeredTo h
  obtain ⟨status, hs⟩ := Option.isSome_iff_exists.1 answered
  simp [failedIn, BadEntry, (mem_unsettledIn mem).2, hs, jobOf, or_assoc]

theorem exec_sweepSend (hj : j < 16) (isOpen : (jobOf s j).isOpen = true) (chip : BitVec 14) : exec (.sweepSend j chip) s = .next (run s (do
    if (answeredTo s j chip).any (failedIn s) then sweep false (answeredTo s j chip)
    else sweep true ((answeredTo s j chip).takeWhile (confirmableIn s))
    pumpAll)) := by
  change Host.Outcome.next (run s (if j < 16 ∧ (jobOf s j).isOpen = true then _ else _)) = _
  rw [if_pos ⟨hj, isOpen⟩]
  rfl

theorem sweepSend_cases (hj : j < 16) (jobs : FMap.wf job0 s.jobs = true) (regs : FMap.wf resetValue s.regs = true) (isOpen : (jobOf s j).isOpen = true)
    (state : jobStateIn s j = 2) (chip : BitVec 14) :
    let ends (confirm : Bool) (es : List SentEntry) : Prop := ∃ t, exec (.sweepSend j chip) s = .next t ∧
      (∃ u, gives s (sweep confirm es) = (.ok (), u) ∧ t.reqs = u.reqs) ∧ (jobStateIn t j = 2 → ∀ e ∈ es, { e with settled := true } ∈ t.sent)
    ((∃ e ∈ answeredTo s j chip, BadEntry s j e) → ends false (answeredTo s j chip)) ∧
      ((∀ e ∈ answeredTo s j chip, ¬ BadEntry s j e) →
        ends true ((answeredTo s j chip).takeWhile (fun e => !proofsOfIn s e && e.inputs.all (fun t => !s.tent.contains t)))) := by
  intro ends
  refine ⟨fun ⟨e, he, bad⟩ => ?_, fun good => ?_⟩
  · refine sweepSend_settles hj jobs regs state (fun x hx => (mem_answeredTo hx).1) ?_
    rw [exec_sweepSend hj isOpen, if_pos (List.any_eq_true.2 ⟨e, he, (failedIn_iff he).2 bad⟩)]
  · have sound {e : SentEntry} (he : e ∈ answeredTo s j chip) : failedIn s e = false := by
      rw [Bool.eq_false_iff, ne_eq, failedIn_iff he]
      exact good e he
    have same : (answeredTo s j chip).takeWhile (confirmableIn s) =
        (answeredTo s j chip).takeWhile (fun e => !proofsOfIn s e && e.inputs.all (fun t => !s.tent.contains t)) := by
      refine takeWhile_eq_of_forall_mem fun e he => ?_
      have ok : e.status = some 0 := not_not.1 fun no => good e he (.inr (.inl no))
      simp [confirmableIn, sound he, ok]
    refine sweepSend_settles hj jobs regs state (fun x hx => (mem_answeredTo (List.takeWhile_subset _ hx)).1) ?_
    rw [exec_sweepSend hj isOpen, if_neg (by simpa using fun e he => sound he), same]

end Sys2Proof.Machine
end

section
/-! SUPPORT. Reading memory, and the KV engine's work on rows, sequences, nodes and frames: they keep off jobs and contexts (R230 to R250). -/

namespace Sys2Proof.Machine

open Sys2Proof

variable {s0 : State} {α : Type}

/-- What neither memory nor rows, sequences and frames are: jobs, contexts and their scalar registers, the engine's queue and what it is at, and the
jobs' registers. -/
abbrev offEngine : Eff → Prop := sparing [.jobs, .kv, .ctxs, .sregs] [0x1C]

theorem within_of_ends {P : Eff → Prop} {m : M s0 α} (h : Ends P m) : Within P m := fun g => by
  obtain ⟨a, u, e, r⟩ := h g
  rw [e]
  exact r

theorem offEngine_of_storing {m : M s0 α} (h : Ends storing m) : Within offEngine m :=
  within_mono (sparing_mono (by decide) (by decide)) (within_of_ends h)
theorem offEngine_of_offJobs {m : M s0 α} (h : Ends offJobs m) : Within offEngine m :=
  within_mono (sparing_mono (by decide) (by decide)) (within_of_ends h)

section
variable {ps : List Part} {bs : List Nat} {F : Fld} {v i j n : Nat}
theorem within_setF_clear (h : F.clear bs i j = true) : Within (sparing ps bs) (setF F v i j : M s0 Unit) := within_setF fun _ => sparing_of_clear h _
theorem within_countSat_clear (h : F.clear bs i 0 = true) : Within (sparing ps bs) (countSat F i n : M s0 Unit) :=
  within_countSat fun _ => sparing_of_clear h _
theorem within_countWrap_clear (h : F.clear bs i 0 = true) : Within (sparing ps bs) (countWrap F i n : M s0 Unit) :=
  within_countWrap fun _ => sparing_of_clear h _
theorem within_wrReg_clear {w : Word} (h : F.clear bs i j = true) : Within (sparing ps bs) (wrReg (F.addr i j) w : M s0 Unit) :=
  within_wrReg (sparing_of_clear h _)
end

/-- Something done under a condition, before the rest. -/
theorem within_when {β : Type} {P : Eff → Prop} {c : Prop} [Decidable c] {m : M s0 Unit} {f : Unit → M s0 β} (h : Within P m)
    (k : ∀ u, Within P (f u)) : Within P (if c then m >>= f else f ()) := within_ite (within_bind h k) (k ())

/-- A loop that does one thing for each member of a list. -/
theorem within_each {P : Eff → Prop} {γ : Type} {l : List γ} {m : γ → M s0 α} (h : ∀ a, Within P (m a)) :
    Within P (forIn l PUnit.unit fun a _ => do let _ ← m a; pure (ForInStep.yield PUnit.unit)) :=
  within_forIn fun a _ => within_bind (h a) fun _ => within_pure _

/-! Reading memory. -/

/-- What follows a look for a compressed range may rely on its naming a controller. -/
theorem within_directRange_bind {β : Type} {P : Eff → Prop} {f : Option (Nat × Nat × Nat) → M s0 β} (o : Nat) (hn : Within P (f none))
    (hs : ∀ k b i, k < 32 → Within P (f (some (k, b, i)))) : Within P (directRange o >>= f) := by
  intro g
  by_cases ho : o < 0x100000000000
  · rw [eval_bind_ok (show eval (directRange o) g = (.ok none, g) by rw [directRange, if_pos ho]; rfl)]
    exact hn g
  rw [eval_bind_ok (eval_directRange ho g)]
  rcases place : gddrAt (gdBlocksIn g.val) o with _ | ⟨k, blk⟩
  · exact hn g
  dsimp only [Option.bind_some]
  cases rangeOfIn g.val k (blk / 16)
  · exact hn g
  · exact hs _ _ _ (gddrAt_lt place) g

theorem offEngine_gmReadPiece (o n : Nat) : Within offEngine (gmReadPiece o n : M s0 (Nat × List Byte × List Rec)) := by
  refine within_bind (fun _ => .refl) fun blocks => ?_
  split
  · exact within_pure _
  · rename_i place
    refine within_bind within_st fun s => ?_
    split
    · exact offEngine_of_storing (stores_gdReadSpan (gddrAt_lt place) _ _ _)
    · exact within_bind (offEngine_of_storing (stores_cxRead (gddrAt_lt place) _ _)) fun _ => within_pure _

theorem offEngine_gmRead (o n : Nat) : Within offEngine (gmRead o n : M s0 (Nat × List Byte × List Rec)) := by
  have keep {σ : Type} (c : Prop) [Decidable c] (x y : σ) :
      Within offEngine (if c then pure (ForInStep.yield x) else pure (ForInStep.yield y) : M s0 (ForInStep σ)) :=
    within_ite (within_pure _) (within_pure _)
  refine within_bind (within_forIn fun p x => within_directRange_bind _ ?none ?some) fun _ => within_pure _
  case none =>
    exact within_bind (within_forIn fun q _ => within_bind (offEngine_gmReadPiece _ _) fun _ => keep _ _ _) fun _ => within_pure _
  case some => exact fun k b i hk => within_bind (offEngine_of_storing (stores_cxRead hk _ _)) fun _ => keep _ _ _

theorem offEngine_portWait (o n : Nat) (reads : Bool) : Within offEngine (portWait o n reads : M s0 Unit) :=
  within_bind within_st fun _ => within_need _ _

theorem offEngine_rdGddr (o n : Nat) (job : Option Nat) : Within offEngine (rdGddr o n job : M s0 (Nat × List Byte)) :=
  within_bind (offEngine_portWait _ _ _) fun _ => within_bind (offEngine_gmRead _ _) fun _ =>
    within_bind (offEngine_of_storing (stores_recordAll _)) fun _ => within_pure _

theorem offEngine_wrGddr (o : Nat) (bs : List Byte) (job : Option Nat) : Within offEngine (wrGddr o bs job : M s0 Nat) :=
  offEngine_of_storing (stores_wrGddr _ _ _)

theorem offEngine_hostEmit (o : Out) : Within offEngine (hostEmit o : M s0 Bool) :=
  within_bind (within_getF _ _ _) fun _ => within_ite (within_bind (within_eff rfl) fun _ => within_pure _) (within_pure _)

theorem offEngine_sendRequest (p : Packet) (purpose : Purpose) : Within offEngine (sendRequest p purpose : M s0 (Option Nat)) :=
  offEngine_of_offJobs (offJobs_sendRequest _ _)

theorem offEngine_dropReqs (f : Purpose → Bool) : Within offEngine (dropReqs f : M s0 Unit) := within_bind within_st fun _ => within_eff rfl

/-! Frames, rows, sequences and nodes. -/

theorem offEngine_incRef (f : Nat) : Within offEngine (incRef f : M s0 Unit) :=
  within_bind within_st fun _ => within_bind (within_eff rfl) fun _ =>
    within_ite (within_bind (within_getF _ _ _) fun _ => within_setF_clear rfl) (within_pure _)

theorem offEngine_decRef (f : Nat) : Within offEngine (decRef f : M s0 Unit) :=
  within_bind within_st fun _ => within_ite (within_bind (within_eff rfl) fun _ =>
    within_ite (within_bind (within_getF _ _ _) fun _ => within_setF_clear rfl) (within_pure _)) (within_pure _)

theorem offEngine_incRefs (fs : List Nat) : Within offEngine (incRefs fs : M s0 Unit) :=
  within_bind (within_each offEngine_incRef) fun _ => within_pure _

theorem offEngine_decRefs (fs : List Nat) : Within offEngine (decRefs fs : M s0 Unit) :=
  within_bind (within_each offEngine_decRef) fun _ => within_pure _

theorem offEngine_setRow (n k : Nat) (r : Row) : Within offEngine (setRow n k r : M s0 Unit) := within_eff rfl

theorem offEngine_putSeq (n : Nat) (q : Seq) : Within offEngine (putSeq n q : M s0 Unit) :=
  within_bind (within_eff rfl) fun _ => within_bind (within_getF _ _ _) fun _ => within_ite
    (within_bind (within_getF _ _ _) fun _ => within_bind (offEngine_wrGddr _ _ _) fun _ => within_pure _) (within_pure _)

theorem offEngine_modSeq (n : Nat) (f : Seq → Seq) : Within offEngine (modSeq n f : M s0 Unit) :=
  within_bind (within_getSeq _) fun _ => offEngine_putSeq _ _

theorem offEngine_putNode (n : Nat) (x : Node) : Within offEngine (putNode n x : M s0 Unit) :=
  within_bind (within_eff rfl) fun _ => within_bind (within_getF _ _ _) fun _ => within_bind (offEngine_wrGddr _ _ _) fun _ => within_pure _

theorem offEngine_removeNode (n : Nat) : Within offEngine (removeNode n : M s0 Unit) := by
  refine within_bind within_st fun _ => within_bind (offEngine_decRefs _) fun _ => within_bind (offEngine_putNode _ _) fun _ => ?_
  split
  · exact within_ite (offEngine_putNode _ _) (within_pure _)
  · exact within_pure _

theorem offEngine_kvCached : Within offEngine (kvCached : M s0 Unit) := offEngine_of_offJobs offJobs_kvCached

theorem offEngine_dropRow (n k : Nat) : Within offEngine (dropRow n k : M s0 Unit) :=
  within_bind (within_getRow _ _) fun _ => within_bind (offEngine_decRefs _) fun _ => within_bind (offEngine_setRow _ _ _) fun _ =>
    within_bind (within_countWrap_clear rfl) fun _ => offEngine_modSeq _ _

theorem offEngine_freeSlots (n k : Nat) : Within offEngine (freeSlots n k : M s0 Unit) :=
  within_bind (within_getRow _ _) fun _ => within_bind (within_each fun _ => within_eff rfl) fun _ => within_bind (offEngine_setRow _ _ _) fun _ =>
    within_bind within_st fun _ => within_ite (offEngine_modSeq _ _) (within_pure _)

theorem offEngine_releaseReserved (n : Nat) : Within offEngine (releaseReserved n : M s0 Unit) :=
  within_bind within_st fun _ => within_bind (within_forIn fun _ _ => within_ite
    (within_bind (offEngine_decRefs _) fun _ => within_bind (offEngine_setRow _ _ _) fun _ => within_pure _) (within_pure _)) fun _ => within_pure _

theorem offEngine_starve (n short : Nat) : Within offEngine (starve n short : M s0 Unit) :=
  within_bind (offEngine_releaseReserved _) fun _ => within_bind (offEngine_modSeq _ _) fun _ => within_bind (within_getSeq _) fun _ =>
    within_bind (within_getF _ _ _) fun _ => within_bind (within_wrReg_clear rfl) fun _ => within_bind (within_countSat_clear rfl) fun _ =>
      offEngine_of_storing (stores_sendMsix _)

theorem offEngine_reserveRows (n : Nat) : Within offEngine (reserveRows n : M s0 Unit) :=
  within_bind (within_getSeq _) fun _ => within_bind within_st fun _ => within_bind (within_forIn fun _ _ =>
    within_bind (within_getF _ _ _) fun _ => within_ite (within_bind within_st fun _ => within_bind (offEngine_incRefs _) fun _ =>
      within_bind (within_getRow _ _) fun _ => within_bind (offEngine_setRow _ _ _) fun _ => within_pure _) (within_pure _)) fun _ => within_pure _

theorem offEngine_copyFrames (src dst : List Nat) : Within offEngine (copyFrames src dst : M s0 Unit) :=
  within_bind (within_forIn fun _ _ => within_bind (offEngine_rdGddr _ _ _) fun _ => within_bind (offEngine_wrGddr _ _ _) fun _ => within_pure _)
    fun _ => within_pure _

/-! Rows on their way. -/

theorem offEngine_startSpill (n k : Nat) : Within offEngine (startSpill n k : M s0 Bool) := by
  refine within_bind within_st fun s => within_bind (within_getSeq _) fun q => ?_
  split
  swap
  · exact within_pure _
  dsimp only
  split
  swap
  · exact within_pure _
  refine within_when (offEngine_modSeq _ _) fun _ => within_bind (within_each fun _ => within_eff rfl) fun _ => within_bind (within_getRow _ _) fun r => ?_
  refine within_bind (offEngine_setRow _ _ _) fun _ => within_bind (within_forIn fun p sent => within_bind (offEngine_rdGddr _ _ _) fun d => ?_) fun sent => ?_
  · refine within_bind within_st fun _ => within_ite (within_bind (within_forIn fun c sent => ?_) fun _ => within_pure _) ?_
    · exact within_ite (within_bind (offEngine_sendRequest _ _) fun _ => within_pure _) (within_pure _)
    · exact within_bind (offEngine_hostEmit _) fun _ => within_bind (offEngine_hostEmit _) fun _ => within_pure _
  · refine within_ite (within_pure _) (within_bind (offEngine_dropReqs _) fun _ => within_bind (offEngine_setRow _ _ _) fun _ => ?_)
    exact within_bind (offEngine_freeSlots _ _) fun _ => within_pure _

theorem offEngine_startFetch (n k : Nat) : Within offEngine (startFetch n k : M s0 Unit) := by
  refine within_bind (within_getSeq _) fun q => within_bind (within_getRow _ _) fun r => within_bind (offEngine_setRow _ _ _) fun _ => ?_
  refine within_bind (within_forIn fun slot sent => within_bind within_st fun _ => ?_) fun sent =>
    within_ite (within_bind (offEngine_dropReqs _) fun _ => offEngine_setRow _ _ _) (within_pure _)
  split
  · refine within_bind (within_forIn fun c sent => ?_) fun _ => within_pure _
    exact within_ite (within_bind (offEngine_sendRequest _ _) fun _ => within_pure _) (within_pure _)
  · exact within_bind (offEngine_hostEmit _) fun _ => within_pure _

/-! The steps of an opening that are the engine's alone. -/

theorem offEngine_openBegin (jobNum : Nat) (rerun : Bool) : Within offEngine (openBegin jobNum rerun : M s0 Unit) := by
  refine within_bind (within_countWrap_clear rfl) fun _ => within_bind (within_getF _ _ _) fun opens => within_bind within_st fun _ => ?_
  refine within_bind (within_forIn fun n _ => within_bind within_st fun _ => ?_) fun _ => offEngine_kvCached
  refine within_bind (within_forIn fun p _ => within_bind (offEngine_decRefs _) fun _ => ?_) fun _ =>
    within_bind (offEngine_modSeq _ _) fun _ => within_pure _
  exact within_bind (offEngine_setRow _ _ _) fun _ => within_pure _

theorem offEngine_applyUnion (jobNum : Nat) (isHeld : Nat → Bool) : Within offEngine (applyUnion jobNum isHeld : M s0 Unit) :=
  within_bind within_st fun _ => within_bind (within_forIn fun _ _ => within_bind (within_getSeq _) fun _ => within_ite
    (within_bind (offEngine_releaseReserved _) fun _ => within_bind (offEngine_modSeq _ _) fun _ => within_pure _) (within_pure _)) fun _ => within_pure _

theorem offEngine_openMap (jobNum : Nat) : Within offEngine (openMap jobNum : M s0 Unit) := by
  refine within_bind within_st fun _ => within_bind (within_forIn fun n _ => within_bind (within_getSeq _) fun q => within_ite ?_ (within_pure _)) fun _ =>
    within_pure _
  refine within_bind within_st fun _ => within_bind (within_forIn fun p _ => within_bind (within_getRow _ _) fun r => within_ite ?_ (within_pure _)) fun _ =>
    within_pure _
  refine within_ite (within_bind (offEngine_setRow _ _ _) fun _ => within_pure _) (within_ite ?_ (within_ite ?_ ?_))
  · exact within_bind (offEngine_setRow _ _ _) fun _ => within_bind (offEngine_modSeq _ _) fun _ => within_pure _
  · exact within_bind (offEngine_copyFrames _ _) fun _ => within_bind (offEngine_setRow _ _ _) fun _ => within_pure _
  · exact within_bind (offEngine_startFetch _ _) fun _ => within_pure _

end Sys2Proof.Machine
end

section
/-! SUPPORT. The opening of an attempt of any job, wherever it ends: what of the jobs lasts, the engine's queue, the contexts jobs and their scalar
registers stay (R230, R231, R236 to R241, R394). -/

namespace Sys2Proof.Machine

open Sys2Proof

variable {s0 s t u : State} {α β γ : Type}

/-! What holds wherever a meaning ends. -/

/-- Where a meaning ends, finished or not, a statement holds. -/
def Lands (m : M s0 α) (g : Good s0) (Q : State → Prop) : Prop := Q (eval m g).2.val

variable {m : M s0 α} {f : α → M s0 β} {g : Good s0} {Q R : State → Prop}

theorem lands_seq (h : Lands m g R) (early : ∀ u, R u → Q u) (k : ∀ a u, R u.val → Lands (f a) u Q) : Lands (m >>= f) g Q := by
  rw [Lands, eval_bind]
  rw [Lands] at h
  generalize eval m g = r at h
  obtain ⟨r, u⟩ := r
  cases r with
  | error x => exact early _ h
  | ok a => exact k a u h

theorem lands_bind (h : Lands m g Q) (k : ∀ a u, Q u.val → Lands (f a) u Q) : Lands (m >>= f) g Q := lands_seq h (fun _ q => q) k

theorem lands_bind_st {f : State → M s0 β} (h : Lands (f g.val) g Q) : Lands (st >>= f) g Q := h

theorem lands_bind_eff {e : Eff} {f : Unit → M s0 β} (h : ∀ u : Good s0, u.val = e.apply g.val → Lands (f ()) u Q) : Lands (eff e >>= f) g Q :=
  h ⟨e.apply g.val, g.property.upd _⟩ rfl

theorem lands_bind_leads {P : α → State → Prop} (h : Leads m g P) (k : ∀ a u, P a u.val → Lands (f a) u Q) : Lands (m >>= f) g Q := by
  obtain ⟨a, u, e, p⟩ := h
  rw [Lands, eval_bind_ok e]
  exact k a u p

theorem lands_ite {c : Prop} [Decidable c] {n : M s0 α} (h : Lands m g Q) (k : Lands n g Q) : Lands (if c then m else n) g Q := by
  split <;> assumption

theorem Lands.mono (h : Lands m g Q) (k : ∀ u, Q u → R u) : Lands m g R := k _ h

/-- Wherever a meaning ends, what held before it holds. -/
def Stays (I : State → Prop) (m : M s0 α) : Prop := ∀ g, I g.val → Lands m g I

variable {I : State → Prop}

theorem stays_pure (a : α) : Stays I (pure a : M s0 α) := fun _ i => i
theorem stays_bind (h : Stays I m) (k : ∀ a, Stays I (f a)) : Stays I (m >>= f) := fun g i => lands_bind (h g i) fun a u => k a u
theorem stays_bind_st {f : State → M s0 β} (k : ∀ s, I s → Stays I (f s)) : Stays I (st >>= f) := fun g i => k g.val i g i
theorem stays_ite {c : Prop} [Decidable c] {a b : M s0 α} (h : Stays I a) (k : Stays I b) : Stays I (if c then a else b) := by
  split <;> assumption
theorem stays_when {c : Prop} [Decidable c] {m : M s0 Unit} {f : Unit → M s0 β} (h : Stays I m) (k : ∀ u, Stays I (f u)) :
    Stays I (if c then m >>= f else f ()) := stays_ite (stays_bind h k) (k ())

theorem stays_loop {σ : Type} {l : List γ} {x : σ} {k : γ → σ → M s0 (ForInStep σ)} (h : ∀ a ∈ l, ∀ b, Stays I (k a b)) : Stays I (forIn l x k) := by
  induction l generalizing x with
  | nil => exact stays_pure _
  | cons a l ih =>
    rw [List.forIn_cons]
    refine stays_bind (h a List.mem_cons_self x) fun r => ?_
    cases r with
    | done b => exact stays_pure _
    | yield b => exact ih fun c hc => h c (List.mem_cons_of_mem a hc)

theorem stays_eff {e : Eff} (h : ∀ t, I t → I (e.apply t)) : Stays I (eff e : M s0 Unit) := fun _ i => h _ i

theorem stays_of_within {P : Eff → Prop} (h : Within P m) (k : ∀ t u, ReachBy P t u → I t → I u) : Stays I m := fun g i => k _ _ (h g) i

theorem stays_of_keeps (h : Keeps I m) : Stays I m := fun g i => by
  obtain ⟨a, u, e, q⟩ := h g i
  rw [Lands, e]
  exact q

theorem lands_bind_getJob {j : Nat} {f : Job → M s0 β} (h : Lands (f (jobOf g.val j)) g Q) : Lands (getJob j >>= f) g Q := h

/-! What an opening leaves. -/

/-- From one state to another what lasts of every job is the same, and so are its tense, what waits for the KV engine, the jobs of the contexts and
the scalar registers. -/
structure Endures (s u : State) : Prop where
  jobsWf : FMap.wf job0 u.jobs = true
  regsWf : FMap.wf resetValue u.regs = true
  jobs : ∀ i, (jobOf u i).lasting = (jobOf s i).lasting
  tense : ∀ i < 16, jobTenseIn u i = jobTenseIn s i
  queue : u.kv.queue = s.kv.queue
  manned : Manned s u
  sregs : u.sregs = s.sregs

theorem Endures.refl (jobs : FMap.wf job0 s.jobs = true) (regs : FMap.wf resetValue s.regs = true) : Endures s s :=
  ⟨jobs, regs, fun _ => rfl, fun _ _ => rfl, rfl, .refl, rfl⟩

theorem Endures.lasts {i : Nat} (h : Endures s t) (l : Lasts i t u) : Endures s u where
  jobsWf := l.around.jobsWf
  regsWf := l.around.regsWf
  jobs k := by
    by_cases same : k = i
    · exact same ▸ l.job.trans (h.jobs i)
    · rw [l.around.others k same]
      exact h.jobs k
  tense k hk := (l.around.fields _ (by decide) k hk (.inr (by decide))).trans (h.tense k hk)
  queue := (congrArg KvEngine.queue l.around.kv).trans h.queue
  manned := h.manned.trans l.manned
  sregs := l.around.sregs.trans h.sregs

/-- A job is set with what lasts of it the same. -/
theorem Endures.setJob (h : Endures s t) {i : Nat} {v : Job} (hv : v.lasting = (jobOf t i).lasting) : Endures s ((Eff.job i v).apply t) :=
  h.lasts ((Lasts.refl h.jobsWf h.regsWf).setJob hv)

/-- What lasts of a job lasts among them all. -/
theorem endures_of_lasts {i : Nat} (h : ∀ w, Keeps (Lasts i w) m) : Stays (Endures s) m := fun g e =>
  stays_of_keeps (m := m) (fun g e => (h g.val g (.refl e.jobsWf e.regsWf)).mono fun _ _ l => e.lasts l) g e

/-- Changes that spare jobs, contexts and what the engine is at are none of it. -/
theorem Endures.offEngine (h : Endures s t) (r : ReachBy offEngine t u) : Endures s u where
  jobsWf := (r.same State.jobs fun _ _ p => apply_jobs (sparing_part p (by decide) (by decide))) ▸ h.jobsWf
  regsWf := r.sparing_wf h.regsWf
  jobs i := (congrArg (fun m => (FMap.get job0 m i).lasting) (r.same State.jobs fun _ _ p => apply_jobs (sparing_part p (by decide) (by decide)))).trans (h.jobs i)
  tense i hi := (r.sparing_field h.regsWf (F := R.CJ_JOBB_TENSE) (jobFields_block (by decide) hi)).trans (h.tense i hi)
  queue := (congrArg KvEngine.queue (r.same State.kv fun _ _ p => apply_kv (sparing_part p (by decide) (by decide)))).trans h.queue
  manned := h.manned.reach r (by decide)
  sregs := (r.same State.sregs fun _ _ p => apply_sregs (sparing_part p (by decide) (by decide))).trans h.sregs

theorem endures_offEngine (h : Within offEngine m) : Stays (Endures s) m := stays_of_within h fun _ _ r e => e.offEngine r

/-- What the engine is at changes, but not its queue. -/
theorem Endures.setKv (h : Endures s t) {v : KvEngine} (hv : v.queue = t.kv.queue) : Endures s ((Eff.kv v).apply t) :=
  { h with queue := hv.trans h.queue, manned := h.manned.of_ctxs rfl }

theorem endures_setKv {v : KvEngine} (hv : v.queue = s.kv.queue) : Stays (Endures s) (eff (.kv v) : M s0 Unit) :=
  stays_eff fun _ e => e.setKv (hv.trans e.queue.symm)

/-! Obtaining rows (R236, R237). -/

theorem endures_gotRow : Stays (Endures s) (gotRow : M s0 Unit) := stays_bind_st fun _ e => endures_setKv e.queue

theorem endures_dropLoop (n need fuel : Nat) : Stays (Endures s) (dropLoop n need fuel : M s0 Unit) := by
  induction fuel with
  | zero => exact stays_pure _
  | succ fuel ih =>
    have next : Stays (Endures s) (do gotRow; reserveRows n; dropLoop n need fuel : M s0 Unit) :=
      stays_bind endures_gotRow fun _ => stays_bind (endures_offEngine (offEngine_reserveRows _)) fun _ => ih
    refine stays_bind_st fun t _ => stays_ite ?_ (stays_pure _)
    split
    · exact stays_pure _
    · refine stays_ite (stays_bind (endures_offEngine (within_each offEngine_removeNode)) fun _ => next) ?_
      split
      · exact stays_bind (endures_offEngine (offEngine_dropRow _ _)) fun _ => next
      · exact stays_pure _

theorem endures_spillNext : Stays (Endures s) (spillNext : M s0 (Bool × Bool)) := by
  refine stays_bind_st fun t _ => ?_
  split
  · exact stays_pure _
  refine stays_bind_st fun t _ => ?_
  split
  · exact stays_pure _
  refine stays_bind (endures_offEngine (offEngine_startSpill _ _)) fun _ => stays_ite (stays_bind_st fun _ e => ?_) (stays_pure _)
  exact stays_bind (endures_setKv e.queue) fun _ => stays_pure _

theorem endures_obtain (n : Nat) (resumed : Bool) : Stays (Endures s) (obtain n resumed : M s0 Bool) := by
  have read {F : Fld} : Stays (Endures s) (getF F : M s0 Nat) := endures_offEngine (within_getF _ _ _)
  have rest (need : Nat) : Stays (Endures s) (do
      let t ← st
      let short := max (need - t.kv.got) (rowsMissingIn t n).length
      eff (.kv { t.kv with awaited := none, serving := none })
      if short ≠ 0 then starve n short
      return true : M s0 Bool) :=
    stays_bind_st fun _ e => stays_bind (endures_setKv e.queue) fun _ =>
      stays_when (endures_offEngine (offEngine_starve _ _)) fun _ => stays_pure _
  refine stays_bind (endures_offEngine (within_getSeq _)) fun q => stays_bind_st fun _ _ => stays_ite (stays_bind_st fun _ e => ?_) ?_
  on_goal 1 => refine stays_bind read fun _ => stays_bind (endures_setKv e.queue) fun _ => ?_
  all_goals
    refine stays_bind (endures_offEngine (offEngine_reserveRows _)) fun _ => stays_bind (endures_dropLoop _ _ _) fun _ => ?_
    refine stays_bind (endures_offEngine offEngine_kvCached) fun _ => stays_bind_st fun _ _ => stays_ite ?_ (rest _)
    refine stays_bind (stays_ite (stays_pure _) (stays_ite (endures_offEngine (within_freeBool rfl)) (stays_pure _))) fun _ => stays_ite ?_ (rest _)
    refine stays_bind_st fun _ e => stays_bind (endures_setKv e.queue) fun _ => stays_bind endures_spillNext fun _ => ?_
    exact stays_ite (stays_pure _) (rest _)

theorem endures_openObtain (jobNum : Nat) : Stays (Endures s) (openObtain jobNum : M s0 Bool) := by
  refine stays_bind_st fun t _ => stays_bind (stays_loop fun n _ going => stays_ite ?_ (stays_pure _)) fun _ => stays_pure _
  refine stays_bind (endures_offEngine (within_getSeq _)) fun q => stays_bind_st fun _ _ => stays_bind_st fun _ _ => ?_
  exact stays_ite (stays_bind (endures_obtain _ _) fun _ => stays_pure _) (stays_pure _)

/-! The round of an opening (R230, R231, R394). -/

theorem endures_finishOpen (j : Nat) (isHeld : Nat → Bool) : Stays (Endures s) (finishOpen j isHeld : M s0 Unit) :=
  stays_bind_st fun _ _ => stays_bind (endures_offEngine (offEngine_applyUnion _ _)) fun _ =>
    stays_bind (endures_offEngine (offEngine_openMap _)) fun _ => stays_bind_st fun _ _ =>
      endures_of_lasts fun _ => lasts_modJob fun _ => rfl

theorem endures_unionDone (j : Nat) : Stays (Endures s) (unionDone j : M s0 Unit) :=
  stays_bind (endures_offEngine (within_getJob _)) fun _ => stays_ite (endures_finishOpen _ _) (stays_pure _)

section
variable {j : Nat} (hj : j < 16)
include hj

theorem endures_openRound : Stays (Endures s) (openRound j : M s0 Unit) := by
  refine stays_bind_st fun _ _ => stays_bind (endures_offEngine (within_getJob _)) fun v => stays_ite ?_ (stays_pure _)
  refine stays_bind (stays_loop fun p _ _ g e => ?_) fun _ => endures_unionDone j
  refine lands_bind_getJob ?_
  have mark {β : Type} {k : Unit → M s0 β} (h : Stays (Endures s) (k ())) :
      Lands (setJob j { (jobOf g.val j) with mapsSent := (jobOf g.val j).mapsSent ++ [p] } >>= k) g (Endures s) :=
    lands_bind_eff fun u eq => h u (eq ▸ e.setJob rfl)
  split
  all_goals dsimp only; split
  · exact mark (stays_bind (endures_of_lasts fun _ => lasts_sendUp hj _ _ _) fun _ => stays_pure _)
  · exact e
  · refine mark (stays_bind (endures_of_lasts fun _ => lasts_modJob (j := j) fun _ => rfl) fun _ => ?_)
    exact stays_bind (endures_of_lasts fun _ => lasts_sendDown hj _ _ _) fun _ => stays_pure _
  · exact e

theorem endures_openOn : Stays (Endures s) (openOn j : M s0 Unit) := by
  refine stays_bind_st fun _ _ => stays_bind (endures_openObtain _) fun _ => stays_ite ?_ (stays_pure _)
  refine stays_bind (endures_of_lasts fun _ => lasts_modJob fun _ => rfl) fun _ => stays_bind_st fun _ _ => stays_ite (endures_finishOpen _ _) ?_
  exact stays_bind (endures_of_lasts fun _ => lasts_modJob fun _ => rfl) fun _ => endures_openRound hj

theorem endures_openFrom (rerun : Bool) : Stays (Endures s) (openFrom t j rerun : M s0 Unit) :=
  stays_when (endures_of_lasts fun _ => lasts_touchJob hj) fun _ => stays_bind (endures_of_lasts fun _ => lasts_zeroFlags (j := j)) fun _ =>
    stays_bind (endures_offEngine (offEngine_openBegin _ _)) fun _ => endures_openOn hj

end

/-- The engine goes on with openings only, where nothing waits for it. -/
theorem endures_kvServe (empty : s.kv.queue = []) (fuel : Nat) : Stays (Endures s) (kvServe fuel : M s0 Unit) := by
  induction fuel with
  | zero => exact stays_pure _
  | succ fuel ih =>
    refine stays_bind_st fun t e => ?_
    split
    · exact stays_pure _
    split
    · next i opening =>
      have hi : i < 16 := List.mem_range.1 (List.mem_of_find?_eq_some opening)
      refine stays_ite (stays_bind (endures_openOn hi) fun _ => ?_) (stays_pure _)
      exact stays_bind (endures_offEngine (within_getJob _)) fun _ => stays_ite ih (stays_pure _)
    · rw [e.queue, empty]
      exact stays_pure _

/-! An attempt is opened (R40). -/

theorem AttemptBegun.endures {j : Nat} (h : AttemptBegun j s t) (hj : j < 16) (e : Endures t u) : AttemptBegun j s u := by
  obtain ⟨⟨taint, policies, job⟩, tense⟩ := h
  exact ⟨⟨taint, policies, (e.jobs j).trans job⟩, (e.tense j hj).trans tense⟩

/-- A free engine does what came first. -/
theorem lands_kvServe_item {x : KvItem} {xs : List KvItem} {fuel : Nat} (free : kvBusyIn g.val = false) (queue : g.val.kv.queue = x :: xs)
    (item : ∀ h : Good s0, h.val = { g.val with kv := { g.val.kv with queue := xs, serving := none, awaited := none } } → Lands (kvItem x) h Q)
    (after : Stays Q (kvServe fuel : M s0 Unit)) : Lands (kvServe (fuel + 1)) g Q := by
  obtain ⟨work, opening, spilling⟩ := kvBusyIn_eq_false.1 free
  refine lands_bind_st ?_
  rw [if_neg (by simp [work, spilling]), opening]
  dsimp only
  rw [queue]
  exact lands_bind_eff fun h e => lands_bind (item h e) fun _ => after

/-- What reaches the engine while it is free is taken up at once. -/
theorem lands_kvAsk_opening {j : Nat} (free : kvBusyIn g.val = false) (queue : g.val.kv.queue = [])
    (item : ∀ u : Good s0, u.val = takenUp g.val → Lands (openNow j) u Q) (after : Stays Q (kvServe 3 : M s0 Unit)) :
    Lands (kvAsk (.opening j)) g Q := by
  refine lands_bind_st (lands_bind_eff fun h e => lands_bind (lands_bind_st ?_) fun _ _ q => q)
  rw [e, apply_kv_kv, queue]
  refine lands_kvServe_item (x := .opening j) (by rw [e]; exact free) (by rw [e, apply_kv_kv, queue]; rfl) (fun k ek => item k ?_) after
  rw [ek, e]
  rfl

/-- A job that may open an attempt, the engine being free, has begun it wherever the opening has got to. -/
theorem lands_openTense {j : Nat} (hj : j < 16) (jobs : FMap.wf job0 g.val.jobs = true) (regs : FMap.wf resetValue g.val.regs = true)
    (may : mayOpenIn g.val j = true) (free : kvBusyIn g.val = false) (queue : g.val.kv.queue = []) :
    Lands (openTense j) g (AttemptBegun j g.val) := by
  refine lands_bind_st ?_
  simp only [may, queue, List.contains_nil, Bool.not_false, Bool.and_self, if_true]
  refine Lands.mono (Q := fun u => ∃ w, w.kv.queue = [] ∧ AttemptBegun j g.val w ∧ Endures w u) (lands_kvAsk_opening free queue (fun k ek => ?_) ?_) ?_
  · obtain ⟨w, e, a, b⟩ := eval_openNow (g := k) (j := j) (by rw [ek]; exact jobs) (by rw [ek]; exact regs) (by rw [ek]; exact may)
    rw [Lands, e]
    refine ⟨w.val, by rw [a.kv, ek]; rfl, ?_, endures_openFrom hj _ w (.refl a.jobsWf a.regsWf)⟩
    rw [ek] at b
    exact ⟨b.job, b.tense⟩
  · rintro u ⟨w, empty, b, e⟩
    exact ⟨w, empty, b, endures_kvServe empty 3 u e⟩
  · rintro u ⟨w, -, b, e⟩
    exact b.endures hj e

end Sys2Proof.Machine
end

section
/-! SUPPORT. Moving the regions, the gather buffer and the image of a context (R121 to R123, R264 to R273): scratchpads, memory and registers
change, the contexts' own state and the jobs do not. -/

namespace Sys2Proof.Machine

open Sys2Proof

variable {s0 s t u : State} {α : Type}

/-- What keeps off jobs, contexts, their scalar registers and what the KV engine is at. -/
abbrev offCtxs : Eff → Prop := sparing [.jobs, .kv, .ctxs, .sregs] []

theorem offCtxs_of_offEngine {m : M s0 α} (h : Within offEngine m) : Within offCtxs m := within_mono (sparing_mono (by decide) (by decide)) h
theorem offCtxs_of_storing {m : M s0 α} (h : Ends storing m) : Within offCtxs m := offCtxs_of_offEngine (offEngine_of_storing h)

theorem offCtxs_wrGddr (o : Nat) (bs : List Byte) (job : Option Nat) : Within offCtxs (wrGddr o bs job : M s0 Nat) :=
  offCtxs_of_offEngine (offEngine_wrGddr _ _ _)
theorem offCtxs_rdGddr (o n : Nat) (job : Option Nat) : Within offCtxs (rdGddr o n job : M s0 (Nat × List Byte)) :=
  offCtxs_of_offEngine (offEngine_rdGddr _ _ _)
theorem offCtxs_recordAll (evs : List Rec) : Within offCtxs (recordAll evs : M s0 Unit) := offCtxs_of_storing (stores_recordAll _)

/-! Words of a scratchpad (R264 to R273). -/

theorem offCtxs_spServed (l group : Nat) : Within offCtxs (spServed l group : M s0 Unit) :=
  within_bind within_st fun _ => within_bind (within_need _ _) fun _ => within_bind (within_getSp _) fun _ =>
    within_ite (within_setSp rfl) (within_pure _)

theorem offCtxs_spPutRaw (l w : Nat) (v : Word) (c : Byte) : Within offCtxs (spPutRaw l w v c : M s0 Unit) :=
  within_bind (within_each fun _ => within_eff rfl) fun _ => within_eff rfl

theorem offCtxs_spTouch (l w : Nat) : Within offCtxs (spTouch l w : M s0 Unit) := within_bind (within_getSp _) fun _ => within_setSp rfl

theorem offCtxs_spStoreWord (l w : Nat) (v : Word) : Within offCtxs (spStoreWord l w v : M s0 Unit) := by
  refine within_bind within_st fun _ => within_bind (within_isF _ _ _) fun _ => within_bind (within_isF _ _ _) fun _ => ?_
  refine within_bind (within_getF _ _ _) fun _ => within_bind (offCtxs_spTouch _ _) fun _ => within_ite ?_ (offCtxs_spPutRaw _ _ _ _)
  refine within_bind (within_getF _ _ _) fun _ => within_bind (within_getF _ _ _) fun _ => within_bind (offCtxs_spPutRaw _ _ _ _) fun _ => ?_
  exact within_bind (within_setF_clear rfl) fun _ => within_bind (within_getSp _) fun _ => within_setSp rfl

theorem offCtxs_spPoisonWord (l w : Nat) : Within offCtxs (spPoisonWord l w : M s0 Unit) :=
  within_bind (offCtxs_spTouch _ _) fun _ => offCtxs_spPutRaw _ _ _ _

theorem offCtxs_spRec (l cls w flags : Nat) : Within offCtxs (spRec l cls w flags : M s0 Rec) :=
  within_bind (within_rdReg _) fun _ => within_bind (within_getF _ _ _) fun _ => within_bind (within_getF _ _ _) fun _ => within_pure _

theorem offCtxs_spReadWord (l w : Nat) (scrub : Bool) : Within offCtxs (spReadWord l w scrub : M s0 (Option Word × List Rec)) := by
  have setErr (syn : Byte) (act ue inj : Bool) : Within offCtxs (spSetErr l w syn act ue scrub inj : M s0 Unit) := within_wrReg_clear rfl
  refine within_bind within_st fun _ => within_bind (within_getSp _) fun _ => ?_
  dsimp only
  split
  · exact within_pure _
  · refine within_bind (within_countSat_clear rfl) fun _ => within_bind (setErr _ _ _ _) fun _ => within_bind (within_setSp rfl) fun _ => ?_
    exact within_bind (offCtxs_spRec _ _ _ _) fun _ => within_pure _
  · have rest (syn : Byte) (act inj : Bool) (fl : Nat) : Within offCtxs (do
        spSetErr l w syn act true scrub inj
        if scrub then return (none, [← spRec l 0 w fl]) else return (none, []) : M s0 (Option Word × List Rec)) :=
      within_bind (setErr _ _ _ _) fun _ => within_ite (within_bind (offCtxs_spRec _ _ _ _) fun _ => within_pure _) (within_pure _)
    exact within_ite (within_bind (within_countSat_clear rfl) fun _ => rest _ _ _ _) (within_bind (within_countSat_clear rfl) fun _ => rest _ _ _ _)

/-! The gather buffer (R266 to R268). -/

theorem offCtxs_setGather (l : Nat) (v : List GatherEntry) : Within offCtxs (setGather l v : M s0 Unit) := within_modCore fun _ => rfl

theorem offCtxs_gbFlushEntry (l : Nat) (e : GatherEntry) : Within offCtxs (gbFlushEntry l e : M s0 GatherEntry) :=
  within_bind (within_forIn fun _ _ => within_ite (within_ite (within_bind (offCtxs_spPoisonWord _ _) fun _ => within_pure _)
    (within_bind (offCtxs_spStoreWord _ _ _) fun _ => within_pure _)) (within_pure _)) fun _ => within_pure _

theorem offCtxs_gbFlushLine (l line : Nat) : Within offCtxs (gbFlushLine l line : M s0 Unit) := by
  refine within_bind (within_getCore _) fun _ => ?_
  split
  · exact within_pure _
  · exact within_bind (offCtxs_gbFlushEntry _ _) fun _ => within_bind (within_getCore _) fun _ => offCtxs_setGather _ _

theorem offCtxs_gbFlushAll (l : Nat) : Within offCtxs (gbFlushAll l : M s0 Unit) :=
  within_bind (within_getCore _) fun _ => within_bind (within_each fun _ => offCtxs_gbFlushLine _ _) fun _ => within_pure _

theorem offCtxs_gbUpdate (l w : Nat) (v : Option Word) : Within offCtxs (gbUpdate l w v : M s0 Unit) :=
  within_bind (within_getCore _) fun _ => within_ite (offCtxs_setGather _ _) (within_pure _)

theorem offCtxs_gbFill (l line : Nat) : Within offCtxs (gbFill l line : M s0 (GatherEntry × List Rec)) := by
  refine within_bind (within_forIn fun i x => within_bind (offCtxs_spReadWord _ _ _) ?_) fun _ => within_pure _
  rintro ⟨_ | v, ev⟩ <;> exact within_pure _

/-! Spans of a scratchpad. -/

theorem offCtxs_spRead (l a n : Nat) : Within offCtxs (spRead l a n : M s0 (Option (List Byte) × List Rec)) := by
  refine within_bind (within_each fun _ => offCtxs_gbFlushLine _ _) fun _ =>
    within_bind (within_forIn fun i x => within_bind (offCtxs_spReadWord _ _ _) ?_) fun _ => within_pure _
  rintro ⟨_ | v, ev⟩ <;> exact within_pure _

theorem offCtxs_spWriteIn (l w off : Nat) (bs : List Byte) : Within offCtxs (spWriteIn l w off bs : M s0 (Bool × List Rec)) := by
  have store {β : Type} (v : Word) (x : Option Word) (b : β) : Within offCtxs (do spStoreWord l w v; gbUpdate l w x; pure b : M s0 β) :=
    within_bind (offCtxs_spStoreWord _ _ _) fun _ => within_bind (offCtxs_gbUpdate _ _ _) fun _ => within_pure _
  refine within_ite (store _ _ _) (within_bind (offCtxs_gbFlushLine _ _) fun _ => within_bind (offCtxs_spReadWord _ _ _) ?_)
  rintro ⟨_ | v, ev⟩
  · exact within_bind (offCtxs_spPoisonWord _ _) fun _ => within_bind (offCtxs_gbUpdate _ _ _) fun _ => within_pure _
  · exact store _ _ _

theorem offCtxs_spWrite (l a : Nat) (bs : List Byte) : Within offCtxs (spWrite l a bs : M s0 (Nat × List Rec)) :=
  within_bind (within_forIn fun _ _ => within_bind (offCtxs_spWriteIn _ _ _ _) fun _ => within_ite (within_pure _) (within_pure _)) fun _ => within_pure _

theorem offCtxs_clearSpTags (l w n : Nat) : Within offCtxs (clearSpTags l w n : M s0 Unit) :=
  within_bind within_st fun _ => within_bind (within_forIn fun _ _ => within_ite (within_bind (within_eff rfl) fun _ => within_pure _) (within_pure _))
    fun _ => within_pure _

/-! Images in GDDR7 (R122, R123). -/

theorem offCtxs_freeBytes (n : Nat) : Within offCtxs (freeBytes n : M s0 (List Byte)) :=
  within_bind (within_forIn fun _ _ => within_bind (within_freeWord rfl) fun _ => within_pure _) fun _ => within_pure _

theorem offCtxs_saveBytes (job : Option Nat) (o : Nat) (bs : List Byte) : Within offCtxs (saveBytes job o bs : M s0 Unit) :=
  within_bind (offCtxs_wrGddr _ _ _) fun _ => within_pure _

theorem offCtxs_loadBytes (job bad : Option Nat) (o n : Nat) : Within offCtxs (loadBytes job bad o n : M s0 (Option Nat × List Byte)) :=
  within_bind (within_forIn fun _ _ => within_bind (offCtxs_rdGddr _ _ _) fun _ => within_ite (within_pure _) (within_pure _)) fun _ => within_pure _

theorem offCtxs_poisonAt (o : Nat) : Within offCtxs (poisonAt o : M s0 Unit) := by
  refine within_bind (offCtxs_of_offEngine (offEngine_portWait _ _ _)) fun _ => within_bind within_st fun _ => ?_
  split
  · exact offCtxs_of_storing (stores_gdStorePoison _)
  · exact within_pure _

theorem offCtxs_saveRegion (l k : Nat) (r : Region) : Within offCtxs (saveRegion l k r : M s0 Unit) := by
  refine within_bind within_st fun _ => within_bind (within_getCtx _ _) fun _ => within_bind (offCtxs_spServed _ _) fun _ => ?_
  refine within_bind (within_forIn fun i _ => within_bind (offCtxs_spRead _ _ _) ?_) fun _ => within_modCore fun _ => rfl
  rintro ⟨_ | d, evs⟩
  · exact within_bind (offCtxs_recordAll _) fun _ => within_bind (offCtxs_poisonAt _) fun _ => within_pure _
  · exact within_bind (offCtxs_recordAll _) fun _ => within_bind (offCtxs_saveBytes _ _ _) fun _ => within_pure _

theorem offCtxs_loadRegion (l k : Nat) (r : Region) : Within offCtxs (loadRegion l k r : M s0 (Option Nat)) := by
  refine within_bind (within_getCore _) fun c => within_bind (within_getCtx _ _) fun _ => within_bind (offCtxs_spServed _ _) fun _ => ?_
  refine within_bind (offCtxs_clearSpTags _ _ _) fun _ => ?_
  dsimp only
  split
  · refine within_bind (within_forIn fun i bad => within_bind (offCtxs_rdGddr _ _ _) fun _ => within_ite ?_ ?_) fun _ =>
      within_bind (within_modCore fun _ => rfl) fun _ => within_pure _
    · have poison {σ : Type} (b : σ) : Within offCtxs (do
          for w in List.range 32 do
            spPoisonWord l (r.base * 8192 + 32 * i + w)
          pure (ForInStep.yield b) : M s0 (ForInStep σ)) := within_bind (within_each fun _ => offCtxs_spPoisonWord _ _) fun _ => within_pure _
      exact within_ite (poison _) (poison _)
    · exact within_bind (offCtxs_spWrite _ _ _) fun _ => within_pure _
  · refine within_bind (within_each fun _ => offCtxs_spStoreWord _ _ _) fun _ => within_bind (within_modCore fun _ => rfl) fun _ => within_pure _

/-! Atomics on memory, for the flag tables (R190). -/

theorem offCtxs_gdAtomic {k : Nat} (hk : k < 32) (block off : Nat) (f : Word → Option Word) :
    Within offCtxs (gdAtomic k block off f : M s0 (Option Word × List Rec)) := by
  refine within_bind (within_getF _ _ _) fun _ => within_ite (within_pure _) (within_bind (offCtxs_of_storing (stores_gdRead hk _ _)) ?_)
  rintro ⟨_ | data, evs⟩
  · exact within_bind (offCtxs_of_storing (stores_gdStorePoison _)) fun _ => within_pure _
  · dsimp only
    split
    · exact within_pure _
    · exact within_bind (offCtxs_of_storing (stores_gdStore hk _ _)) fun _ => within_pure _

theorem offCtxs_gmAtomic (o : Nat) (f : Word → Option Word) : Within offCtxs (gmAtomic o f : M s0 (Nat × Word × List Rec)) := by
  refine within_bind (fun _ => .refl) fun blocks => ?_
  split
  · exact within_pure _
  · rename_i place
    have hk := gddrAt_lt place
    refine within_bind within_st fun s => ?_
    split
    · refine within_bind (offCtxs_gdAtomic hk _ _ _) ?_
      rintro ⟨_ | old, ev⟩ <;> exact within_pure _
    · refine within_bind (offCtxs_of_storing (stores_cxRead hk _ _)) fun _ => within_ite (within_pure _) ?_
      dsimp only
      split
      · exact within_pure _
      · exact within_bind (offCtxs_of_storing (stores_cxWrite hk _ _ _)) fun _ => within_pure _

end Sys2Proof.Machine
end

section
/-! SUPPORT. The contexts of a job that a released tense starts: what is done on their cores afterwards, to bring one in and another out, leaves them
started, with the tense in s1 (R93, R120 to R123, R125, R230). -/

namespace Sys2Proof.Machine

open Sys2Proof

variable {s0 s t u : State} {α β : Type} {j : Nat} {w : Word} {ps : List Nat} {fresh : Nat → Prop}

/-- A tense of a job is released, nothing waits for the KV engine, the contexts `ps` belong to the job with the tense `w` in s1, and those of them
that are fresh have no saved image. -/
structure Started (j : Nat) (w : Word) (ps : List Nat) (fresh : Nat → Prop) (t : State) : Prop where
  jobsWf : FMap.wf job0 t.jobs = true
  regsWf : FMap.wf resetValue t.regs = true
  ctxsWf : FMap.wf ctx0 t.ctxs = true
  sregsWf : FMap.wf zeroWord t.sregs = true
  released : (jobOf t j).released = true
  queue : t.kv.queue = []
  job : ∀ key ∈ ps, (FMap.get ctx0 t.ctxs key).job = some j
  tense : ∀ key ∈ ps, FMap.get zeroWord t.sregs (key * 64 + 1) = w
  unsaved : ∀ key ∈ ps, fresh key → (FMap.get ctx0 t.ctxs key).saved = false

theorem Started.mono {ps' : List Nat} {fresh' : Nat → Prop} (h : Started j w ps fresh t) (sub : ∀ key ∈ ps', key ∈ ps)
    (less : ∀ key ∈ ps', fresh' key → fresh key) : Started j w ps' fresh' t :=
  { h with
    job := fun key hk => h.job key (sub key hk)
    tense := fun key hk => h.tense key (sub key hk)
    unsaved := fun key hk hf => h.unsaved key (sub key hk) (less key hk hf) }

/-- Changes that spare jobs, contexts and scalar registers are none of it. -/
theorem Started.offCtxs (h : Started j w ps fresh t) (r : ReachBy offCtxs t u) : Started j w ps fresh u := by
  have ctxs : u.ctxs = t.ctxs := r.same State.ctxs fun _ _ p => apply_ctxs (sparing_part p (by decide) (by decide))
  have sregs : u.sregs = t.sregs := r.same State.sregs fun _ _ p => apply_sregs (sparing_part p (by decide) (by decide))
  have jobs : u.jobs = t.jobs := r.same State.jobs fun _ _ p => apply_jobs (sparing_part p (by decide) (by decide))
  constructor
  · exact jobs ▸ h.jobsWf
  · exact r.sparing_wf h.regsWf
  · exact ctxs ▸ h.ctxsWf
  · exact sregs ▸ h.sregsWf
  · rw [jobOf, jobs]
    exact h.released
  · rw [show u.kv = t.kv from r.same State.kv fun _ _ p => apply_kv (sparing_part p (by decide) (by decide))]
    exact h.queue
  · exact ctxs ▸ h.job
  · exact sregs ▸ h.tense
  · exact ctxs ▸ h.unsaved

theorem started_offCtxs {m : M s0 α} (h : Within offCtxs m) : Stays (Started j w ps fresh) m := stays_of_within h fun _ _ r e => e.offCtxs r

/-- A job is set that is released if it was. -/
theorem Started.setJob (h : Started j w ps fresh t) {i : Nat} {v : Job} (hv : v.released = (jobOf t i).released) :
    Started j w ps fresh ((Eff.job i v).apply t) :=
  { h with
    jobsWf := FMap.set_wf _ _ h.jobsWf
    released := by
      by_cases same : j = i
      · rw [← same, jobOf_setJob h.jobsWf, hv, ← same]
        exact h.released
      · exact (congrArg Job.released (FMap.get_set_other _ same)).trans h.released }

/-- A context is set with the job it had, and, where it is fresh, no more saved than it was. -/
theorem Started.setCtx (h : Started j w ps fresh t) {key : Nat} {c : Ctx} (job : c.job = (FMap.get ctx0 t.ctxs key).job)
    (saved : fresh key → c.saved = (FMap.get ctx0 t.ctxs key).saved) : Started j w ps fresh ((Eff.ctx key c).apply t) :=
  { h with
    ctxsWf := FMap.set_wf _ _ h.ctxsWf
    job := fun i hi => by
      rw [apply_ctx_ctxs, FMap.get_set h.ctxsWf]
      split
      · next eq => rw [job, ← eq, h.job i hi]
      · exact h.job i hi
    unsaved := fun i hi hf => by
      rw [apply_ctx_ctxs, FMap.get_set h.ctxsWf]
      split
      · next eq => rw [saved (eq ▸ hf), ← eq, h.unsaved i hi hf]
      · exact h.unsaved i hi hf }

/-- A scalar register of another context is set. -/
theorem Started.setSreg (h : Started j w ps fresh t) {key r : Nat} (hr : r < 64) (other : key ∉ ps) (v : Word) :
    Started j w ps fresh ((Eff.sreg (key * 64 + r) v).apply t) :=
  { h with
    sregsWf := FMap.set_wf _ _ h.sregsWf
    tense := fun i hi => by
      have ne : i ≠ key := fun eq => other (eq ▸ hi)
      rw [apply_sreg_sregs, FMap.get_set_other _ (by omega)]
      exact h.tense i hi }

theorem started_modCtx {l k : Nat} {f : Ctx → Ctx} (job : ∀ c, (f c).job = c.job) (saved : fresh (ctxKey l k) → ∀ c, (f c).saved = c.saved) :
    Stays (Started j w ps fresh) (modCtx l k f : M s0 Unit) := fun _ h => h.setCtx (job _) fun hf => saved hf _

theorem started_modJob {i : Nat} {f : Job → Job} (h : ∀ v, (f v).released = v.released) : Stays (Started j w ps fresh) (modJob i f : M s0 Unit) :=
  fun _ k => k.setJob (h _)

/-! Faults of an attempt. -/

theorem started_jobFaultD (i : Nat) : Stays (Started j w ps fresh) (jobFaultD i : M s0 Unit) :=
  fun _ h => lands_bind_getJob (lands_ite (h.setJob rfl) h)

theorem started_jobFaultH (i cause : Nat) : Stays (Started j w ps fresh) (jobFaultH i cause : M s0 Unit) :=
  fun _ h => lands_bind_getJob (lands_ite (h.setJob rfl) h)

theorem started_ctxFaultD (l k : Nat) : Stays (Started j w ps fresh) (ctxFaultD l k : M s0 Unit) := by
  refine stays_bind (started_offCtxs (within_getCtx _ _)) fun c => ?_
  split
  · refine stays_bind (started_jobFaultD _) fun _ => started_modJob fun v => ?_
    split <;> rfl
  · exact stays_pure _

/-- Merging the flag updates of a context may find a fault, and is otherwise work on memory (R190). -/
theorem started_mergeFlags (l k : Nat) : Stays (Started j w ps fresh) (mergeFlags l k : M s0 Unit) := by
  refine stays_bind (started_offCtxs (within_getCtx _ _)) fun c => stays_bind_st fun t _ => ?_
  split
  · exact stays_pure _
  split
  · exact stays_pure _
  dsimp only
  refine stays_bind (stays_loop fun u _ _ => ?_) fun _ => stays_pure _
  have done : Stays (Started j w ps fresh) (do eff (.flagUpd u.1 {}); pure (ForInStep.yield PUnit.unit) : M s0 (ForInStep PUnit)) :=
    stays_bind (started_offCtxs (within_eff rfl)) fun _ => stays_pure _
  refine stays_bind (started_offCtxs (offCtxs_of_offEngine (offEngine_portWait _ _ _))) fun _ => ?_
  refine stays_bind (started_offCtxs (offCtxs_gmAtomic _ _)) fun _ => stays_bind (started_offCtxs (offCtxs_of_storing (stores_setTags _ _ _))) fun _ => ?_
  refine stays_bind (started_offCtxs (offCtxs_recordAll _)) fun _ => stays_ite ?_ done
  refine stays_bind (started_offCtxs (within_getF _ _ _)) fun _ => stays_bind (started_offCtxs (fun _ => .refl)) fun _ => ?_
  exact stays_bind (started_offCtxs (offCtxs_of_storing (stores_record _))) fun _ => stays_bind (started_ctxFaultD _ _) fun _ => done

/-! A context read, and set further on. -/

/-- From where a context stands as it was read, a meaning leaves the contexts started. -/
def FromRead (j : Nat) (w : Word) (ps : List Nat) (fresh : Nat → Prop) (key : Nat) (c : Ctx) (m : M s0 α) : Prop :=
  ∀ g : Good s0, Started j w ps fresh g.val → FMap.get ctx0 g.val.ctxs key = c → Lands m g (Started j w ps fresh)

section
variable {key l k : Nat} {c d : Ctx} {m n : M s0 α} {f : α → M s0 β}

theorem stays_of_fromRead {f : Ctx → M s0 β} (h : ∀ c, FromRead j w ps fresh (ctxKey l k) c (f c)) :
    Stays (Started j w ps fresh) (getCtx l k >>= f) := fun g i => h _ g i rfl

theorem fromRead_of_stays (h : Stays (Started j w ps fresh) m) : FromRead j w ps fresh key c m := fun g i _ => h g i

/-- While only other things change, it stands as it was read. -/
theorem fromRead_bind (hm : Within offCtxs m) (rest : ∀ a, FromRead j w ps fresh key c (f a)) : FromRead j w ps fresh key c (m >>= f) := by
  intro g i e
  have r := hm g
  rw [Lands, eval_bind]
  generalize eval m g = x at r
  obtain ⟨x, u⟩ := x
  have started := i.offCtxs r
  have same : FMap.get ctx0 u.val.ctxs key = c := by
    rw [r.same State.ctxs fun _ _ p => apply_ctxs (sparing_part p (by decide) (by decide))]
    exact e
  cases x with
  | error x => exact started
  | ok a => exact rest a u started same

theorem fromRead_bind_st {f : State → M s0 β} (rest : ∀ t, FromRead j w ps fresh key c (f t)) : FromRead j w ps fresh key c (st >>= f) :=
  fun g i e => rest g.val g i e

theorem fromRead_ite {p : Prop} [Decidable p] (h : FromRead j w ps fresh key c m) (h' : FromRead j w ps fresh key c n) :
    FromRead j w ps fresh key c (if p then m else n) := by
  split <;> assumption

theorem fromRead_when {p : Prop} [Decidable p] {m : M s0 Unit} {f : Unit → M s0 β} (hm : Within offCtxs m) (rest : ∀ a, FromRead j w ps fresh key c (f a)) :
    FromRead j w ps fresh key c (if p then m >>= f else f ()) := fromRead_ite (fromRead_bind hm rest) (rest ())

/-- It is set with its job, and no more saved than it was. -/
theorem fromRead_setCtx (job : d.job = c.job) (saved : d.saved = c.saved) : FromRead j w ps fresh (ctxKey l k) c (setCtx l k d : M s0 Unit) :=
  fun _ i e => i.setCtx (job.trans (congrArg Ctx.job e).symm) fun _ => saved.trans (congrArg Ctx.saved e).symm

theorem fromRead_bind_setCtx {f : Unit → M s0 β} (job : d.job = c.job) (saved : d.saved = c.saved) (rest : Stays (Started j w ps fresh) (f ())) :
    FromRead j w ps fresh (ctxKey l k) c (setCtx l k d >>= f) :=
  fun g i e => lands_bind (fromRead_setCtx job saved g i e) fun _ => rest

end

/-- The other cores of a context stop waiting with their jobs (R125). -/
theorem started_stopWaiters (l k : Nat) : Stays (Started j w ps fresh) (stopWaiters l k : M s0 Unit) := by
  refine stays_bind_st fun t _ => ?_
  split
  · exact stays_pure _
  refine stays_bind (stays_loop fun m _ _ => stays_of_fromRead fun x => ?_) fun _ => stays_pure _
  split
  · exact fromRead_bind_setCtx rfl rfl (stays_pure _)
  · exact fromRead_bind_setCtx rfl rfl (stays_pure _)
  · exact fromRead_of_stays (stays_pure _)

theorem started_takeTrap (l k slot cause status detail op : Nat) :
    Stays (Started j w ps fresh) (takeTrap l k slot cause status detail op : M s0 Unit) := by
  have set {F : Fld} {v i : Nat} : Within offCtxs (setF F v l i : M s0 Unit) := within_setF_clear rfl
  have write {off : Nat} {v : Word} : Within offCtxs (wrReg off v : M s0 Unit) := within_wrReg rfl
  have last (c : Ctx) (r : Nat → Rec) : Stays (Started j w ps fresh) (do
      record (r (← pcoreOf l))
      match c.job with
      | some i => if trapClass cause status = 1 then ctxFaultD l k else jobFaultH i 9
      | none => pure ()
      stopWaiters l k : M s0 Unit) := by
    refine stays_bind (started_offCtxs (within_getF _ _ _)) fun _ => stays_bind (started_offCtxs (offCtxs_of_storing (stores_record _))) fun _ => ?_
    split
    · exact stays_ite (stays_bind (started_ctxFaultD _ _) fun _ => started_stopWaiters _ _)
        (stays_bind (started_jobFaultH _ _) fun _ => started_stopWaiters _ _)
    · exact started_stopWaiters _ _
  refine stays_of_fromRead fun c => fromRead_bind_st fun t => fromRead_bind (within_getF _ _ _) fun _ => fromRead_ite (fromRead_bind set fun _ => ?_)
    (fromRead_bind (within_getF _ _ _) fun _ => fromRead_bind write fun _ => fromRead_bind write fun _ => fromRead_bind write fun _ => ?_)
  all_goals
    refine fromRead_bind set fun _ => fromRead_bind_setCtx rfl rfl (stays_bind (started_offCtxs (within_getF _ _ _)) fun _ => stays_ite ?_ (last c _))
    refine stays_bind (started_offCtxs set) fun _ => stays_bind (started_offCtxs set) fun _ => stays_bind (started_offCtxs set) fun _ => ?_
    exact last c _

theorem started_bringIn (l k : Nat) : Stays (Started j w ps fresh) (bringIn l k : M s0 Unit) := by
  have set {F : Fld} {v i n : Nat} : Within offCtxs (setF F v i n : M s0 Unit) := within_setF_clear rfl
  have quota : Within offCtxs (coreQuota l k : M s0 Nat) := by
    refine within_bind (within_getCore _) fun _ => ?_
    split
    · exact within_bind within_st fun _ => within_pure _
    · exact within_bind within_st fun _ => within_bind (within_modCore fun _ => rfl) fun _ => within_bind within_st fun _ => within_pure _
  refine stays_bind_st fun _ _ => stays_bind (started_offCtxs set) fun _ => stays_bind (started_offCtxs set) fun _ => ?_
  refine stays_bind (started_offCtxs set) fun _ => stays_bind (started_offCtxs set) fun _ => ?_
  split
  on_goal 1 => refine stays_bind (started_offCtxs set) fun _ => stays_bind (started_offCtxs set) fun _ => ?_
  all_goals
    refine stays_bind (started_offCtxs quota) fun _ => stays_bind (started_offCtxs set) fun _ => stays_of_fromRead fun c => ?_
    refine fromRead_bind set fun _ => fromRead_bind set fun _ => fromRead_when set fun _ => fromRead_when set fun _ => ?_
    exact fromRead_setCtx rfl rfl

/-! Images of contexts (R121, R123). -/

theorem started_saveImage {l k : Nat} (old : ¬ fresh (ctxKey l k)) : Stays (Started j w ps fresh) (saveImage l k : M s0 Unit) := by
  have here {α : Type} {m : M s0 α} (h : Within offCtxs m) : Stays (Started j w ps fresh) m := started_offCtxs h
  have write {v : Option Nat} {o : Nat} {bs : List Byte} : Within offCtxs (saveBytes v o bs : M s0 Unit) := offCtxs_saveBytes _ _ _
  refine stays_bind_st fun _ _ => stays_bind (here (within_getCtx _ _)) fun c => ?_
  refine stays_bind (here (within_forIn fun r _ => within_bind (fun _ => .refl) fun _ => within_pure _)) fun _ => ?_
  refine stays_bind (here (within_forIn fun r _ => within_bind (fun _ => .refl) fun _ => within_pure _)) fun _ => ?_
  refine stays_bind (here (within_forIn fun r _ => within_bind (fun _ => .refl) fun _ => within_pure _)) fun _ => stays_bind (here write) fun _ => ?_
  refine stays_bind_st fun _ _ => stays_bind (here (offCtxs_freeBytes _)) fun _ => stays_bind (here write) fun _ => ?_
  refine stays_bind (here (within_forIn fun bank _ => within_bind (within_forIn fun r _ => within_bind (fun _ => .refl) fun _ => within_pure _)
    fun _ => within_pure _)) fun _ => stays_bind (here write) fun _ => ?_
  refine stays_bind (here (offCtxs_freeBytes _)) fun _ => stays_bind (here write) fun _ => ?_
  refine stays_bind (here (within_getCore _)) fun _ => stays_bind (here write) fun _ => ?_
  refine stays_bind (here (within_forIn fun r _ => within_bind (fun _ => .refl) fun _ => within_bind write fun _ => within_pure _)) fun _ => ?_
  refine stays_bind (here (within_forIn fun bank _ => within_bind (within_forIn fun r _ => within_bind (fun _ => .refl) fun _ => within_bind write fun _ =>
    within_bind (fun _ => .refl) fun _ => within_ite (within_bind write fun _ => within_pure _) (within_pure _)) fun _ => within_pure _)) fun _ => ?_
  refine stays_bind (here (within_forIn fun t _ => within_bind (fun _ => .refl) fun _ => within_bind (fun _ => .refl) fun _ =>
    within_bind write fun _ => within_pure _)) fun _ => ?_
  exact started_modCtx (fun _ => rfl) fun hf => absurd hf old

theorem started_restoreControl (l k : Nat) (d : List Byte) : Stays (Started j w ps fresh) (restoreControl l k d : M s0 Unit) :=
  stays_bind (started_modCtx (fun _ => rfl) fun _ _ => rfl) fun _ =>
    stays_bind (started_offCtxs (within_setF_clear rfl)) fun _ => started_offCtxs (within_setF_clear rfl)

theorem started_wrSreg {l k r : Nat} (hr : r < 64) (other : ctxKey l k ∉ ps) (v : Word) : Stays (Started j w ps fresh) (wrSreg l k r v : M s0 Unit) :=
  stays_ite (stays_pure _) fun _ h => h.setSreg hr other v

/-- The image of a context that is not one of them is read back. -/
theorem started_loadImage {l k : Nat} (other : ctxKey l k ∉ ps) : Stays (Started j w ps fresh) (loadImage l k : M s0 (List Nat × Option Nat)) := by
  have here {α : Type} {m : M s0 α} (h : Within offCtxs m) : Stays (Started j w ps fresh) m := started_offCtxs h
  have read {v bad : Option Nat} {o n : Nat} : Within offCtxs (loadBytes v bad o n : M s0 (Option Nat × List Byte)) := offCtxs_loadBytes _ _ _ _
  refine stays_bind (here (within_getCtx _ _)) fun _ => stays_bind (here (within_getCtx _ _)) fun _ => stays_bind (here read) fun x1 => ?_
  refine stays_bind (stays_loop fun r hr _ => stays_bind (started_wrSreg (List.mem_range.1 hr) other _) fun _ => stays_pure _) fun _ => ?_
  refine stays_bind (here (within_each fun r => within_eff rfl)) fun _ => ?_
  refine stays_bind (here (within_each fun r => within_ite (within_pure _) (within_eff rfl))) fun _ => stays_bind (here read) fun xc => ?_
  refine stays_bind (started_restoreControl _ _ _) fun _ => stays_bind (here read) fun x2 => stays_bind (here read) fun xg => ?_
  refine stays_bind (here (within_forIn fun r _ => within_bind read fun _ =>
    within_bind (within_bind (within_each fun _ => within_eff rfl) fun _ => within_pure _) fun _ => within_pure _)) fun _ => ?_
  have row {bank r : Nat} {v : List (BitVec 32)} {β : Type} (b : β) : Within offCtxs (do wrRow l k bank r v; pure (ForInStep.yield b) : M s0 (ForInStep β)) :=
    within_bind (within_bind (within_each fun _ => within_eff rfl) fun _ => within_pure _) fun _ => within_pure _
  refine stays_bind (here (within_forIn fun bank _ => within_bind (within_forIn fun r _ => within_bind (fun _ => .refl) fun _ => within_bind (within_eff rfl)
    fun _ => within_bind read fun _ => within_ite (within_bind read fun _ => row _) (row _)) fun _ => within_pure _)) fun _ => ?_
  refine stays_bind (here (within_forIn fun t _ => within_bind read fun _ => within_bind (within_bind (within_each fun _ => within_eff rfl) fun _ =>
    within_pure _) fun _ => within_bind (within_eff rfl) fun _ => within_pure _)) fun _ => stays_pure _

/-! A switch of contexts (R120, R121). -/

/-- The end of a switch: the regions of its own that are missing are loaded, the gather buffer is filled again, and the context runs. -/
def switchEnd (l k : Nat) (switched : Bool) (mine : List Region) (lines : List Nat) (failed : Option Nat) : M s0 Unit := do
  let mut bad := failed
  for r in mine do
    if !(← getCore l).resident.contains (k, r.num) then
      let b ← loadRegion l k r
      if bad.isNone then bad := b
  setGather l []
  for line in lines do
    let (e, evs) ← gbFill l line
    recordAll (ofJob (← getCtx l k).job evs)
    setGather l ((← getCore l).gather ++ [e])
  bringIn l k
  if switched then countWrap R.CORE_SWITCHES_SWITCHES l
  match bad with
  | some a => takeTrap l k 0 Trap.saveUe 0 ((← ownChip) * 2 ^ 48 + a) 0
  | none => return ()

/-- What a switch does for the context that comes in. -/
def switchIn (l k : Nat) (switched : Bool) : M s0 Unit := do
  modCore l (fun c => { c with quotas := [] })
  let mine := privateIn (← st) l k
  for q in (← getCore l).resident do
    if q.1 ≠ k then
      match (regionsIn (← st) l).find? (fun r => r.num == q.2) with
      | some r => if mine.any (overlaps r) then saveRegion l q.1 r
      | none => pure ()
  if (← getCtx l k).saved then
    let r ← loadImage l k
    switchEnd l k switched mine r.1 r.2
  else switchEnd l k switched mine [] none

theorem switchTo_none (l k : Nat) : (switchTo l none k : M s0 Unit) = (do gbFlushAll l; switchIn l k false) := rfl
theorem switchTo_some (l o k : Nat) : (switchTo l (some o) k : M s0 Unit) = (do
    mergeFlags l o
    gbFlushAll l
    setF R.MX_STAT_ENABLED 0 l
    setF R.MX_STAT_RAMPDOWN 0 l
    modCore l (fun c => { c with ramp := 0 })
    saveImage l o
    modCtx l o (fun c => { c with early := none })
    switchIn l k true) := rfl

theorem started_switchEnd (l k : Nat) (switched : Bool) (mine : List Region) (lines : List Nat) (failed : Option Nat) :
    Stays (Started j w ps fresh) (switchEnd l k switched mine lines failed : M s0 Unit) := by
  have here {α : Type} {m : M s0 α} (h : Within offCtxs m) : Stays (Started j w ps fresh) m := started_offCtxs h
  refine stays_bind (here (within_forIn fun r bad => within_bind (within_getCore _) fun _ => within_ite ?_ (within_pure _))) fun bad => ?_
  · exact within_bind (offCtxs_loadRegion _ _ _) fun _ => within_ite (within_pure _) (within_pure _)
  refine stays_bind (here (offCtxs_setGather _ _)) fun _ => stays_bind (here (within_forIn fun line _ => within_bind (offCtxs_gbFill _ _) fun _ =>
    within_bind (within_getCtx _ _) fun _ => within_bind (offCtxs_recordAll _) fun _ => within_bind (within_getCore _) fun _ =>
      within_bind (offCtxs_setGather _ _) fun _ => within_pure _)) fun _ => ?_
  refine stays_bind (started_bringIn _ _) fun _ => stays_when (here (within_countWrap_clear rfl)) fun _ => ?_
  split
  · exact stays_bind (here fun _ => .refl) fun _ => started_takeTrap _ _ _ _ _ _ _
  · exact stays_pure _

/-- Only a saved image is loaded, and none that is fresh is. -/
theorem started_switchIn {l k : Nat} (new : fresh (ctxKey l k)) (switched : Bool) :
    Stays (Started j w ps fresh) (switchIn l k switched : M s0 Unit) := by
  have here {α : Type} {m : M s0 α} (h : Within offCtxs m) : Stays (Started j w ps fresh) m := started_offCtxs h
  refine stays_bind (here (within_modCore fun _ => rfl)) fun _ => stays_bind_st fun t _ => stays_bind (here (within_getCore _)) fun _ => ?_
  refine stays_bind (here (within_forIn fun q _ => within_ite (within_bind within_st fun _ => ?_) (within_pure _))) fun _ =>
    stays_of_fromRead fun c g i e => ?_
  · split
    · exact within_ite (within_bind (offCtxs_saveRegion _ _ _) fun _ => within_pure _) (within_pure _)
    · exact within_pure _
  split
  · next saved =>
    have other : ctxKey l k ∉ ps := fun hk => by simp [← e, i.unsaved _ hk new] at saved
    exact stays_bind (started_loadImage other) (fun _ => started_switchEnd _ _ _ _ _ _) g i
  · exact started_switchEnd _ _ _ _ _ _ g i

/-- A switch saves the context that goes out and brings another in. -/
theorem started_switchTo {l k : Nat} {out : Option Nat} (old : ∀ o, out = some o → ¬ fresh (ctxKey l o)) (new : fresh (ctxKey l k)) :
    Stays (Started j w ps fresh) (switchTo l out k : M s0 Unit) := by
  have here {α : Type} {m : M s0 α} (h : Within offCtxs m) : Stays (Started j w ps fresh) m := started_offCtxs h
  cases out with
  | none =>
    rw [switchTo_none]
    exact stays_bind (here (offCtxs_gbFlushAll _)) fun _ => started_switchIn new _
  | some o =>
    rw [switchTo_some]
    refine stays_bind (started_mergeFlags _ _) fun _ => stays_bind (here (offCtxs_gbFlushAll _)) fun _ => stays_bind (here (within_setF_clear rfl)) fun _ => ?_
    refine stays_bind (here (within_setF_clear rfl)) fun _ => stays_bind (here (within_modCore fun _ => rfl)) fun _ => ?_
    exact stays_bind (started_saveImage (old o rfl)) fun _ => stays_bind (started_modCtx (fun _ => rfl) fun _ _ => rfl) fun _ => started_switchIn new _

/-- Waking a core leaves what is started on the others fresh. -/
theorem started_wakeCore {l : Nat} {rest : List Nat} (notLater : l ∉ rest) {g : Good s0}
    (h : Started j w ps (· / 16 ∈ l :: rest) g.val) : Lands (wakeCore l) g (Started j w ps (· / 16 ∈ rest)) := by
  have core {k : Nat} (hk : k < 16) : ctxKey l k / 16 = l := by
    rw [ctxKey]
    omega
  have less : Started j w ps (· / 16 ∈ rest) g.val := h.mono (fun _ hk => hk) fun _ _ hr => List.mem_cons_of_mem _ hr
  refine lands_bind_st ?_
  dsimp only
  refine lands_ite less ?_
  split
  · exact lands_ite (started_bringIn _ _ g less) less
  · next idle =>
    split
    swap
    · exact less
    split
    swap
    · exact less
    next k next =>
    have runs : runnableIn g.val l k = true := List.find?_some next
    have hk : k < 16 := by
      obtain ⟨i, -, rfl⟩ := List.mem_map.1 (List.mem_of_find?_eq_some next)
      exact Nat.mod_lt _ (by decide)
    have hcur : fieldIn g.val R.CORE_STATUS_SLOT l 0 < 16 := fieldIn_lt _ _ _ _
    have both : Started j w ps (fun key => key / 16 ∈ rest ∨ key = ctxKey l k) g.val := h.mono (fun _ hk => hk) fun key _ hf =>
      hf.elim (List.mem_cons_of_mem _) fun eq => by simp [eq, core hk]
    refine Lands.mono (started_switchTo (fun o ho => ?_) (.inr rfl) g both) fun _ u => u.mono (fun _ hk => hk) fun _ _ => .inl
    obtain rfl : fieldIn g.val R.CORE_STATUS_SLOT l 0 = o := by
      split at ho
      · exact Option.some.inj ho
      · cases ho
    rintro (mem | eq)
    · exact notLater (core hcur ▸ mem)
    · have same : fieldIn g.val R.CORE_STATUS_SLOT l 0 = k := by
        rw [ctxKey, ctxKey] at eq
        omega
      exact idle (same ▸ runs)

/-- One core after the other is woken. -/
theorem started_wakeCores {ls : List Nat} (nodup : ls.Nodup) {g : Good s0} (h : Started j w ps (· / 16 ∈ ls) g.val) :
    Lands (forIn ls PUnit.unit fun l _ => do wakeCore l; pure (ForInStep.yield PUnit.unit)) g (Started j w ps fun _ => False) := by
  induction ls generalizing g with
  | nil => exact h.mono (fun _ hk => hk) fun _ _ => False.elim
  | cons l ls ih =>
    obtain ⟨notLater, nodup⟩ := List.nodup_cons.1 nodup
    rw [List.forIn_cons, bind_assoc]
    exact lands_seq (started_wakeCore notLater h) (fun _ woken => woken.mono (fun _ hk => hk) fun _ _ => False.elim) fun _ _ woken => ih nodup woken

/-! Starting the contexts (R93). -/

/-- Clearing a context's registers leaves the others started. -/
theorem Started.clearCtx (h : Started j w ps fresh t) (key : Nat) : Started j w (ps.filter (· ≠ key)) fresh ((Eff.clearCtx key).apply t) :=
  { h.mono (fresh' := fresh) (fun _ hk => List.mem_of_mem_filter hk) fun _ _ => id with
    sregsWf := FMap.keep_wf _ h.sregsWf
    tense := fun i hi => by
      obtain ⟨mem, ne⟩ := List.mem_filter.1 hi
      have out : inCtx key 64 (i * 64 + 1) = false := by
        rw [inCtx, show (i * 64 + 1) / 64 = i by omega]
        simpa using ne
      have kept : FMap.get zeroWord ((Eff.clearCtx key).apply t).sregs (i * 64 + 1) = FMap.get zeroWord t.sregs (i * 64 + 1) :=
        (FMap.get_keep h.sregsWf _ _).trans (by rw [out]; rfl)
      exact kept.trans (h.tense i mem) }

/-- One more context is given to the job, with the tense in s1. -/
theorem Started.begin (h : Started j w ps fresh t) {key : Nat} {c : Ctx} (other : key ∉ ps) (job : c.job = some j) (saved : c.saved = false) :
    Started j w (key :: ps) fresh ((Eff.sreg (key * 64 + 1) w).apply ((Eff.ctx key c).apply t)) := by
  have own : FMap.get ctx0 ((Eff.ctx key c).apply t).ctxs key = c := (FMap.get_set h.ctxsWf key c key).trans (if_pos rfl)
  have rest : ∀ i ∈ ps, FMap.get ctx0 ((Eff.ctx key c).apply t).ctxs i = FMap.get ctx0 t.ctxs i :=
    fun i hi => FMap.get_set_other _ fun eq => other (eq ▸ hi)
  have s1 : FMap.get zeroWord ((Eff.sreg (key * 64 + 1) w).apply ((Eff.ctx key c).apply t)).sregs (key * 64 + 1) = w :=
    (FMap.get_set h.sregsWf _ _ _).trans (if_pos rfl)
  have s1rest : ∀ i ∈ ps, FMap.get zeroWord ((Eff.sreg (key * 64 + 1) w).apply ((Eff.ctx key c).apply t)).sregs (i * 64 + 1) =
      FMap.get zeroWord t.sregs (i * 64 + 1) := fun i hi => FMap.get_set_other _ fun eq => other (by
    obtain rfl : i = key := by omega
    exact hi)
  exact
    { h with
      ctxsWf := FMap.set_wf _ _ h.ctxsWf
      sregsWf := FMap.set_wf _ _ h.sregsWf
      job := List.forall_mem_cons.2 ⟨(congrArg Ctx.job own).trans job, fun i hi => (congrArg Ctx.job (rest i hi)).trans (h.job i hi)⟩
      tense := List.forall_mem_cons.2 ⟨s1, fun i hi => (s1rest i hi).trans (h.tense i hi)⟩
      unsaved := List.forall_mem_cons.2 ⟨fun _ => (congrArg Ctx.saved own).trans saved,
        fun i hi hf => (congrArg Ctx.saved (rest i hi)).trans (h.unsaved i hi hf)⟩ }

/-- Another scalar register is set than s1. -/
theorem Started.setOther (h : Started j w ps fresh t) {key r : Nat} (hr : r < 64) (other : r ≠ 1) (v : Word) :
    Started j w ps fresh ((Eff.sreg (key * 64 + r) v).apply t) :=
  { h with
    sregsWf := FMap.set_wf _ _ h.sregsWf
    tense := fun i hi => (FMap.get_set_other (d := zeroWord) v (by omega)).trans (h.tense i hi) }

/-- A context is started as one more of them. -/
theorem leads_startCtx {l k : Nat} {e : JobCtx} {tense : Nat} {g : Good s0} (h : Started j (BitVec.ofNat 64 tense) ps (fun _ => True) g.val) :
    Leads (startCtx j tense l k e) g fun _ => Started j (BitVec.ofNat 64 tense) (ctxKey l k :: ps) fun _ => True := by
  have keeps {α : Type} {m : M s0 α} (h : Ends offCtxs m) : Keeps (Started j (BitVec.ofNat 64 tense) (ctxKey l k :: ps) fun _ => True) m :=
    keeps_of_ends h fun _ _ r i => i.offCtxs r
  have set {F : Fld} {v i n : Nat} : Keeps (Started j (BitVec.ofNat 64 tense) (ctxKey l k :: ps) fun _ => True) (setF F v i n : M s0 Unit) :=
    keeps (ends_setF_clear rfl)
  have partials : Ends offCtxs (dropPartials l k : M s0 Unit) := ends_bind ends_st fun _ => ends_eff rfl
  refine leads_bind_st (leads_bind_eff fun u1 e1 => leads_bind (leads_of_ends partials u1) fun _ u2 r => ?_)
  refine leads_bind_eff fun u3 e3 => leads_bind_eff fun u4 e4 => leads_bind_eff fun u5 e5 => ?_
  have cleared : Started j (BitVec.ofNat 64 tense) (ps.filter (· ≠ ctxKey l k)) (fun _ => True) u2.val := (e1 ▸ h.clearCtx _).offCtxs r
  have begun : Started j (BitVec.ofNat 64 tense) (ctxKey l k :: ps) (fun _ => True) u4.val := by
    rw [e4, e3]
    refine (cleared.begin (by simp) rfl rfl).mono (fun i hi => ?_) fun _ _ => id
    by_cases same : i = ctxKey l k
    · exact same ▸ List.mem_cons_self
    · exact List.mem_cons_of_mem _ (List.mem_filter.2 ⟨(List.mem_cons.1 hi).resolve_left same, by simpa using same⟩)
  refine keeps_bind set (fun _ => keeps_bind set fun _ => keeps_bind set fun _ => keeps ?_) u5 (e5 ▸ begun.setOther (by decide) (by decide) _)
  refine ends_bind (ends_loop fun ch _ _ => ends_bind (ends_read fun _ => ⟨_, rfl⟩) fun d => ?_) fun _ => ends_pure _
  exact ends_ite (ends_bind (ends_eff rfl) fun _ => ends_pure _) (ends_pure _)

/-- The contexts of a list are started one after the other. -/
theorem leads_startCtxs {tense : Nat} (l : List (Nat × Nat × JobCtx)) {g : Good s0}
    (h : Started j (BitVec.ofNat 64 tense) ps (fun _ => True) g.val) :
    Leads (forIn l PUnit.unit fun p _ => do startCtx j tense p.1 p.2.1 p.2.2; pure (ForInStep.yield PUnit.unit)) g fun _ =>
      Started j (BitVec.ofNat 64 tense) (l.map (fun p => ctxKey p.1 p.2.1) ++ ps) fun _ => True := by
  induction l generalizing g ps with
  | nil => exact leads_pure h
  | cons p l ih =>
    rw [List.forIn_cons, bind_assoc]
    refine leads_bind (leads_startCtx h) fun _ _ k => (ih k).mono fun _ _ i => i.mono (fun key hk => ?_) fun _ _ => id
    simp only [List.map_cons, List.cons_append, List.mem_cons, List.mem_append] at hk ⊢
    tauto

/-! The release (R93, R230). -/

/-- What a release leaves: the tense released and its contexts started. -/
structure TenseReleased (j : Nat) (s u : State) : Prop where
  released : (jobOf u j).released = true
  job : ∀ p ∈ partsIn s j, (FMap.get ctx0 u.ctxs (ctxKey p.1 p.2.1)).job = some j
  tense : ∀ p ∈ partsIn s j, FMap.get zeroWord u.sregs (ctxKey p.1 p.2.1 * 64 + 1) = BitVec.ofNat 64 (jobTenseIn s j)

theorem Started.tenseReleased (h : Started j (BitVec.ofNat 64 (jobTenseIn s j)) ((partsIn s j).map fun p => ctxKey p.1 p.2.1) fresh t)
    (e : Endures t u) : TenseReleased j s u where
  released := (congrArg Job.released (e.jobs j)).trans h.released
  job p hp := ((e.manned h.ctxsWf).2 _).trans (h.job _ (List.mem_map_of_mem hp))
  tense p hp := by
    rw [e.sregs]
    exact h.tense _ (List.mem_map_of_mem hp)

/-- A tense whose rows are there is released. -/
theorem lands_releaseTense {g : Good s0} (jobs : FMap.wf job0 g.val.jobs = true) (regs : FMap.wf resetValue g.val.regs = true)
    (ctxs : FMap.wf ctx0 g.val.ctxs = true) (sregs : FMap.wf zeroWord g.val.sregs = true) (queue : g.val.kv.queue = [])
    (state : jobStateIn g.val j = 2) (isOpen : (jobOf g.val j).isOpen = true) (phase : (jobOf g.val j).phase = 3)
    (unreleased : (jobOf g.val j).released = false) (fetched : fetchedIn g.val (jobNumIn g.val j) = true) :
    Lands (releaseTense j) g (TenseReleased j g.val) := by
  refine lands_bind_st (lands_bind_getJob ?_)
  rw [if_pos (by simp [state, isOpen, phase, unreleased, fetched])]
  refine lands_bind_eff fun u1 e1 => ?_
  have none : Started j (BitVec.ofNat 64 (jobTenseIn g.val j)) [] (fun _ => True) u1.val := by
    rw [e1]
    exact ⟨FMap.set_wf _ _ jobs, regs, ctxs, sregs, by rw [jobOf_setJob jobs], queue, by simp, by simp, by simp⟩
  refine lands_bind_leads (leads_startCtxs (partsIn g.val j) none) fun _ u2 all => ?_
  rw [List.append_nil] at all
  refine lands_seq (started_wakeCores (List.nodup_dedup _) (all.mono (fun _ hk => hk) fun _ _ _ => trivial)) (fun u woken => ?_) fun _ u3 woken => ?_
  · exact woken.tenseReleased (.refl woken.jobsWf woken.regsWf)
  · refine Lands.mono (R := TenseReleased j g.val) (lands_bind_st (endures_kvServe woken.queue _ u3 (.refl woken.jobsWf woken.regsWf))) fun _ => woken.tenseReleased

end Sys2Proof.Machine
end

section
/-! OBLIGATION O31. -/

namespace Sys2Proof.Machine

open Sys2Proof

variable {s t : State} {j : Nat}

/-- Where a meaning lands holds of what it gives. -/
theorem Lands.of_gives {α : Type} {m : M s α} {a : α} {Q : State → Prop} (l : Lands m ⟨s, .refl⟩ Q) (h : gives s m = (.ok a, t)) : Q t := by
  obtain ⟨_, e⟩ := eval_of_gives h
  rw [Lands, e] at l
  exact l

theorem run_of_gives {m : M s Unit} (h : gives s m = (.ok (), t)) : run s m = t := by
  obtain ⟨_, e⟩ := eval_of_gives h
  exact run_of_ok e

theorem tenseOpen_runs (hj : j < 16) (h : gives s (openTense j) = (.ok (), t)) : exec (.tenseOpen j) s = .next t := by
  change Host.Outcome.next (run s (if j < 16 then openTense j else pure ())) = _
  rw [if_pos hj, run_of_gives h]

theorem tenseRelease_runs (hj : j < 16) (h : gives s (releaseTense j) = (.ok (), t)) : exec (.tenseRelease j) s = .next t := by
  change Host.Outcome.next (run s (if j < 16 then releaseTense j else pure ())) = _
  rw [if_pos hj, run_of_gives h]

/-- An attempt begun is open, of the next tense, with one release fewer and a fresh serial unless it is a rerun. -/
theorem AttemptBegun.shows (h : AttemptBegun j s t) : (jobOf t j).isOpen = true ∧ (jobOf t j).opened = nextTenseIn s j ∧
    jobTenseIn t j = nextTenseIn s j ∧ (jobOf t j).release = (if (jobOf s j).rerun then (jobOf s j).release else (jobOf s j).release - 1) ∧
    (jobOf t j).voted = none ∧ (jobOf t j).serial = (if (jobOf s j).rerun then (jobOf s j).serial else 0) ∧
    (jobOf t j).committed = (jobOf s j).committed ∧ (jobOf t j).parity = (jobOf s j).parity := by
  obtain ⟨⟨taint, policies, job⟩, tense⟩ := h
  exact ⟨congrArg Job.isOpen job, congrArg Job.opened job, tense, congrArg Job.release job, congrArg Job.voted job, congrArg Job.serial job,
    (congrArg Job.committed job :), (congrArg Job.parity job :)⟩

end Sys2Proof.Machine

open Sys2Proof Sys2Proof.Machine

/-- Settles O31: an opening begins the attempt before anything in it can wait, and what follows keeps what lasts of it; a release starts the
contexts before their cores are woken, and no switch of contexts gives a started one another job or s1; a timer's retraction or confirmation
settles what it covers unless the job is held. -/
theorem tensesOpenAndTimers : Obligations.TensesOpenAndTimers := by
  unfold Obligations.TensesOpenAndTimers
  refine ⟨fun s j hj jobs ctxs sregs regs state => ⟨fun closed due power free queue => ?_, fun isOpen phase unreleased queue fetched t h => ?_⟩,
    fun s j hj jobs regs => ⟨fun waits state => ?_, fun serial e found unanswered => ?_, fun chip isOpen state => ?_⟩⟩
  · have may : mayOpenIn s j = true := by
      have due' : (jobOf s j).rerun = true ∨ 0 < (jobOf s j).release := due
      have closed' : (jobOf s j).isOpen = false := closed
      simpa [mayOpenIn, state, power, jobOf] using And.intro closed' due'
    refine ⟨fun seqs => ?_, fun t h => ⟨tenseOpen_runs hj h, ?_⟩⟩
    · obtain ⟨_, u, e, -⟩ := leads_openTense (g := ⟨s, .refl⟩) hj jobs regs seqs free queue
      rw [gives_eq e]
    · exact ((lands_openTense hj jobs regs may free queue).of_gives h).shows
  · have lands : Lands (releaseTense j) ⟨s, .refl⟩ (TenseReleased j s) :=
      lands_releaseTense (g := ⟨s, .refl⟩) jobs regs ctxs sregs queue state isOpen phase unreleased fetched
    have r : TenseReleased j s t := lands.of_gives h
    exact ⟨tenseRelease_runs hj h, r.released, fun p hp => ⟨r.job p hp, r.tense p hp⟩⟩
  · obtain ⟨t, runs, held, lasting⟩ := stepHoldTimeout_holds hj jobs regs waits state
    refine ⟨t, runs, held.state, held.cause, held.source.trans (Nat.mod_eq_of_lt (fieldIn_lt _ _ _ _)), held.waits, ?_, ?_⟩
    · exact (congrArg Job.committed lasting :)
    · exact (congrArg Job.parity lasting :)
  · exact tentativeBoundExpiry_retracts hj jobs regs found unanswered
  · exact sweepSend_cases hj jobs regs isOpen state chip

end

section
/-! SUPPORT. Reading memory spares all that writing it does: of a read, too, only the memory, its controllers and the counts change (R281 to R305). -/

namespace Sys2Proof.Machine

open Sys2Proof

variable {s0 : State}

theorem stores_gmReadPiece (o n : Nat) : Ends storing (gmReadPiece o n : M s0 (Nat × List Byte × List Rec)) := by
  refine ends_bind (ends_read fun _ => ⟨_, rfl⟩) fun blocks => ?_
  split
  · exact ends_pure _
  · rename_i place
    refine ends_bind ends_st fun s => ?_
    split
    · exact stores_gdReadSpan (gddrAt_lt place) _ _ _
    · exact ends_bind (stores_cxRead (gddrAt_lt place) _ _) fun _ => ends_pure _

/-- A read of the module's GDDR7 that need not wait always ends. -/
theorem stores_gmRead (o n : Nat) : Ends storing (gmRead o n : M s0 (Nat × List Byte × List Rec)) := by
  have keep {σ : Type} (c : Prop) [Decidable c] (x y : σ) :
      Ends storing (if c then pure (ForInStep.yield x) else pure (ForInStep.yield y) : M s0 (ForInStep σ)) :=
    ends_ite (ends_pure _) (ends_pure _)
  refine ends_bind (ends_loop fun p _ x => stores_directRange_bind _ ?none ?some) fun _ => ends_pure _
  case none =>
    exact ends_bind (ends_loop fun q _ _ => ends_bind (stores_gmReadPiece _ _) fun _ => keep _ _ _) fun _ => ends_pure _
  case some => exact fun k b i hk => ends_bind (stores_cxRead hk _ _) fun _ => keep _ _ _

end Sys2Proof.Machine
end

section
/-! SUPPORT. What a load of a stream does beside the structure, the scratchpads and the AQ registers: it reads the stream, brings the lanes to their
roles, notes the change and answers the queue (R81 to R86, R472, R515). All of it leaves those as they are. -/

namespace Sys2Proof.Machine

open Sys2Proof

variable {s0 : State} {α : Type}

/-- What leaves alone the structure, the load under way, the scratchpads, and the register blocks of the device and of the stream. -/
abbrev offStream : Eff → Prop := sparing [.spad, .stream, .load] [0x00, 0x01]

theorem offStream_of_storing {m : M s0 α} (h : Ends storing m) : Ends offStream m := ends_mono h (sparing_mono (by decide) (by decide))

/-! Reading the stream (R81, R83 step 1). -/

theorem offStream_rdGddr (o n : Nat) (job : Option Nat) : Within offStream (rdGddr o n job : M s0 (Nat × List Byte)) :=
  within_bind (within_bind within_st fun _ => within_need _ _) fun _ =>
    within_bind (within_of_ends (offStream_of_storing (stores_gmRead _ _))) fun _ =>
      within_bind (within_of_ends (offStream_of_storing (stores_recordAll _))) fun _ => within_pure _

theorem offStream_hostFetch (addr len : Nat) (host : HostRead) : Within offStream (hostFetch addr len host : M s0 (Nat × List Byte)) := by
  have note : Within offStream (noteOutcome host.outcome : M s0 Unit) :=
    within_bind within_st fun _ => within_when (within_eff rfl) fun _ => within_ite (within_eff rfl) (within_pure _)
  have send : Within offStream (hostEmit (.hostRead addr len) : M s0 Bool) :=
    within_bind (within_getF _ _ _) fun _ => within_ite (within_bind (within_eff rfl) fun _ => within_pure _) (within_pure _)
  exact within_bind send fun _ => within_when note fun _ => within_bind within_st fun _ => within_pure _

theorem offStream_readOwn (a len : Nat) : Within offStream (readOwn a len : M s0 (Option (List Byte))) := by
  refine within_ite (within_pure _) (within_bind (fun _ => .refl) fun o => ?_)
  split
  · exact within_pure _
  · split
    · exact within_bind (offStream_rdGddr _ _ _) fun _ => within_pure _
    all_goals exact within_pure _

theorem offStream_readQueued (src len : Nat) (fromHost : Bool) (host : HostRead) :
    Within offStream (readQueued src len fromHost host : M s0 (Option (List Byte))) :=
  within_ite (within_bind (offStream_hostFetch _ _ _) fun _ => within_pure _) (offStream_readOwn _ _)

theorem offStream_readStream (source : LoadFrom) (host : HostRead) : Within offStream (readStream source host : M s0 (Option (List Byte))) := by
  cases source with
  | registers src len => exact offStream_readOwn _ _
  | queue q cid src len h => exact offStream_readQueued _ _ _ _
  | unanswered src len h => exact offStream_readQueued _ _ _ _

theorem offStream_partialBytes (n : Nat) : Ends offStream (partialBytes n : M s0 Nat) := by
  induction n with
  | zero => exact ends_pure _
  | succ n ih =>
    refine ends_bind ih fun _ => ends_bind (ends_read fun _ => ⟨_, rfl⟩) fun _ => ?_
    exact ends_bind (offStream_of_storing (stores_gmRead _ _)) fun _ => ends_pure _

/-! The lanes (R75, R86, R358). -/

theorem offStream_modLane (i : Nat) (f : Lane → Lane) : Ends offStream (modLane i f : M s0 Unit) :=
  ends_bind (ends_getLane i) fun _ => ends_eff rfl

theorem offStream_startTraining (i : Nat) (full : Bool) (cause : Nat) : Ends offStream (startTraining i full cause : M s0 Unit) := by
  refine ends_bind (ends_getF _ _ _) fun _ => ends_ite (ends_bind (offStream_modLane _ _) fun _ => ends_ite ?_ ?_) (ends_pure _)
  · exact ends_bind (ends_setF_clear rfl) fun _ => ends_countWrap_clear rfl
  · exact ends_bind (ends_setF_clear rfl) fun _ => ends_bind (ends_setF_clear rfl) fun _ => ends_countWrap_clear rfl

theorem offStream_sendPacket (p : Packet) (arrived : Option Nat) : Ends offStream (sendPacket p arrived : M s0 (Option Nat)) := by
  refine ends_bind ends_st fun s => ?_
  split
  · exact ends_bind (offStream_modLane _ _) fun _ => ends_pure _
  · exact ends_pure _

theorem offStream_rerouteQueue (i : Nat) : Ends offStream (rerouteQueue i : M s0 Unit) := by
  refine ends_bind (ends_getLane i) fun x => ends_bind (offStream_modLane _ _) fun _ => ends_bind (ends_loop fun p _ _ => ?_) fun _ => ends_pure _
  refine ends_bind (offStream_sendPacket _ _) ?_
  rintro (_ | lane)
  · exact ends_bind (offStream_modLane _ _) fun _ => ends_pure _
  · exact ends_pure _

theorem offStream_trainLane (i : Nat) : Ends offStream (trainLane i : M s0 Unit) :=
  ends_bind (offStream_modLane _ _) fun _ => offStream_startTraining _ _ _

theorem offStream_takeRole (i : Nat) : Ends offStream (takeRole i : M s0 Unit) := by
  refine ends_bind ends_st fun s => ?_
  split
  · exact ends_pure _
  · refine ends_bind (offStream_modLane _ _) fun _ => ends_bind (ends_setF_clear rfl) fun _ => ends_ite ?_ (ends_ite ?_ (ends_pure _))
    · exact ends_bind (ends_setF_clear rfl) fun _ => offStream_rerouteQueue i
    · exact ends_bind (offStream_trainLane i) fun _ => offStream_rerouteQueue i

/-- The lanes take the roles of the structure that stands. -/
theorem offStream_applyLanes (part : Bool) : Ends offStream (applyLanes part : M s0 Unit) := by
  refine ends_bind (ends_loop fun i _ _ => ends_bind ends_st fun s => ?_) fun _ => ends_pure _
  refine ends_ite (ends_bind (ends_read fun _ => ⟨_, rfl⟩) fun r => ends_bind (offStream_of_storing (stores_record r)) fun _ => ?_) ?_
  all_goals
    refine ends_ite (ends_ite ?_ ?_) ?_
    · exact ends_bind (offStream_modLane _ _) fun _ => ends_pure _
    · exact ends_bind (offStream_takeRole i) fun _ => ends_pure _
    · exact ends_bind (offStream_modLane _ _) fun _ => ends_pure _

/-! The register of changes (R83 step 5, R515, R516). -/

theorem offStream_sealEntry (body : List Byte) : Ends offStream (sealEntry body : M s0 Unit) := by
  refine ends_bind ends_st fun _ => ends_bind (ends_eff rfl) fun _ => ends_bind (ends_setF_clear rfl) fun _ => ?_
  exact ends_bind (ends_each fun _ _ => ends_wrReg_clear rfl) fun _ => ends_pure _

theorem offStream_writeChange (body : List Byte) : Ends offStream (writeChange body : M s0 Bool) := by
  have segment : Ends offStream (startSegment : M s0 Unit) := by
    refine ends_bind ends_st fun _ => ends_ite (ends_bind (ends_ite (ends_pure _) ?_) fun _ => ?_) (ends_pure _)
    · exact ends_bind (ends_freeWord_of rfl) fun _ => ends_pure _
    · exact ends_bind (offStream_sealEntry _) fun _ => ends_bind ends_st fun _ => ends_eff rfl
  exact ends_bind ends_st fun _ => ends_ite (ends_pure _) (ends_bind segment fun _ => ends_bind (offStream_sealEntry _) fun _ => ends_pure _)

/-- A load that has been applied is entered in the register of changes. -/
theorem offStream_noteLoad (d : List Byte) : Ends offStream (noteLoad d : M s0 Unit) := by
  refine ends_bind ends_st fun _ => ends_bind ends_st fun _ => ends_bind (offStream_writeChange _) fun _ => ends_ite ?_ (ends_pure _)
  exact ends_bind (ends_setF_clear rfl) fun _ => ends_bind (ends_eff rfl) fun _ => ends_setF_clear rfl

/-! The answer (R83 step 6, R472, R475). -/

theorem offStream_postEntry (c : Nat) (bs : List Byte) : Ends offStream (postEntry c bs : M s0 Unit) := by
  have write : Ends offStream (writeEntry c bs : M s0 Unit) := by
    refine ends_bind (ends_getF _ _ _) fun _ => ends_bind (ends_getF _ _ _) fun _ => ends_bind (ends_getF _ _ _) fun _ => ?_
    refine ends_bind (ends_eff rfl) fun _ => ends_bind ends_st fun _ => ends_bind (ends_setF_clear rfl) fun _ => ?_
    exact ends_when (ends_setF_clear rfl) fun _ => ends_bind (ends_getF _ _ _) fun _ => offStream_of_storing (stores_sendMsix _)
  exact ends_bind ends_st fun _ => ends_ite (ends_countSat_clear rfl) (ends_ite (ends_eff rfl) write)

theorem offStream_complete (q cid type status detail jobNum tense : Nat) :
    Ends offStream (complete q cid type status detail jobNum tense : M s0 Unit) := ends_bind (ends_getF _ _ _) fun _ => offStream_postEntry _ _

/-! The cores show their clause's mode (R165). -/

theorem offStream_showModes : Ends offStream (showModes : M s0 Unit) :=
  ends_bind ends_st fun _ => ends_bind (ends_loop fun _ _ _ => ends_bind (ends_setF_clear rfl) fun _ => ends_pure _) fun _ => ends_pure _

end Sys2Proof.Machine
end

section
/-! SUPPORT. What stands while a stream is loaded, and applying it (R74, R84, R86). -/

namespace Sys2Proof

/-- A table without some keys, in whatever form it is: those read as unlisted, every other as before. -/
theorem FMap.get_keep_any {β : Type} {d : Nat → β} (p : Nat → Bool) (m : FMap β) (i : Nat) :
    FMap.get d (FMap.keep p m) i = if p i then FMap.get d m i else d i := by
  induction m with
  | nil => exact (ite_self _).symm
  | cons x m ih =>
    obtain ⟨k, v⟩ := x
    by_cases same : i = k
    · subst same
      by_cases kept : p i <;> simp [FMap.keep, FMap.get, kept, ih]
    · by_cases kept : p k <;> simp [FMap.keep, FMap.get, kept, same, ih]

end Sys2Proof

namespace Sys2Proof.Machine

open Sys2Proof

variable {s0 s t u : State} {vals : List (Fld × Nat)}

/-! What stands. -/

/-- The registers are in canonical form, fields of single registers hold the values listed, and the structure and the scratchpads are as in another
state. -/
structure Shows (vals : List (Fld × Nat)) (s t : State) : Prop where
  wf : FMap.wf resetValue t.regs = true
  field : ∀ y ∈ vals, fieldIn t y.1 0 0 = y.2
  stream : t.stream = s.stream
  spad : t.spad = s.spad

theorem Shows.start (w : FMap.wf resetValue s.regs = true) : Shows [] s s := ⟨w, fun _ hy => (List.not_mem_nil hy).elim, rfl, rfl⟩

/-- Setting a register's field that is none of those listed. -/
theorem Shows.other {F : Fld} {i : Nat} (h : Shows vals s t) (hF : F.lo + F.width ≤ 64) (ha : (vals.all fun y => F.apart i y.1 0) = true)
    (v : Nat) : Shows vals s (withField t F v i) where
  wf := withField_wf h.wf v
  field := fun y hy => (fieldIn_withField_apart h.wf hF (List.all_eq_true.1 ha y hy) v).trans (h.field y hy)
  stream := h.stream
  spad := h.spad

/-- A field is set: it shows its value, and those beside it still do. -/
theorem Shows.withField {F : Fld} (h : Shows vals s t) (hF : F.lo + F.width ≤ 64) (ha : (vals.all fun y => F.apart 0 y.1 0) = true) (v : Nat) :
    Shows ((F, v % 2 ^ F.width) :: vals) s (withField t F v) :=
  { h.other hF ha v with field := List.forall_mem_cons.2 ⟨fieldIn_withField_same h.wf hF v, (h.other hF ha v).field⟩ }

theorem ReachBy.offStream_stream (r : ReachBy offStream s t) : t.stream = s.stream :=
  r.same State.stream fun _ _ p => apply_stream (sparing_part p (by decide) (by decide))
theorem ReachBy.offStream_spad (r : ReachBy offStream s t) : t.spad = s.spad :=
  r.same State.spad fun _ _ p => apply_spad (sparing_part p (by decide) (by decide))
theorem ReachBy.offStream_load (r : ReachBy offStream s t) : t.load = s.load :=
  r.same State.load fun _ _ p => apply_load (sparing_part p (by decide) (by decide))

theorem Shows.reach (h : Shows vals s t) (r : ReachBy offStream t u)
    (hb : (vals.all fun y => [0x00, 0x01].contains (y.1.addr 0 0 / 2 ^ 20)) = true) : Shows vals s u where
  wf := r.sparing_wf h.wf
  field := fun y hy => (r.sparing_field h.wf (List.contains_iff_mem.1 (List.all_eq_true.1 hb y hy))).trans (h.field y hy)
  stream := r.offStream_stream.trans h.stream
  spad := r.offStream_spad.trans h.spad

/-! Which cores are bound (R20, R21). -/

/-- The maps of the eight fields. -/
def boundFields : List (Fld × Nat) := (List.range 8).map fun f => (R.DEV_FIELD_MAP_USABLE, f)

theorem boundIn_congr (h : Standing boundFields s t) (l : Nat) : boundIn t l = boundIn s l := by
  by_cases hl : l < 144
  · have same : fieldIn t R.DEV_FIELD_MAP_USABLE (l / 18) 0 = fieldIn s R.DEV_FIELD_MAP_USABLE (l / 18) 0 :=
      h.field (R.DEV_FIELD_MAP_USABLE, l / 18) (List.mem_map.2 ⟨l / 18, List.mem_range.2 (by omega), rfl⟩)
    rw [boundIn, boundIn, same]
  · simp [boundIn, hl]

/-! The active digest (R64, R86, R89). -/

/-- The registers of the active digest. -/
def digestFields : List (Fld × Nat) := (List.range 8).map fun i => (R.AQ_DIGEST_DIGEST, i)

theorem activeDigestIn_congr (h : Standing digestFields s t) : activeDigestIn t = activeDigestIn s := by
  have same : ∀ i ∈ List.range 8, fieldIn t R.AQ_DIGEST_DIGEST i 0 * 2 ^ (64 * i) = fieldIn s R.AQ_DIGEST_DIGEST i 0 * 2 ^ (64 * i) :=
    fun i hi => congrArg (· * 2 ^ (64 * i)) (h.field (R.AQ_DIGEST_DIGEST, i) (List.mem_map.2 ⟨i, hi, rfl⟩))
  rw [activeDigestIn, activeDigestIn, List.map_congr_left same]

/-- The digits of a number in base 2⁶⁴ spell its low part. -/
theorem sum_words (x n : Nat) : ((List.range n).map fun i => x / 2 ^ (64 * i) % 2 ^ 64 * 2 ^ (64 * i)).sum = x % 2 ^ (64 * n) := by
  induction n with
  | zero => simp [Nat.mod_one]
  | succ n ih =>
    rw [List.range_succ, List.map_append, List.sum_append, ih, Nat.mul_succ, Nat.pow_add, Nat.mod_mul]
    simp [Nat.mul_comm]

/-- The registers show one digest. -/
theorem activeDigestIn_of_words {d : BitVec 512} (h : ∀ i ∈ List.range 8, fieldIn t R.AQ_DIGEST_DIGEST i 0 = d.toNat / 2 ^ (64 * i) % 2 ^ 64) :
    activeDigestIn t = d := by
  rw [activeDigestIn, List.map_congr_left fun i hi => congrArg (· * 2 ^ (64 * i)) (h i hi), sum_words, Nat.mod_eq_of_lt d.isLt, BitVec.ofNat_toNat,
    BitVec.setWidth_eq]

variable {g : Good s0}

theorem leads_bind_shows {α : Type} {F : Fld} {v : Nat} {f : Unit → M s0 α} {Q : α → State → Prop} (h : Shows vals s g.val)
    (hF : F.lo + F.width ≤ 64) (ha : (vals.all fun y => F.apart 0 y.1 0) = true)
    (k : ∀ u : Good s0, Shows ((F, v % 2 ^ F.width) :: vals) s u.val → Leads (f ()) u Q) : Leads (setF F v >>= f) g Q :=
  leads_bind_setF fun u hu => k u (hu ▸ h.withField hF ha v)

/-- A digest is shown: it is the active one, and what stood stands. -/
theorem leads_showDigest (d : BitVec 512) (h : Shows vals s g.val) (hv : ∀ y ∈ vals, ∀ i < 8, R.AQ_DIGEST_DIGEST.apart i y.1 0 = true) :
    Leads (showDigest d) g fun _ t => Shows vals s t ∧ activeDigestIn t = d := by
  have apart : ∀ i < 8, ∀ k < 8, k ≠ i → R.AQ_DIGEST_DIGEST.apart i R.AQ_DIGEST_DIGEST k = true := by decide +kernel
  refine leads_bind (leads_loop (I := Shows vals s) (Q := fun i t => fieldIn t R.AQ_DIGEST_DIGEST i 0 = d.toNat / 2 ^ (64 * i) % 2 ^ 64)
    (fun i hi u st => leads_bind_setF fun v e => leads_pure ⟨rfl, ?_, ?_, fun k hk q => ?_⟩) h) fun _ u h =>
    leads_pure ⟨h.1, activeDigestIn_of_words h.2⟩
  · rw [e]
    exact st.other (by decide) (List.all_eq_true.2 fun y hy => hv y hy i (List.mem_range.1 hi)) _
  · rw [e]
    exact fieldIn_withField_same st.wf (by decide) _
  · by_cases same : k = i
    · rw [e, same]
      exact fieldIn_withField_same st.wf (by decide) _
    · rw [e, fieldIn_withField_apart st.wf (by decide) (apart i (List.mem_range.1 hi) k (List.mem_range.1 hk) same)]
      exact q

/-! The scratchpads (R74). -/

/-- A bound core's scratchpad reads zero. -/
def Cleared (s : State) (l : Nat) (t : State) : Prop :=
  boundIn s l = true → ∀ i < 18874368, FMap.get zeroByte t.spad (l * 18874368 + i) = 0

/-- The scratchpad of a core that is cleared reads zero, and another that did still does. -/
theorem Cleared.clearSpad {l k : Nat} (h : k = l ∨ Cleared s k t) : Cleared s k ((Eff.clearSpad l).apply t) := by
  intro bound i hi
  rw [apply_clearSpad_spad, FMap.get_keep_any]
  split
  · next other =>
    refine (h.resolve_left ?_) bound i hi
    rintro rfl
    exact absurd other (by simp; omega)
  · rfl

theorem Cleared.reach {l : Nat} (h : Cleared s l t) (r : ReachBy offStream t u) : Cleared s l u := fun bound i hi => by
  rw [r.offStream_spad, h bound i hi]

/-- What the turn of one core leaves: its scratchpad is cleared, those cleared before still are, and which cores are bound and the structure
stand. -/
structure CoreCleared (s : State) (l : Nat) (t u : State) : Prop where
  bounds : Standing boundFields s u
  stream : u.stream = s.stream
  own : Cleared s l u
  others : ∀ k, Cleared s k t → Cleared s k u

theorem CoreCleared.reach {l : Nat} {v : State} (h : CoreCleared s l t u) (r : ReachBy offStream u v) : CoreCleared s l t v where
  bounds := h.bounds.reach r (by decide)
  stream := r.offStream_stream.trans h.stream
  own := h.own.reach r
  others := fun k c => (h.others k c).reach r

theorem CoreCleared.of_clearSpad {l : Nat} (bounds : Standing boundFields s t) (stream : t.stream = s.stream) :
    CoreCleared s l t ((Eff.clearSpad l).apply t) where
  bounds := bounds.of_regs rfl
  stream := stream
  own := .clearSpad (.inl rfl)
  others := fun _ c => .clearSpad (.inr c)

theorem CoreCleared.of_unbound {l : Nat} (bounds : Standing boundFields s t) (stream : t.stream = s.stream) (no : ¬ boundIn t l = true) :
    CoreCleared s l t t where
  bounds := bounds
  stream := stream
  own := fun yes => absurd (boundIn_congr bounds l ▸ yes) no
  others := fun _ c => c

theorem offStream_setSp (l : Nat) (v : SpCtl) : Ends offStream (setSp l v : M s0 Unit) := ends_eff rfl
theorem offStream_modCore (l : Nat) (f : CoreSt → CoreSt) : Ends offStream (modCore l f : M s0 Unit) :=
  ends_bind (ends_getCore l) fun _ => ends_eff rfl

/-- Every bound core's scratchpad is cleared; which cores are bound, and the structure, stand. -/
theorem leads_zeroFill (w : FMap.wf resetValue g.val.regs = true) : Leads zeroFill g fun _ t =>
    (FMap.wf resetValue t.regs = true ∧ t.stream = g.val.stream) ∧ ∀ l, Cleared g.val l t := by
  refine leads_bind (leads_loop (I := fun t => Standing boundFields g.val t ∧ t.stream = g.val.stream) (Q := Cleared g.val)
    (fun l hl u st => leads_bind_st ?_) ⟨.refl w, rfl⟩) fun _ u h => ?_
  · have shown {v : Good s0} {n : Nat} (c : CoreCleared g.val l u.val v.val) :
        Leads (do setF R.CORE_STATUS_CLAUSE n l; pure (ForInStep.yield PUnit.unit)) v fun r t => r = .yield ⟨⟩ ∧
          (Standing boundFields g.val t ∧ t.stream = g.val.stream) ∧ Cleared g.val l t ∧
            ∀ k ∈ List.range 144, Cleared g.val k u.val → Cleared g.val k t :=
      leads_bind (leads_of_ends (P := offStream) (ends_setF_clear rfl) v) fun _ x r =>
        have c' := c.reach r
        leads_pure ⟨rfl, ⟨c'.bounds, c'.stream⟩, c'.own, fun k _ => c'.others k⟩
    by_cases bound : boundIn u.val l = true
    · rw [if_pos bound]
      refine leads_bind_eff fun v hv => leads_bind (leads_of_ends (offStream_setSp _ _) v) fun _ v1 r1 => ?_
      refine leads_bind (leads_of_ends (offStream_modCore _ _) v1) fun _ v2 r2 => shown ?_
      exact ((hv ▸ CoreCleared.of_clearSpad st.1 st.2).reach r1).reach r2
    · rw [if_neg bound]
      exact shown (.of_unbound st.1 st.2 bound)
  · refine leads_bind_st (Leads.mono (leads_of_ends (P := offStream) ?tags u) fun _ t r => ?_)
    case tags =>
      exact ends_bind (ends_loop fun _ _ _ => ends_ite (ends_bind (ends_eff rfl) fun _ => ends_pure _) (ends_pure _)) fun _ => ends_pure _
    refine ⟨⟨r.sparing_wf h.1.1.wf, r.offStream_stream.trans h.1.2⟩, fun l => ?_⟩
    by_cases hl : l < 144
    · exact (h.2 l (List.mem_range.2 hl)).reach r
    · exact fun bound => absurd bound (by simp [boundIn, hl])

end Sys2Proof.Machine
end

section
/-! SUPPORT. Applying a stream that has passed its checks, and ending a load (R83 to R86). -/

namespace Sys2Proof.Machine

open Sys2Proof

variable {s0 s t u : State} {g : Good s0} {source : LoadFrom} {host : HostRead} {d : List Byte}

/-- The registers of the digest are not that of the reserved area. -/
theorem digest_apart_reserved : ∀ F ∈ [R.AQ_RSV_PARTIALS, R.AQ_RSV_BASE], ∀ i < 8, R.AQ_DIGEST_DIGEST.apart i F 0 = true := by decide +kernel

/-! A full load (R84). -/

/-- What a full load leaves. -/
structure FullApplied (x : Stream) (base : Nat) (digest : BitVec 512) (s t : State) : Prop where
  stream : t.stream = some x
  digest : activeDigestIn t = digest
  base : fieldIn t R.AQ_RSV_BASE 0 0 = base % 2 ^ R.AQ_RSV_BASE.width
  partials : fieldIn t R.AQ_RSV_PARTIALS 0 0 = 0
  cleared : ∀ l, Cleared s l t

theorem FullApplied.reach {x : Stream} {base : Nat} {digest : BitVec 512} (h : FullApplied x base digest s t) (r : ReachBy offStream t u)
    (w : FMap.wf resetValue t.regs = true) : FullApplied x base digest s u where
  stream := r.offStream_stream.trans h.stream
  digest := (activeDigestIn_congr ((Standing.refl w).reach r (by decide))).trans h.digest
  base := (r.sparing_field w (by decide)).trans h.base
  partials := (r.sparing_field w (by decide)).trans h.partials
  cleared := fun l => (h.cleared l).reach r

theorem leads_applyFull (x : Stream) (base : Nat) (d : List Byte) (w : FMap.wf resetValue g.val.regs = true) :
    Leads (applyFull x base d) g fun _ t => FullApplied x base (streamDigest d) g.val t := by
  refine leads_bind_eff fun u1 h1 => leads_bind (leads_of_ends offStream_showModes u1) fun _ u2 r2 => leads_bind_setF fun u3 h3 => ?_
  have stream3 : u3.val.stream = some x := by rw [h3]; exact r2.offStream_stream.trans (by rw [h1]; rfl)
  have bounds3 : Standing boundFields g.val u3.val := by
    rw [h3]
    exact (((Standing.refl w).of_regs (by rw [h1]; rfl)).reach r2 (by decide)).withField (by decide) (by decide +kernel) _
  refine leads_bind (leads_zeroFill bounds3.wf) fun _ u4 h4 => ?_
  obtain ⟨⟨w4, stream4⟩, cleared⟩ := h4
  refine leads_bind_shows (.start w4) (by decide) rfl fun u5 h5 => leads_bind_shows h5 (by decide) rfl fun u6 h6 => ?_
  refine leads_bind_read rfl (leads_bind (leads_of_ends (offStream_of_storing (stores_wrGddr _ _ _)) u6) fun _ u7 r7 => ?_)
  refine leads_bind (leads_showDigest _ (h6.reach r7 (by simp; decide)) (by simpa using digest_apart_reserved)) fun _ u8 h8 => ?_
  obtain ⟨h8, digest⟩ := h8
  have applied : FullApplied x base (streamDigest d) g.val u8.val :=
    { stream := h8.stream.trans (stream4.trans stream3)
      digest := digest
      base := h8.field (R.AQ_RSV_BASE, _) (.tail _ (.head _))
      partials := h8.field (R.AQ_RSV_PARTIALS, 0) (.head _)
      cleared := fun l bound i hi => by
        rw [h8.spad]
        exact cleared l (by rw [boundIn_congr bounds3]; exact bound) i hi }
  exact (leads_of_ends (offStream_applyLanes _) u8).mono fun _ t r => applied.reach r h8.wf

/-! A partial load (R86). -/

/-- What a partial load leaves. -/
structure PartialApplied (x : Stream) (digest : BitVec 512) (partials : Nat) (t : State) : Prop where
  stream : t.stream = some x
  digest : activeDigestIn t = digest
  partials : fieldIn t R.AQ_RSV_PARTIALS 0 0 = partials % 2 ^ R.AQ_RSV_PARTIALS.width

theorem PartialApplied.reach {x : Stream} {digest : BitVec 512} {n : Nat} (h : PartialApplied x digest n t) (r : ReachBy offStream t u)
    (w : FMap.wf resetValue t.regs = true) : PartialApplied x digest n u where
  stream := r.offStream_stream.trans h.stream
  digest := (activeDigestIn_congr ((Standing.refl w).reach r (by decide))).trans h.digest
  partials := (r.sparing_field w (by decide)).trans h.partials

theorem leads_applyPartial (x : Stream) (d : List Byte) (route : Bool) (w : FMap.wf resetValue g.val.regs = true) :
    Leads (applyPartial x d route) g fun _ t =>
      PartialApplied x (chainDigest (activeDigestIn g.val) (streamDigest d)) (fieldIn g.val R.AQ_RSV_PARTIALS 0 0 + 1) t := by
  refine leads_bind_read rfl (leads_bind (leads_of_ends (offStream_partialBytes _) g) fun used u1 r1 => leads_bind_eff fun u2 h2 => ?_)
  refine leads_bind_read rfl (leads_bind (leads_of_ends (offStream_of_storing (stores_wrGddr _ _ _)) u2) fun _ u3 r3 => ?_)
  have st3 : Standing digestFields g.val u3.val :=
    ((((Standing.refl w).reach r1 (by decide)).of_regs (by rw [h2]; rfl : u2.val.regs = u1.val.regs)).reach r3 (by decide))
  have stream3 : u3.val.stream = some x := r3.offStream_stream.trans (by rw [h2]; rfl)
  refine leads_bind_setF fun u4 h4 => leads_bind_st ?_
  have st4 : Standing digestFields g.val u4.val := h4 ▸ st3.withField (by decide) (by decide +kernel) _
  have shows4 := (Shows.start st3.wf).withField (F := R.AQ_RSV_PARTIALS) (by decide) rfl (fieldIn g.val R.AQ_RSV_PARTIALS 0 0 + 1)
  rw [activeDigestIn_congr st4]
  refine leads_bind (leads_showDigest _ (h4 ▸ shows4) (by simpa using digest_apart_reserved _ (.head _))) fun _ u5 h5 => ?_
  obtain ⟨h5, digest⟩ := h5
  have applied : PartialApplied x (chainDigest (activeDigestIn g.val) (streamDigest d)) (fieldIn g.val R.AQ_RSV_PARTIALS 0 0 + 1) u5.val :=
    ⟨h5.stream.trans stream3, digest, h5.field (R.AQ_RSV_PARTIALS, _) (.head _)⟩
  split
  · exact (leads_of_ends (offStream_applyLanes _) u5).mono fun _ t r => applied.reach r h5.wf
  · exact leads_pure applied

/-! The two commands (R83 steps 1 to 5). -/

/-- What follows an operation goes on with what it gives, from the state it leaves. -/
theorem leads_bind_gives {α β : Type} {m : M s α} {f : α → M s β} {a : α} {Q : β → State → Prop} (h : gives s m = (.ok a, t))
    (k : ∀ u : Good s, u.val = t → Leads (f a) u Q) : Leads (m >>= f) ⟨s, .refl⟩ Q := by
  obtain ⟨hr, e⟩ := eval_of_gives h
  obtain ⟨b, v, e', q⟩ := k ⟨t, hr⟩ rfl
  exact ⟨b, v, (eval_bind_ok e).trans e', q⟩

/-- Reading the stream leaves everything but the memory and what was sent. -/
theorem readStream_reach {a : Option (List Byte)} (h : gives s (readStream source host) = (.ok a, t)) : ReachBy offStream s t := by
  obtain ⟨_, e⟩ := eval_of_gives h
  have r := offStream_readStream source host (⟨s, .refl⟩ : Good s)
  rw [e] at r
  exact r

theorem fullLoad_applies {x : Stream} {base : Nat} (w : FMap.wf resetValue s.regs = true) (load : s.load = some ⟨source, false, none⟩)
    (reads : gives s (readStream source host) = (.ok (some d), t)) (passes : checkFull t d = .ok (x, base)) :
    ∃ u, exec (.fullLoad host) s = .next u ∧ FullApplied x base (streamDigest d) t u ∧ u.load = some ⟨source, false, some (0, 0, 0)⟩ := by
  refine leads_next (leads_bind_st ?_)
  simp only [load]
  refine leads_bind_gives reads fun u1 h1 => leads_bind_st ?_
  rw [h1, passes]
  have w1 : FMap.wf resetValue u1.val.regs = true := u1.property.regs_wf w
  refine leads_bind (leads_applyFull x base d w1) fun _ u2 applied => ?_
  refine leads_bind (leads_of_ends (offStream_noteLoad d) u2) fun _ u3 r3 => leads_eff ⟨?_, rfl⟩
  obtain ⟨stream, digest, base, partials, cleared⟩ := h1 ▸ applied.reach r3 (u2.property.regs_wf w)
  exact ⟨stream, digest, base, partials, cleared⟩

theorem fullLoad_fails {r : Rejection} (load : s.load = some ⟨source, false, none⟩)
    (reads : gives s (readStream source host) = (.ok (some d), t)) (fails : checkFull t d = .error r) :
    exec (.fullLoad host) s = .next { t with load := some ⟨source, false, some r⟩ } := by
  refine congrArg Host.Outcome.next (leads_run (Q := (· = (Eff.load (some ⟨source, false, some r⟩)).apply t)) (leads_bind_st ?_))
  simp only [load]
  refine leads_bind_gives reads fun u1 h1 => leads_bind_st ?_
  rw [h1, fails]
  exact leads_eff (by rw [h1])

theorem partialLoad_applies {old x : Stream} (w : FMap.wf resetValue s.regs = true) (load : s.load = some ⟨source, true, none⟩)
    (reads : gives s (readStream source host) = (.ok (some d), t)) (active : t.stream = some old) (passes : checkPartial t old d = .ok x) :
    ∃ u, exec (.partialLoad host) s = .next u ∧ PartialApplied x (chainDigest (activeDigestIn t) (streamDigest d))
      (fieldIn t R.AQ_RSV_PARTIALS 0 0 + 1) u ∧ u.load = some ⟨source, true, some (0, 0, 0)⟩ := by
  refine leads_next (leads_bind_st ?_)
  simp only [load]
  refine leads_bind_gives reads fun u1 h1 => leads_bind_st ?_
  simp only [h1, active, passes]
  have w1 : FMap.wf resetValue u1.val.regs = true := u1.property.regs_wf w
  refine leads_bind (leads_applyPartial x d _ w1) fun _ u2 applied => ?_
  refine leads_bind (leads_of_ends (offStream_noteLoad d) u2) fun _ u3 r3 => leads_eff ⟨?_, rfl⟩
  obtain ⟨stream, digest, partials⟩ := h1 ▸ applied.reach r3 (u2.property.regs_wf w)
  exact ⟨stream, digest, partials⟩

theorem partialLoad_fails {old : Stream} {r : Rejection} (load : s.load = some ⟨source, true, none⟩)
    (reads : gives s (readStream source host) = (.ok (some d), t)) (active : t.stream = some old) (fails : checkPartial t old d = .error r) :
    exec (.partialLoad host) s = .next { t with load := some ⟨source, true, some r⟩ } := by
  refine congrArg Host.Outcome.next (leads_run (Q := (· = (Eff.load (some ⟨source, true, some r⟩)).apply t)) (leads_bind_st ?_))
  simp only [load]
  refine leads_bind_gives reads fun u1 h1 => leads_bind_st ?_
  simp only [h1, active, fails]
  exact leads_eff (by rw [h1])

/-! The end of a load (R83 step 6). -/

/-- What the end of a load shows. -/
structure LoadEnded (r : Rejection) (s t : State) : Prop where
  load : t.load = none
  stream : t.stream = s.stream
  err : fieldIn t R.AQ_STATUS_ERR 0 0 = r.1 % 2 ^ R.AQ_STATUS_ERR.width
  done : fieldIn t R.AQ_STATUS_DONE 0 0 = 1
  state : fieldIn t R.AQ_STATUS_STATE 0 0 = (if s.stream.isSome then 2 else 0)
  accepted : r.1 = 0 → fieldIn t R.AQ_COUNT_ACCEPTED 0 0 = (fieldIn s R.AQ_COUNT_ACCEPTED 0 0 + 1) % 2 ^ R.AQ_COUNT_ACCEPTED.width
  rejected : r.1 ≠ 0 → fieldIn t R.AQ_COUNT_REJECTED 0 0 = (fieldIn s R.AQ_COUNT_REJECTED 0 0 + 1) % 2 ^ R.AQ_COUNT_REJECTED.width

theorem LoadEnded.reach {r : Rejection} (h : LoadEnded r s t) (k : ReachBy offStream t u) (w : FMap.wf resetValue t.regs = true) :
    LoadEnded r s u where
  load := k.offStream_load.trans h.load
  stream := k.offStream_stream.trans h.stream
  err := (k.sparing_field w (by decide)).trans h.err
  done := (k.sparing_field w (by decide)).trans h.done
  state := (k.sparing_field w (by decide)).trans h.state
  accepted := fun z => (k.sparing_field w (by decide)).trans (h.accepted z)
  rejected := fun z => (k.sparing_field w (by decide)).trans (h.rejected z)

theorem leads_bind_countWrap {α : Type} {F : Fld} {f : Unit → M s0 α} {Q : α → State → Prop}
    (k : ∀ u : Good s0, u.val = withField g.val F (fieldIn g.val F 0 0 + 1) → Leads (f ()) u Q) : Leads (countWrap F >>= f) g Q :=
  leads_bind (Q := fun _ t => t = withField g.val F (fieldIn g.val F 0 0 + 1)) ⟨_, _, eval_countWrap F 0 1 g, rfl⟩ fun _ u h => k u h

/-- What the registers of the status hold at the end of a load. -/
abbrev endStatus (r : Rejection) (s : State) : List (Fld × Nat) :=
  [(R.AQ_STATUS_STATE, (if s.stream.isSome then 2 else 0) % 2 ^ R.AQ_STATUS_STATE.width), (R.AQ_STATUS_DONE, 1 % 2 ^ R.AQ_STATUS_DONE.width),
   (R.AQ_STATUS_OFFSET, r.2.2 % 2 ^ R.AQ_STATUS_OFFSET.width), (R.AQ_STATUS_SECTION, r.2.1 % 2 ^ R.AQ_STATUS_SECTION.width),
   (R.AQ_STATUS_ERR, r.1 % 2 ^ R.AQ_STATUS_ERR.width)]

/-- The counts of loads. -/
abbrev loadCounts (s : State) : List (Fld × Nat) :=
  [(R.AQ_COUNT_ACCEPTED, fieldIn s R.AQ_COUNT_ACCEPTED 0 0), (R.AQ_COUNT_REJECTED, fieldIn s R.AQ_COUNT_REJECTED 0 0)]

/-- A load ends with its status shown and one of the counts, that of its result, set to one more. -/
theorem LoadEnded.of_shows {r : Rejection} {F : Fld} {n : Nat} (h : Shows ((F, n) :: endStatus r s) s t)
    (accepted : r.1 = 0 → F = R.AQ_COUNT_ACCEPTED ∧ n = (fieldIn s R.AQ_COUNT_ACCEPTED 0 0 + 1) % 2 ^ R.AQ_COUNT_ACCEPTED.width)
    (rejected : r.1 ≠ 0 → F = R.AQ_COUNT_REJECTED ∧ n = (fieldIn s R.AQ_COUNT_REJECTED 0 0 + 1) % 2 ^ R.AQ_COUNT_REJECTED.width) :
    LoadEnded r s ((Eff.load none).apply t) := by
  have count : fieldIn t F 0 0 = n := h.field (F, n) (.head _)
  have status : ∀ y ∈ endStatus r s, fieldIn t y.1 0 0 = y.2 := fun y hy => h.field y (.tail _ hy)
  exact { load := rfl
          stream := h.stream
          err := status (R.AQ_STATUS_ERR, r.1 % 2 ^ R.AQ_STATUS_ERR.width) (by simp)
          done := status (R.AQ_STATUS_DONE, 1) (.tail _ (.head _))
          state := (status (R.AQ_STATUS_STATE, _) (.head _)).trans (by split <;> rfl)
          accepted := fun z => by obtain ⟨rfl, rfl⟩ := accepted z; exact count
          rejected := fun z => by obtain ⟨rfl, rfl⟩ := rejected z; exact count }

theorem leads_endLoad (r : Rejection) (w : FMap.wf resetValue g.val.regs = true) : Leads (endLoad r) g fun _ t => LoadEnded r g.val t := by
  have start : Shows (loadCounts g.val) g.val g.val := ⟨w, by simp, rfl, rfl⟩
  have finish {u : Good s0} (wu : FMap.wf resetValue u.val.regs = true) (h : LoadEnded r g.val ((Eff.load none).apply u.val)) :
      Leads (do eff (.load none); sendMsix 2) u fun _ t => LoadEnded r g.val t :=
    leads_bind_eff fun v hv => (leads_of_ends (offStream_of_storing (stores_sendMsix 2)) v).mono fun _ t k =>
      (hv ▸ h).reach k (by rw [hv]; exact wu)
  refine leads_bind_shows start (by decide) rfl fun u1 h1 => leads_bind_shows h1 (by decide) rfl fun u2 h2 => ?_
  refine leads_bind_shows h2 (by decide) rfl fun u3 h3 => leads_bind_shows h3 (by decide) rfl fun u4 h4 => leads_bind_st ?_
  rw [h4.stream]
  refine leads_bind_shows h4 (by decide) rfl fun u5 h5 => ?_
  have status : Shows (endStatus r g.val) g.val u5.val :=
    ⟨h5.wf, fun y hy => h5.field y (List.mem_append_left (loadCounts g.val) hy), h5.stream, h5.spad⟩
  have counts : Shows (loadCounts g.val) g.val u5.val :=
    ⟨h5.wf, fun y hy => h5.field y (List.mem_append_right (endStatus r g.val) hy), h5.stream, h5.spad⟩
  split
  · next zero =>
    refine leads_bind_countWrap fun u6 h6 => finish (h6 ▸ withField_wf h5.wf _) ?_
    refine .of_shows (h6 ▸ status.withField (by decide) rfl _) (fun _ => ⟨rfl, ?_⟩) fun no => absurd zero no
    rw [counts.field (R.AQ_COUNT_ACCEPTED, _) (.head _)]
  · next one =>
    refine leads_bind_countWrap fun u6 h6 => finish (h6 ▸ withField_wf h5.wf _) ?_
    refine .of_shows (h6 ▸ status.withField (by decide) rfl _) (fun no => absurd no one) fun _ => ⟨rfl, ?_⟩
    rw [counts.field (R.AQ_COUNT_REJECTED, _) (.tail _ (.head _))]

/-- A load that has its result ends, whoever has asked for it. -/
theorem loadComplete_ends {part : Bool} {r : Rejection} (w : FMap.wf resetValue s.regs = true) (load : s.load = some ⟨source, part, some r⟩) :
    ∃ t, exec .loadComplete s = .next t ∧ LoadEnded r s t := by
  refine leads_next (leads_bind_st ?_)
  simp only [load]
  refine leads_bind (leads_endLoad r w) fun _ u ended => ?_
  have answered {m : M s Unit} (h : Ends offStream m) : Leads m u fun _ t => LoadEnded r s t :=
    (leads_of_ends h u).mono fun _ t k => ended.reach k (u.property.regs_wf w)
  cases source with
  | registers src len => exact leads_pure ended
  | queue q cid src len h => exact answered (offStream_complete _ _ _ _ _ _ _)
  | unanswered src len h => exact answered (ends_countSat_clear rfl)

end Sys2Proof.Machine
end

section
/-! OBLIGATION O36. -/

open Sys2Proof Sys2Proof.Machine

/-- Settles O36: reading the stream spares the structure and the AQ registers; a load that passes is applied, and what it does at the lanes and in the
register of changes afterwards spares what it has set; one that fails only notes why; and the end of a load shows it before it is answered. -/
theorem streamLoads : Obligations.StreamLoads := by
  unfold Obligations.StreamLoads
  intro s s1 source host d w
  refine ⟨fun load reads => ⟨fun x base passes => ?_, fun r fails => fullLoad_fails load reads fails⟩,
    fun load reads old active => ⟨fun x passes => ?_, fun r fails => partialLoad_fails load reads active fails⟩, fun part r load => ?_⟩
  · obtain ⟨t, runs, applied, result⟩ := fullLoad_applies w load reads passes
    refine ⟨t, runs, applied.stream, result, applied.digest, applied.base, applied.partials, fun l i bound hi => applied.cleared l ?_ i hi⟩
    rw [boundIn_congr ((Standing.refl w).reach (readStream_reach reads) (by decide))]
    exact bound
  · obtain ⟨t, runs, applied, result⟩ := partialLoad_applies w load reads active passes
    refine ⟨t, runs, applied.stream, result, applied.digest, ?_⟩
    rw [applied.partials, (readStream_reach reads).sparing_field w (by decide)]
  · obtain ⟨t, runs, ended⟩ := loadComplete_ends w load
    exact ⟨t, runs, ended.load, ended.stream, ended.err, ended.done, ended.state, ended.accepted, ended.rejected⟩

end

section
/-! SUPPORT. Slots as bits (R96, R102, R105, R108, R112, R113): each field of a slot lies where its reading looks for it. -/

namespace Sys2Proof.Machine

open Sys2Proof

/-- A field reads back where the bits from its place on spell it. -/
theorem ofNat_of_mod {n w : Nat} {x : BitVec n} (h : w % 2 ^ n = x.toNat) : BitVec.ofNat n w = x :=
  BitVec.eq_of_toNat_eq (by rw [BitVec.toNat_ofNat, h])

/-- A flag reads back where its bit spells it. -/
theorem bitN_of_mod {w i : Nat} {b : Bool} (h : w / 2 ^ i % 2 = bit b) : bitN w i = b := by
  unfold bitN; rw [h]; cases b <;> rfl

theorem bit_lt (b : Bool) : bit b < 2 := by cases b <;> decide

variable {op : Nat}

theorem scalarBits_reads (h : op < 256) (f : ScalarF) : scalarOf (scalarBits op f) = f ∧ scalarBits op f % 256 = op ∧ scalarBits op f < 2 ^ 64 := by
  obtain ⟨rd, rs1, rs2, pred, pneg, immsel, imm⟩ := f
  have := rd.isLt; have := rs1.isLt; have := rs2.isLt; have := pred.isLt; have := imm.isLt
  have := bit_lt pneg; have := bit_lt immsel
  refine ⟨?_, ?_, ?_⟩
  · simp only [scalarOf, scalarBits, ScalarF.mk.injEq]
    refine ⟨ofNat_of_mod ?_, ofNat_of_mod ?_, ofNat_of_mod ?_, ofNat_of_mod ?_, bitN_of_mod ?_, bitN_of_mod ?_, ofNat_of_mod ?_⟩ <;> omega
  · simp only [scalarBits]; omega
  · simp only [scalarBits]; omega

theorem addrBits_reads (h : op < 256) (f : AddrF) : addrOf (addrBits op f) = f ∧ addrBits op f % 256 = op ∧ addrBits op f < 2 ^ 64 := by
  obtain ⟨ad, reg, pred, pneg, size, scope, postinc, vol, offset⟩ := f
  have := ad.isLt; have := reg.isLt; have := pred.isLt; have := size.isLt; have := scope.isLt; have := offset.isLt
  have := bit_lt pneg; have := bit_lt postinc; have := bit_lt vol
  refine ⟨?_, ?_, ?_⟩
  · simp only [addrOf, addrBits, AddrF.mk.injEq]
    refine ⟨ofNat_of_mod ?_, ofNat_of_mod ?_, ofNat_of_mod ?_, bitN_of_mod ?_, ofNat_of_mod ?_, ofNat_of_mod ?_, bitN_of_mod ?_,
      bitN_of_mod ?_, ofNat_of_mod ?_⟩ <;> omega
  · simp only [addrBits]; omega
  · simp only [addrBits]; omega

theorem vecBits_reads (h : op < 256) (f : VecF) : vecOf (vecBits op f) = f ∧ vecBits op f % 256 = op ∧ vecBits op f < 2 ^ 80 := by
  obtain ⟨vd, vs1, vs2, vs3, pred, pneg, fmt, immsel, imm⟩ := f
  have := vd.isLt; have := vs1.isLt; have := vs2.isLt; have := vs3.isLt; have := pred.isLt; have := fmt.isLt; have := imm.isLt
  have := bit_lt pneg; have := bit_lt immsel
  refine ⟨?_, ?_, ?_⟩
  · simp only [vecOf, vecBits, VecF.mk.injEq]
    refine ⟨ofNat_of_mod ?_, ofNat_of_mod ?_, ofNat_of_mod ?_, ofNat_of_mod ?_, ofNat_of_mod ?_, bitN_of_mod ?_, ofNat_of_mod ?_,
      bitN_of_mod ?_, ofNat_of_mod ?_⟩ <;> omega
  · simp only [vecBits]; omega
  · simp only [vecBits]; omega

theorem matBits_reads (h : op < 256) (f : MatF) : matOf (matBits op f) = f ∧ matBits op f % 256 = op ∧ matBits op f < 2 ^ 64 := by
  obtain ⟨bank, row, vreg, fmt, pass, rows, cols, acc, ad, count⟩ := f
  have := row.isLt; have := vreg.isLt; have := fmt.isLt; have := pass.isLt; have := rows.isLt; have := cols.isLt; have := ad.isLt
  have := count.isLt; have := bit_lt bank; have := bit_lt acc
  refine ⟨?_, ?_, ?_⟩
  · simp only [matOf, matBits, MatF.mk.injEq]
    refine ⟨bitN_of_mod ?_, ofNat_of_mod ?_, ofNat_of_mod ?_, ofNat_of_mod ?_, ofNat_of_mod ?_, ofNat_of_mod ?_, ofNat_of_mod ?_,
      bitN_of_mod ?_, ofNat_of_mod ?_, ofNat_of_mod ?_⟩ <;> omega
  · simp only [matBits]; omega
  · simp only [matBits]; omega

theorem syncBits_reads (h : op < 256) (f : SyncF) : syncOf (syncBits op f) = f ∧ syncBits op f % 256 = op ∧ syncBits op f < 2 ^ 64 := by
  obtain ⟨pred, pneg, rs, scope, id, imm⟩ := f
  have := pred.isLt; have := rs.isLt; have := scope.isLt; have := id.isLt; have := imm.isLt; have := bit_lt pneg
  refine ⟨?_, ?_, ?_⟩
  · simp only [syncOf, syncBits, SyncF.mk.injEq]
    refine ⟨ofNat_of_mod ?_, bitN_of_mod ?_, ofNat_of_mod ?_, ofNat_of_mod ?_, ofNat_of_mod ?_, ofNat_of_mod ?_⟩ <;> omega
  · simp only [syncBits]; omega
  · simp only [syncBits]; omega

end Sys2Proof.Machine
end

section
/-! OBLIGATION O23. -/

open Sys2Proof Sys2Proof.Machine

/-- Settles O23: the places of a slot's fields do not meet, so the bits from a field's place on spell it, whatever lies above and below. -/
theorem slotFieldsReadBack : Obligations.SlotFieldsReadBack := by
  unfold Obligations.SlotFieldsReadBack
  intro op h
  exact ⟨scalarBits_reads h, addrBits_reads h, vecBits_reads h, matBits_reads h, syncBits_reads h⟩

end

section
/-! SUPPORT. The address/move slot commanded alone (R105 to R107): whether it takes effect, its effective address, and what POSTINC leaves. -/

namespace Sys2Proof.Machine

open Sys2Proof

variable {s : State} {l n : Nat} {f : AddrF}

/-- What a[AD] becomes with POSTINC (R105). -/
def afterOf (s : State) (l : Nat) (f : AddrF) : Option Word :=
  if f.postinc then some (aOf s l f.ad.toNat + f.offset.signExtend 64) else none

/-- A slot without a fault of encoding whose predicate holds runs. -/
theorem eval_whenTaken {enc : Bool} (op : M s Unit) (he : enc = true) (hp : holds s l f.pred f.pneg = true) :
    eval (whenTaken (soleAt s l n) f enc op) ⟨s, .refl⟩ = eval op ⟨s, .refl⟩ := by
  subst he
  rw [whenTaken, eval_bind, encOk, eval_need_true]
  dsimp only
  rw [eval_bind, eval_predHolds, hp]
  rfl

/-- The effective address, where it is in range. -/
theorem eval_eaOf (h : eaIn s l f < 2 ^ 62) : eval (eaOf (soleAt s l n) f) ⟨s, .refl⟩ = (.ok (eaIn s l f, afterOf s l f), ⟨s, .refl⟩) := by
  rw [eaOf, eval_bind, eval_rdA]
  dsimp only
  rw [eval_bind, eval_need, if_pos (by simpa [eaIn] using h)]
  rfl

/-- An effective address with a bit of [63:62] set traps. -/
theorem eval_eaOf_far (h : 2 ^ 62 ≤ eaIn s l f) :
    eval (eaOf (soleAt s l n) f) ⟨s, .refl⟩ = (.error (.trap Trap.addr 0 (eaIn s l f)), ⟨s, .refl⟩) := by
  rw [eaOf, eval_bind, eval_rdA]
  dsimp only
  rw [eval_bind, eval_need, if_neg (by simpa [eaIn] using h)]
  rfl

theorem movedOn_reach {t : State} (h : Reach s t) (l : Nat) (f : AddrF) : Reach s (movedOn s l f t) := by
  unfold movedOn; split
  · exact withA_reach h _ _ _
  · exact h

/-- POSTINC moves a[AD] by the offset. -/
theorem eval_setAfter (g : Good s) :
    eval (setAfter (soleAt s l n) f (afterOf s l f)) g = (.ok (), ⟨movedOn s l f g.val, movedOn_reach g.property l f⟩) := by
  cases h : f.postinc
  · simp [afterOf, setAfter, movedOn, h]
  · simp [afterOf, setAfter, movedOn, h]

end Sys2Proof.Machine
end

section
/-! SUPPORT. Loads and stores of the address/move slot around the access they make (R107). -/

namespace Sys2Proof.Machine

open Sys2Proof

variable {s : State} {l : Nat} {f : AddrF}

/-- The bytes of a load sign-extended (R107): the integer they spell is that of the word of their width. -/
theorem ofInt_signedN (v w : Nat) (hw : 0 < w) : BitVec.ofInt 64 (signedN v w) = (BitVec.ofNat w v).signExtend 64 := by
  have hs : signedN v w = (BitVec.ofNat w v).toInt := by
    obtain ⟨k, rfl⟩ : ∃ k, w = k + 1 := ⟨w - 1, by omega⟩
    have hp : 2 ^ (k + 1) = 2 ^ k * 2 := Nat.pow_succ ..
    have hm : v % 2 ^ (k + 1) = v % 2 ^ k + 2 ^ k * (v / 2 ^ k % 2) := by rw [hp]; exact Nat.mod_mul
    have hl : v % 2 ^ k < 2 ^ k := Nat.mod_lt _ (Nat.two_pow_pos k)
    rw [BitVec.toInt_eq_toNat_cond, BitVec.toNat_ofNat, signedN, bitN, Nat.add_sub_cancel]
    rcases Nat.mod_two_eq_zero_or_one (v / 2 ^ k) with hb | hb <;> rw [hb] at hm ⊢
    · rw [if_neg (by decide), if_pos (by omega)]
    · rw [if_pos (by decide), if_neg (by omega)]
  rw [hs]
  rfl

/-- What surrounds the access of a slot that makes one: the effective address before it, and after it POSTINC and what the slot does with what the
access gave. -/
theorem eval_around {α : Type} {enc : Bool} {access : Nat → M s α} {rest : α → M s Unit} {d : α} {t u : Good s} {r : Except Stop Unit}
    (he : enc = true) (hp : holds s l f.pred f.pneg = true) (hx : eaIn s l f < 2 ^ 62)
    (ha : eval (access (eaIn s l f)) ⟨s, .refl⟩ = (.ok d, t))
    (hr : eval (rest d) ⟨movedOn s l f t.val, movedOn_reach t.property l f⟩ = (r, u)) :
    eval (whenTaken (soleAt s l 3) f enc do
      let (ea, after) ← eaOf (soleAt s l 3) f
      let d ← access ea
      setAfter (soleAt s l 3) f after
      rest d) ⟨s, .refl⟩ = (r, u) := by
  rw [eval_whenTaken _ he hp, eval_bind_ok (eval_eaOf hx)]
  dsimp only
  rw [eval_bind_ok ha, eval_bind_ok (eval_setAfter t), hr]

theorem scopeOk_of_ne (h : f.scope ≠ 7) : scopeOk f.scope = true := by simpa [scopeOk] using h

/-- LD and LDS write what the load gives, after POSTINC. -/
theorem eval_opLoad {signed : Bool} {d : List Byte} {t : Good s} (hp : holds s l f.pred f.pneg = true) (hc : f.scope ≠ 7) (hx : eaIn s l f < 2 ^ 62)
    (e : eval (loadAt (soleAt s l 3) f (eaIn s l f) (2 ^ f.size.toNat)) ⟨s, .refl⟩ = (.ok d, t)) :
    eval (opLoad signed (soleAt s l 3) f) ⟨s, .refl⟩ =
      (.ok (), ⟨withS (movedOn s l f t.val) (here s l) f.reg.toNat (loadWord signed (2 ^ f.size.toNat) d),
        withS_reach (movedOn_reach t.property l f) _ _ _⟩) :=
  eval_around (access := fun ea => loadAt (soleAt s l 3) f ea (2 ^ f.size.toNat)) (rest := fun d => wrS (soleAt s l 3) f.reg (loadWord signed (2 ^ f.size.toNat) d))
    (scopeOk_of_ne hc) hp hx e (eval_wrS _ _ _)

/-- LDA writes an address register, after POSTINC. -/
theorem eval_opLda {d : List Byte} {t : Good s} (hp : holds s l f.pred f.pneg = true) (hc : f.scope ≠ 7) (hx : eaIn s l f < 2 ^ 62)
    (e : eval (loadAt (soleAt s l 3) f (eaIn s l f) 8) ⟨s, .refl⟩ = (.ok d, t)) :
    eval (opLda (soleAt s l 3) f) ⟨s, .refl⟩ =
      (.ok (), ⟨withA (movedOn s l f t.val) (here s l) (f.reg.toNat % 32) (BitVec.ofNat 64 (leNat d)),
        withA_reach (movedOn_reach t.property l f) _ _ _⟩) :=
  eval_around (access := fun ea => loadAt (soleAt s l 3) f ea 8) (rest := fun d => wrA (soleAt s l 3) (f.reg.toNat % 32) (BitVec.ofNat 64 (leNat d)))
    (scopeOk_of_ne hc) hp hx e (eval_wrA _ _ _)

/-- A store takes the register as it was, and POSTINC comes after it. -/
theorem eval_storing {w : M s Word} {v : Word} {bs : Word → List Byte} {t : Good s} (hp : holds s l f.pred f.pneg = true) (hc : f.scope ≠ 7)
    (hx : eaIn s l f < 2 ^ 62) (hv : eval w ⟨s, .refl⟩ = (.ok v, ⟨s, .refl⟩))
    (e : eval (storeAt (soleAt s l 3) f (eaIn s l f) (bs v)) ⟨s, .refl⟩ = (.ok (), t)) :
    eval (whenTaken (soleAt s l 3) f (scopeOk f.scope) do
      let (ea, after) ← eaOf (soleAt s l 3) f
      storeAt (soleAt s l 3) f ea (bs (← w))
      setAfter (soleAt s l 3) f after) ⟨s, .refl⟩ = (.ok (), ⟨movedOn s l f t.val, movedOn_reach t.property l f⟩) := by
  rw [eval_whenTaken _ (scopeOk_of_ne hc) hp, eval_bind_ok (eval_eaOf hx)]
  dsimp only
  rw [eval_bind_ok hv, eval_bind_ok e, eval_setAfter t]

/-- The sign-extension of LDS is that of the word of its width. -/
theorem loadWord_signed {n : Nat} (h : 0 < n) (d : List Byte) : loadWord true n d = (BitVec.ofNat (8 * n) (leNat d)).signExtend 64 :=
  ofInt_signedN _ _ (by omega)

end Sys2Proof.Machine
end

section
/-! OBLIGATION O10. -/

open Sys2Proof Sys2Proof.Machine

/-- Settles O10: the slot is its access with POSTINC after it; a load then writes what the access gave, a store has read its register before. -/
theorem loadsAndStores : Obligations.LoadsAndStores := by
  unfold Obligations.LoadsAndStores
  refine ⟨fun s t l f d takes pred scope ea => ⟨fun access => ?_, fun access => ?_⟩,
    fun s t l f takes pred scope ea => ⟨fun access => ?_, fun access => ?_⟩⟩ <;> obtain ⟨_, e⟩ := eval_of_gives access
  · refine ⟨soleSlot_ok (op := fun a => opLd a f) takes (.inl rfl) (eval_opLoad pred scope ea e), ?_⟩
    rw [← loadWord_signed (Nat.two_pow_pos _) d]
    exact soleSlot_ok (op := fun a => opLds a f) takes (.inl rfl) (eval_opLoad pred scope ea e)
  · exact soleSlot_ok (op := fun a => opLda a f) takes (.inl rfl) (eval_opLda pred scope ea e)
  · exact soleSlot_ok (op := fun a => opSt a f) takes (.inl rfl)
      (eval_storing (bs := fun v => leBytes (2 ^ f.size.toNat) v.toNat) pred scope ea (eval_rdS f.reg) e)
  · exact soleSlot_ok (op := fun a => opSta a f) takes (.inl rfl)
      (eval_storing (bs := fun v => leBytes 8 v.toNat) pred scope ea (eval_rdA _) e)

end

section
/-! SUPPORT. A table of contexts that is not in canonical form: its keys do not rise, and a context put back to what an unlisted one is stays as it
was (R266, R322). -/

namespace Sys2Proof.Machine

open Sys2Proof

/-- The sole region of core 0's clause: the first 64 KiB of its scratchpad, for context 0. -/
def oneRegion : Stream where
  proofShift := 0
  quotaDefault := 1
  clauses := [⟨1, false, 1, [0]⟩]
  joins := []
  regions := [⟨1, 0, false, false, 0, 1, 0, 1⟩]
  lanes := []
  routes := []
  fmts := []
  policies := []
  oldPolicies := []
  policyLoad := 0
  trees := []
  quotas := []
  defaults := []

/-- Context 0 of core 0 has the first word of its own scratchpad read ahead, as no bytes; a context of a higher key is listed before it. a1 names
that word and s2 is 1. -/
def staleAhead : State := { State.reset with
  stream := some oneRegion
  ctxs := [(1, { saddr := 1 }), (0, { early := some (0x400000000000, [], []) })]
  sregs := [(2, 1)]
  aregs := [(1, 0x400000000000)] }

/-- A plain access of 8 bytes at a1, of s2. -/
def wordAtA1 : AddrF := ⟨1, 2, 0, false, 3, 0, false, false, 0⟩

/-- What the store leaves. -/
def staleStored : State :=
  match exec (.st 0 wordAtA1) staleAhead with
  | .next t => t
  | _ => staleAhead

theorem exec_st_staleAhead : exec (.st 0 wordAtA1) staleAhead = .next staleStored := rfl

theorem staleAhead_takes : takesSlot staleAhead 0 = true ∧ holds staleAhead 0 wordAtA1.pred wordAtA1.pneg = true ∧
    eaIn staleAhead 0 wordAtA1 = 0x400000000000 ∧ ownAddrIn staleAhead 0 (eaIn staleAhead 0 wordAtA1) = some 0 ∧
    spTurnIn staleAhead 0 1 = true ∧ spanAllowedIn staleAhead 0 (fieldIn staleAhead R.CORE_STATUS_SLOT 0 0) 0 8 = true := by decide +kernel

theorem staleStored_takes : takesSlot staleStored 0 = true ∧ holds staleStored 0 wordAtA1.pred wordAtA1.pneg = true ∧
    spTurnIn staleStored 0 1 = true ∧ eaIn staleStored 0 wordAtA1 = eaIn staleAhead 0 wordAtA1 ∧
    ownAddrIn staleStored 0 (eaIn staleAhead 0 wordAtA1) = some 0 ∧
    spanAllowedIn staleStored 0 (fieldIn staleStored R.CORE_STATUS_SLOT 0 0) 0 8 = true ∧ FMap.wf zeroWord staleStored.sregs = true := by
  decide +kernel

/-- The load takes the word that was read ahead. -/
theorem ld_staleStored : (match exec (.ld 0 wordAtA1) staleStored with
    | .next u => FMap.get zeroWord u.sregs (here staleStored 0 * 64 + wordAtA1.reg.toNat)
    | _ => 1) = 0 := by decide +kernel

end Sys2Proof.Machine
end

section
/-! OBLIGATION O11. -/

open Sys2Proof Sys2Proof.Machine

/-- Refutes O11: a store forgets the word its context has read ahead by putting the context back, and the statement does not ask that the table of
contexts is in canonical form (it asks that of the cores' and of the scalar registers'). In `staleAhead` it is not, the word read ahead stays, and the load that
follows takes that. -/
theorem not_ownStoreThenLoad : ¬ Obligations.OwnStoreThenLoad := by
  unfold Obligations.OwnStoreThenLoad
  intro h
  obtain ⟨takes, pred, ea, own, turn, allowed⟩ := staleAhead_takes
  obtain ⟨takes', pred', turn', ea', own', allowed', wf⟩ := staleStored_takes
  obtain ⟨u, runs, value⟩ := h staleAhead staleStored 0 0 wordAtA1 wordAtA1 takes pred rfl rfl (by rw [ea]) (by rw [ea]; decide) own turn turn' allowed rfl
    (by intro e he; exact absurd he List.not_mem_nil) exec_st_staleAhead takes' pred' rfl rfl rfl ea' own' allowed' (by decide) wf
  have loaded := ld_staleStored
  rw [runs] at loaded
  dsimp only at loaded
  rw [value] at loaded
  exact absurd loaded (by decide +kernel)

end

section
/-! SUPPORT. More of how meanings run, and what a kind of change leaves, part by part. -/

namespace Sys2Proof.Machine

open Sys2Proof

variable {s0 s t : State} {α : Type}

/-- What a meaning that only reads gives is where it leads. -/
theorem leads_of_eval {m : M s0 α} {g u : Good s0} {a : α} {Q : α → State → Prop} (e : eval m g = (.ok a, u)) (h : Q a u.val) : Leads m g Q :=
  ⟨a, u, e, h⟩

@[simp] theorem eval_getCore (l : Nat) (g : Good s0) : eval (getCore l) g = (.ok (FMap.get core0 g.val.cores l), g) := rfl

theorem ends_getSp {P : Eff → Prop} (l : Nat) : Ends P (getSp l : M s0 SpCtl) := ends_read fun _ => ⟨_, rfl⟩
theorem ends_isF {P : Eff → Prop} (F : Fld) (i j : Nat) : Ends P (isF F i j : M s0 Bool) := ends_read fun _ => ⟨_, rfl⟩

/-! Parts a kind of change spares. -/

variable {ps : List Part} {bs : List Nat}

theorem ReachBy.same_sregs (r : ReachBy (sparing ps bs) s t) (h : .sregs ∈ ps) : t.sregs = s.sregs :=
  r.same State.sregs fun _ _ p => apply_sregs (sparing_part p h (by decide))
theorem ReachBy.same_aregs (r : ReachBy (sparing ps bs) s t) (h : .aregs ∈ ps) : t.aregs = s.aregs :=
  r.same State.aregs fun _ _ p => apply_aregs (sparing_part p h (by decide))
theorem ReachBy.same_pregs (r : ReachBy (sparing ps bs) s t) (h : .pregs ∈ ps) : t.pregs = s.pregs :=
  r.same State.pregs fun _ _ p => apply_pregs (sparing_part p h (by decide))
theorem ReachBy.same_vregs (r : ReachBy (sparing ps bs) s t) (h : .vregs ∈ ps) : t.vregs = s.vregs :=
  r.same State.vregs fun _ _ p => apply_vregs (sparing_part p h (by decide))
theorem ReachBy.same_spad (r : ReachBy (sparing ps bs) s t) (h : .spad ∈ ps) : t.spad = s.spad :=
  r.same State.spad fun _ _ p => apply_spad (sparing_part p h (by decide))
theorem ReachBy.same_ctxs (r : ReachBy (sparing ps bs) s t) (h : .ctxs ∈ ps) : t.ctxs = s.ctxs :=
  r.same State.ctxs fun _ _ p => apply_ctxs (sparing_part p h (by decide))
theorem ReachBy.same_dmas (r : ReachBy (sparing ps bs) s t) (h : .dmas ∈ ps) : t.dmas = s.dmas :=
  r.same State.dmas fun _ _ p => apply_dmas (sparing_part p h (by decide))
theorem ReachBy.same_stream (r : ReachBy (sparing ps bs) s t) (h : .stream ∈ ps) : t.stream = s.stream :=
  r.same State.stream fun _ _ p => apply_stream (sparing_part p h (by decide))

/-- Keys that a table keeps read as before, in any table. -/
theorem FMap.get_keep_of_kept {β : Type} {d : Nat → β} (m : FMap β) {p : Nat → Bool} {i : Nat} (h : p i = true) :
    FMap.get d (FMap.keep p m) i = FMap.get d m i := by
  induction m with
  | nil => rfl
  | cons x m ih =>
    obtain ⟨k, v⟩ := x
    by_cases e : i = k
    · subst e; simp [FMap.keep, FMap.get, h]
    · by_cases q : p k = true <;> simp [FMap.keep, FMap.get, q, e, ih]

/-- A register of a spared block stays, whatever form the registers' table has. -/
theorem ReachBy.same_reg (r : ReachBy (sparing ps bs) s t) {off : Nat} (ho : off / 2 ^ 20 ∈ bs) :
    FMap.get resetValue t.regs off = FMap.get resetValue s.regs off := by
  refine r.same (fun u => FMap.get resetValue u.regs off) fun e u h => ?_
  cases e
  case reg o v =>
    refine FMap.get_set_other _ fun eq => ?_
    subst eq
    simp only [sparing, Eff.spares, Bool.not_eq_true', List.contains_eq_mem, decide_eq_false_iff_not] at h
    exact h ho
  case clearRegs lo hi =>
    have hb := List.all_eq_true.1 h _ ho
    simp only [Bool.or_eq_true, Nat.ble_eq] at hb
    refine FMap.get_keep_of_kept _ ?_
    simp only [Bool.not_eq_true', Bool.and_eq_false_imp, decide_eq_true_eq, decide_eq_false_iff_not]
    omega
  case powerOn => exact absurd h (by simp [sparing, Eff.spares])
  all_goals rfl

theorem ReachBy.same_field (r : ReachBy (sparing ps bs) s t) {F : Fld} {i j : Nat} (ho : F.addr i j / 2 ^ 20 ∈ bs) :
    fieldIn t F i j = fieldIn s F i j := by
  rw [fieldIn, fieldIn, r.same_reg ho]

end Sys2Proof.Machine
end

section
/-! SUPPORT. Words of a scratchpad at the banks, and the gather buffer before them (R264 to R273): which changes they make, and that they end. -/

namespace Sys2Proof.Machine

open Sys2Proof

variable {s0 : State} {α : Type} {l : Nat}

/-- The parts of the state that neither the banks nor the gather buffers are. -/
abbrev unpadded : List Part :=
  [.gddr, .sregs, .aregs, .pregs, .vregs, .banks, .rowDescs, .accs, .accRows, .ctxs, .dmas, .flagUpds, .partials, .seqs, .rows, .frames, .nodes,
   .spillSlots, .kv, .jobs, .tent, .tentDone, .sent, .colls, .reqs, .nextTag, .lateDrops, .lanes, .blockBufs, .relTags, .held, .cache, .gdctls, .cx,
   .stream, .load, .store, .recSerial, .faultsDue, .classC, .proofKey, .proofs, .dicts, .rst, .msix, .pcie, .pwr, .pins, .sec, .log, .spdm, .mgt,
   .ms, .fresh, .out]

/-- The register blocks that are not the scratchpads'. -/
abbrev unpaddedBlocks : List Nat :=
  [0x00, 0x01, 0x02, 0x03, 0x04, 0x05, 0x06, 0x07, 0x08, 0x09, 0x0A, 0x0B, 0x0D, 0x0E, 0x0F, 0x10, 0x11, 0x12, 0x13, 0x14, 0x15, 0x16, 0x17, 0x18,
   0x19, 0x1A, 0x1B, 0x1C, 0x1D, 0x1E, 0x1F, 0x20, 0x21, 0x22]

/-- What the words at the banks are: their bytes, the scratchpads' registers and controllers. -/
abbrev banking : Eff → Prop := sparing (.cores :: unpadded) unpaddedBlocks

/-- The same with the gather buffers. -/
abbrev padding : Eff → Prop := sparing unpadded unpaddedBlocks

theorem padding_of_banking {m : M s0 α} (h : Ends banking m) : Ends padding m := ends_mono h (sparing_mono (by decide) (by decide))

section
variable (hl : l < 144)
include hl

theorem sp_clear {F : Fld} (h : F.clear unpaddedBlocks 144 0 = true) : F.clear unpaddedBlocks l 0 = true := Fld.clear_le hl.le le_rfl h

omit hl in
theorem banks_spPutRaw (l w : Nat) (v : Word) (c : Byte) : Ends banking (spPutRaw l w v c : M s0 Unit) :=
  ends_bind (ends_each fun _ _ => ends_eff rfl) fun _ => ends_eff rfl

omit hl in
theorem banks_spTouch (l w : Nat) : Ends banking (spTouch l w : M s0 Unit) := ends_bind (ends_getSp _) fun _ => ends_eff rfl

theorem banks_spStoreWord (w : Nat) (v : Word) : Ends banking (spStoreWord l w v : M s0 Unit) := by
  refine ends_bind ends_st fun _ => ends_bind (ends_isF _ _ _) fun _ => ends_bind (ends_isF _ _ _) fun _ => ends_bind (ends_getF _ _ _) fun _ => ?_
  refine ends_bind (banks_spTouch _ _) fun _ => ends_ite ?_ (banks_spPutRaw _ _ _ _)
  refine ends_bind (ends_getF _ _ _) fun _ => ends_bind (ends_getF _ _ _) fun _ => ends_bind (banks_spPutRaw _ _ _ _) fun _ => ?_
  exact ends_bind (ends_setF_clear (sp_clear hl rfl)) fun _ => ends_bind (ends_getSp _) fun _ => ends_eff rfl

omit hl in
theorem banks_spPoisonWord (l w : Nat) : Ends banking (spPoisonWord l w : M s0 Unit) :=
  ends_bind (banks_spTouch _ _) fun _ => banks_spPutRaw _ _ _ _

omit hl in
theorem ends_spRec {P : Eff → Prop} (l cls w flags : Nat) : Ends P (spRec l cls w flags : M s0 Rec) := ends_read fun _ => ⟨_, rfl⟩

theorem banks_spReadWord (w : Nat) (scrub : Bool) : Ends banking (spReadWord l w scrub : M s0 (Option Word × List Rec)) := by
  have setErr (syn : Byte) (act ue inj : Bool) : Ends banking (spSetErr l w syn act ue scrub inj : M s0 Unit) := ends_wrReg_clear (sp_clear hl rfl)
  refine ends_bind ends_st fun _ => ends_bind (ends_getSp _) fun _ => ?_
  dsimp only
  split
  · exact ends_pure _
  · refine ends_bind (ends_countSat_clear (sp_clear hl rfl)) fun _ => ends_bind (setErr _ _ _ _) fun _ => ends_bind (ends_eff rfl) fun _ => ?_
    exact ends_bind (ends_spRec _ _ _ _) fun _ => ends_pure _
  · have rest (syn : Byte) (act inj : Bool) (fl : Nat) : Ends banking (do
        spSetErr l w syn act true scrub inj
        if scrub then return (none, [← spRec l 0 w fl]) else return (none, []) : M s0 (Option Word × List Rec)) :=
      ends_bind (setErr _ _ _ _) fun _ => ends_ite (ends_bind (ends_spRec _ _ _ _) fun _ => ends_pure _) (ends_pure _)
    exact ends_ite (ends_bind (ends_countSat_clear (sp_clear hl rfl)) fun _ => rest _ _ _ _)
      (ends_bind (ends_countSat_clear (sp_clear hl rfl)) fun _ => rest _ _ _ _)

/-! The gather buffer (R266 to R268). -/

theorem banks_gbFlushEntry (e : GatherEntry) : Ends banking (gbFlushEntry l e : M s0 GatherEntry) :=
  ends_bind (ends_loop fun _ _ _ => ends_ite (ends_ite (ends_bind (banks_spPoisonWord _ _) fun _ => ends_pure _)
    (ends_bind (banks_spStoreWord hl _ _) fun _ => ends_pure _)) (ends_pure _)) fun _ => ends_pure _

omit hl in
theorem pads_setGather (l : Nat) (v : List GatherEntry) : Ends padding (setGather l v : M s0 Unit) := ends_bind (ends_getCore _) fun _ => ends_eff rfl

theorem pads_gbFlushLine (line : Nat) : Ends padding (gbFlushLine l line : M s0 Unit) := by
  refine ends_bind (ends_getCore _) fun _ => ?_
  split
  · exact ends_pure _
  · exact ends_bind (padding_of_banking (banks_gbFlushEntry hl _)) fun _ => ends_bind (ends_getCore _) fun _ => pads_setGather _ _

omit hl in
theorem pads_gbUpdate (l w : Nat) (v : Option Word) : Ends padding (gbUpdate l w v : M s0 Unit) :=
  ends_bind (ends_getCore _) fun _ => ends_ite (pads_setGather _ _) (ends_pure _)

theorem pads_spWriteIn (w off : Nat) (bs : List Byte) : Ends padding (spWriteIn l w off bs : M s0 (Bool × List Rec)) := by
  have store {β : Type} (v : Word) (x : Option Word) (b : β) : Ends padding (do spStoreWord l w v; gbUpdate l w x; pure b : M s0 β) :=
    ends_bind (padding_of_banking (banks_spStoreWord hl _ _)) fun _ => ends_bind (pads_gbUpdate l _ _) fun _ => ends_pure _
  refine ends_ite (store _ _ _) (ends_bind (pads_gbFlushLine hl _) fun _ => ends_bind (padding_of_banking (banks_spReadWord hl _ _)) ?_)
  rintro ⟨_ | v, ev⟩
  · exact ends_bind (padding_of_banking (banks_spPoisonWord _ _)) fun _ => ends_bind (pads_gbUpdate l _ _) fun _ => ends_pure _
  · exact store _ _ _

theorem pads_spWrite (a : Nat) (bs : List Byte) : Ends padding (spWrite l a bs : M s0 (Nat × List Rec)) :=
  ends_bind (ends_loop fun _ _ _ => ends_bind (pads_spWriteIn hl _ _ _) fun _ => ends_ite (ends_pure _) (ends_pure _)) fun _ => ends_pure _

end

end Sys2Proof.Machine
end

section
/-! SUPPORT. Vector loads and stores at the own scratchpad (R106, R107, R262): their address, and the accesses around it. -/

namespace Sys2Proof.Machine

open Sys2Proof

variable {s : State} {l x n : Nat} {f : AddrF}

/-- An address of the own scratchpad, aligned. -/
theorem eval_ownEa {ea align : Nat} (own : ownAddrIn s l ea = some x) (h : ea % align = 0) :
    eval (ownEa (soleAt s l n) ea align) ⟨s, .refl⟩ = (.ok x, ⟨s, .refl⟩) := by
  unfold ownEa
  rw [eval_bind_ok (eval_st _)]
  dsimp only [soleAt]
  rw [own, need?, pure_bind, eval_bind, eval_need, if_pos (decide_eq_true h)]
  rfl

/-- 1,024 bytes of a region that is not two-dimensional. -/
theorem eval_linearEa {ea : Nat} {r : Region} (own : ownAddrIn s l ea = some x) (h : ea % 1024 = 0)
    (region : allowedIn s l (fieldIn s R.CORE_STATUS_SLOT l 0) x = some r) (linear : r.twoDim = false)
    (span : spanAllowedIn s l (fieldIn s R.CORE_STATUS_SLOT l 0) x 1024 = true) :
    eval (linearEa (soleAt s l n) ea) ⟨s, .refl⟩ = (.ok x, ⟨s, .refl⟩) := by
  unfold linearEa
  rw [eval_bind_ok (eval_ownEa own h), eval_bind_ok (eval_st _)]
  dsimp only [soleAt]
  rw [region, span]
  dsimp only
  rw [linear]
  rfl

section
variable {d : List Byte} {t : Good s} (hp : holds s l f.pred f.pneg = true) (hx : eaIn s l f < 2 ^ 62) (own : ownAddrIn s l (eaIn s l f) = some x)
include hp hx own

/-- LDV fills its register with what it reads. -/
theorem eval_opLdv {r : Region} (h : eaIn s l f % 1024 = 0) (region : allowedIn s l (fieldIn s R.CORE_STATUS_SLOT l 0) x = some r)
    (linear : r.twoDim = false) (span : spanAllowedIn s l (fieldIn s R.CORE_STATUS_SLOT l 0) x 1024 = true)
    (reads : eval (readOwnWords (soleAt s l 3) (eaIn s l f) (spanWords x 1024)) ⟨s, .refl⟩ = (.ok d, t)) :
    eval (opLdv (soleAt s l 3) f) ⟨s, .refl⟩ = (.ok (), ⟨withV (movedOn s l f t.val) (here s l) f.reg.toNat (lanesOf d),
      withV_reach (movedOn_reach t.property l f) _ _ _⟩) := by
  rw [opLdv, eval_whenTaken _ rfl hp, eval_bind_ok (eval_eaOf hx)]
  dsimp only
  rw [eval_bind_ok (eval_linearEa own h region linear span), eval_bind_ok reads, eval_bind_ok (eval_setAfter t)]
  exact eval_wrVreg _ _ _ _ _

/-- LDVR and LDVC fill their register with a row or a column of a two-dimensional region. -/
theorem eval_opLine {column : Bool} {r : Region} {ws : List Nat} (h : eaIn s l f % 8 = 0)
    (region : allowedIn s l (fieldIn s R.CORE_STATUS_SLOT l 0) x = some r) (planar : r.twoDim = true) (words : lineWords r x column = some ws)
    (reads : eval (readOwnWords (soleAt s l 3) (eaIn s l f) ws) ⟨s, .refl⟩ = (.ok d, t)) :
    eval (opLine column (soleAt s l 3) f) ⟨s, .refl⟩ = (.ok (), ⟨withV (movedOn s l f t.val) (here s l) f.reg.toNat (lanesOf d),
      withV_reach (movedOn_reach t.property l f) _ _ _⟩) := by
  rw [opLine, eval_whenTaken _ rfl hp, eval_bind_ok (eval_eaOf hx)]
  dsimp only
  rw [eval_bind_ok (eval_ownEa own h), eval_bind_ok (eval_st _)]
  have allowed : allowedIn s (soleAt s l 3).l (soleAt s l 3).k x = some r := region
  dsimp only
  rw [allowed, need?, pure_bind, planar, eval_bind_ok (eval_need_true _ _), words, need?, pure_bind, eval_bind_ok reads, eval_bind_ok (eval_setAfter t)]
  exact eval_wrVreg _ _ _ _ _

end

end Sys2Proof.Machine
end

section
/-! SUPPORT. Two runs alike but for the scratchpads' controllers, which hold who is promoted, what is to be written back and what was injected: no
word that is written whole depends on them (R264, R271, R272). -/

namespace Sys2Proof.Machine

open Sys2Proof

variable {s0 : State} {α β γ σ : Type}

/-- The second state is the first but for the scratchpads' controllers. -/
def OffControl (t u : State) : Prop := ∃ c, u = { t with spctls := c }

/-- Two meanings run to their ends from states alike so, into states alike, and give values that are related. -/
def Alike (r : α → α → Prop) (m n : M s0 α) : Prop := ∀ g h, OffControl g.val h.val →
  ∃ a b u v, eval m g = (.ok a, u) ∧ eval n h = (.ok b, v) ∧ r a b ∧ OffControl u.val v.val

theorem alike_pure {r : α → α → Prop} {a b : α} (h : r a b) : Alike r (pure a : M s0 α) (pure b) := fun g k e => ⟨a, b, g, k, rfl, rfl, h, e⟩

theorem alike_bind {r : α → α → Prop} {q : β → β → Prop} {m n : M s0 α} {f k : α → M s0 β} (h : Alike r m n)
    (next : ∀ a b, r a b → Alike q (f a) (k b)) : Alike q (m >>= f) (n >>= k) := by
  intro g g' e
  obtain ⟨a, b, u, v, em, en, rel, e⟩ := h g g' e
  obtain ⟨c, d, w, x, ef, ek, rel', e⟩ := next a b rel u v e
  exact ⟨c, d, w, x, by rw [eval_bind_ok em, ef], by rw [eval_bind_ok en, ek], rel', e⟩

theorem alike_ite {r : α → α → Prop} {c : Prop} [Decidable c] {m n m' n' : M s0 α} (h : Alike r m m') (k : Alike r n n') :
    Alike r (if c then m else n) (if c then m' else n') := by
  split <;> assumption

theorem alike_st : Alike OffControl (st : M s0 State) st := fun g h e => ⟨_, _, g, h, rfl, rfl, e, e⟩

theorem OffControl.regs {t u : State} (h : OffControl t u) : t.regs = u.regs := by obtain ⟨c, rfl⟩ := h; rfl
theorem OffControl.field {t u : State} (h : OffControl t u) (F : Fld) (i j : Nat) : fieldIn t F i j = fieldIn u F i j := by
  rw [fieldIn, fieldIn, h.regs]
theorem OffControl.spctl {t u : State} (h : OffControl t u) (l : Nat) (p q : SpCtl) :
    OffControl ((Eff.spctl l p).apply t) ((Eff.spctl l q).apply u) := by obtain ⟨c, rfl⟩ := h; exact ⟨_, rfl⟩

/-- A change of another part is the same change of both. -/
theorem OffControl.apply {t u : State} (h : OffControl t u) {e : Eff} (k : .spctls ∉ e.parts) : OffControl (e.apply t) (e.apply u) := by
  obtain ⟨c, rfl⟩ := h
  refine ⟨c, ?_⟩
  cases e
  case spctl => exact absurd (List.mem_singleton.2 rfl) k
  case powerOn => exact absurd k (by decide)
  all_goals rfl

theorem alike_getF (F : Fld) (i j : Nat) : Alike Eq (getF F i j : M s0 Nat) (getF F i j) := fun g h e => ⟨_, _, g, h, rfl, rfl, e.field F i j, e⟩
theorem alike_isF (F : Fld) (i j : Nat) : Alike Eq (isF F i j : M s0 Bool) (isF F i j) :=
  fun g h e => ⟨_, _, g, h, rfl, rfl, by rw [e.field F i j], e⟩
theorem alike_getCore (l : Nat) : Alike Eq (getCore l : M s0 CoreSt) (getCore l) :=
  fun g h e => ⟨_, _, g, h, rfl, rfl, by obtain ⟨c, e⟩ := e; rw [e], e⟩
theorem alike_getSp (l : Nat) : Alike (fun _ _ => True) (getSp l : M s0 SpCtl) (getSp l) := fun g h e => ⟨_, _, g, h, rfl, rfl, trivial, e⟩
theorem alike_setSp (l : Nat) (p q : SpCtl) : Alike Eq (setSp l p : M s0 Unit) (setSp l q) := fun _ _ e => ⟨_, _, _, _, rfl, rfl, rfl, e.spctl l p q⟩
theorem alike_eff {e : Eff} (h : .spctls ∉ e.parts) : Alike Eq (eff e : M s0 Unit) (eff e) := fun _ _ o => ⟨_, _, _, _, rfl, rfl, rfl, o.apply h⟩

theorem alike_setF (F : Fld) (v i j : Nat) : Alike Eq (setF F v i j : M s0 Unit) (setF F v i j) := by
  refine fun g h o => ⟨_, _, _, _, eval_setF F v i j g, eval_setF F v i j h, rfl, ?_⟩
  rw [show setFEff h.val F v i j = setFEff g.val F v i j by rw [setFEff, setFEff, o.regs]]
  exact o.apply (e := setFEff g.val F v i j) (show Part.spctls ∉ [Part.regs] by decide)

theorem alike_forIn {l : List γ} {x : σ} {k : γ → σ → M s0 (ForInStep σ)} (h : ∀ a ∈ l, ∀ b, Alike Eq (k a b) (k a b)) :
    Alike Eq (forIn l x k) (forIn l x k) := by
  induction l generalizing x with
  | nil => exact alike_pure rfl
  | cons a l ih =>
    rw [List.forIn_cons]
    refine alike_bind (h a List.mem_cons_self x) ?_
    rintro (b | b) _ rfl
    · exact alike_pure rfl
    · exact ih fun c hc => h c (List.mem_cons_of_mem a hc)

/-! Words written whole. -/

theorem alike_spPutRaw (l w : Nat) (v : Word) (c : Byte) : Alike Eq (spPutRaw l w v c : M s0 Unit) (spPutRaw l w v c) :=
  alike_bind (alike_forIn fun _ _ _ => alike_bind (alike_eff (by simp)) fun _ _ _ => alike_pure rfl) fun _ _ _ => alike_eff (by simp)

theorem alike_spStoreWord (l w : Nat) (v : Word) : Alike Eq (spStoreWord l w v : M s0 Unit) (spStoreWord l w v) := by
  refine alike_bind alike_st fun t u same => ?_
  have act : activationIn u l (w * 8) = activationIn t l (w * 8) := by obtain ⟨c, rfl⟩ := same; rfl
  dsimp only
  rw [act]
  refine alike_bind (alike_isF _ _ _) ?_
  rintro armed _ rfl
  refine alike_bind (alike_isF _ _ _) ?_
  rintro matched _ rfl
  refine alike_bind (alike_getF _ _ _) ?_
  rintro target _ rfl
  refine alike_bind (r := Eq) (alike_bind (alike_getSp _) fun _ _ _ => alike_setSp _ _ _) fun _ _ _ => alike_ite ?_ (alike_spPutRaw _ _ _ _)
  refine alike_bind (alike_getF _ _ _) ?_
  rintro data _ rfl
  refine alike_bind (alike_getF _ _ _) ?_
  rintro check _ rfl
  refine alike_bind (alike_spPutRaw _ _ _ _) fun _ _ _ => alike_bind (alike_setF _ _ _ _) fun _ _ _ => ?_
  exact alike_bind (alike_getSp _) fun _ _ _ => alike_setSp _ _ _

theorem alike_setGather (l : Nat) (v : List GatherEntry) : Alike Eq (setGather l v : M s0 Unit) (setGather l v) := by
  refine alike_bind (alike_getCore _) ?_
  rintro c _ rfl
  exact alike_eff (by simp)

theorem alike_gbUpdate (l w : Nat) (v : Option Word) : Alike Eq (gbUpdate l w v : M s0 Unit) (gbUpdate l w v) := by
  refine alike_bind (alike_getCore _) ?_
  rintro c _ rfl
  exact alike_ite (alike_setGather _ _) (alike_pure rfl)

theorem alike_spWriteIn {l w off : Nat} {bs : List Byte} (h : bs.length = 8) :
    Alike Eq (spWriteIn l w off bs : M s0 (Bool × List Rec)) (spWriteIn l w off bs) := by
  rw [spWriteIn, if_pos h]
  exact alike_bind (alike_spStoreWord _ _ _) fun _ _ _ => alike_bind (alike_gbUpdate _ _ _) fun _ _ _ => alike_pure rfl

theorem length_slice (bs : List Byte) (off n : Nat) : (slice bs off n).length = n := by
  simp only [slice, List.length_append, List.length_replicate, List.length_take]
  omega

/-- The pieces of aligned words are the words. -/
theorem spanPieces_words {fuel a n : Nat} (ha : a % 8 = 0) (hn : n % 8 = 0) : ∀ p ∈ spanPieces 8 fuel a n, p.2 = 8 := by
  induction fuel generalizing a n with
  | zero => exact fun p hp => absurd hp List.not_mem_nil
  | succ fuel ih =>
    unfold spanPieces
    split
    · exact fun p hp => absurd hp List.not_mem_nil
    · have m : min n (8 - a % 8) = 8 := by omega
      rintro p (_ | ⟨_, hp⟩)
      · exact m
      · rw [m] at hp
        exact ih (by omega) (by omega) p hp

/-- Aligned words are written alike. -/
theorem alike_spWrite {l a : Nat} {bs : List Byte} (ha : a % 8 = 0) (hb : bs.length % 8 = 0) :
    Alike Eq (spWrite l a bs : M s0 (Nat × List Rec)) (spWrite l a bs) := by
  refine alike_bind (alike_forIn fun p hp x => ?_) ?_
  · have len : (slice bs (p.1 - a) p.2).length = 8 := by rw [length_slice, spanPieces_words ha hb p hp]
    refine alike_bind (alike_spWriteIn len) ?_
    rintro y _ rfl
    exact alike_ite (alike_pure rfl) (alike_pure rfl)
  · rintro y _ rfl
    exact alike_pure rfl

/-- A requester whose turn it is changes at most who is promoted. -/
theorem leads_spServed {P : Eff → Prop} {l group : Nat} {g : Good s0} (hP : ∀ v, P (.spctl l v)) (turn : spTurnIn s0 l group = true) :
    Leads (spServed l group) g fun _ u => OffControl g.val u ∧ ReachBy P g.val u := by
  refine leads_bind_st (leads_bind_read (a := ()) ?_ (leads_bind_read (a := FMap.get spctl0 g.val.spctls l) rfl ?_))
  · rw [turn]; rfl
  · split
    · exact ⟨_, _, rfl, ⟨_, rfl⟩, ReachBy.refl.upd (hP _)⟩
    · exact leads_pure ⟨⟨_, rfl⟩, .refl⟩

end Sys2Proof.Machine
end

section
/-! SUPPORT. STV (R106, R107). -/

namespace Sys2Proof.Machine

open Sys2Proof

variable {s : State} {l x n : Nat} {f : AddrF}

/-- A slot whose operation runs to its end leaves what it leads to. -/
theorem soleSlot_leads {bits : Nat} {op : At → M s Unit} {Q : State → Prop} (h : takesSlot s l = true)
    (ha : vecOrMat n = false ∨ attRunsIn s l (fieldIn s R.CORE_STATUS_SLOT l 0) = false) (k : Leads (op (soleAt s l n)) ⟨s, .refl⟩ fun _ => Q) :
    ∃ t, soleSlot s l n bits op = .next t ∧ Q t := by
  obtain ⟨_, u, e, q⟩ := k
  exact ⟨u.val, soleSlot_ok h ha e, q⟩

theorem takesSlot_lt (h : takesSlot s l = true) : l < 144 := by
  simp only [takesSlot, Bool.and_eq_true, decide_eq_true_eq] at h
  exact h.1.1.1.1.1.1.1.1.1.1

variable {s0 : State}

theorem ends_opWord {P : Eff → Prop} (a : At) : Ends P (opWord a : M s0 Nat) := by
  refine ends_bind (ends_getCtx _ _) fun c => ?_
  split <;> exact ends_pure _

theorem ends_slotRec {P : Eff → Prop} (a : At) (r : Rec) : Ends P (slotRec a r : M s0 Rec) :=
  ends_bind (ends_bind ends_st fun _ => ends_bind (ends_getF _ _ _) fun _ => ends_pure _) fun _ => ends_bind (ends_opWord a) fun _ => ends_pure _

/-- What a slot met is recorded. -/
theorem stores_slotRecs (a : At) (rs : List Rec) : Ends storing (slotRecs a rs : M s0 Unit) :=
  ends_bind (ends_loop fun r _ _ => ends_bind (ends_slotRec a r) fun _ => ends_bind (stores_record _) fun _ => ends_pure _) fun _ => ends_pure _

theorem ends_tagAt {P : Eff → Prop} (a : At) (scope : Nat) : Ends P (tagAt a scope : M s0 (Option RelTag)) :=
  ends_bind ends_st fun _ => ends_ite (ends_pure _) (ends_pure _)

/-- Each lane is four bytes. -/
theorem length_laneBytes (v : List (BitVec 32)) : (v.flatMap (fun e => leBytes 4 e.toNat)).length = 4 * v.length := by
  induction v with
  | nil => rfl
  | cons e v ih => rw [List.flatMap_cons, List.length_append, ih, List.length_cons, Nat.mul_add, Nat.add_comm]; rfl

/-- What neither the banks nor records and release tags are: the registers and contexts of cores. -/
abbrev offRegisters : Eff → Prop := sparing [.sregs, .aregs, .pregs, .vregs, .ctxs, .dmas] [0x02, 0x03, 0x04, 0x05, 0x06, 0x07, 0x08, 0x09, 0x0A]

/-- A slot without a fault of encoding whose predicate holds leads where its operation leads. -/
theorem leads_whenTaken {enc : Bool} {op : M s Unit} {Q : Unit → State → Prop} (he : enc = true) (hp : holds s l f.pred f.pneg = true)
    (k : Leads op ⟨s, .refl⟩ Q) : Leads (whenTaken (soleAt s l n) f enc op) ⟨s, .refl⟩ Q := by
  rw [Leads, eval_whenTaken op he hp]
  exact k

/-- STV leaves its lanes at the banks, and of the registers moves a[AD] only. -/
theorem leads_opStv {r : Region} {m : Nat} {ev : List Rec} {t : Good s} (hl : l < 144) (hp : holds s l f.pred f.pneg = true) (hx : eaIn s l f < 2 ^ 62)
    (own : ownAddrIn s l (eaIn s l f) = some x) (h : eaIn s l f % 1024 = 0)
    (region : allowedIn s l (fieldIn s R.CORE_STATUS_SLOT l 0) x = some r) (linear : r.twoDim = false)
    (span : spanAllowedIn s l (fieldIn s R.CORE_STATUS_SLOT l 0) x 1024 = true) (turn : spTurnIn s l 1 = true)
    (writes : eval (spWrite l x ((vAll s l f.reg.toNat).flatMap (fun e => leBytes 4 e.toNat))) ⟨s, .refl⟩ = (.ok (m, ev), t)) :
    Leads (opStv (soleAt s l 3) f) ⟨s, .refl⟩ fun _ u => u.spad = t.val.spad ∧ u.sregs = s.sregs ∧ u.aregs = (movedOn s l f s).aregs ∧
      u.pregs = s.pregs ∧ u.vregs = s.vregs := by
  have hx8 : x % 8 = 0 := by
    simp only [ownAddrIn, Option.ite_none_right_eq_some, Option.some.injEq] at own
    omega
  have words : ((vAll s l f.reg.toNat).flatMap (fun e => leBytes 4 e.toNat)).length % 8 = 0 := by
    rw [length_laneBytes, vAll, lanes, List.length_map, List.length_range]
  rw [opStv]
  refine leads_whenTaken rfl hp (leads_bind_read (eval_eaOf hx) (leads_bind_read (eval_linearEa own h region linear span) ?_))
  refine leads_bind_read (eval_rdVreg _ _ _ _) (leads_bind (leads_spServed (P := banking) (fun _ => rfl) turn) fun _ v hv => ?_)
  obtain ⟨alike, served⟩ := hv
  obtain ⟨y, y', t', w, e, e', rfl, alike⟩ := alike_spWrite hx8 words ⟨s, .refl⟩ v alike
  obtain ⟨y2, w2, e2, written⟩ := pads_spWrite (s0 := s) hl x ((vAll s l f.reg.toNat).flatMap (fun e => leBytes 4 e.toNat)) v
  cases e.symm.trans writes
  cases e2.symm.trans e'
  refine leads_bind (leads_of_eval e' (Q := fun _ u => u.spad = t.val.spad ∧ ReachBy offRegisters s u) ⟨?_, ?_⟩) fun y w hw => ?_
  · obtain ⟨c, same⟩ := alike
    rw [same]
  · exact (served.mono (sparing_mono (by decide) (by decide))).trans (written.mono (sparing_mono (by decide) (by decide)))
  obtain ⟨spad, r⟩ := hw
  refine leads_bind (leads_of_ends (stores_slotRecs _ _) w) fun _ u1 r1 => ?_
  refine leads_bind (leads_of_ends (ends_getCtx (P := storing) _ _) u1) fun _ u2 r2 => ?_
  refine leads_bind (leads_of_ends (ends_tagAt (P := storing) _ _) u2) fun _ u3 r3 => ?_
  refine leads_bind (leads_of_ends (stores_setTags _ _ _) u3) fun _ u4 r4 => ?_
  have stored := ((r1.trans r2).trans r3).trans r4
  have kept : ReachBy offRegisters s u4.val := r.trans (stored.mono (sparing_mono (by decide) (by decide)))
  have vregs := kept.same_vregs (by decide)
  have sregs := kept.same_sregs (by decide)
  have aregs := kept.same_aregs (by decide)
  have pregs := kept.same_pregs (by decide)
  have pads := (stored.same_spad (by decide)).trans spad
  refine leads_of_eval (eval_setAfter u4) ?_
  unfold movedOn
  split
  · exact ⟨pads, sregs, congrArg (FMap.set _ · _ _) aregs, pregs, vregs⟩
  · exact ⟨pads, sregs, aregs, pregs, vregs⟩

end Sys2Proof.Machine
end

section
/-! OBLIGATION O12. -/

open Sys2Proof Sys2Proof.Machine

/-- Settles O12: a vector load is its address, the reading of its words and the write of its register; a vector store's words are written whole,
so that whose turn it is at the banks makes no difference to them, and what follows them spares registers and scratchpads. -/
theorem vectorLoadsAndStores : Obligations.VectorLoadsAndStores := by
  unfold Obligations.VectorLoadsAndStores
  refine ⟨fun s t l x f d r takes pred ea own region => ⟨fun aligned linear span reads => ?_, fun ws aligned planar words reads => ?_,
    fun ws aligned planar words reads => ?_⟩, fun s t l x n f r ev takes pred ea own region aligned linear span turn writes => ?_⟩
  · obtain ⟨_, e⟩ := eval_of_gives reads
    exact soleSlot_ok (op := fun a => opLdv a f) takes (.inl rfl) (eval_opLdv pred ea own aligned region linear span e)
  · obtain ⟨_, e⟩ := eval_of_gives reads
    exact soleSlot_ok (op := fun a => opLine false a f) takes (.inl rfl) (eval_opLine pred ea own aligned region planar words e)
  · obtain ⟨_, e⟩ := eval_of_gives reads
    exact soleSlot_ok (op := fun a => opLine true a f) takes (.inl rfl) (eval_opLine pred ea own aligned region planar words e)
  · obtain ⟨_, e⟩ := eval_of_gives writes
    exact soleSlot_leads (op := fun a => opStv a f) takes (.inl rfl)
      (leads_opStv (takesSlot_lt takes) pred ea own aligned region linear span turn e)

end

section
/-! SUPPORT. A core whose context waits for an attention operation (R194). -/

namespace Sys2Proof.Machine

open Sys2Proof

/-- Context 0 of core 0 has the transfer under way that brings the descriptor of an attention operation. -/
def describingAtReset : State := { State.reset with
  stream := some oneRegion
  dmas := [(0, { state := 1, kind := 1 })] }

/-- A scalar slot whose predicate, p0 inverted, fails. -/
def failingScalar : ScalarF := ⟨0, 0, 0, 0, true, false, 0⟩

theorem describingAtReset_takes : takesSlot describingAtReset 0 = true ∧
    holds describingAtReset 0 failingScalar.pred failingScalar.pneg = false := by decide +kernel

/-- NOP at vector slot A is held: its context has a sentence under way. -/
theorem nop_describingAtReset : (match exec (.nop 0 4) describingAtReset with
    | .next t => (FMap.get ctx0 t.ctxs 0).sentence.isSome
    | _ => false) = true := by decide +kernel

end Sys2Proof.Machine
end

section
/-! OBLIGATION O7. -/

open Sys2Proof Sys2Proof.Machine

/-- Refutes O7: a NOP commanded at a vector slot while an attention operation of its context runs is held to run later, as every slot there is (R194):
its context keeps it as a sentence under way. The statement says that NOP leaves all as it was, at any slot and with no word of attention. -/
theorem not_scalarOperations : ¬ Obligations.ScalarOperations := by
  unfold Obligations.ScalarOperations
  rintro ⟨-, -, -, suppressed⟩
  obtain ⟨takes, fails⟩ := describingAtReset_takes
  have same := (suppressed describingAtReset 0 .a failingScalar takes fails).1 4
  have held := nop_describingAtReset
  rw [same] at held
  exact absurd held (by decide)

end

section
/-! SUPPORT. The scalar slots commanded alone (R102 to R104): division, W32 operations, selection and special values. -/

namespace Sys2Proof.Machine

open Sys2Proof

variable {s : State} {l op : Nat} {u : ScalarUnit} {f : ScalarF}

/-- A coding that is right is no fault. -/
theorem eval_encOk {b : Bool} (h : b = true) (g : Good s) : eval (encOk b) g = (.ok (), g) := by
  rw [encOk, h]
  exact eval_need_true _ _

/-- A scalar slot's operation that runs to its end leaves what it leaves. -/
theorem soleScalar_ok {g : {s : State} → At → ScalarF → M s Unit} {t : Good s} (takes : takesSlot s l = true)
    (e : eval (g (soleAt s l (scalarSlot u)) f) ⟨s, .refl⟩ = (.ok (), t)) : soleScalar op g l u f s = .next t.val :=
  soleSlot_ok (op := fun a => g a f) takes (.inl (vecOrMat_scalar u)) e

/-- SEL writes one operand or the other. -/
theorem sole_sel (takes : takesSlot s l = true) : soleScalar op opSel l u f s =
    .next (withS s (here s l) f.rd.toNat (if holds s l f.pred f.pneg then sOf s l f.rs1.toNat else op2Of s l f)) := by
  refine soleScalar_ok (t := ⟨_, withS_reach .refl _ _ _⟩) takes ?_
  rw [opSel, eval_bind_ok (eval_predHolds _ _), eval_bind_ok (eval_rdS _), eval_bind_ok (eval_op2 _)]
  exact eval_wrS _ _ _

section
variable (takes : takesSlot s l = true) (hp : holds s l f.pred f.pneg = true)
include takes hp

theorem scalarBin_writes (g : Word → Word → Word) {v : Word} (e : g (sOf s l f.rs1.toNat) (op2Of s l f) = v) :
    soleScalar op (scalarBin g) l u f s = .next (withS s (here s l) f.rd.toNat v) := by
  rw [sole_scalarBin g takes, hp, if_pos rfl, e]

theorem scalarW_writes (g : BitVec 32 → BitVec 32 → BitVec 32 × Bool) : soleScalar op (scalarW g) l u f s =
    let r := g ((sOf s l f.rs1.toNat).truncate 32) ((op2Of s l f).truncate 32)
    let t := withS s (here s l) f.rd.toNat (r.1.zeroExtend 64)
    .next (if r.2 then withField t R.CORE_CTX_SAT 1 l (fieldIn s R.CORE_STATUS_SLOT l 0) else t) := by
  rw [sole_scalarW g takes, hp, if_pos rfl]

/-- A division is the write of its result and of DIVZ. -/
theorem scalarDiv_ok {g : Word → Word → Word} {z : Word → Word} {t : Good s} (e : eval (do
      wrS (soleAt s l 1) f.rd (if op2Of s l f = 0 then z (sOf s l f.rs1.toNat) else g (sOf s l f.rs1.toNat) (op2Of s l f))
      noteDivz (soleAt s l 1) (op2Of s l f == 0)) ⟨s, .refl⟩ = (.ok (), t)) : soleScalar op (scalarDiv g z) l .a f s = .next t.val := by
  refine soleScalar_ok takes ?_
  rw [scalarDiv, eval_bind_ok (eval_encOk (by rfl) _), eval_bind_ok (eval_predHolds _ _), hp, if_pos rfl, eval_bind_ok (eval_rdS _),
    eval_bind_ok (eval_op2 _)]
  exact e

theorem scalarDiv_byZero (g : Word → Word → Word) (z : Word → Word) (zero : op2Of s l f = 0) : soleScalar op (scalarDiv g z) l .a f s =
    .next (withField (withS s (here s l) f.rd.toNat (z (sOf s l f.rs1.toNat))) R.CORE_CTX_DIVZ 1 l (fieldIn s R.CORE_STATUS_SLOT l 0)) := by
  refine scalarDiv_ok takes hp (t := ⟨_, withField_reach (withS_reach .refl _ _ _) _ _ _ _⟩) ?_
  rw [eval_bind_ok (eval_wrS _ _ _), if_pos zero, zero]
  rfl

theorem scalarDiv_writes (g : Word → Word → Word) (z : Word → Word) (nonzero : op2Of s l f ≠ 0) :
    soleScalar op (scalarDiv g z) l .a f s = .next (withS s (here s l) f.rd.toNat (g (sOf s l f.rs1.toNat) (op2Of s l f))) := by
  refine scalarDiv_ok takes hp (t := ⟨_, withS_reach .refl _ _ _⟩) ?_
  rw [eval_bind_ok (eval_wrS _ _ _), if_neg nonzero, noteDivz, if_neg (by simpa using nonzero)]
  rfl

/-- FCVTI writes an integer; one out of range sets SAT. -/
theorem sole_fcvti : soleScalar op opFcvti l u f s =
    let x := low (sOf s l f.rs1.toNat)
    let t := withS s (here s l) f.rd.toNat (BitVec.ofInt 64 (wToInt 64 x))
    .next (if wOutside x then withField t R.CORE_CTX_SAT 1 l (fieldIn s R.CORE_STATUS_SLOT l 0) else t) := by
  dsimp only
  split
  all_goals
    rename_i out
    refine soleScalar_ok (t := ⟨_, ?_⟩) takes ?_
    rotate_left
    rw [opFcvti, eval_bind_ok (eval_predHolds _ _), hp, if_pos rfl, eval_bind_ok (eval_rdS _), eval_bind_ok (eval_wrS _ _ _), noteSat]
  · rw [if_pos out]; rfl
  · rw [if_neg out]; rfl

omit takes hp in
/-- Selector 4 reads the tense of the context's job, 0 where it has none. -/
theorem eval_special_tense {n : Nat} : eval (special (soleAt s l n) 4) ⟨s, .refl⟩ = (.ok (some (BitVec.ofNat 64
    (match (FMap.get ctx0 s.ctxs (here s l)).job with
      | some j => (FMap.get job0 s.jobs j).opened
      | none => 0))), ⟨s, .refl⟩) := by
  have tense : eval (tenseOf (soleAt s l n)) ⟨s, .refl⟩ = (.ok (match (FMap.get ctx0 s.ctxs (here s l)).job with
      | some j => (FMap.get job0 s.jobs j).opened
      | none => 0), ⟨s, .refl⟩) := by
    rw [tenseOf, eval_bind_ok (eval_getCtx _ _ _), show ctxKey (soleAt s l n).l (soleAt s l n).k = here s l from rfl]
    cases (FMap.get ctx0 s.ctxs (here s l)).job <;> rfl
  show eval (tenseOf (soleAt s l n) >>= fun v => pure (some (BitVec.ofNat 64 v))) ⟨s, .refl⟩ = _
  rw [eval_bind_ok tense]
  rfl

/-- RDSPEC writes what its selector reads. -/
theorem sole_rdspec {v : Word} {t : Good s} (known : specialOk (f.imm.toNat % 256) = true)
    (e : eval (special (soleAt s l (scalarSlot u)) (f.imm.toNat % 256)) ⟨s, .refl⟩ = (.ok (some v), t)) :
    soleScalar op opRdspec l u f s = .next (withS t.val (here s l) f.rd.toNat v) := by
  refine soleScalar_ok (t := ⟨_, withS_reach t.property _ _ _⟩) takes ?_
  rw [opRdspec, eval_bind_ok (eval_encOk known _), eval_bind_ok (eval_predHolds _ _), hp, if_pos rfl, eval_bind_ok e]
  exact eval_wrS _ _ _

end

end Sys2Proof.Machine
end

section
/-! OBLIGATION O8. -/

open Sys2Proof Sys2Proof.Machine

/-- Settles O8: by the laws of division, of W32 operations, of FCVTI, of SEL and of RDSPEC, with the value each selector reads. -/
theorem scalarDivisionW32Special : Obligations.ScalarDivisionW32Special := by
  unfold Obligations.ScalarDivisionW32Special
  refine ⟨fun s l f takes hp => ⟨fun zero => ?_, fun nonzero => ?_⟩, fun s l u f takes => ⟨fun hp => ?_, sole_sel takes⟩,
    fun s l u f takes hp => ⟨fun h => ?_, fun h => ?_, fun h => ?_, fun h => ?_, fun h => ?_, fun h => ?_, fun h => ?_⟩⟩
  · exact ⟨scalarDiv_byZero takes hp _ _ zero, scalarDiv_byZero takes hp _ _ zero, scalarDiv_byZero takes hp _ _ zero,
      scalarDiv_byZero takes hp _ _ zero⟩
  · exact ⟨scalarDiv_writes takes hp _ _ nonzero, scalarDiv_writes takes hp _ _ nonzero, scalarDiv_writes takes hp _ _ nonzero,
      scalarDiv_writes takes hp _ _ nonzero⟩
  · exact ⟨scalarW_writes takes hp _, scalarW_writes takes hp _, scalarW_writes takes hp _, scalarW_writes takes hp _,
      scalarW_writes takes hp _, sole_fcvti takes hp, scalarBin_writes takes hp _ rfl⟩
  · exact sole_rdspec takes hp (t := ⟨s, .refl⟩) (by rw [h]; rfl) (by rw [h]; rfl)
  · exact sole_rdspec takes hp (t := ⟨s, .refl⟩) (by rw [h]; rfl) (by rw [h]; rfl)
  · exact sole_rdspec takes hp (t := ⟨s, .refl⟩) (by rw [h]; rfl) (by rw [h]; rfl)
  · exact sole_rdspec takes hp (t := ⟨s, .refl⟩) (by rw [h]; rfl) (by rw [h]; rfl)
  · refine sole_rdspec takes hp (t := ⟨s, .refl⟩) (by rw [h]; rfl) ?_
    rw [h]
    exact eval_special_tense
  · exact sole_rdspec takes hp (t := ⟨_, Reach.refl.upd .fresh⟩) (by rw [h]; rfl) (by rw [h]; rfl)
  · exact sole_rdspec takes hp (t := ⟨s, .refl⟩) (by rw [h]; rfl) (by rw [h]; rfl)

end

section
/-! SUPPORT. What a trap leaves (R125 to R127). -/

namespace Sys2Proof.Machine

open Sys2Proof

variable {s0 : State}

/-- What traps and faults of attempts keep off: the registers of contexts, scratchpads, transfers, and the registers of cores. -/
abbrev offOperands : Eff → Prop := sparing [.sregs, .aregs, .pregs, .vregs, .spad, .dmas] [0x02, 0x03, 0x04, 0x05, 0x06, 0x07, 0x08, 0x09, 0x0A]

theorem offOperands_jobFaultD (j : Nat) : Ends offOperands (jobFaultD j : M s0 Unit) :=
  ends_bind (ends_getJob j) fun _ => ends_ite (ends_eff rfl) (ends_pure _)

theorem offOperands_jobFaultH (j cause : Nat) : Ends offOperands (jobFaultH j cause : M s0 Unit) :=
  ends_bind (ends_getJob j) fun _ => ends_ite (ends_eff rfl) (ends_pure _)

theorem offOperands_ctxFaultD (l k : Nat) : Ends offOperands (ctxFaultD l k : M s0 Unit) := by
  refine ends_bind (ends_getCtx _ _) fun c => ?_
  split
  · exact ends_bind (offOperands_jobFaultD _) fun _ => ends_bind (ends_getJob _) fun _ => ends_eff rfl
  · exact ends_pure _

theorem offOperands_stopWaiters (l k : Nat) : Ends offOperands (stopWaiters l k : M s0 Unit) := by
  refine ends_bind ends_st fun s => ?_
  split
  · exact ends_pure _
  · refine ends_bind (ends_loop fun m _ _ => ends_bind (ends_getCtx _ _) fun x => ?_) fun _ => ends_pure _
    split
    · exact ends_bind (ends_eff rfl) fun _ => ends_pure _
    · exact ends_bind (ends_eff rfl) fun _ => ends_pure _
    · exact ends_pure _

theorem offOperands_record (r : Rec) : Ends offOperands (record r : M s0 Unit) :=
  ends_mono (stores_record r) (sparing_mono (by decide) (by decide))

/-- The word of CORE_TRAP0 but for OVERFLOW (R126). -/
def trapWord (s : State) (l k slot cause status : Nat) : Word :=
  BitVec.ofNat 64 (ctxIdIn s l k + l % 256 * 2 ^ 16 + slot % 16 * 2 ^ 24 + cause % 256 * 2 ^ 28 + 2 ^ 36 + status % 16 * 2 ^ 38)

/-- The registers that tell of a trap: the first trap is held, a later one is an overflow (R126). -/
def withTrapTold (s : State) (l k slot cause status detail : Nat) : State :=
  if fieldIn s R.CORE_TRAP0_VALID l 0 = 1 then withField s R.CORE_TRAP0_OVERFLOW 1 l
  else
    let told : Word := trapWord s l k slot cause status ||| (BitVec.ofNat 64 (fieldIn s R.CORE_TRAP0_OVERFLOW l 0) <<< 37)
    let first := (Eff.reg (R.CORE_TRAP0_CTX_ID.addr l 0) told).apply s
    let second := (Eff.reg (R.CORE_TRAP1_SADDR.addr l 0) ((FMap.get ctx0 s.ctxs (ctxKey l k)).saddr.zeroExtend 64)).apply first
    (Eff.reg (R.CORE_TRAP2_DETAIL.addr l 0) (BitVec.ofNat 64 detail)).apply second

/-- The state with a running context read as trapped. -/
def withTrapped (s : State) (l k : Nat) (c : Ctx) : State :=
  let u := (Eff.ctx (ctxKey l k) { c with wait := .none, sentence := none, ended := false }).apply (withField s R.CORE_CTX_CSTATE 3 l k)
  if fieldIn u R.CORE_STATUS_SLOT l 0 = k then
    withField (withField (withField u R.CORE_STATUS_RUN 3 l) R.CORE_STATUS_WAITING 0 l) R.CORE_STATUS_WAIT_CJ 0 l
  else u

/-- A trap tells of itself in registers, stops its context, and then keeps off registers and scratchpads. -/
theorem leads_takeTrap (l k slot cause status detail op : Nat) (g : Good s0) : Leads (takeTrap l k slot cause status detail op) g fun _ t =>
    ReachBy offOperands (withTrapped (withTrapTold g.val l k slot cause status detail) l k (FMap.get ctx0 g.val.ctxs (ctxKey l k))) t := by
  have tail (c : Ctx) (r : Nat → Rec) : Ends offOperands (do
      record (r (← pcoreOf l))
      match c.job with
      | some i => if trapClass cause status = 1 then ctxFaultD l k else jobFaultH i 9
      | none => pure ()
      stopWaiters l k : M s0 Unit) := by
    refine ends_bind (ends_getF _ _ _) fun _ => ends_bind (offOperands_record _) fun _ => ?_
    split
    · exact ends_ite (ends_bind (offOperands_ctxFaultD _ _) fun _ => offOperands_stopWaiters _ _)
        (ends_bind (offOperands_jobFaultH _ _) fun _ => offOperands_stopWaiters _ _)
    · exact offOperands_stopWaiters _ _
  have rest (c : Ctx) (r : Nat → Rec) (h : Good s0) : Leads (do
      setF R.CORE_CTX_CSTATE 3 l k
      setCtx l k { c with wait := .none, sentence := none, ended := false }
      if (← getF R.CORE_STATUS_SLOT l) = k then
        setF R.CORE_STATUS_RUN 3 l
        setF R.CORE_STATUS_WAITING 0 l
        setF R.CORE_STATUS_WAIT_CJ 0 l
      record (r (← pcoreOf l))
      match c.job with
      | some i => if trapClass cause status = 1 then ctxFaultD l k else jobFaultH i 9
      | none => pure ()
      stopWaiters l k : M s0 Unit) h fun _ t => ReachBy offOperands (withTrapped h.val l k c) t := by
    refine leads_bind_setF fun u1 e1 => leads_bind_eff fun u2 e2 => leads_bind_read (eval_getF _ _ _ _) ?_
    rw [e1] at e2
    rw [withTrapped, ← e2]
    dsimp only
    by_cases runs : fieldIn u2.val R.CORE_STATUS_SLOT l 0 = k
    all_goals simp only [runs, if_true, if_false]
    · refine leads_bind_setF fun u3 e3 => leads_bind_setF fun u4 e4 => leads_bind_setF fun u5 e5 => ?_
      rw [← e3, ← e4, ← e5]
      exact leads_of_ends (tail c r) u5
    · exact leads_of_ends (tail c r) u2
  refine leads_bind_read (eval_getCtx _ _ _) (leads_bind_st (leads_bind_read (eval_getF _ _ _ _) ?_))
  rw [withTrapTold]
  dsimp only
  by_cases held : fieldIn g.val R.CORE_TRAP0_VALID l 0 = 1
  all_goals simp only [held, if_true, if_false]
  · refine leads_bind_setF fun u1 e1 => ?_
    rw [← e1]
    exact rest _ _ u1
  · refine leads_bind_read (eval_getF _ _ _ _) (leads_bind_eff fun u1 e1 => leads_bind_eff fun u2 e2 => leads_bind_eff fun u3 e3 => ?_)
    rw [e2, e1] at e3
    rw [trapWord, ← e3]
    exact rest _ _ u3

/-! Fields after a trap. -/

variable {s t : State} {l k slot cause status detail : Nat}

/-- The fields that tell of a trap. -/
def trapFields : List Fld := [R.CORE_TRAP0_VALID, R.CORE_TRAP0_OVERFLOW, R.CORE_TRAP0_CAUSE, R.CORE_TRAP0_SLOT, R.CORE_TRAP0_LCORE,
  R.CORE_TRAP0_CTX_ID, R.CORE_TRAP1_SADDR, R.CORE_TRAP2_DETAIL]

/-- Registers of the same stride at different bases are different for one core. -/
theorem fldAddr_ne {F G : Fld} (stride : F.s1 = G.s1) (h : F.base ≠ G.base) : F.addr l 0 ≠ G.addr l 0 := by
  simp only [Fld.addr, stride]
  omega

/-- A field of another register reads as before, whatever form the registers' table has. -/
theorem fieldIn_withField_away {F G : Fld} {v i j i' j' : Nat} (h : G.addr i' j' ≠ F.addr i j) :
    fieldIn (withField s F v i j) G i' j' = fieldIn s G i' j' := by
  rw [fieldIn, withField, FMap.get_set_other _ h]
  rfl

theorem bitsOf_or (x y : Word) (lo n : Nat) : bitsOf (x ||| y) lo n = bitsOf x lo n ||| bitsOf y lo n := by
  refine Nat.eq_of_testBit_eq fun b => ?_
  rw [Nat.testBit_or, testBit_bitsOf, testBit_bitsOf, testBit_bitsOf, BitVec.getLsbD_or]
  cases decide (b < n) <;> rfl

/-- A flag above a field is no part of it. -/
theorem bitsOf_shiftLeft_above (n m lo w : Nat) (h : lo + w ≤ m) : bitsOf (BitVec.ofNat 64 n <<< m) lo w = 0 := by
  refine Nat.eq_of_testBit_eq fun b => ?_
  rw [testBit_bitsOf, BitVec.getLsbD_shiftLeft, Nat.zero_testBit]
  by_cases hb : b < w
  · simp [show lo + b < m by omega]
  · simp [hb]

/-- The trap word with its overflow flag holds each field below it. -/
theorem bitsOf_trapWord (id : ctxIdIn s l k < 2 ^ 16) (more : Nat) : let w := trapWord s l k slot cause status ||| BitVec.ofNat 64 more <<< 37
    bitsOf w 36 1 = 1 ∧ bitsOf w 28 8 = cause % 256 ∧ bitsOf w 24 4 = slot % 16 ∧ bitsOf w 16 8 = l % 256 ∧ bitsOf w 0 16 = ctxIdIn s l k := by
  dsimp only
  simp only [bitsOf_or, bitsOf_shiftLeft_above _ _ _ _ (show 36 + 1 ≤ 37 by decide), bitsOf_shiftLeft_above _ _ _ _ (show 28 + 8 ≤ 37 by decide),
    bitsOf_shiftLeft_above _ _ _ _ (show 24 + 4 ≤ 37 by decide), bitsOf_shiftLeft_above _ _ _ _ (show 16 + 8 ≤ 37 by decide),
    bitsOf_shiftLeft_above _ _ _ _ (show 0 + 16 ≤ 37 by decide), Nat.or_zero]
  simp only [bitsOf, trapWord, BitVec.toNat_ofNat]
  refine ⟨?_, ?_, ?_, ?_, ?_⟩ <;> omega

/-- What the trap registers tell of a trap taken with none held (R126). -/
theorem withTrapTold_free (w : FMap.wf resetValue s.regs = true) (id : ctxIdIn s l k < 2 ^ 16) (free : fieldIn s R.CORE_TRAP0_VALID l 0 = 0) :
    let t := withTrapTold s l k slot cause status detail
    fieldIn t R.CORE_TRAP0_VALID l 0 = 1 ∧ fieldIn t R.CORE_TRAP0_CAUSE l 0 = cause % 256 ∧ fieldIn t R.CORE_TRAP0_SLOT l 0 = slot % 16 ∧
      fieldIn t R.CORE_TRAP0_LCORE l 0 = l % 256 ∧ fieldIn t R.CORE_TRAP0_CTX_ID l 0 = ctxIdIn s l k ∧
      fieldIn t R.CORE_TRAP1_SADDR l 0 = (FMap.get ctx0 s.ctxs (ctxKey l k)).saddr.toNat ∧ fieldIn t R.CORE_TRAP2_DETAIL l 0 = detail % 2 ^ 64 := by
  have ne01 : R.CORE_TRAP0_CTX_ID.addr l 0 ≠ R.CORE_TRAP1_SADDR.addr l 0 := fldAddr_ne rfl (by decide)
  have ne02 : R.CORE_TRAP0_CTX_ID.addr l 0 ≠ R.CORE_TRAP2_DETAIL.addr l 0 := fldAddr_ne rfl (by decide)
  have ne12 : R.CORE_TRAP1_SADDR.addr l 0 ≠ R.CORE_TRAP2_DETAIL.addr l 0 := fldAddr_ne rfl (by decide)
  have first : FMap.get resetValue (withTrapTold s l k slot cause status detail).regs (R.CORE_TRAP0_CTX_ID.addr l 0) =
      trapWord s l k slot cause status ||| BitVec.ofNat 64 (fieldIn s R.CORE_TRAP0_OVERFLOW l 0) <<< 37 := by
    rw [withTrapTold, if_neg (by omega), apply_reg_regs, FMap.get_set_other _ ne02, apply_reg_regs, FMap.get_set_other _ ne01, apply_reg_regs,
      FMap.get_set w, if_pos rfl]
  have second : FMap.get resetValue (withTrapTold s l k slot cause status detail).regs (R.CORE_TRAP1_SADDR.addr l 0) =
      (FMap.get ctx0 s.ctxs (ctxKey l k)).saddr.zeroExtend 64 := by
    rw [withTrapTold, if_neg (by omega), apply_reg_regs, FMap.get_set_other _ ne12]
    exact (FMap.get_set (FMap.set_wf _ _ w) _ _ _).trans (if_pos rfl)
  have third : FMap.get resetValue (withTrapTold s l k slot cause status detail).regs (R.CORE_TRAP2_DETAIL.addr l 0) = BitVec.ofNat 64 detail := by
    rw [withTrapTold, if_neg (by omega)]
    exact (FMap.get_set (FMap.set_wf _ _ (FMap.set_wf _ _ w)) _ _ _).trans (if_pos rfl)
  obtain ⟨valid, told, at', core, ctx⟩ := bitsOf_trapWord (slot := slot) (cause := cause) (status := status) id (fieldIn s R.CORE_TRAP0_OVERFLOW l 0)
  rw [← first] at valid told at' core ctx
  refine ⟨valid, told, at', core, ctx, ?_, ?_⟩
  · rw [fieldIn, second]
    simp only [bitsOf, R.CORE_TRAP1_SADDR, BitVec.toNat_setWidth]
    omega
  · rw [fieldIn, third]
    simp [bitsOf, R.CORE_TRAP2_DETAIL]

/-- A trap taken while one is held is an overflow, and the held one's cause stands (R126). -/
theorem withTrapTold_held (w : FMap.wf resetValue s.regs = true) (held : fieldIn s R.CORE_TRAP0_VALID l 0 = 1) :
    let t := withTrapTold s l k slot cause status detail
    fieldIn t R.CORE_TRAP0_OVERFLOW l 0 = 1 ∧ fieldIn t R.CORE_TRAP0_CAUSE l 0 = fieldIn s R.CORE_TRAP0_CAUSE l 0 := by
  rw [withTrapTold, if_pos held]
  exact ⟨fieldIn_withField_same w (by decide) 1, fieldIn_withField_apart w (by decide) (by simp [Fld.apart, R.CORE_TRAP0_OVERFLOW, R.CORE_TRAP0_CAUSE]) 1⟩

theorem withTrapTold_wf (w : FMap.wf resetValue s.regs = true) :
    FMap.wf resetValue (withTrapTold s l k slot cause status detail).regs = true := by
  rw [withTrapTold]
  split
  · exact withField_wf w _
  · exact FMap.set_wf _ _ (FMap.set_wf _ _ (FMap.set_wf _ _ w))

/-- The running slot of a core is not told of. -/
theorem withTrapTold_slot : fieldIn (withTrapTold s l k slot cause status detail) R.CORE_STATUS_SLOT l 0 = fieldIn s R.CORE_STATUS_SLOT l 0 := by
  have ne0 : R.CORE_STATUS_SLOT.addr l 0 ≠ R.CORE_TRAP0_CTX_ID.addr l 0 := fldAddr_ne rfl (by decide)
  have ne1 : R.CORE_STATUS_SLOT.addr l 0 ≠ R.CORE_TRAP1_SADDR.addr l 0 := fldAddr_ne rfl (by decide)
  have ne2 : R.CORE_STATUS_SLOT.addr l 0 ≠ R.CORE_TRAP2_DETAIL.addr l 0 := fldAddr_ne rfl (by decide)
  rw [withTrapTold]
  split
  · exact fieldIn_withField_away (fldAddr_ne rfl (by decide))
  · rw [fieldIn, apply_reg_regs, FMap.get_set_other _ ne2, apply_reg_regs, FMap.get_set_other _ ne1, apply_reg_regs, FMap.get_set_other _ ne0]
    rfl

/-- The fields that tell of a trap lie between a core's status and its contexts. -/
theorem trapFields_place : ∀ F ∈ trapFields, F.s1 = 0x10000 ∧ F.s2 = 0 ∧ 0x200010 ≤ F.base ∧ F.base ≤ 0x200020 := by decide

/-- What tells of a trap stands while its context is stopped. -/
theorem withTrapped_told {c : Ctx} {F : Fld} (hF : F ∈ trapFields) : fieldIn (withTrapped s l k c) F l 0 = fieldIn s F l 0 := by
  obtain ⟨e1, e2, low, high⟩ := trapFields_place F hF
  have context : F.addr l 0 ≠ R.CORE_CTX_CSTATE.addr l k := by
    simp only [Fld.addr, e1, e2, R.CORE_CTX_CSTATE]
    omega
  have status {G : Fld} (stride : G.s1 = 0x10000) (base : G.base = 0x200000) : F.addr l 0 ≠ G.addr l 0 := by
    simp only [Fld.addr, e1, stride, base]
    omega
  have stopped (d : Ctx) : fieldIn ((Eff.ctx (ctxKey l k) d).apply (withField s R.CORE_CTX_CSTATE 3 l k)) F l 0 = fieldIn s F l 0 :=
    fieldIn_withField_away context
  rw [withTrapped]
  split
  · rw [fieldIn_withField_away (status rfl rfl), fieldIn_withField_away (status rfl rfl), fieldIn_withField_away (status rfl rfl), stopped]
  · exact stopped _

/-- A running context that has trapped reads so (R128), and its core with it (R94). -/
theorem withTrapped_states {c : Ctx} (w : FMap.wf resetValue s.regs = true) (runs : fieldIn s R.CORE_STATUS_SLOT l 0 = k) :
    fieldIn (withTrapped s l k c) R.CORE_CTX_CSTATE l k = 3 ∧ fieldIn (withTrapped s l k c) R.CORE_STATUS_RUN l 0 = 3 := by
  have away {G : Fld} (stride : G.s1 = 0x10000) (base : G.base = 0x200000) (flat : G.s2 = 0) : R.CORE_CTX_CSTATE.addr l k ≠ G.addr l 0 := by
    simp only [Fld.addr, stride, base, flat, R.CORE_CTX_CSTATE]
    omega
  have stopped (d : Ctx) : fieldIn ((Eff.ctx (ctxKey l k) d).apply (withField s R.CORE_CTX_CSTATE 3 l k)) R.CORE_CTX_CSTATE l k = 3 :=
    fieldIn_withField_same w (by decide) 3
  have here (d : Ctx) : fieldIn ((Eff.ctx (ctxKey l k) d).apply (withField s R.CORE_CTX_CSTATE 3 l k)) R.CORE_STATUS_SLOT l 0 = k :=
    (fieldIn_withField_away (away rfl rfl rfl).symm).trans runs
  have w1 (d : Ctx) : FMap.wf resetValue ((Eff.ctx (ctxKey l k) d).apply (withField s R.CORE_CTX_CSTATE 3 l k)).regs = true := withField_wf w _
  rw [withTrapped, if_pos (here _)]
  constructor
  · rw [fieldIn_withField_away (away rfl rfl rfl), fieldIn_withField_away (away rfl rfl rfl), fieldIn_withField_away (away rfl rfl rfl), stopped]
  · rw [fieldIn_withField_apart (withField_wf (withField_wf (w1 _) _) _) (by decide) (by simp [Fld.apart, R.CORE_STATUS_RUN, R.CORE_STATUS_WAIT_CJ]),
      fieldIn_withField_apart (withField_wf (w1 _) _) (by decide) (by simp [Fld.apart, R.CORE_STATUS_RUN, R.CORE_STATUS_WAITING]),
      fieldIn_withField_same (w1 _) (by decide)]
    rfl

/-- What a trap of a core's running context leaves: no operand of a slot changes, the context and the core read trapped, and the trap registers
tell of it. -/
structure Trapped (l slot cause detail : Nat) (s t : State) : Prop where
  sregs : t.sregs = s.sregs
  aregs : t.aregs = s.aregs
  pregs : t.pregs = s.pregs
  vregs : t.vregs = s.vregs
  spad : t.spad = s.spad
  dmas : t.dmas = s.dmas
  reads : FMap.wf resetValue s.regs = true →
    fieldIn t R.CORE_CTX_CSTATE l (fieldIn s R.CORE_STATUS_SLOT l 0) = 3 ∧ fieldIn t R.CORE_STATUS_RUN l 0 = 3
  held : FMap.wf resetValue s.regs = true → fieldIn s R.CORE_TRAP0_VALID l 0 = 1 →
    fieldIn t R.CORE_TRAP0_OVERFLOW l 0 = 1 ∧ fieldIn t R.CORE_TRAP0_CAUSE l 0 = fieldIn s R.CORE_TRAP0_CAUSE l 0
  told : FMap.wf resetValue s.regs = true → ctxIdIn s l (fieldIn s R.CORE_STATUS_SLOT l 0) < 2 ^ 16 → fieldIn s R.CORE_TRAP0_VALID l 0 = 0 →
    fieldIn t R.CORE_TRAP0_VALID l 0 = 1 ∧ fieldIn t R.CORE_TRAP0_CAUSE l 0 = cause ∧ fieldIn t R.CORE_TRAP0_SLOT l 0 = slot ∧
      fieldIn t R.CORE_TRAP0_LCORE l 0 = l ∧ fieldIn t R.CORE_TRAP0_CTX_ID l 0 = ctxIdIn s l (fieldIn s R.CORE_STATUS_SLOT l 0) ∧
      fieldIn t R.CORE_TRAP1_SADDR l 0 = (FMap.get ctx0 s.ctxs (here s l)).saddr.toNat ∧ fieldIn t R.CORE_TRAP2_DETAIL l 0 = detail

/-- The registers of a core lie in the blocks 0x02 to 0x0A. -/
theorem coreBlock {F : Fld} (hl : l < 144) (stride : F.s1 = 0x10000) (low : 0x200000 ≤ F.base) (high : F.base + F.s2 * k < 0x210000) :
    F.addr l k / 2 ^ 20 ∈ [0x02, 0x03, 0x04, 0x05, 0x06, 0x07, 0x08, 0x09, 0x0A] := by
  have place : F.addr l k / 2 ^ 20 = 2 + l / 16 := by
    simp only [Fld.addr, stride]
    omega
  rw [place]
  simp only [List.mem_cons, List.not_mem_nil, or_false]
  omega

/-- What leaves the operands of slots as they are: the registers of contexts, scratchpads and transfers. -/
abbrev keepsOperands : Eff → Prop := sparing [.sregs, .aregs, .pregs, .vregs, .spad, .dmas] []

/-- Stopping a context and telling of it change no operand of a slot. -/
theorem withTrapped_operands (s : State) (l k slot cause status detail : Nat) (c : Ctx) :
    ReachBy keepsOperands s (withTrapped (withTrapTold s l k slot cause status detail) l k c) := by
  have reg {t : State} (r : ReachBy keepsOperands s t) (o : Nat) (v : Word) : ReachBy keepsOperands s ((Eff.reg o v).apply t) := r.upd rfl
  have field {t : State} (r : ReachBy keepsOperands s t) (F : Fld) (v i j : Nat) : ReachBy keepsOperands s (withField t F v i j) := reg r _ _
  have ctx {t : State} (r : ReachBy keepsOperands s t) (d : Ctx) : ReachBy keepsOperands s ((Eff.ctx (ctxKey l k) d).apply t) := r.upd rfl
  have told : ReachBy keepsOperands s (withTrapTold s l k slot cause status detail) := by
    rw [withTrapTold]
    split
    · exact field .refl _ _ _ _
    · exact reg (reg (reg .refl _ _) _ _) _ _
  rw [withTrapped]
  split
  · exact field (field (field (ctx (field told _ _ _ _) _) _ _ _ _) _ _ _ _) _ _ _ _
  · exact ctx (field told _ _ _ _) _

/-- A trap of the running context leaves it so. -/
theorem trapped_of_takeTrap {u : State} (hl : l < 144) (hc : cause < 256) (hs : slot < 16) (hd : detail < 2 ^ 64)
    (r : ReachBy offOperands (withTrapped (withTrapTold s l (fieldIn s R.CORE_STATUS_SLOT l 0) slot cause status detail) l
      (fieldIn s R.CORE_STATUS_SLOT l 0) (FMap.get ctx0 s.ctxs (here s l))) u) : Trapped l slot cause detail s u := by
  have before := (withTrapped_operands s l (fieldIn s R.CORE_STATUS_SLOT l 0) slot cause status detail (FMap.get ctx0 s.ctxs (here s l)))
  have all := before.trans (r.mono (sparing_mono (fun _ h => h) (by simp)))
  have slots : fieldIn s R.CORE_STATUS_SLOT l 0 < 16 := fieldIn_lt s R.CORE_STATUS_SLOT l 0
  have core {F : Fld} (hF : F ∈ trapFields) : fieldIn u F l 0 =
      fieldIn (withTrapTold s l (fieldIn s R.CORE_STATUS_SLOT l 0) slot cause status detail) F l 0 := by
    obtain ⟨e1, e2, low, high⟩ := trapFields_place F hF
    rw [r.same_field (coreBlock hl e1 (by omega) (by omega)), withTrapped_told hF]
  refine ⟨all.same_sregs (by decide), all.same_aregs (by decide), all.same_pregs (by decide), all.same_vregs (by decide), all.same_spad (by decide),
    all.same_dmas (by decide), fun w => ?_, fun w h => ?_, fun w id free => ?_⟩
  · rw [r.same_field (coreBlock hl rfl (by decide) (by simp only [R.CORE_CTX_CSTATE]; omega)),
      r.same_field (coreBlock hl rfl (by decide) (by decide))]
    exact withTrapped_states (withTrapTold_wf w) withTrapTold_slot
  · rw [core (by decide), core (by decide)]
    exact withTrapTold_held w h
  · obtain ⟨valid, why, at', here', ctx, address, told⟩ := withTrapTold_free (slot := slot) (cause := cause) (status := status) (detail := detail) w id free
    rw [core (by decide), core (by decide), core (by decide), core (by decide), core (by decide), core (by decide), core (by decide)]
    rw [Nat.mod_eq_of_lt hc] at why
    rw [Nat.mod_eq_of_lt hs] at at'
    rw [Nat.mod_eq_of_lt (by omega)] at here'
    rw [Nat.mod_eq_of_lt hd] at told
    exact ⟨valid, why, at', here', ctx, address, told⟩

/-- A slot commanded alone that traps, having left the module's registers as they were, leaves what the trap leaves. -/
theorem soleSlot_trapped {n bits : Nat} {op : At → M s Unit} {g : Good s} (takes : takesSlot s l = true)
    (ha : vecOrMat n = false ∨ attRunsIn s l (fieldIn s R.CORE_STATUS_SLOT l 0) = false) (hn : n < 16) (hc : cause < 256) (hd : detail < 2 ^ 64)
    (legal : cause ≠ Trap.illegal) (e : eval (op (soleAt s l n)) ⟨s, .refl⟩ = (.error (.trap cause status detail), g)) (regs : g.val.regs = s.regs) :
    ∃ t, soleSlot s l n bits op = .next t ∧ Trapped l n cause detail g.val t := by
  have same : fieldIn s R.CORE_STATUS_SLOT l 0 = fieldIn g.val R.CORE_STATUS_SLOT l 0 := by rw [fieldIn, fieldIn, regs]
  obtain ⟨_, u, taken, r⟩ := leads_takeTrap l (fieldIn s R.CORE_STATUS_SLOT l 0) n cause status detail (bits % 256) g
  refine ⟨u.val, soleSlot_trap takes ha e (by rw [if_neg legal]; exact taken), ?_⟩
  rw [same] at r
  exact trapped_of_takeTrap (takesSlot_lt takes) hc hn hd r

end Sys2Proof.Machine
end

section
/-! SUPPORT. Address arithmetic, and an address that is out of range (R105). -/

namespace Sys2Proof.Machine

open Sys2Proof

variable {s : State} {l n : Nat} {f : AddrF}

/-- An operation that begins with an effective address out of range traps ADDR there. -/
theorem eval_whenTaken_far {enc : Bool} {k : Nat × Option Word → M s Unit} (he : enc = true) (hp : holds s l f.pred f.pneg = true)
    (far : 2 ^ 62 ≤ eaIn s l f) : eval (whenTaken (soleAt s l n) f enc (eaOf (soleAt s l n) f >>= k)) ⟨s, .refl⟩ =
      (.error (.trap Trap.addr 0 (eaIn s l f)), ⟨s, .refl⟩) := by
  rw [eval_whenTaken _ he hp, eval_bind, eval_eaOf_far far]

/-- An address that is formed out of range leaves what its trap leaves. -/
theorem soleAddr_far {op : Nat} {g : {s : State} → At → AddrF → M s Unit} (takes : takesSlot s l = true)
    (e : eval (g (soleAt s l 3) f) ⟨s, .refl⟩ = (.error (.trap Trap.addr 0 (eaIn s l f)), ⟨s, .refl⟩)) :
    ∃ t, soleAddr op g l f s = .next t ∧ Trapped l 3 Trap.addr (eaIn s l f) s t := by
  have bound : eaIn s l f < 2 ^ 64 := BitVec.isLt _
  exact soleSlot_trapped (n := 3) (cause := Trap.addr) (op := fun a => g a f) takes (.inl rfl) (by decide) (by decide) bound (by decide) e rfl

theorem soleAddr_ok {op : Nat} {g : {s : State} → At → AddrF → M s Unit} {t : Good s} (takes : takesSlot s l = true)
    (e : eval (g (soleAt s l 3) f) ⟨s, .refl⟩ = (.ok (), t)) : soleAddr op g l f s = .next t.val :=
  soleSlot_ok (op := fun a => g a f) takes (.inl rfl) e

end Sys2Proof.Machine
end

section
/-! OBLIGATION O9. -/

open Sys2Proof Sys2Proof.Machine

/-- Settles O9: address arithmetic is a read and a write of one register; loads and stores form their address first, and what a trap leaves is said
once for all of them. -/
theorem addressArithmeticAndTraps : Obligations.AddressArithmeticAndTraps := by
  unfold Obligations.AddressArithmeticAndTraps
  refine ⟨fun s l f takes hp => ⟨?_, ?_, ?_⟩, fun s l f takes hp scope far i hi => ?_⟩
  · refine soleAddr_ok (t := ⟨_, withA_reach .refl _ _ _⟩) takes ((eval_whenTaken _ rfl hp).trans ?_)
    rw [eval_bind_ok (eval_rdA _)]
    exact eval_wrA _ _ _
  · refine soleAddr_ok (t := ⟨_, withA_reach .refl _ _ _⟩) takes ((eval_whenTaken _ rfl hp).trans ?_)
    rw [eval_bind_ok (eval_rdS _)]
    exact eval_wrA _ _ _
  · refine soleAddr_ok (t := ⟨_, withS_reach .refl _ _ _⟩) takes ((eval_whenTaken _ rfl hp).trans ?_)
    rw [eval_bind_ok (eval_rdA _)]
    exact eval_wrS _ _ _
  · have traps : ∃ t, exec i s = .next t ∧ Trapped l 3 Trap.addr (eaIn s l f) s t := by
      simp only [List.mem_cons, List.not_mem_nil, or_false] at hi
      rcases hi with rfl | rfl | rfl | rfl | rfl
      · exact soleAddr_far takes (eval_whenTaken_far (scopeOk_of_ne scope) hp far)
      · exact soleAddr_far takes (eval_whenTaken_far (scopeOk_of_ne scope) hp far)
      · exact soleAddr_far takes (eval_whenTaken_far (scopeOk_of_ne scope) hp far)
      · exact soleAddr_far takes (eval_whenTaken_far (scopeOk_of_ne scope) hp far)
      · exact soleAddr_far takes (eval_whenTaken_far (scopeOk_of_ne scope) hp far)
    obtain ⟨t, runs, trapped⟩ := traps
    refine ⟨t, runs, trapped.sregs, trapped.aregs, trapped.pregs, trapped.vregs, trapped.spad, fun w id => ⟨(trapped.reads w).1, fun free => ?_⟩⟩
    obtain ⟨valid, cause, slot, -, -, address, detail⟩ := trapped.told w id free
    exact ⟨valid, cause, slot, address, detail⟩

end

section
/-! SUPPORT. Branches of the sync slot (R113, R114). -/

namespace Sys2Proof.Machine

open Sys2Proof

variable {s : State} {l : Nat} {f : SyncF}

/-- A context set is reached. -/
theorem ctx_reach {t : State} (h : Reach s t) (key : Nat) (c : Ctx) : Reach s { t with ctxs := FMap.set ctx0 t.ctxs key c } := h.upd (.ctx key c)

theorem eval_modCtx (k : Nat) (h : Ctx → Ctx) (g : Good s) : eval (modCtx l k h) g =
    (.ok (), ⟨{ g.val with ctxs := FMap.set ctx0 g.val.ctxs (ctxKey l k) (h (FMap.get ctx0 g.val.ctxs (ctxKey l k))) }, ctx_reach g.property _ _⟩) := rfl

/-- The state with the sentence address of a core's running context set. -/
def branched (s : State) (l : Nat) (t : State) (a : BitVec 48) : State :=
  { t with ctxs := FMap.set ctx0 t.ctxs (here s l) { FMap.get ctx0 s.ctxs (here s l) with saddr := a } }

theorem branched_reach {t : State} (h : Reach s t) (a : BitVec 48) : Reach s (branched s l t a) := ctx_reach h _ _

@[simp] theorem withS_ctxs (t : State) (key r : Nat) (v : Word) : (withS t key r v).ctxs = t.ctxs := by
  unfold withS
  split <;> rfl

/-- The address that follows a slot commanded alone is its context's sentence address. -/
theorem eval_setNext {n v : Nat} (takes : takesSlot s l = true) (g : Good s) (ctxs : g.val.ctxs = s.ctxs) :
    eval (setNext (soleAt s l n) v) g = (.ok (), ⟨branched s l g.val (BitVec.ofNat 48 v), branched_reach g.property _⟩) := by
  have none := takesSlot_sentence takes
  have key : ctxKey (soleAt s l n).l (soleAt s l n).k = here s l := rfl
  rw [setNext, eval_modCtx]
  simp only [key, branched, ctxs, none]

/-- A relative target is the address of the slot's sentence and 32 bytes a unit of IMM. -/
theorem branchTarget_sole {n : Nat} : BitVec.ofNat 48 (branchTarget (soleAt s l n) f) =
    (FMap.get ctx0 s.ctxs (here s l)).saddr + BitVec.ofInt 48 (32 * f.imm.toInt) := by
  have wraps (x : Int) : BitVec.ofNat 48 (wrapN x 48) = BitVec.ofInt 48 x := by
    refine BitVec.eq_of_toNat_eq ?_
    rw [BitVec.toNat_ofNat, wrapN_mod, BitVec.toNat_ofInt, wrapN]
  have address : BitVec.ofInt 48 ((soleAt s l n).addr : Int) = (FMap.get ctx0 s.ctxs (here s l)).saddr := by
    rw [BitVec.ofInt_natCast]
    exact BitVec.ofNat_toNat _ _ |>.trans (BitVec.setWidth_eq _)
  rw [branchTarget, wraps, BitVec.ofInt_add, address, Int.mul_comm]

/-- A value that an unlisted key does not have reads back, whatever form the table has. -/
theorem FMap.get_set_self {β : Type} [DecidableEq β] {d : Nat → β} {m : FMap β} {n : Nat} {v : β} (h : v ≠ d n) :
    FMap.get d (FMap.set d m n v) n = v := by
  induction m with
  | nil => simp [FMap.set, FMap.get, h]
  | cons x m ih =>
    obtain ⟨k, w⟩ := x
    by_cases below : n < k
    · simp [FMap.set, FMap.get, h, below]
    · by_cases same : n = k
      · subst same
        simp [FMap.set, FMap.get, h]
      · simp [FMap.set, FMap.get, below, same, ih]

theorem soleSync_ok {op : Nat} {g : {s : State} → At → SyncF → M s Unit} {t : Good s} (takes : takesSlot s l = true)
    (e : eval (g (soleAt s l 7) f) ⟨s, .refl⟩ = (.ok (), t)) : soleSync op g l f s = .next t.val :=
  soleSlot_ok (op := fun a => g a f) takes (.inl rfl) e

/-- A trap of the sync slot, where the module's registers are still as they were. -/
theorem soleSync_trapped {op cause status detail : Nat} {g : {s : State} → At → SyncF → M s Unit} {t : Good s} (takes : takesSlot s l = true)
    (hc : cause < 256) (hd : detail < 2 ^ 64) (legal : cause ≠ Trap.illegal)
    (e : eval (g (soleAt s l 7) f) ⟨s, .refl⟩ = (.error (.trap cause status detail), t)) (regs : t.val.regs = s.regs) :
    ∃ u, soleSync op g l f s = .next u ∧ Trapped l 7 cause detail t.val u :=
  soleSlot_trapped (n := 7) (op := fun a => g a f) takes (.inl rfl) (by decide) hc hd legal e regs

/-- A slot that does its work where its predicate holds leaves all as it was where it fails. -/
theorem soleSync_suppressed {op : Nat} {g : {s : State} → At → SyncF → M s Unit} {m : M s Unit} (takes : takesSlot s l = true)
    (hp : holds s l f.pred f.pneg = false)
    (hg : g (soleAt s l 7) f = (do if ← predHolds (soleAt s l 7) f.pred f.pneg then m)) : soleSync op g l f s = .next s := by
  refine soleSync_ok (t := ⟨s, .refl⟩) takes ?_
  rw [hg, eval_bind_ok (eval_predHolds _ _), hp]
  rfl

/-- And where it holds it does its work. -/
theorem eval_whenHolds {n : Nat} (m : M s Unit) (hp : holds s l f.pred f.pneg = true) :
    eval (do if ← predHolds (soleAt s l n) f.pred f.pneg then m) ⟨s, .refl⟩ = eval m ⟨s, .refl⟩ := by
  rw [eval_bind_ok (eval_predHolds _ _), hp, if_pos rfl]

/-- DMAWAIT on a channel that an error of the context's last transfer has halted frees it and traps (R124). -/
theorem eval_opDmawait_halted {n : Nat} {d : Dma} (hp : holds s l f.pred f.pneg = true) (hd : FMap.get dma0 s.dmas (l * 8 + f.imm.toNat % 8) = d)
    (halted : d.state = 2) (mine : d.slot = fieldIn s R.CORE_STATUS_SLOT l 0)
    (last : (FMap.get ctx0 s.ctxs (here s l)).lastDma.any (fun p => p.1 == f.imm.toNat % 8 && p.2 == d.number) = true) :
    ∃ r, eval (opDmawait (soleAt s l n) f) ⟨s, .refl⟩ = (.error (.trap Trap.dmaUe (f.imm.toNat % 8) ((d.failed.getD 0) % 2 ^ 62)),
      ⟨{ s with ctxs := FMap.set ctx0 s.ctxs (here s l) { FMap.get ctx0 s.ctxs (here s l) with wait := .none },
                dmas := FMap.set dma0 s.dmas (l * 8 + f.imm.toNat % 8) { d with state := 0, failed := none } }, r⟩) := by
  have channel : eval (getDma (soleAt s l n).l (f.imm.toNat % 8)) ⟨s, .refl⟩ = (.ok d, ⟨s, .refl⟩) := by rw [← hd]; rfl
  have own : ((FMap.get ctx0 s.ctxs (ctxKey (soleAt s l n).l (soleAt s l n).k)).lastDma.any (fun p => p.1 == f.imm.toNat % 8 && p.2 == d.number) &&
      d.slot == (soleAt s l n).k) = true := by rw [mine, Bool.and_eq_true]; exact ⟨last, beq_self_eq_true _⟩
  refine ⟨(Reach.refl.upd (.ctx _ _)).upd (.dma _ _), ?_⟩
  rw [opDmawait, eval_whenHolds _ hp, eval_bind_ok (eval_getCtx _ _ _), eval_bind_ok channel]
  dsimp only
  rw [own, halted]
  rfl

end Sys2Proof.Machine
end

section
/-! OBLIGATION O21. -/

open Sys2Proof Sys2Proof.Machine

/-- Settles O21: a branch is the write of its link or count and of the sentence address; TRAP and DMAWAIT take their trap, and what a trap leaves is said
once for all slots. -/
theorem branchesAndSyncTraps : Obligations.BranchesAndSyncTraps := by
  unfold Obligations.BranchesAndSyncTraps
  refine ⟨fun s l f takes => ⟨fun hp => ⟨?_, fun aligned => ?_, ?_, ?_, ?_⟩, fun hp i hi => ?_⟩, fun s l f takes hp w id =>
    ⟨?_, fun g halted mine failed last => ?_⟩⟩
  · refine soleSync_ok (t := ⟨_, branched_reach .refl _⟩) takes ((eval_whenHolds _ hp).trans ?_)
    rw [eval_setNext takes _ rfl]
    simp only [branchTarget_sole, branched]
  · refine soleSync_ok (t := ⟨_, branched_reach .refl _⟩) takes ((eval_whenHolds _ hp).trans ?_)
    rw [eval_bind_ok (eval_rdS _), decide_eq_true aligned, eval_bind_ok (eval_need_true _ _), eval_setNext takes _ rfl]
    rfl
  · refine soleSync_ok (t := ⟨_, branched_reach (withS_reach .refl _ _ _) _⟩) takes ((eval_whenHolds _ hp).trans ?_)
    rw [eval_bind_ok (eval_wrS _ _ _), eval_setNext takes _ (withS_ctxs _ _ _ _)]
    simp only [branchTarget_sole, branched]
    rfl
  · show soleSync 0x04 opLoop l f s = _
    have counts : eval (opLoop (soleAt s l 7) f) ⟨s, .refl⟩ = eval (do
        wrS (soleAt s l 7) f.rs (sOf s l f.rs.toNat - 1)
        if sOf s l f.rs.toNat - 1 ≠ 0 then setNext (soleAt s l 7) (branchTarget (soleAt s l 7) f)) ⟨s, .refl⟩ :=
      (eval_whenHolds _ hp).trans (by rw [eval_bind_ok (eval_rdS _)])
    split
    · next one =>
      refine soleSync_ok (t := ⟨_, withS_reach .refl _ _ _⟩) takes (counts.trans ?_)
      rw [eval_bind_ok (eval_wrS _ _ _), one]
      rfl
    · next more =>
      refine soleSync_ok (t := ⟨_, branched_reach (withS_reach .refl _ _ _) _⟩) takes (counts.trans ?_)
      rw [eval_bind_ok (eval_wrS _ _ _), if_pos (sub_ne_zero_of_ne more), eval_setNext takes _ (withS_ctxs _ _ _ _)]
      simp only [branchTarget_sole, branched]
  · exact soleSync_ok (t := ⟨_, ctx_reach .refl _ _⟩) takes (eval_whenHolds _ hp)
  · simp only [List.mem_cons, List.not_mem_nil, or_false] at hi
    rcases hi with rfl | rfl | rfl | rfl | rfl | rfl
    · exact soleSync_suppressed takes hp rfl
    · exact soleSync_suppressed takes hp rfl
    · exact soleSync_suppressed takes hp rfl
    · exact soleSync_suppressed takes hp rfl
    · exact soleSync_suppressed takes hp rfl
    · exact soleSync_suppressed takes hp rfl
  · obtain ⟨t, runs, trapped⟩ := soleSync_trapped (op := 0x1E) (g := opTrap) (cause := Trap.soft) (status := 0) (detail := f.imm.toNat % 2 ^ 16) takes
      (by decide) (by omega) (by decide) (eval_whenHolds _ hp) rfl
    exact ⟨t, runs, trapped.sregs, trapped.aregs, trapped.pregs, trapped.vregs, trapped.spad, trapped.dmas, (trapped.reads w).1, (trapped.reads w).2,
      trapped.held w, trapped.told w id⟩
  · obtain ⟨r, e⟩ := eval_opDmawait_halted (n := 7) hp rfl halted mine last
    rw [failed] at e
    obtain ⟨t, runs, trapped⟩ := soleSync_trapped (op := 0x12) (g := opDmawait) takes (by decide) (by simp only [Option.getD_some]; omega) (by decide) e rfl
    have listed : { FMap.get ctx0 s.ctxs (here s l) with wait := Wait.none } ≠ ctx0 (here s l) := by
      intro same
      have empty : (FMap.get ctx0 s.ctxs (here s l)).lastDma = [] := congrArg Ctx.lastDma same
      rw [empty] at last
      exact absurd last (by simp)
    have kept : (FMap.get ctx0 (FMap.set ctx0 s.ctxs (here s l) { FMap.get ctx0 s.ctxs (here s l) with wait := .none }) (here s l)).saddr =
        (FMap.get ctx0 s.ctxs (here s l)).saddr := by rw [FMap.get_set_self listed]
    refine ⟨t, runs, trapped.sregs, trapped.aregs, trapped.pregs, trapped.vregs, trapped.spad, trapped.dmas, (trapped.reads w).1, (trapped.reads w).2,
      trapped.held w, fun free => ?_⟩
    obtain ⟨valid, cause, slot, core, ctx, address, detail⟩ := trapped.told w id free
    refine ⟨valid, cause, slot, core, ctx, address.trans ?_, detail⟩
    exact congrArg BitVec.toNat kept

end

section
/-! SUPPORT. The vector slots commanded alone (R108 to R111): lane by lane, and into a predicate register. -/

namespace Sys2Proof.Machine

open Sys2Proof

variable {s : State} {l n op : Nat} {u : VecUnit} {f : VecF}

/-- A vector slot's operation that runs to its end leaves what it leaves. -/
theorem soleVec_ok {g : {s : State} → At → VecF → M s Unit} {t : Good s} (takes : takesArraySlot s l = true)
    (e : eval (g (soleAt s l (vecSlot u)) f) ⟨s, .refl⟩ = (.ok (), t)) : soleVec op g l u f s = .next t.val := by
  simp only [takesArraySlot, Bool.and_eq_true, Bool.not_eq_true'] at takes
  exact soleSlot_ok (op := fun a => g a f) takes.1 (.inr takes.2) e

/-- The lanes that an operation gives: a lane whose predicate bit is 0 keeps its value. -/
def laneValues (s : State) (l : Nat) (f : VecF) (g : Nat → BitVec 32) : List (BitVec 32) :=
  lanes (fun i => if (maskOf s l f).getLsbD i then g i else vOf s l f.vd.toNat i)

/-- Whether a lane whose predicate bit is 1 saturates. -/
def laneSat (s : State) (l : Nat) (f : VecF) (b : Nat → Bool) : Bool := (List.range 256).any (fun i => (maskOf s l f).getLsbD i && b i)

/-- An operation lane by lane writes the lanes whose predicate bits are 1 and sets SAT where one of them saturates. -/
theorem eval_vecMap (g : BitVec 32 → BitVec 32 → BitVec 32 → BitVec 32 × Bool) :
    let r (i : Nat) := g (vOf s l f.vs1.toNat i) (vop2Of s l f i) (vOf s l f.vs3.toNat i)
    eval (vecMap g (soleAt s l n) f) ⟨s, .refl⟩ = (.ok (), ⟨withSat (withV s (here s l) f.vd.toNat (laneValues s l f (fun i => (r i).1))) l
      (laneSat s l f (fun i => (r i).2)), withSat_reach (withV_reach .refl _ _ _) _ _⟩) := by
  dsimp only
  have values : lanes (fun i => if (maskOf s l f).getLsbD i then
        g (lane (vAll s l f.vs1.toNat) i) (lane (lanes (vop2Of s l f)) i) (lane (vAll s l f.vs3.toNat) i)
      else (lane (vAll s l f.vd.toNat) i, false)) =
    lanes (fun i => if (maskOf s l f).getLsbD i then g (vOf s l f.vs1.toNat i) (vop2Of s l f i) (vOf s l f.vs3.toNat i)
      else (vOf s l f.vd.toNat i, false)) := lanes_congr fun i hi => by simp only [vAll, lane_lanes _ hi]
  have first : (lanes (fun i => if (maskOf s l f).getLsbD i then g (vOf s l f.vs1.toNat i) (vop2Of s l f i) (vOf s l f.vs3.toNat i)
      else (vOf s l f.vd.toNat i, false))).map (·.1) =
    laneValues s l f (fun i => (g (vOf s l f.vs1.toNat i) (vop2Of s l f i) (vOf s l f.vs3.toNat i)).1) := by
    rw [lanes_map]
    exact lanes_congr fun i _ => by split <;> rfl
  have second : (lanes (fun i => if (maskOf s l f).getLsbD i then g (vOf s l f.vs1.toNat i) (vop2Of s l f i) (vOf s l f.vs3.toNat i)
      else (vOf s l f.vd.toNat i, false))).any (·.2) =
    laneSat s l f (fun i => (g (vOf s l f.vs1.toNat i) (vop2Of s l f i) (vOf s l f.vs3.toNat i)).2) := by
    rw [lanes, List.any_map, laneSat]
    congr 1
    funext i
    cases h : (maskOf s l f).getLsbD i <;> simp [h]
  rw [vecMap, eval_bind_ok (eval_predLanes _), eval_bind_ok (eval_rdV _), eval_bind_ok (eval_vop2 _), eval_bind_ok (eval_rdV _),
    eval_bind_ok (eval_rdV _)]
  dsimp only
  rw [values, first, second, eval_bind_ok (eval_wrV _ _ _)]
  exact eval_noteSat _ _ (withV_regs _ _ _ _)

/-- One that never saturates leaves the registers of the module. -/
theorem eval_vecMap_plain {g : BitVec 32 → BitVec 32 → BitVec 32 → BitVec 32} :
    eval (vecMap (fun x y z => (g x y z, false)) (soleAt s l n) f) ⟨s, .refl⟩ = (.ok (), ⟨withV s (here s l) f.vd.toNat
      (laneValues s l f (fun i => g (vOf s l f.vs1.toNat i) (vop2Of s l f i) (vOf s l f.vs3.toNat i))), withV_reach .refl _ _ _⟩) := by
  have none : laneSat s l f (fun _ => false) = false := by simp [laneSat]
  rw [eval_vecMap]
  simp only [none, withSat]
  rfl

theorem vecInt_writes (takes : takesArraySlot s l = true) (g : BitVec 32 → BitVec 32 → BitVec 32) {v : Nat → BitVec 32}
    (e : ∀ i, g (vOf s l f.vs1.toNat i) (vop2Of s l f i) = v i) :
    soleVec op (vecInt g) l u f s = .next (withV s (here s l) f.vd.toNat (laneValues s l f v)) := by
  rw [← funext e]
  exact soleVec_ok (t := ⟨_, withV_reach .refl _ _ _⟩) takes eval_vecMap_plain

theorem vecMap_writes (takes : takesArraySlot s l = true) (g : BitVec 32 → BitVec 32 → BitVec 32 → BitVec 32 × Bool) {v : Nat → BitVec 32 × Bool}
    (e : ∀ i, g (vOf s l f.vs1.toNat i) (vop2Of s l f i) (vOf s l f.vs3.toNat i) = v i) :
    soleVec op (vecMap g) l u f s =
      .next (withSat (withV s (here s l) f.vd.toNat (laneValues s l f (fun i => (v i).1))) l (laneSat s l f (fun i => (v i).2))) := by
  rw [← funext e]
  exact soleVec_ok (t := ⟨_, withSat_reach (withV_reach .refl _ _ _) _ _⟩) takes (eval_vecMap _)

/-- VBCAST writes the low half of a scalar register. -/
theorem vbcast_writes (takes : takesArraySlot s l = true) : soleVec op opVbcast l u f s =
    .next (withV s (here s l) f.vd.toNat (laneValues s l f (fun _ => (sOf s l f.vs1.toNat).truncate 32))) := by
  refine soleVec_ok (t := ⟨_, withV_reach .refl _ _ _⟩) takes ?_
  rw [opVbcast, eval_bind_ok (eval_rdS _)]
  exact eval_vecMap_plain

/-- VPERM writes the lane that the second operand names. -/
theorem vperm_writes (takes : takesArraySlot s l = true) : soleVec op opVperm l u f s =
    .next (withV s (here s l) f.vd.toNat (laneValues s l f (fun i => vOf s l f.vs1.toNat ((vop2Of s l f i).toNat % 256)))) := by
  refine soleVec_ok (t := ⟨_, withV_reach .refl _ _ _⟩) takes ?_
  rw [opVperm, eval_bind_ok (eval_rdV _), eval_vecMap_plain]
  simp only [vAll, lane_lanes _ (Nat.mod_lt _ (show 256 > 0 by decide))]

/-- VSEL writes one operand or the other, lane by lane. -/
theorem vsel_writes (takes : takesArraySlot s l = true) : soleVec op opVsel l u f s = .next (withV s (here s l) f.vd.toNat
    (lanes fun i => if (maskOf s l f).getLsbD i then vOf s l f.vs1.toNat i else vop2Of s l f i)) := by
  refine soleVec_ok (t := ⟨_, withV_reach .refl _ _ _⟩) takes ?_
  have chosen : lanes (fun i => if (maskOf s l f).getLsbD i then lane (vAll s l f.vs1.toNat) i else lane (lanes (vop2Of s l f)) i) =
      lanes (fun i => if (maskOf s l f).getLsbD i then vOf s l f.vs1.toNat i else vop2Of s l f i) :=
    lanes_congr fun i hi => by simp only [vAll, lane_lanes _ hi]
  rw [opVsel, eval_bind_ok (eval_predLanes _), eval_bind_ok (eval_rdV _), eval_bind_ok (eval_vop2 _), chosen]
  exact eval_wrV _ _ _

/-- The bits of a number given by its bits. -/
theorem testBit_sum_bits (b : Nat → Bool) (n : Nat) : ((List.range n).map (fun i => if b i then 2 ^ i else 0)).sum < 2 ^ n ∧
    ∀ i, ((List.range n).map (fun i => if b i then 2 ^ i else 0)).sum.testBit i = (decide (i < n) && b i) := by
  induction n with
  | zero => simp
  | succ n ih =>
    obtain ⟨below, bits⟩ := ih
    have split : ((List.range (n + 1)).map (fun i => if b i then 2 ^ i else 0)).sum =
        2 ^ n * (b n).toNat + ((List.range n).map (fun i => if b i then 2 ^ i else 0)).sum := by
      rw [List.range_succ, List.map_append, List.sum_append, Nat.add_comm]
      cases h : b n <;> simp [h]
    rw [split]
    constructor
    · rw [Nat.pow_succ]
      cases b n <;> simp <;> omega
    · intro i
      rw [Nat.testBit_two_pow_mul_add _ below, bits]
      rcases Nat.lt_trichotomy i n with h | h | h
      · simp [h, Nat.lt_succ_of_lt h]
      · subst h
        cases b i <;> simp
      · rw [if_neg (by omega), Nat.testBit_lt_two_pow, decide_eq_false (by omega), Bool.false_and]
        exact lt_of_lt_of_le (Bool.toNat_lt _) (Nat.pow_le_pow_right (n := 2) (by decide) (show 1 ≤ i - n by omega))

/-- A predicate register with the bits that hold. -/
def laneBits (b : Nat → Bool) : BitVec 256 := BitVec.ofNat 256 ((List.range 256).map (fun i => if b i then 2 ^ i else 0)).sum

theorem getLsbD_laneBits (b : Nat → Bool) {i : Nat} (h : i < 256) : (laneBits b).getLsbD i = b i := by
  rw [laneBits, BitVec.getLsbD_ofNat, (testBit_sum_bits _ 256).2]
  simp [h]

/-- A comparison writes a predicate register bit by bit; a lane whose predicate bit is 0 gives 0. -/
theorem vecCmp_writes (takes : takesArraySlot s l = true) (g : BitVec 32 → BitVec 32 → Bool) {b : Nat → Bool}
    (e : ∀ i, g (vOf s l f.vs1.toNat i) (vop2Of s l f i) = b i) :
    ∃ p : BitVec 256, soleVec op (vecCmp g) l u f s = .next (withP s (here s l) (f.vd.toNat % 8) p) ∧
      ∀ i, i < 256 → p.getLsbD i = ((maskOf s l f).getLsbD i && b i) := by
  refine ⟨laneBits fun i => (maskOf s l f).getLsbD i && g (lane (vAll s l f.vs1.toNat) i) (lane (lanes (vop2Of s l f)) i),
    soleVec_ok (t := ⟨_, withP_reach .refl _ _ _⟩) takes ?_, fun i hi => ?_⟩
  · rw [vecCmp, eval_bind_ok (eval_predLanes _), eval_bind_ok (eval_rdV _), eval_bind_ok (eval_vop2 _)]
    exact eval_wrP _ _ _
  · rw [getLsbD_laneBits _ hi, vAll, lane_lanes _ hi, lane_lanes _ hi, e]

theorem sshiftRight_eq_ofInt {w : Nat} (x : BitVec w) (n : Nat) : x.sshiftRight n = BitVec.ofInt w (x.toInt / 2 ^ n) := by
  rw [BitVec.sshiftRight, Int.shiftRight_eq_div_pow]
  norm_cast

theorem min_signed {w : Nat} (x y : BitVec w) : (if y.slt x then y else x) = BitVec.ofInt w (min x.toInt y.toInt) := by
  rw [BitVec.slt, min_def]
  by_cases h : x.toInt ≤ y.toInt
  · simp [h, not_lt.2 h]
  · simp [h, not_le.1 h]

theorem max_signed {w : Nat} (x y : BitVec w) : (if x.slt y then y else x) = BitVec.ofInt w (max x.toInt y.toInt) := by
  rw [BitVec.slt, max_def]
  by_cases h : x.toInt < y.toInt
  · simp [h, h.le]
  · by_cases e : x.toInt = y.toInt
    · simp [BitVec.toInt_inj.1 e]
    · simp [h, show ¬ x.toInt ≤ y.toInt by omega]

end Sys2Proof.Machine
end

section
/-! OBLIGATION O16. -/

open Sys2Proof Sys2Proof.Machine

/-- Settles O16: every operation lane by lane is one law with the function of its table, and every comparison another. -/
theorem vectorLaneOperations : Obligations.VectorLaneOperations := by
  unfold Obligations.VectorLaneOperations
  refine ⟨fun s l u f takes => ?_, fun s l u f takes => ?_, fun s l u f takes => ?_⟩
  · exact ⟨vecInt_writes takes _ fun _ => rfl, vecInt_writes takes _ fun _ => rfl, vecInt_writes takes _ fun _ => rfl, vecInt_writes takes _ fun _ => rfl,
      vecInt_writes takes _ fun _ => rfl, vecInt_writes takes _ fun _ => rfl, vecInt_writes takes _ fun _ => rfl, vecInt_writes takes _ fun _ => rfl,
      vecInt_writes takes _ fun _ => sshiftRight_eq_ofInt _ _, vecInt_writes takes _ fun _ => min_signed _ _, vecInt_writes takes _ fun _ => max_signed _ _,
      vbcast_writes takes, vperm_writes takes, vsel_writes takes⟩
  · have ternary {op : Nat} (g : BitVec 32 → BitVec 32 → BitVec 32 → BitVec 32 × Bool) := vecMap_writes (op := op) (u := u) (f := f) takes g
      (v := fun i => g (vOf s l f.vs1.toNat i) (vop2Of s l f i) (vOf s l f.vs3.toNat i)) fun _ => rfl
    exact ⟨ternary fun x y _ => wAdd x y, ternary fun x y _ => wSub x y, ternary fun x y _ => wMul x y, ternary wFma,
      ternary fun x y _ => (wMin x y, false), ternary fun x y _ => (wMax x y, false), ternary fun x _ _ => sfuExp x, ternary fun x _ _ => sfuRcp x,
      ternary fun x _ _ => sfuRsqrt x, ternary fun x _ _ => sfuLog2 x⟩
  · exact ⟨vecCmp_writes takes _ fun _ => beq_eq_decide _ _, vecCmp_writes takes _ fun _ => rfl, vecCmp_writes takes _ fun _ => rfl,
      vecCmp_writes takes _ fun _ => rfl, vecCmp_writes takes _ fun _ => rfl, vecCmp_writes takes _ fun _ => rfl⟩

end

section
/-! SUPPORT. Lists of lanes: their numbers, their groups, and the encoding of all of them (R172, R173, R176, R178). -/

namespace Sys2Proof.Machine

open Sys2Proof

variable {α β : Type}

theorem length_lanes (g : Nat → α) : (lanes g).length = 256 := by simp [lanes]

theorem getElem_lanes (g : Nat → α) {i : Nat} (h : i < (lanes g).length) : (lanes g)[i] = g i := by simp [lanes]

theorem getD_lanes (g : Nat → α) (d : α) {i : Nat} (h : i < 256) : (lanes g).getD i d = g i := by simp [lanes, List.getD, h]

theorem zipIdx_lanes (g : Nat → α) : (lanes g).zipIdx = lanes (fun i => (g i, i)) := by
  refine List.ext_getElem (by simp [lanes]) fun i h _ => ?_
  simp [lanes]

/-- What some chosen lane has. -/
theorem any_chosen (g : Nat → α) (on : Nat → Bool) (h : α → β) (p : β → Bool) :
    (((lanes g).zipIdx.filter (fun c => on c.2)).map (fun c => h c.1)).any p = (List.range 256).any (fun i => on i && p (h (g i))) := by
  rw [zipIdx_lanes, lanes, List.filter_map, List.map_map, List.any_map, List.any_filter]
  rfl

theorem any_lanes (g : Nat → α) (p : α → Bool) : (lanes g).any p = (List.range 256).any (fun i => p (g i)) := by
  rw [lanes, List.any_map]
  rfl

/-- Numbers in groups. -/
theorem chunks_range {n : Nat} (hn : 0 < n) (m fuel : Nat) (hf : m ≤ fuel) (v : Nat → α) :
    chunks n fuel ((List.range (n * m)).map v) = (List.range m).map (fun g => (List.range n).map (fun i => v (g * n + i))) := by
  induction m generalizing fuel v with
  | zero =>
    cases fuel <;> rfl
  | succ m ih =>
    obtain ⟨fuel, rfl⟩ := Nat.exists_eq_add_of_le' hf
    have split : (List.range (n * (m + 1))).map v = (List.range n).map v ++ (List.range (n * m)).map (fun i => v (n + i)) := by
      rw [Nat.mul_succ, Nat.add_comm, List.range_add, List.map_append, List.map_map]
      rfl
    have more : chunks n (fuel + (m + 1)) ((List.range n).map v ++ (List.range (n * m)).map (fun i => v (n + i))) =
        (List.range n).map v :: chunks n (fuel + m) ((List.range (n * m)).map (fun i => v (n + i))) := by
      have len : ((List.range n).map v).length = n := by simp
      rw [show fuel + (m + 1) = (fuel + m) + 1 by omega]
      generalize hl : (List.range n).map v ++ (List.range (n * m)).map (fun i => v (n + i)) = whole
      cases whole with
      | nil => rw [List.append_eq_nil_iff] at hl; rw [hl.1] at len; simp at len; omega
      | cons a r =>
        show (a :: r).take n :: chunks n (fuel + m) ((a :: r).drop n) = _
        rw [← hl, List.take_left' len, List.drop_left' len]
    rw [split, more, ih (fuel + m) (by omega), List.range_succ_eq_map, List.map_cons, List.map_map]
    congr 1
    · simp
    · refine List.map_congr_left fun g _ => List.map_congr_left fun i _ => ?_
      simp only [Nat.succ_mul]
      congr 1
      omega

/-- Groups of numbers one after the other. -/
theorem flatMap_groups (n m : Nat) (v : Nat → α) :
    (List.range m).flatMap (fun g => (List.range n).map (fun i => v (g * n + i))) = (List.range (n * m)).map v := by
  induction m with
  | zero => rfl
  | succ m ih =>
    rw [List.range_succ, List.flatMap_append, ih, Nat.mul_succ, List.range_add, List.map_append, List.map_map]
    simp only [List.flatMap_cons, List.flatMap_nil, List.append_nil, Nat.mul_comm]
    rfl

/-- The scale of a group of 32 lanes. -/
def groupScale (fm : Fmt) (v : Nat → Val) (g : Nat) : Nat := fm.scaleOf ((List.range 32).map (fun i => v (g * 32 + i)))

/-- One lane encoded, in its group where the format has groups. -/
def encodeLane (fm : Fmt) (mode : Nat) (rnd : Nat → Nat) (v : Nat → Val) (n : Nat) : Enc :=
  if fm.block then fm.encodeIn (groupScale fm v (n / 32)) mode (rnd n) (v n) else fm.encode mode (rnd n) (v n)

/-- All lanes encoded are each encoded, with the scales of the eight groups. -/
theorem encodeAll_lanes (fm : Fmt) (mode : Nat) (rnd : Nat → Nat) (v : Nat → Val) : encodeAll fm mode rnd 0 (lanes v) =
    (if fm.block then (List.range 8).map (groupScale fm v) else [], lanes (encodeLane fm mode rnd v)) := by
  rw [encodeAll]
  by_cases block : fm.block = true
  · have groups : chunks 32 (lanes v).length (lanes v) = (List.range 8).map (fun g => (List.range 32).map (fun i => v (g * 32 + i))) := by
      rw [length_lanes]
      exact chunks_range (by decide) 8 256 (by decide) v
    have numbered {γ : Type} (n : Nat) (h : Nat → γ) : ((List.range n).map h).zipIdx = (List.range n).map (fun i => (h i, i)) := by
      refine List.ext_getElem (by simp) fun i h _ => ?_
      simp
    have scales : (fun g => fm.scaleOf ((List.range 32).map (fun i => v (g * 32 + i)))) = groupScale fm v := rfl
    rw [if_pos block, if_pos block, groups, numbered]
    simp only [List.map_map, List.flatMap_map, Function.comp_def, numbered, scales]
    have lane : lanes (encodeLane fm mode rnd v) =
        (List.range 8).flatMap (fun g => (List.range 32).map (fun i => encodeLane fm mode rnd v (g * 32 + i))) :=
      (flatMap_groups 32 8 _).symm
    rw [lane]
    refine congrArg _ (List.flatMap_congr fun g _ => List.map_congr_left fun i hi => ?_)
    have below : i < 32 := List.mem_range.1 hi
    rw [encodeLane, if_pos block, show (g * 32 + i) / 32 = g by omega, show 0 + 32 * g + i = g * 32 + i by omega]
    rfl
  · rw [if_neg block, if_neg block, zipIdx_lanes, lanes_map]
    refine congrArg _ (lanes_congr fun i _ => ?_)
    rw [encodeLane, if_neg block, Nat.zero_add]

end Sys2Proof.Machine
end

section
/-! SUPPORT. Reductions in a tree (R110). -/

namespace Sys2Proof.Machine

open Sys2Proof

variable {α β : Type}

/-- A level of the tree halves the list. -/
theorem length_pairUp (g : α → α → α) : ∀ l : List α, (pairUp g l).length = (l.length + 1) / 2
  | [] => by simp [pairUp]
  | [_] => by simp [pairUp]
  | x :: y :: r => by rw [pairUp, List.length_cons, length_pairUp g r, List.length_cons, List.length_cons]; omega

/-- `n` levels bring 2 ^ n values to one. -/
theorem length_treeOf (g : α → α → α) (n : Nat) {l : List α} (h : l.length = 2 ^ n) : (treeOf g n l).length = 1 := by
  induction n generalizing l with
  | zero => exact h
  | succ n ih => exact ih (by rw [length_pairUp, h, Nat.pow_succ]; omega)

/-- What the tree does to values it does to what they stand for. -/
theorem treeOf_map {g : α → α → α} {h : β → β → β} {φ : α → β} (e : ∀ a b, h (φ a) (φ b) = φ (g a b)) (n : Nat) (l : List α) :
    treeOf h n (l.map φ) = (treeOf g n l).map φ := by
  have level : ∀ l : List α, pairUp h (l.map φ) = (pairUp g l).map φ := by
    intro l
    induction l using pairUp.induct with
    | case1 x y r ih => rw [List.map_cons, List.map_cons, pairUp, pairUp, List.map_cons, ih, e]
    | case2 r short =>
      match r, short with
      | [], _ => rfl
      | [_], _ => rfl
      | _ :: _ :: _, short => exact absurd rfl (short _ _ _)
  induction n generalizing l with
  | zero => rfl
  | succ n ih => rw [treeOf, treeOf, level, ih]

/-- A tree of sums is the sum. -/
theorem sum_treeOf (n : Nat) (l : List (BitVec 32)) : (treeOf (· + ·) n l).sum = l.sum := by
  have level : ∀ l : List (BitVec 32), (pairUp (· + ·) l).sum = l.sum := by
    intro l
    induction l using pairUp.induct with
    | case1 x y r ih => rw [pairUp, List.sum_cons, List.sum_cons, List.sum_cons, ih, add_assoc]
    | case2 r short =>
      match r, short with
      | [], _ => rfl
      | [_], _ => rfl
      | _ :: _ :: _, short => exact absurd rfl (short _ _ _)
  induction n generalizing l with
  | zero => rfl
  | succ n ih => rw [treeOf, ih, level]

end Sys2Proof.Machine
end

section
/-! SUPPORT. The reductions, VEXT and VINS commanded alone (R109, R110). -/

namespace Sys2Proof.Machine

open Sys2Proof

variable {s : State} {l n op : Nat} {u : VecUnit} {f : VecF}

/-- A reduction writes lane 0 and zeroes the other lanes. -/
theorem vecReduce_writes {g : BitVec 32 × Bool → BitVec 32 × Bool → BitVec 32 × Bool} {inactive : BitVec 32} {r : BitVec 32 × Bool}
    (takes : takesArraySlot s l = true)
    (h : treeOf g 8 (lanes (fun i => if (maskOf s l f).getLsbD i then (vOf s l f.vs1.toNat i, false) else (inactive, false))) = [r]) :
    soleVec op (vecReduce g inactive) l u f s =
      .next (withSat (withV s (here s l) f.vd.toNat (lanes (fun n => if n = 0 then r.1 else 0))) l r.2) := by
  refine soleVec_ok (t := ⟨_, withSat_reach (withV_reach .refl _ _ _) _ _⟩) takes ?_
  have values : lanes (fun i => if (maskOf s l f).getLsbD i then (lane (vAll s l f.vs1.toNat) i, false) else (inactive, false)) =
      lanes (fun i => if (maskOf s l f).getLsbD i then (vOf s l f.vs1.toNat i, false) else (inactive, false)) :=
    lanes_congr fun i hi => by simp only [vAll, lane_lanes _ hi]
  have first : r.1 :: List.replicate 255 0 = lanes (fun n => if n = 0 then r.1 else 0) := by
    refine List.ext_getElem (by rw [List.length_cons, List.length_replicate, length_lanes]) fun i _ _ => ?_
    rw [getElem_lanes]
    cases i with
    | zero => rfl
    | succ i => rw [List.getElem_cons_succ, List.getElem_replicate, if_neg (Nat.succ_ne_zero i)]
  rw [vecReduce, eval_bind_ok (eval_predLanes _), eval_bind_ok (eval_rdV _), values, h]
  dsimp only [List.headD_cons]
  rw [first, eval_bind_ok (eval_wrV _ _ _)]
  exact eval_noteSat _ _ (withV_regs _ _ _ _)

/-- A tree on values with their saturation, where none saturates. -/
theorem treeOf_plain {g : BitVec 32 → BitVec 32 → BitVec 32} {on : Nat → Bool} {x : Nat → BitVec 32} {inactive : BitVec 32} :
    treeOf (fun a b : BitVec 32 × Bool => (g a.1 b.1, false)) 8 (lanes (fun i => if on i then (x i, false) else (inactive, false))) =
      (treeOf g 8 (lanes (fun i => if on i then x i else inactive))).map (·, false) := by
  rw [← treeOf_map (h := fun a b : BitVec 32 × Bool => (g a.1 b.1, false)) fun _ _ => rfl, lanes_map]
  exact congrArg _ (lanes_congr fun i _ => by split <;> rfl)

/-- The integer sum is the sum of the numbers, cut to 32 bits. -/
theorem treeOf_add {x : Nat → BitVec 32} {on : Nat → Bool} : treeOf (· + ·) 8 (lanes (fun i => if on i then x i else 0)) =
    [BitVec.ofNat 32 ((List.range 256).map (fun i => if on i then (x i).toNat else 0)).sum] := by
  obtain ⟨v, hv⟩ := List.length_eq_one_iff.1 (length_treeOf (· + ·) 8 (length_lanes (fun i => if on i then x i else 0)))
  have total : (treeOf (· + ·) 8 (lanes (fun i => if on i then x i else 0))).sum = v := by rw [hv, List.sum_singleton]
  have numbers (r : List Nat) : BitVec.ofNat 32 (r.map (fun i => if on i then (x i).toNat else 0)).sum = (r.map (fun i => if on i then x i else 0)).sum := by
    induction r with
    | nil => rfl
    | cons i r ih =>
      rw [List.map_cons, List.map_cons, List.sum_cons, List.sum_cons, BitVec.ofNat_add, ih]
      split <;> simp
  rw [hv, ← total, sum_treeOf, numbers]
  rfl

/-- VEXT writes a scalar register where bit 0 of its predicate holds. -/
theorem vext_writes (takes : takesArraySlot s l = true) : soleVec op opVext l u f s =
    .next (if (maskOf s l f).getLsbD 0 then withS s (here s l) f.vd.toNat ((vOf s l f.vs1.toNat (f.imm.toNat % 256)).zeroExtend 64) else s) := by
  have lane : lane (vAll s l f.vs1.toNat) (f.imm.toNat % 256) = vOf s l f.vs1.toNat (f.imm.toNat % 256) :=
    lane_lanes _ (Nat.mod_lt _ (by decide))
  split
  · next on =>
    refine soleVec_ok (t := ⟨_, withS_reach .refl _ _ _⟩) takes ?_
    rw [opVext, eval_bind_ok (eval_predLanes _), on, if_pos rfl, eval_bind_ok (eval_rdV _), lane]
    exact eval_wrS _ _ _
  · next off =>
    refine soleVec_ok (t := ⟨s, .refl⟩) takes ?_
    rw [opVext, eval_bind_ok (eval_predLanes _), if_neg off]
    rfl

/-- VINS writes one lane where its own predicate bit holds. -/
theorem vins_writes (takes : takesArraySlot s l = true) : soleVec op opVins l u f s =
    .next (if (maskOf s l f).getLsbD (f.imm.toNat % 256) then withV s (here s l) f.vd.toNat
      (lanes (fun n => if n = f.imm.toNat % 256 then (sOf s l f.vs1.toNat).truncate 32 else vOf s l f.vd.toNat n)) else s) := by
  have inserted : (vAll s l f.vd.toNat).set (f.imm.toNat % 256) (low (sOf s l f.vs1.toNat)) =
      lanes (fun n => if n = f.imm.toNat % 256 then (sOf s l f.vs1.toNat).truncate 32 else vOf s l f.vd.toNat n) := by
    refine List.ext_getElem (by simp [vAll, lanes]) fun i _ _ => ?_
    rw [List.getElem_set]
    simp only [vAll, lanes, List.getElem_map, List.getElem_range, low, eq_comm]
  split
  · next on =>
    refine soleVec_ok (t := ⟨_, withV_reach .refl _ _ _⟩) takes ?_
    rw [opVins, eval_bind_ok (eval_predLanes _)]
    dsimp only
    rw [on, if_pos rfl, eval_bind_ok (eval_rdS _), eval_bind_ok (eval_rdV _), inserted]
    exact eval_wrV _ _ _
  · next off =>
    refine soleVec_ok (t := ⟨s, .refl⟩) takes ?_
    rw [opVins, eval_bind_ok (eval_predLanes _)]
    dsimp only
    rw [if_neg off]
    rfl

end Sys2Proof.Machine
end

section
/-! SUPPORT. VCVT commanded alone (R184): what a conversion reads, and what it leaves of registers, flags and what it gathers for the tensor. -/

namespace Sys2Proof.Machine

open Sys2Proof

variable {s : State} {l n op : Nat} {u : VecUnit} {f : VecF} {e : FmtEntry} {fm : Fmt}

/-- The random bits of a slot's conversions. -/
theorem eval_slotBitsOf : eval (slotBitsOf (soleAt s l n) e) ⟨s, .refl⟩ = (.ok (roundBits s l e), ⟨s, .refl⟩) := by
  have bits (b : Prop) [Decidable b] : eval (if b then do
        let x ← rdSreg (soleAt s l n).l (soleAt s l n).k 62
        let t ← rdSreg (soleAt s l n).l (soleAt s l n).k 63
        let seed := seedIn (← st) (soleAt s l n).l e
        return fun j => mixBits seed (x.toNat / 2 ^ 48) ((x.toNat + j) % 2 ^ 48) (t.toNat % 2 ^ 32)
      else return fun _ => 0 : M s (Nat → Nat)) ⟨s, .refl⟩ =
    (.ok (fun j => if b then
      mixBits (seedIn s l e) ((sOf s l 62).toNat / 2 ^ 48) (((sOf s l 62).toNat + j) % 2 ^ 48) ((sOf s l 63).toNat % 2 ^ 32) else 0), ⟨s, .refl⟩) := by
    split <;> rfl
  exact bits _

/-- What the tensor's flags have after conversions have been gathered (R189). -/
def gatheredFlags (u : FlagUpd) (es : List Enc) : FlagUpd :=
  { vanish := min (u.vanish + (es.filter (·.vanish)).length) 0xFFFFFFFF, sat := u.sat || es.any (·.sat), void := u.void || es.any (·.void),
    voidLost := u.voidLost || es.any (·.voidLost) }

/-- The state with conversions of the running context gathered for a tensor. -/
def withGathered (s : State) (key : Nat) (es : List Enc) : State :=
  { s with flagUpds := FMap.set flagUpd0 s.flagUpds key (gatheredFlags (FMap.get flagUpd0 s.flagUpds key) es) }

theorem withGathered_reach {t : State} (h : Reach s t) (key : Nat) (es : List Enc) : Reach s (withGathered t key es) := h.upd (.flagUpd key _)

theorem eval_gather {i : Nat} (hi : i < 256) (es : List Enc) (g : Good s) : eval (gather (soleAt s l n).l (soleAt s l n).k i es) g =
    (.ok (), ⟨withGathered g.val (here s l * 256 + i) es, withGathered_reach g.property _ _⟩) := by
  have key : ctxKey (soleAt s l n).l (soleAt s l n).k * 256 + i % 256 = here s l * 256 + i := by
    rw [Nat.mod_eq_of_lt hi]
    rfl
  simp only [← key]
  rfl

/-- What VCVT leaves: its register, the flags and what it gathers change, and nothing else. -/
structure Converted (s : State) (l : Nat) (f : VecF) (g : Nat → BitVec 32) (on : Nat → Bool) (enc : Nat → Enc) (t : State) : Prop where
  rest : t = { s with vregs := t.vregs, flagUpds := t.flagUpds, regs := t.regs }
  vregs : t.vregs = (withV s (here s l) f.vd.toNat (lanes (fun n => if on n then g n else vOf s l f.vd.toNat n))).vregs
  regs : t.regs = (withSat s l ((List.range 256).any (fun n => on n && (enc n).sat))).regs
  gathered : FMap.wf flagUpd0 s.flagUpds = true →
    let old := FMap.get flagUpd0 s.flagUpds (here s l * 256 + f.fmt.toNat)
    let new := FMap.get flagUpd0 t.flagUpds (here s l * 256 + f.fmt.toNat)
    new.sat = (old.sat || (List.range 256).any (fun n => on n && (enc n).sat)) ∧
      new.void = (old.void || (List.range 256).any (fun n => on n && (enc n).void))

theorem withSat_regs {t : State} (h : t.regs = s.regs) (b : Bool) : (withSat t l b).regs = (withSat s l b).regs := by
  unfold withSat
  split
  · simp only [withField, fieldIn, h]
  · exact h

/-- What the write of a register, the gathering for the tensor and SAT leave. -/
theorem converted_of_writes {v : List (BitVec 32)} {g : Nat → BitVec 32} {on : Nat → Bool} {enc : Nat → Enc} {es : List Enc}
    (lanes' : v = lanes (fun n => if on n then g n else vOf s l f.vd.toNat n))
    (sat : es.any (·.sat) = (List.range 256).any (fun n => on n && (enc n).sat))
    (void : es.any (·.void) = (List.range 256).any (fun n => on n && (enc n).void)) :
    Converted s l f g on enc (withSat (withGathered (withV s (here s l) f.vd.toNat v) (here s l * 256 + f.fmt.toNat) es) l (es.any (·.sat))) := by
  have away (b : Bool) (t : State) : withSat t l b = { t with regs := (withSat t l b).regs } := by
    unfold withSat
    split <;> rfl
  have told := withSat_regs (s := s) (l := l) (t := withGathered (withV s (here s l) f.vd.toNat v) (here s l * 256 + f.fmt.toNat) es) rfl (es.any (·.sat))
  rw [away]
  refine ⟨rfl, by rw [← lanes']; rfl, ?_, fun w => ?_⟩
  · rw [← sat]
    exact told
  · have reads : FMap.get flagUpd0 (FMap.set flagUpd0 s.flagUpds (here s l * 256 + f.fmt.toNat)
        (gatheredFlags (FMap.get flagUpd0 s.flagUpds (here s l * 256 + f.fmt.toNat)) es)) (here s l * 256 + f.fmt.toNat) =
        gatheredFlags (FMap.get flagUpd0 s.flagUpds (here s l * 256 + f.fmt.toNat)) es := by rw [FMap.get_set w, if_pos rfl]
    exact ⟨(congrArg FlagUpd.sat reads).trans (by rw [gatheredFlags, sat]), (congrArg FlagUpd.void reads).trans (by rw [gatheredFlags, void])⟩

/-- The write of the lanes, and what the conversions tell. -/
theorem leads_converted {v : List (BitVec 32)} {g : Nat → BitVec 32} {on : Nat → Bool} {enc : Nat → Enc} {es : List Enc}
    (lanes' : v = lanes (fun n => if on n then g n else vOf s l f.vd.toNat n))
    (sat : es.any (·.sat) = (List.range 256).any (fun n => on n && (enc n).sat))
    (void : es.any (·.void) = (List.range 256).any (fun n => on n && (enc n).void)) :
    Leads (do wrV (soleAt s l n) f.vd v; noteConversion (soleAt s l n) f.fmt.toNat es) ⟨s, .refl⟩ fun _ t => Converted s l f g on enc t := by
  have runs : eval (do wrV (soleAt s l n) f.vd v; noteConversion (soleAt s l n) f.fmt.toNat es) ⟨s, .refl⟩ =
    (.ok (), ⟨withSat (withGathered (withV s (here s l) f.vd.toNat v) (here s l * 256 + f.fmt.toNat) es) l (es.any (·.sat)),
      withSat_reach (withGathered_reach (withV_reach .refl _ _ _) _ _) _ _⟩) := by
    rw [eval_bind_ok (eval_wrV _ _ _), noteConversion, eval_bind_ok (eval_gather f.fmt.isLt _ _)]
    exact eval_noteSat _ _ rfl
  exact leads_of_eval runs (converted_of_writes lanes' sat void)

/-- Only the lanes there are matter. -/
theorem Converted.congr {g g' : Nat → BitVec 32} {on : Nat → Bool} {enc enc' : Nat → Enc} {t : State} (c : Converted s l f g on enc t)
    (hg : ∀ i, i < 256 → g i = g' i) (he : ∀ i, i < 256 → enc i = enc' i) : Converted s l f g' on enc' t := by
  have told (p : Enc → Bool) : (List.range 256).any (fun n => on n && p (enc n)) = (List.range 256).any (fun n => on n && p (enc' n)) := by
    rw [Bool.eq_iff_iff, List.any_eq_true, List.any_eq_true]
    exact exists_congr fun i => and_congr_right fun hi => by rw [he i (List.mem_range.1 hi)]
  obtain ⟨rest, vregs, regs, gathered⟩ := c
  refine ⟨rest, vregs.trans ?_, regs.trans (by rw [told (·.sat)]), fun w => ?_⟩
  · rw [lanes_congr fun i hi => by rw [hg i hi]]
  · obtain ⟨sat, void⟩ := gathered w
    exact ⟨sat.trans (by rw [told (·.sat)]), void.trans (by rw [told (·.void)])⟩

/-! The four forms. -/

/-- The value of a lane, as W32 or as I32. -/
def laneOf (s : State) (l : Nat) (f : VecF) (asInt : Bool) (i : Nat) : Val :=
  if asInt then .num (vOf s l f.vs1.toNat i).toInt 0 else w32 (vOf s l f.vs1.toNat i)

/-- The encode into register placement. -/
theorem leads_cvtEncodePlaced {asInt : Bool} : let on (i : Nat) := (maskOf s l f).getLsbD (if fm.block then i / 32 * 32 else i)
    let enc := encodeLane fm e.round (roundBits s l e) (laneOf s l f asInt)
    Leads (cvtEncodePlaced (soleAt s l n) f e fm asInt) ⟨s, .refl⟩ fun _ t =>
      Converted s l f (fun i => BitVec.ofNat 32 ((enc i).code + if fm.block then groupScale fm (laneOf s l f asInt) (i / 32) * 256 else 0)) on enc t := by
  dsimp only
  refine leads_bind_read (eval_predLanes _) (leads_bind_read (eval_rdV _) (leads_bind_read (eval_rdV _) (leads_bind_read eval_slotBitsOf ?_)))
  have values : (vAll s l f.vs1.toNat).map (laneVal asInt) = lanes (laneOf s l f asInt) := lanes_map _ _
  have chosen (i : Nat) : (if fm.block then (maskOf s l f).getLsbD (i / 32 * 32) else (maskOf s l f).getLsbD i) =
      (maskOf s l f).getLsbD (if fm.block then i / 32 * 32 else i) := by split <;> rfl
  dsimp only
  rw [values, modeOf, encodeAll_lanes]
  simp only [chosen]
  have told (p : Enc → Bool) := any_chosen (encodeLane fm e.round (roundBits s l e) (laneOf s l f asInt))
    (fun i => (maskOf s l f).getLsbD (if fm.block then i / 32 * 32 else i)) id p
  refine leads_converted (lanes_congr fun i hi => ?_) (told _) (told _)
  rw [getD_lanes _ _ hi, vAll, lane_lanes _ hi]
  by_cases block : fm.block = true
  · simp only [block, if_true]
    rw [List.getD_eq_getElem _ _ (by simp; omega), List.getElem_map, List.getElem_range]
  · simp only [block, if_false, Bool.false_eq_true]

/-- The packed encode. -/
theorem leads_cvtEncodePacked {asInt : Bool} :
    let whole := encodeAll fm e.round (roundBits s l e) 0 (lanes (fun i => if (maskOf s l f).getLsbD i then laneOf s l f asInt i else .zero))
    Leads (cvtEncodePacked (soleAt s l n) f e fm asInt) ⟨s, .refl⟩ fun _ t =>
      Converted s l f (fun i => BitVec.ofNat 32 (fieldAt (packStorage fm whole.1 (whole.2.map (·.code))) (4 * i) 4)) (fun _ => true)
        (fun i => whole.2.getD i ⟨0, false, false, false, false⟩) t := by
  dsimp only
  refine leads_bind_read (eval_predLanes _) (leads_bind_read (eval_rdV _) (leads_bind_read eval_slotBitsOf ?_))
  have values : lanes (fun i => if (maskOf s l f).getLsbD i then laneVal asInt (lane (vAll s l f.vs1.toNat) i) else .zero) =
      lanes (fun i => if (maskOf s l f).getLsbD i then laneOf s l f asInt i else .zero) :=
    lanes_congr fun i hi => by rw [vAll, lane_lanes _ hi]; rfl
  dsimp only
  rw [values, modeOf]
  have told (p : Enc → Bool) (es : List Enc) (g : Nat → Enc) (he : es = lanes g) :
      es.any p = (List.range 256).any (fun i => true && p (es.getD i ⟨0, false, false, false, false⟩)) := by
    rw [he, any_lanes, Bool.eq_iff_iff, List.any_eq_true, List.any_eq_true]
    exact exists_congr fun i => and_congr_right fun hi => by rw [getD_lanes _ _ (List.mem_range.1 hi), Bool.true_and]
  have all := congrArg Prod.snd (encodeAll_lanes fm e.round (roundBits s l e) (fun i => if (maskOf s l f).getLsbD i then laneOf s l f asInt i else .zero))
  exact leads_converted (lanes_congr fun i _ => rfl) (told _ _ _ all) (told _ _ _ all)

/-- The scale of a lane's group in register placement (R172). -/
theorem placedScale (x : Nat → BitVec 32) {i : Nat} (hi : i < 256) :
    (placed fm (lanes x)).1.getD (i / 32) 0 = if fm.block then (x (i / 32 * 32)).toNat / 256 % 256 else 0 := by
  rw [placed, length_lanes]
  by_cases block : fm.block = true
  · simp only [block, if_true]
    rw [List.getD_eq_getElem _ _ (by simp; omega), List.getElem_map, List.getElem_range, lane_lanes _ (by omega), Nat.mul_comm]
  · simp only [block, if_false, Bool.false_eq_true]
    rfl

/-- The code of a lane in register placement (R172). -/
theorem placedCode (x : Nat → BitVec 32) {i : Nat} (hi : i < 256) : (placed fm (lanes x)).2.getD i 0 = (x i).toNat % 2 ^ fm.width := by
  rw [placed, lanes_map, getD_lanes _ _ hi]

/-- The decode of scales and codes. -/
theorem leads_cvtDecode {packed asInt : Bool} {scales codes : List Nat} (h : (if packed then
      unpackStorage fm 256 ((vAll s l f.vs1.toNat).flatMap (fun w => leBytes 4 w.toNat)) else placed fm (vAll s l f.vs1.toNat)) = (scales, codes)) :
    let enc (i : Nat) := (if asInt then Fmt.i32 else Fmt.w32).encode e.round (roundBits s l e i) (fm.decodeScaled (scales.getD (i / 32) 0) (codes.getD i 0))
    Leads (cvtDecode (soleAt s l n) f e fm packed asInt) ⟨s, .refl⟩ fun _ t =>
      Converted s l f (fun i => BitVec.ofNat 32 (enc i).code) (maskOf s l f).getLsbD enc t := by
  dsimp only
  refine leads_bind_read (eval_predLanes _) (leads_bind_read (eval_rdV _) (leads_bind_read (eval_rdV _) (leads_bind_read eval_slotBitsOf ?_)))
  dsimp only
  rw [h]
  dsimp only
  rw [modeOf]
  have told (g : Nat → Enc) (p : Enc → Bool) := any_chosen g (maskOf s l f).getLsbD (fun c => { c with vanish := false }) p
  refine leads_converted (lanes_congr fun i hi => ?_) (told _ _) (told _ _)
  rw [getD_lanes _ _ hi, vAll, lane_lanes _ hi]

end Sys2Proof.Machine
end

section
/-! SUPPORT. Which of its forms VCVT takes (R184). -/

namespace Sys2Proof.Machine

open Sys2Proof

variable {s : State} {l n op : Nat} {u : VecUnit} {f : VecF} {e : FmtEntry} {fm : Fmt}

/-- The format of the lanes. -/
def sideOf (f : VecF) : Fmt := if f.imm.getLsbD 2 then Fmt.i32 else Fmt.w32

/-- Copied lanes, those whose predicate bit is 0 as zero. -/
def copyPacked (a : At) (f : VecF) : M s Unit := do
  let p ← predLanes a f
  let x ← rdV a f.vs1
  wrV a f.vd (lanes (fun i => if p.getLsbD i then lane x i else 0))

section
variable (imm : f.imm.toNat < 8) (entry : fmtEntryIn s l f.fmt.toNat = some (e, fm))
include imm entry

theorem eval_opVcvt : eval (opVcvt (soleAt s l n) f) ⟨s, .refl⟩ = eval (
    if fm = sideOf f then
      if f.imm.getLsbD 0 && f.imm.getLsbD 1 then copyPacked (soleAt s l n) f else vecMap (fun x _ _ => (x, false)) (soleAt s l n) f
    else if f.imm.getLsbD 0 then
      if f.imm.getLsbD 1 then cvtEncodePacked (soleAt s l n) f e fm (f.imm.getLsbD 2) else cvtEncodePlaced (soleAt s l n) f e fm (f.imm.getLsbD 2)
    else cvtDecode (soleAt s l n) f e fm (f.imm.getLsbD 1) (f.imm.getLsbD 2)) ⟨s, .refl⟩ := by
  have legal : decide (f.imm.toNat / 8 = 0) = true := decide_eq_true (by omega)
  have block : fmtEntryIn s (soleAt s l n).l f.fmt.toNat = some (e, fm) := entry
  rw [opVcvt, eval_bind_ok (eval_encOk legal _), eval_bind_ok (eval_st _)]
  dsimp only
  rw [block]
  rfl

/-- An entry whose format is that of the lanes copies them. -/
theorem vcvt_copies (takes : takesArraySlot s l = true) (same : fm = sideOf f) : soleVec op opVcvt l u f s =
    .next (withV s (here s l) f.vd.toNat (lanes (fun i => if (maskOf s l f).getLsbD i then vOf s l f.vs1.toNat i
      else if f.imm.getLsbD 0 && f.imm.getLsbD 1 then 0 else vOf s l f.vd.toNat i))) := by
  refine soleVec_ok (t := ⟨_, withV_reach .refl _ _ _⟩) takes ((eval_opVcvt imm entry).trans ?_)
  rw [if_pos same]
  split
  · have values : lanes (fun i => if (maskOf s l f).getLsbD i then lane (vAll s l f.vs1.toNat) i else 0) =
        lanes (fun i => if (maskOf s l f).getLsbD i then vOf s l f.vs1.toNat i else 0) := lanes_congr fun i hi => by rw [vAll, lane_lanes _ hi]
    rw [copyPacked, eval_bind_ok (eval_predLanes _), eval_bind_ok (eval_rdV _), values]
    exact eval_wrV _ _ _
  · exact eval_vecMap_plain

section
variable (takes : takesArraySlot s l = true) (other : fm ≠ sideOf f)
include takes other

/-- Any other entry converts, in the form that the immediate names. -/
theorem vcvt_converts {Q : State → Prop} (k : Leads (if f.imm.getLsbD 0 then
        if f.imm.getLsbD 1 then cvtEncodePacked (soleAt s l (vecSlot u)) f e fm (f.imm.getLsbD 2)
        else cvtEncodePlaced (soleAt s l (vecSlot u)) f e fm (f.imm.getLsbD 2)
      else cvtDecode (soleAt s l (vecSlot u)) f e fm (f.imm.getLsbD 1) (f.imm.getLsbD 2)) ⟨s, .refl⟩ fun _ => Q) :
    ∃ t, soleVec op opVcvt l u f s = .next t ∧ Q t := by
  obtain ⟨_, t, runs, q⟩ := k
  exact ⟨t.val, soleVec_ok takes ((eval_opVcvt imm entry).trans (by rw [if_neg other]; exact runs)), q⟩

theorem vcvt_encodesPlaced (encodes : f.imm.getLsbD 0 = true) (placed : f.imm.getLsbD 1 = false) :
    let v := laneOf s l f (f.imm.getLsbD 2)
    let enc := encodeLane fm e.round (roundBits s l e) v
    ∃ t, soleVec op opVcvt l u f s = .next t ∧ Converted s l f
      (fun i => BitVec.ofNat 32 ((enc i).code + if fm.block then groupScale fm v (i / 32) * 256 else 0))
      (fun i => (maskOf s l f).getLsbD (if fm.block then i / 32 * 32 else i)) enc t :=
  vcvt_converts imm entry takes other (by rw [encodes, placed]; exact leads_cvtEncodePlaced)

theorem vcvt_encodesPacked (encodes : f.imm.getLsbD 0 = true) (packed : f.imm.getLsbD 1 = true) :
    let v (i : Nat) := if (maskOf s l f).getLsbD i then laneOf s l f (f.imm.getLsbD 2) i else .zero
    let whole := encodeAll fm e.round (roundBits s l e) 0 (lanes v)
    ∃ t, soleVec op opVcvt l u f s = .next t ∧ Converted s l f
      (fun i => BitVec.ofNat 32 (fieldAt (packStorage fm whole.1 (whole.2.map (·.code))) (4 * i) 4)) (fun _ => true)
      (fun i => whole.2.getD i ⟨0, false, false, false, false⟩) t :=
  vcvt_converts imm entry takes other (by rw [encodes, packed]; exact leads_cvtEncodePacked)

theorem vcvt_decodes {scales codes : List Nat} (decodes : f.imm.getLsbD 0 = false) (h : (if f.imm.getLsbD 1 then
      unpackStorage fm 256 ((vAll s l f.vs1.toNat).flatMap (fun w => leBytes 4 w.toNat)) else placed fm (vAll s l f.vs1.toNat)) = (scales, codes)) :
    let enc (i : Nat) := (sideOf f).encode e.round (roundBits s l e i) (fm.decodeScaled (scales.getD (i / 32) 0) (codes.getD i 0))
    ∃ t, soleVec op opVcvt l u f s = .next t ∧ Converted s l f (fun i => BitVec.ofNat 32 (enc i).code) (maskOf s l f).getLsbD enc t :=
  vcvt_converts imm entry takes other (by rw [decodes]; exact leads_cvtDecode h)

theorem vcvt_decodesPlaced (decodes : f.imm.getLsbD 0 = false) (placed' : f.imm.getLsbD 1 = false) :
    let x := vOf s l f.vs1.toNat
    let scale (i : Nat) := if fm.block then (x (i / 32 * 32)).toNat / 256 % 256 else 0
    let enc (i : Nat) := (sideOf f).encode e.round (roundBits s l e i) (fm.decodeScaled (scale i) ((x i).toNat % 2 ^ fm.width))
    ∃ t, soleVec op opVcvt l u f s = .next t ∧ Converted s l f (fun i => BitVec.ofNat 32 (enc i).code) (maskOf s l f).getLsbD enc t := by
  obtain ⟨t, runs, c⟩ := vcvt_decodes (op := op) (u := u) imm entry takes other decodes
    (scales := (placed fm (vAll s l f.vs1.toNat)).1) (codes := (placed fm (vAll s l f.vs1.toNat)).2) (by rw [placed', if_neg (by decide)])
  refine ⟨t, runs, c.congr (fun i hi => ?_) fun i hi => ?_⟩ <;> dsimp only <;> rw [vAll, placedScale _ hi, placedCode _ hi]

theorem vcvt_decodesPacked (decodes : f.imm.getLsbD 0 = false) (packed : f.imm.getLsbD 1 = true) :
    let image := (vAll s l f.vs1.toNat).flatMap (fun w => leBytes 4 w.toNat)
    let enc (i : Nat) := (sideOf f).encode e.round (roundBits s l e i)
      (fm.decodeScaled ((unpackStorage fm 256 image).1.getD (i / 32) 0) ((unpackStorage fm 256 image).2.getD i 0))
    ∃ t, soleVec op opVcvt l u f s = .next t ∧ Converted s l f (fun i => BitVec.ofNat 32 (enc i).code) (maskOf s l f).getLsbD enc t :=
  vcvt_decodes imm entry takes other decodes (by rw [packed, if_pos rfl])

end

end

end Sys2Proof.Machine
end

section
/-! SUPPORT. The sum and the maximum of a register's lanes (R109, R110). -/

namespace Sys2Proof.Machine

open Sys2Proof

variable {s : State} {l op : Nat} {u : VecUnit} {f : VecF}

theorem vredaddi_writes (takes : takesArraySlot s l = true) : soleVec op opVredaddi l u f s =
    .next (withSat (withV s (here s l) f.vd.toNat (lanes (fun n => if n = 0 then
      BitVec.ofNat 32 ((List.range 256).map (fun n => if (maskOf s l f).getLsbD n then (vOf s l f.vs1.toNat n).toNat else 0)).sum else 0))) l false) := by
  refine vecReduce_writes (r := (_, false)) takes ?_
  rw [treeOf_plain, treeOf_add]
  rfl

theorem vredmaxf_writes {r : BitVec 32} (takes : takesArraySlot s l = true)
    (h : treeOf wMax 8 (lanes (fun n => if (maskOf s l f).getLsbD n then vOf s l f.vs1.toNat n else w32Top true)) = [r]) :
    soleVec op opVredmaxf l u f s = .next (withSat (withV s (here s l) f.vd.toNat (lanes (fun n => if n = 0 then r else 0))) l false) := by
  refine vecReduce_writes (r := (_, false)) takes ?_
  rw [treeOf_plain, h]
  rfl

end Sys2Proof.Machine
end

section
/-! OBLIGATION O17. -/

open Sys2Proof Sys2Proof.Machine

/-- Settles O17: a reduction of 256 values is a tree of eight levels that leaves one; VEXT and VINS write one register or lane; and each form of VCVT is the
write of its lanes with what its conversions tell, all 256 lanes encoded group by group being each encoded in its group. -/
theorem vectorReductionsAndConversion : Obligations.VectorReductionsAndConversion := by
  unfold Obligations.VectorReductionsAndConversion
  refine ⟨fun s l u f takes => ?_, fun s l u f e fm takes imm entry => ?_⟩
  · intro x m k first sum greatest
    have one : sum.length = 1 := length_treeOf _ 8 (length_lanes _)
    have one' : greatest.length = 1 := length_treeOf _ 8 (length_lanes _)
    exact ⟨vredaddi_writes takes, fun r h => vecReduce_writes takes h, one, fun r h => vredmaxf_writes takes h, one', vext_writes takes, vins_writes takes⟩
  · intro m x rnd asInt side val scale up down image whole packed done code
    have finish {g : Nat → BitVec 32} {on : Nat → Bool} {enc : Nat → Enc} (h : ∃ t, exec (.vcvt l u f) s = .next t ∧ Converted s l f g on enc t) :
        done g on enc := by
      obtain ⟨t, runs, c⟩ := h
      exact ⟨t, runs, c.rest, c.vregs, c.regs, c.gathered⟩
    refine ⟨vcvt_copies imm entry takes, fun other => ⟨fun enc placed => finish ?_, fun enc pack => finish ?_, fun dec placed' => finish ?_,
      fun dec pack => finish ?_⟩⟩
    · exact vcvt_encodesPlaced imm entry takes other enc placed
    · exact vcvt_encodesPacked imm entry takes other enc pack
    · exact vcvt_decodesPlaced imm entry takes other dec placed'
    · exact vcvt_decodesPacked imm entry takes other dec pack

end

section
/-! SUPPORT. What an acquire leaves (R318 to R324). -/

namespace Sys2Proof.Machine

open Sys2Proof

variable {s s0 : State} {l k scope : Nat}

/-- The words a context has asked for ahead are no longer its own. -/
def disowned (l k : Nat) (reqs : List Req) : List Req := reqs.map (fun r => if r.purpose = .early l k then { r with purpose := .agent } else r)

theorem disowned_of_none {reqs : List Req} (h : reqs.any (fun r => r.purpose == .early l k) = false) : disowned l k reqs = reqs := by
  refine (List.map_congr_left fun r hr => ?_).trans (List.map_id _)
  have other : r.purpose ≠ .early l k := fun e => by
    have found := List.any_eq_false.1 h r hr
    rw [e] at found
    exact found (beq_self_eq_true _)
  rw [if_neg other, id]

theorem disowned_purpose {reqs : List Req} : ∀ r ∈ disowned l k reqs, r.purpose ≠ .early l k := by
  intro r hr
  obtain ⟨q, -, rfl⟩ := List.mem_map.1 hr
  split
  · exact fun e => by cases e
  · assumption

/-- A context changed, and no other. -/
structure CtxSet (key : Nat) (h : Ctx → Ctx) (s t : State) : Prop where
  wf : FMap.wf ctx0 t.ctxs = true
  get : ∀ i, FMap.get ctx0 t.ctxs i = if i = key then h (FMap.get ctx0 s.ctxs i) else FMap.get ctx0 s.ctxs i

theorem CtxSet.trans {key : Nat} {h h' : Ctx → Ctx} {t u : State} (a : CtxSet key h s t) (b : CtxSet key h' t u) : CtxSet key (h' ∘ h) s u :=
  ⟨b.wf, fun i => by
    rw [b.get, a.get]
    split <;> rfl⟩

theorem ctxSet_of_set {key : Nat} {h : Ctx → Ctx} {t : State} (w : FMap.wf ctx0 s.ctxs = true)
    (e : t.ctxs = FMap.set ctx0 s.ctxs key (h (FMap.get ctx0 s.ctxs key))) : CtxSet key h s t := by
  refine ⟨e ▸ FMap.set_wf _ _ w, fun i => ?_⟩
  rw [e, FMap.get_set w]
  split
  · next same => rw [same]
  · rfl

theorem ctxSet_of_same {key : Nat} {h : Ctx → Ctx} {t : State} (w : FMap.wf ctx0 s.ctxs = true) (e : t.ctxs = s.ctxs)
    (fixed : h (FMap.get ctx0 s.ctxs key) = FMap.get ctx0 s.ctxs key) : CtxSet key h s t := by
  refine ⟨e ▸ w, fun i => ?_⟩
  rw [e]
  split
  · next same => rw [same, fixed]
  · rfl

/-- Nothing read ahead or asked for ahead is used any more. -/
theorem leads_dropEarly {g : Good s0} (w : FMap.wf ctx0 g.val.ctxs = true) : Leads (dropEarly l k) g fun _ t =>
    t = { g.val with ctxs := t.ctxs, reqs := disowned l k g.val.reqs } ∧ CtxSet (ctxKey l k) (fun c => { c with early := none }) g.val t := by
  have asked (u : Good s0) (hu : u.val = { g.val with ctxs := u.val.ctxs })
      (hc : CtxSet (ctxKey l k) (fun c => { c with early := none }) g.val u.val) : Leads (do
        let s ← st
        if s.reqs.any (fun r => r.purpose == .early l k) then
          eff (.reqs (s.reqs.map (fun r => if r.purpose = .early l k then { r with purpose := .agent } else r))) : M s0 Unit) u fun _ t =>
      t = { g.val with ctxs := t.ctxs, reqs := disowned l k g.val.reqs } ∧ CtxSet (ctxKey l k) (fun c => { c with early := none }) g.val t := by
    have reqs : u.val.reqs = g.val.reqs := by rw [hu]
    refine leads_bind_st ?_
    split
    · refine leads_eff ⟨?_, hc.wf, hc.get⟩
      rw [reqs, hu]
      rfl
    · next none =>
      refine leads_pure ⟨?_, hc⟩
      rw [disowned_of_none (by rw [← reqs]; simpa using none)]
      exact hu
  refine leads_bind_read (eval_getCtx _ _ _) ?_
  split
  · exact leads_bind_eff fun u hu => asked u (by rw [hu]; rfl) (ctxSet_of_set w (by rw [hu]; rfl))
  · next none =>
    refine asked g rfl (ctxSet_of_same w rfl ?_)
    have e : (FMap.get ctx0 g.val.ctxs (ctxKey l k)).early = .none := by simpa using none
    rw [← e]

/-- The read cache of a core after an acquire: emptied at clause or wider scope. -/
def cacheAfter (l scope : Nat) (s : State) : List CacheLine := if 2 ≤ scope then s.cache.filter (fun x => x.core != l) else s.cache

/-- What an acquire leaves of what is cached and read ahead. -/
theorem leads_acquireCache {a : At} {g : Good s0} (w : FMap.wf ctx0 g.val.ctxs = true) : Leads (acquireCache a scope) g fun _ t =>
    t = { g.val with ctxs := t.ctxs, cache := cacheAfter a.l scope g.val, reqs := disowned a.l a.k g.val.reqs } ∧
      CtxSet (ctxKey a.l a.k) (fun c => { c with early := none }) g.val t := by
  refine leads_bind (leads_dropEarly w) fun _ u hu => ?_
  obtain ⟨rest, ctxs⟩ := hu
  have cache : u.val.cache = g.val.cache := by rw [rest]
  rw [cacheAfter]
  split
  · refine leads_bind_st (leads_eff ⟨?_, ctxs.wf, ctxs.get⟩)
    rw [cache, rest]
    rfl
  · exact leads_pure ⟨rest, ctxs⟩

/-- A test of tags may count a mismatch, and none is kept in debug state Closed (R323). -/
theorem leads_testTags {a : At} {tags : List RelTag} (g : Good s0) : Leads (testTags a scope tags) g fun _ t =>
    t = { g.val with regs := t.regs } ∧ (fieldIn g.val R.DEV_MOOD_DEBUG 0 0 = 0 → t.regs = g.val.regs) := by
  have tag : ∃ r, eval (tagAt a scope) g = (.ok r, g) ∧ (fieldIn g.val R.DEV_MOOD_DEBUG 0 0 = 0 → r = none) := by
    rw [tagAt, eval_bind_ok (eval_st _)]
    by_cases kept : (tagsKept g.val && scope != 0) = true
    · rw [if_pos kept]
      refine ⟨_, rfl, fun closed => ?_⟩
      rw [tagsKept, closed] at kept
      exact absurd kept (by simp)
    · rw [if_neg kept]
      exact ⟨_, rfl, fun _ => rfl⟩
  obtain ⟨r, e, closed⟩ := tag
  refine leads_bind_read e ?_
  cases r with
  | none => exact leads_pure ⟨rfl, fun _ => rfl⟩
  | some me =>
    have opened : fieldIn g.val R.DEV_MOOD_DEBUG 0 0 ≠ 0 := fun h => by cases closed h
    dsimp only
    split
    · exact leads_countSat ⟨rfl, fun h => absurd h opened⟩
    · exact leads_pure ⟨rfl, fun _ => rfl⟩

/-- What a fence's acquire leaves: the tags met are tested, and what was read ahead or cached is dropped (R320, R324). -/
structure Acquired (l k scope : Nat) (s t : State) : Prop where
  rest : t = { s with ctxs := t.ctxs, cache := cacheAfter l scope s, regs := t.regs, reqs := disowned l k s.reqs }
  closed : fieldIn s R.DEV_MOOD_DEBUG 0 0 = 0 → t.regs = s.regs
  ctxs : CtxSet (ctxKey l k) (fun c => { c with seen := [], early := none }) s t

theorem leads_fenceAcquire {a : At} {g : Good s0} (w : FMap.wf ctx0 g.val.ctxs = true) :
    Leads (fenceAcquire a scope) g fun _ t => Acquired a.l a.k scope g.val t := by
  refine leads_bind_read (eval_getCtx _ _ _) (leads_bind (leads_testTags g) fun _ u hu => ?_)
  obtain ⟨rest, closed⟩ := hu
  have ctxs : u.val.ctxs = g.val.ctxs := by rw [rest]
  refine leads_bind (leads_modCtx (Q := fun _ t => t = { u.val with ctxs := t.ctxs } ∧ CtxSet (ctxKey a.l a.k) (fun c => { c with seen := [] }) g.val t)
    ⟨rfl, ctxSet_of_set w (by rw [apply_ctx_ctxs, ctxs])⟩) fun _ v hv => ?_
  obtain ⟨rest', seen⟩ := hv
  refine (leads_acquireCache seen.wf).mono fun _ t ht => ?_
  obtain ⟨rest'', early⟩ := ht
  have same : v.val = { g.val with ctxs := v.val.ctxs, regs := v.val.regs } := by
    rw [rest', rest]
  have regs : v.val.regs = u.val.regs := by rw [rest']
  refine ⟨?_, fun h => ?_, seen.trans early⟩
  · rw [rest'']
    simp only [cacheAfter]
    rw [show v.val.cache = g.val.cache by rw [same], show v.val.reqs = g.val.reqs by rw [same]]
    rw [same]
  · rw [rest'', regs]
    exact closed h

end Sys2Proof.Machine
end

section
/-! SUPPORT. Fences and waits of the sync slot (R113, R318 to R325, R398). -/

namespace Sys2Proof.Machine

open Sys2Proof

variable {s s0 : State} {l k n : Nat} {f : SyncF}

theorem storesOutIn_releases (h : storesOutIn s l k false = false) : storesOutIn s l k true = false := by
  rw [storesOutIn, List.any_eq_false] at h ⊢
  intro r hr
  have none := h r hr
  revert none
  cases r.purpose
  case store l' k' serial release op =>
    cases release <;> simp
  all_goals exact id

theorem eval_releaseWait {a : At} {g : Good s0} (h : storesOutIn g.val a.l a.k false = false) : eval (releaseWait a) g = (.ok (), g) := by
  rw [releaseWait, eval_bind_ok (eval_st _), h]
  rfl

theorem eval_acquireWait {a : At} {g : Good s0} (h : storesOutIn g.val a.l a.k true = false) : eval (acquireWait a) g = (.ok (), g) := by
  rw [acquireWait, eval_bind_ok (eval_st _), h]
  rfl

theorem eval_fenceScope (h0 : f.scope ≠ 0) (h7 : f.scope ≠ 7) (g : Good s) : eval (fenceScope f) g = (.ok f.scope.toNat, g) := by
  have legal : (f.scope != 0 && f.scope != 7) = true := by
    rw [Bool.and_eq_true, bne_iff_ne, bne_iff_ne]
    exact ⟨h0, h7⟩
  rw [fenceScope, eval_bind_ok (eval_encOk legal _)]
  rfl

/-- What every context reads, its own new value said of the one changed. -/
theorem ctxSet_reads {key : Nat} {h : Ctx → Ctx} {t : State} (c : CtxSet key h s t) (i : Nat) :
    FMap.get ctx0 t.ctxs i = if i = key then h (FMap.get ctx0 s.ctxs key) else FMap.get ctx0 s.ctxs i := by
  rw [c.get]
  split
  · next same => rw [same]
  · rfl

theorem soleSync_leads {op : Nat} {g : {s : State} → At → SyncF → M s Unit} {Q : State → Prop} (takes : takesSlot s l = true)
    (h : Leads (g (soleAt s l 7) f) ⟨s, .refl⟩ fun _ => Q) : ∃ t, soleSync op g l f s = .next t ∧ Q t := by
  obtain ⟨_, t, e, q⟩ := h
  exact ⟨t.val, soleSync_ok takes e, q⟩

section
variable (hp : holds s l f.pred f.pneg = true)
include hp

/-- A slot whose predicate holds leads where its work leads. -/
theorem leads_whenHolds {m : M s Unit} {Q : Unit → State → Prop} (h : Leads m ⟨s, .refl⟩ Q) :
    Leads (do if ← predHolds (soleAt s l n) f.pred f.pneg then m) ⟨s, .refl⟩ Q := by
  rw [Leads, eval_whenHolds m hp]
  exact h

variable (h0 : f.scope ≠ 0) (h7 : f.scope ≠ 7) (out : storesOutIn s l (fieldIn s R.CORE_STATUS_SLOT l 0) false = false)
include h0 h7 out

/-- A fence's release: later plain stores carry its scope (R323). -/
theorem eval_opFenceRel : eval (opFenceRel (soleAt s l 7) f) ⟨s, .refl⟩ = (.ok (), ⟨{ s with
      ctxs := FMap.set ctx0 s.ctxs (here s l) { FMap.get ctx0 s.ctxs (here s l) with span := f.scope } }, ctx_reach .refl _ _⟩) := by
  have scope : BitVec.ofNat 3 f.scope.toNat = f.scope := by simp
  rw [opFenceRel, eval_bind_ok (eval_fenceScope h0 h7 _), eval_whenHolds _ hp, fenceRelease, eval_bind_ok (eval_releaseWait out), scope]
  rfl

variable (w : FMap.wf ctx0 s.ctxs = true)
include w

theorem leads_opFenceAcq : Leads (opFenceAcq (soleAt s l 7) f) ⟨s, .refl⟩ fun _ t =>
    Acquired l (fieldIn s R.CORE_STATUS_SLOT l 0) f.scope.toNat s t :=
  leads_bind_read (eval_fenceScope h0 h7 _) (leads_whenHolds hp (leads_bind_read (eval_acquireWait (storesOutIn_releases out)) (leads_fenceAcquire w)))

/-- What a fence's release and acquire leave together. -/
theorem leads_opFenceAr : Leads (opFenceAr (soleAt s l 7) f) ⟨s, .refl⟩ fun _ t =>
    t = { s with ctxs := t.ctxs, cache := cacheAfter l f.scope.toNat s, regs := t.regs, reqs := disowned l (fieldIn s R.CORE_STATUS_SLOT l 0) s.reqs } ∧
      (fieldIn s R.DEV_MOOD_DEBUG 0 0 = 0 → t.regs = s.regs) ∧
      CtxSet (here s l) (fun c => { c with span := f.scope, seen := [], early := none }) s t := by
  have scope : BitVec.ofNat 3 f.scope.toNat = f.scope := by simp
  refine leads_bind_read (eval_fenceScope h0 h7 _) (leads_whenHolds hp (leads_bind (Q := fun _ t =>
    t = { s with ctxs := t.ctxs } ∧ CtxSet (here s l) (fun c => { c with span := f.scope }) s t) ?_ fun _ u hu => ?_))
  · refine leads_bind_read (eval_releaseWait out) (leads_modCtx ⟨rfl, ctxSet_of_set w ?_⟩)
    rw [apply_ctx_ctxs, scope]
    rfl
  · obtain ⟨rest, spans⟩ := hu
    refine (leads_fenceAcquire spans.wf).mono fun _ t ht => ?_
    obtain ⟨rest', closed, seen⟩ := ht
    have same : cacheAfter l f.scope.toNat u.val = cacheAfter l f.scope.toNat s ∧ u.val.reqs = s.reqs ∧ u.val.regs = s.regs := by
      rw [rest]
      exact ⟨rfl, rfl, rfl⟩
    obtain ⟨cache, reqs, regs⟩ := same
    refine ⟨?_, fun h => (closed (by rw [fieldIn, regs]; exact h)).trans regs, spans.trans seen⟩
    rw [rest']
    show _ = { s with ctxs := t.ctxs, cache := cacheAfter l f.scope.toNat s, regs := t.regs, reqs := _ }
    rw [show cacheAfter (soleAt s l 7).l f.scope.toNat u.val = cacheAfter l f.scope.toNat s from cache, reqs, rest]
    rfl

end

/-- A context that takes a slot waits for nothing. -/
theorem takesSlot_wait (h : takesSlot s l = true) : (FMap.get ctx0 s.ctxs (here s l)).wait = .none := by
  simp only [takesSlot, Bool.and_eq_true, Bool.not_eq_true', decide_eq_true_eq] at h
  exact eq_of_beq h.1.1.1.1.1.2

/-- DMAWAIT on a free channel is an acquire at core scope (R113, R324). -/
theorem leads_opDmawait_free (takes : takesSlot s l = true) (hp : holds s l f.pred f.pneg = true)
    (out : storesOutIn s l (fieldIn s R.CORE_STATUS_SLOT l 0) false = false) (w : FMap.wf ctx0 s.ctxs = true)
    (free : (FMap.get dma0 s.dmas (l * 8 + f.imm.toNat % 8)).state = 0) : Leads (opDmawait (soleAt s l 7) f) ⟨s, .refl⟩ fun _ t =>
      t = { s with ctxs := t.ctxs, cache := s.cache.filter (fun x => x.core != l), reqs := t.reqs } ∧
        FMap.get ctx0 t.ctxs (here s l) = { FMap.get ctx0 s.ctxs (here s l) with early := none } ∧
        ∀ r ∈ t.reqs, r.purpose ≠ .early l (fieldIn s R.CORE_STATUS_SLOT l 0) := by
  have channel : eval (getDma (soleAt s l 7).l (f.imm.toNat % 8)) ⟨s, .refl⟩ = (.ok (FMap.get dma0 s.dmas (l * 8 + f.imm.toNat % 8)), ⟨s, .refl⟩) := rfl
  refine leads_whenHolds hp (leads_bind_read (eval_getCtx _ _ _) (leads_bind_read channel ?_))
  have busy (m : Bool) : (m && (FMap.get dma0 s.dmas (l * 8 + f.imm.toNat % 8)).state == 1) = false := by rw [free]; simp
  have halted (m : Bool) : (m && (FMap.get dma0 s.dmas (l * 8 + f.imm.toNat % 8)).state == 2) = false := by rw [free]; simp
  simp only [busy, halted, if_false, Bool.false_eq_true]
  refine leads_bind (leads_modCtx (Q := fun _ t => t = { s with ctxs := t.ctxs } ∧ CtxSet (here s l) (fun c => { c with wait := .none }) s t)
    ⟨rfl, ctxSet_of_set w rfl⟩) fun _ u hu => ?_
  obtain ⟨rest, waits⟩ := hu
  refine leads_bind_read (eval_acquireWait (storesOutIn_releases ?_)) ((leads_acquireCache waits.wf).mono fun _ t ht => ?_)
  · rw [rest]
    exact out
  · obtain ⟨rest', early⟩ := ht
    have after := (waits.trans early).get (here s l)
    rw [if_pos rfl] at after
    refine ⟨?_, after.trans ?_, ?_⟩
    · rw [rest', rest]
      rfl
    · show ({ FMap.get ctx0 s.ctxs (here s l) with wait := .none, early := .none } : Ctx) = _
      rw [← takesSlot_wait takes]
    · rw [rest']
      exact disowned_purpose

/-- A context that has issued one more CJWAIT of an operation (R398). -/
def issuedCj (id : Nat) (c : Ctx) : Ctx :=
  { c with cjs := c.cjs.filter (fun p => p.1 != id) ++ [(id, ((c.cjs.find? (fun p => p.1 == id)).map (·.2)).getD 0 + 1)] }

theorem issuedCj_find (id : Nat) (c : Ctx) :
    (issuedCj id c).cjs.find? (fun p => p.1 == id) = some (id, ((c.cjs.find? (fun p => p.1 == id)).map (·.2)).getD 0 + 1) := by
  have others : (c.cjs.filter (fun p => p.1 != id)).find? (fun p => p.1 == id) = none := by
    rw [List.find?_eq_none]
    intro p hp
    simpa using (List.mem_filter.1 hp).2
  rw [issuedCj, List.find?_append, others]
  simp

/-- CJWAIT on a barrier that has its result goes on at once, counted (R396, R398). -/
theorem leads_opCjwait_finished {j : Nat} {e : OpEntry} {d : Coll} (hp : holds s l f.pred f.pneg = true)
    (out : storesOutIn s l (fieldIn s R.CORE_STATUS_SLOT l 0) false = false) (w : FMap.wf ctx0 s.ctxs = true)
    (job : (FMap.get ctx0 s.ctxs (here s l)).job = some j) (peers : peersLostIn s (soleAt s l 7) = false)
    (op : eval (readOp j f.id.toNat) ⟨s, .refl⟩ = (.ok (0, some e), ⟨s, .refl⟩)) (barrier : e.kind = 1)
    (coll : s.colls.find? (fun x => x.j == j && x.id == f.id.toNat && x.inst == cjCountIn s l j f.id.toNat) = some d) (finished : d.finished = true) :
    Leads (opCjwait (soleAt s l 7) f) ⟨s, .refl⟩ fun _ t => t = { s with ctxs := t.ctxs, cache := t.cache, regs := t.regs, reqs := t.reqs } ∧
      (FMap.get ctx0 t.ctxs (here s l)).wait = .none ∧
      (FMap.get ctx0 t.ctxs (here s l)).cjs.find? (fun p => p.1 == f.id.toNat) =
        some (f.id.toNat, (((FMap.get ctx0 s.ctxs (here s l)).cjs.find? (fun p => p.1 == f.id.toNat)).map (·.2)).getD 0 + 1) := by
  have own : (FMap.get ctx0 s.ctxs (ctxKey (soleAt s l 7).l (soleAt s l 7).k)).job = some j := job
  refine leads_whenHolds hp (leads_bind_read (eval_getCtx _ _ _) ?_)
  dsimp only
  rw [own]
  refine leads_bind_st ?_
  rw [if_neg (by rw [peers]; decide)]
  refine leads_bind_read (eval_releaseWait out) (leads_bind_read op ?_)
  dsimp only
  rw [if_neg (by decide)]
  refine leads_bind_read (eval_rdS _) ?_
  refine leads_bind_read (a := []) (by rw [readContribution, eval_bind_ok (eval_st _), if_pos (.inl barrier)]; rfl) (leads_bind_st ?_)
  refine leads_bind (leads_modCtx (Q := fun _ t => t = { s with ctxs := t.ctxs } ∧ CtxSet (here s l) (issuedCj f.id.toNat) s t)
    ⟨rfl, ctxSet_of_set w rfl⟩) fun _ u hu => ?_
  obtain ⟨rest, issued⟩ := hu
  have done : eval (contribute (soleAt s l 7).l (soleAt s l 7).k j f.id.toNat (cjCountIn s (soleAt s l 7).l j f.id.toNat) e []) u = (.ok true, u) := by
    have found : eval (getColl j f.id.toNat (cjCountIn s (soleAt s l 7).l j f.id.toNat)) u = (.ok d, u) := by
      have colls : u.val.colls.find? (fun x => x.j == j && x.id == f.id.toNat && x.inst == cjCountIn s (soleAt s l 7).l j f.id.toNat) = some d := by
        rw [rest]
        exact coll
      rw [getColl, eval_bind_ok (eval_st _), colls]
      rfl
    rw [contribute, eval_bind_ok found, finished]
    rfl
  refine leads_bind_read (eval_getCtx _ _ _) (leads_bind_read done ?_)
  rw [if_pos rfl]
  refine leads_bind (leads_modCtx (Q := fun _ t => t = { s with ctxs := t.ctxs } ∧ CtxSet (here s l)
    ((fun x => { x with wait := .none, sentence := (FMap.get ctx0 u.val.ctxs (here s l)).sentence }) ∘ issuedCj f.id.toNat) s t)
    ⟨by rw [rest]; rfl, issued.trans (ctxSet_of_set issued.wf rfl)⟩) fun _ v hv => ?_
  obtain ⟨rest', waits⟩ := hv
  refine (leads_acquireCache waits.wf).mono fun _ t ht => ?_
  obtain ⟨rest'', early⟩ := ht
  have after := (waits.trans early).get (here s l)
  rw [if_pos rfl] at after
  refine ⟨?_, by rw [after]; rfl, by rw [after]; exact issuedCj_find _ _⟩
  rw [rest'', rest']

/-! The barrier (R325). -/

/-- What passing a barrier leaves of a core's context: a release and an acquire at clause scope. -/
structure PassedBarrier (m k : Nat) (s t : State) : Prop where
  rest : t = { s with ctxs := t.ctxs, cache := s.cache.filter (fun x => x.core != m), regs := t.regs, reqs := t.reqs }
  wf : FMap.wf ctx0 t.ctxs = true
  others : ∀ i, i ≠ ctxKey m k → FMap.get ctx0 t.ctxs i = FMap.get ctx0 s.ctxs i
  span : (FMap.get ctx0 t.ctxs (ctxKey m k)).span = 3

/-- The release and the acquire of a core at a barrier. -/
theorem leads_barrierFences {a : At} {g : Good s0} (w : FMap.wf ctx0 g.val.ctxs = true) : Leads (do
      modCtx a.l a.k (fun c => { c with span := 3 })
      fenceAcquire a 3) g fun _ t => PassedBarrier a.l a.k g.val t ∧
    (FMap.get ctx0 t.ctxs (ctxKey a.l a.k)).wait = (FMap.get ctx0 g.val.ctxs (ctxKey a.l a.k)).wait := by
  refine leads_bind (leads_modCtx (Q := fun _ t => t = { g.val with ctxs := t.ctxs } ∧ CtxSet (ctxKey a.l a.k) (fun c => { c with span := 3 }) g.val t)
    ⟨rfl, ctxSet_of_set w rfl⟩) fun _ u hu => ?_
  obtain ⟨rest, spans⟩ := hu
  refine (leads_fenceAcquire spans.wf).mono fun _ t ht => ?_
  obtain ⟨rest', -, seen⟩ := ht
  have get := (spans.trans seen).get
  have cache : cacheAfter a.l 3 u.val = g.val.cache.filter (fun x => x.core != a.l) := by rw [rest]; rfl
  refine ⟨⟨?_, seen.wf, fun i hi => by rw [get, if_neg hi], by rw [get, if_pos rfl]; rfl⟩, by rw [get, if_pos rfl]; rfl⟩
  rw [rest', cache, rest]

/-- A core that waits at a barrier goes on. -/
theorem leads_resumeCtx {m : Nat} {g : Good s0} (w : FMap.wf ctx0 g.val.ctxs = true) : Leads (resumeCtx m k) g fun _ t =>
    t = { g.val with ctxs := t.ctxs, regs := t.regs } ∧
      CtxSet (ctxKey m k) (fun c => { c with wait := .none, sentence := c.sentence.map (fun q => { q with slot := q.slot + 1 }) }) g.val t := by
  refine leads_bind (leads_modCtx (Q := fun _ t => t = { g.val with ctxs := t.ctxs } ∧ CtxSet (ctxKey m k)
    (fun c => { c with wait := .none, sentence := c.sentence.map (fun q => { q with slot := q.slot + 1 }) }) g.val t)
    ⟨rfl, ctxSet_of_set w rfl⟩) fun _ u hu => leads_bind_read (eval_getF _ _ _ _) ?_
  obtain ⟨rest, resumes⟩ := hu
  split
  · refine leads_bind_setF fun v hv => leads_setF ⟨?_, ?_, ?_⟩
    · rw [hv, rest]
      rfl
    · rw [hv]
      exact resumes.wf
    · rw [hv]
      exact resumes.get
  · exact leads_pure ⟨by rw [rest], resumes⟩

/-- While the cores of a clause pass a barrier one after the other. -/
structure AtBarrier (s : State) (l : Nat) (t : State) : Prop where
  rest : t = { s with ctxs := t.ctxs, cache := t.cache, regs := t.regs, reqs := t.reqs }
  wf : FMap.wf ctx0 t.ctxs = true
  cache : ∀ x ∈ t.cache, x ∈ s.cache
  wait : (FMap.get ctx0 t.ctxs (here s l)).wait = .none

/-- A core that has passed. -/
structure Through (s : State) (l m : Nat) (t : State) : Prop where
  wait : (FMap.get ctx0 t.ctxs (ctxKey m (fieldIn s R.CORE_STATUS_SLOT l 0))).wait = .none
  span : (FMap.get ctx0 t.ctxs (ctxKey m (fieldIn s R.CORE_STATUS_SLOT l 0))).span = 3
  cache : ∀ x ∈ t.cache, x.core ≠ m

theorem ctxKey_left {m l k : Nat} (h : ctxKey m k = ctxKey l k) : m = l := by
  simp only [ctxKey] at h
  omega

/-- One core passes. -/
theorem leads_barrierTurn {m n : Nat} {g : Good s0} {others : List Nat} (ne : m ≠ l) (i : AtBarrier s l g.val) : Leads (do
      resumeCtx m (soleAt s l n).k
      modCtx m (soleAt s l n).k (fun c => { c with span := 3 })
      fenceAcquire { soleAt s l n with l := m } 3
      pure (ForInStep.yield PUnit.unit)) g fun r t => r = .yield ⟨⟩ ∧ AtBarrier s l t ∧ Through s l m t ∧
        ∀ b ∈ others, Through s l b g.val → Through s l b t := by
  refine leads_bind (leads_resumeCtx i.wf) fun _ u hu => ?_
  obtain ⟨rest, resumes⟩ := hu
  rw [← bind_assoc]
  refine leads_bind (leads_barrierFences (a := { soleAt s l n with l := m }) resumes.wf) fun _ t ht => leads_pure ?_
  obtain ⟨passed, same⟩ := ht
  have cache : ∀ x ∈ t.val.cache, x ∈ g.val.cache ∧ x.core ≠ m := fun x hx => by
    rw [passed.rest, rest] at hx
    exact ⟨(List.mem_filter.1 hx).1, bne_iff_ne.1 (List.mem_filter.1 hx).2⟩
  have own : Through s l m t.val := by
    refine ⟨same.trans ?_, passed.span, fun x hx => (cache x hx).2⟩
    exact (congrArg Ctx.wait ((resumes.get _).trans (if_pos rfl)))
  have others {b : Nat} (e : b ≠ m) : FMap.get ctx0 t.val.ctxs (ctxKey b (fieldIn s R.CORE_STATUS_SLOT l 0)) =
      FMap.get ctx0 g.val.ctxs (ctxKey b (fieldIn s R.CORE_STATUS_SLOT l 0)) :=
    (passed.others _ fun key => e (ctxKey_left key)).trans ((resumes.get _).trans (if_neg fun key => e (ctxKey_left key)))
  refine ⟨rfl, ⟨?_, passed.wf, fun x hx => i.cache x (cache x hx).1, ?_⟩, own, fun b _ there => ?_⟩
  · rw [passed.rest, rest, i.rest]
  · exact (congrArg Ctx.wait (others ne.symm)).trans i.wait
  · by_cases e : b = m
    · rw [e]
      exact own
    · exact ⟨(congrArg Ctx.wait (others e)).trans there.wait, (congrArg Ctx.span (others e)).trans there.span, fun x hx => there.cache x (cache x hx).1⟩

/-- Every core of the clause passes a barrier that all have reached (R325). -/
theorem leads_opBar {y : Clause} (takes : takesSlot s l = true) (hp : holds s l f.pred f.pneg = true)
    (out : storesOutIn s l (fieldIn s R.CORE_STATUS_SLOT l 0) false = false) (w : FMap.wf ctx0 s.ctxs = true) (clause : clauseOfIn s l = some y)
    (runs : ∀ m ∈ y.cores, cstateIn s m (fieldIn s R.CORE_STATUS_SLOT l 0) ≠ 3 ∧
      (FMap.get ctx0 s.ctxs (ctxKey m (fieldIn s R.CORE_STATUS_SLOT l 0))).stopped = false)
    (waits : ∀ m ∈ y.cores, m ≠ l → (FMap.get ctx0 s.ctxs (ctxKey m (fieldIn s R.CORE_STATUS_SLOT l 0))).wait = .barrier f.id.toNat) :
    Leads (opBar (soleAt s l 7) f) ⟨s, .refl⟩ fun _ t => t = { s with ctxs := t.ctxs, cache := t.cache, regs := t.regs, reqs := t.reqs } ∧
      (∀ m ∈ y.cores, (FMap.get ctx0 t.ctxs (ctxKey m (fieldIn s R.CORE_STATUS_SLOT l 0))).wait = .none ∧
        (FMap.get ctx0 t.ctxs (ctxKey m (fieldIn s R.CORE_STATUS_SLOT l 0))).span = 3) ∧
      ∀ x ∈ t.cache, x.core ∉ y.cores ∧ x ∈ s.cache := by
  have own : clauseOfIn s (soleAt s l 7).l = some y := clause
  have peers : peersLostIn s (soleAt s l 7) = false := by
    rw [peersLostIn, own]
    refine List.any_eq_false.2 fun m hm => ?_
    obtain ⟨alive, going⟩ := runs m hm
    rw [Bool.or_eq_true, not_or]
    exact ⟨fun trapped => alive (of_decide_eq_true trapped), by rw [show (FMap.get ctx0 s.ctxs (ctxKey m (soleAt s l 7).k)).stopped = false from going]; decide⟩
  have reached : ((y.cores.filter (· != (soleAt s l 7).l)).all fun m =>
      (FMap.get ctx0 s.ctxs (ctxKey m (soleAt s l 7).k)).wait == .barrier f.id.toNat) = true := by
    refine List.all_eq_true.2 fun m hm => beq_iff_eq.2 ?_
    obtain ⟨hm, ne⟩ := List.mem_filter.1 hm
    exact waits m hm (bne_iff_ne.1 ne)
  refine leads_whenHolds hp (leads_bind_st ?_)
  rw [if_neg (by rw [peers]; decide)]
  refine leads_bind_read (eval_releaseWait out) ?_
  dsimp only
  rw [own]
  dsimp only
  rw [if_pos reached]
  refine leads_bind (leads_loop (I := AtBarrier s l) (Q := Through s l) (fun m hm g i => leads_barrierTurn (bne_iff_ne.1 (List.mem_filter.1 hm).2) i)
    ⟨rfl, w, fun _ h => h, takesSlot_wait takes⟩) fun _ u hu => ?_
  obtain ⟨i, through⟩ := hu
  refine (leads_barrierFences i.wf).mono fun _ t ht => ?_
  obtain ⟨passed, same⟩ := ht
  have cache : ∀ x ∈ t.cache, x ∈ u.val.cache ∧ x.core ≠ l := fun x hx => by
    rw [passed.rest] at hx
    exact ⟨(List.mem_filter.1 hx).1, bne_iff_ne.1 (List.mem_filter.1 hx).2⟩
  refine ⟨by rw [passed.rest, i.rest], fun m hm => ?_, fun x hx => ⟨fun core => ?_, i.cache x (cache x hx).1⟩⟩
  · by_cases e : m = l
    · rw [e]
      exact ⟨same.trans i.wait, passed.span⟩
    · have there := through m (List.mem_filter.2 ⟨hm, bne_iff_ne.2 e⟩)
      have kept : FMap.get ctx0 t.ctxs (ctxKey m (fieldIn s R.CORE_STATUS_SLOT l 0)) = _ := passed.others _ fun key => e (ctxKey_left key)
      rw [kept]
      exact ⟨there.wait, there.span⟩
  · obtain ⟨before, other⟩ := cache x hx
    exact (through x.core (List.mem_filter.2 ⟨core, bne_iff_ne.2 other⟩)).cache x before rfl

end Sys2Proof.Machine
end

section
/-! OBLIGATION O22. -/

open Sys2Proof Sys2Proof.Machine

/-- Settles O22: with no posted store outstanding no release or acquire waits; an acquire changes one context, the read cache and what was asked for ahead;
and the cores of a clause pass a barrier one after the other, each leaving what it leaves of the others. -/
theorem fencesAndWaits : Obligations.FencesAndWaits := by
  unfold Obligations.FencesAndWaits
  refine ⟨fun s l f takes hp h0 h7 out w => ⟨?_, ?_, ?_⟩, fun s l f takes hp => ?_⟩
  · exact soleSync_ok takes (eval_opFenceRel hp h0 h7 out)
  · obtain ⟨t, runs, acquired⟩ := soleSync_leads (op := 0x09) (g := opFenceAcq) takes (leads_opFenceAcq hp h0 h7 out w)
    exact ⟨t, runs, acquired.rest, acquired.closed, ctxSet_reads acquired.ctxs⟩
  · obtain ⟨t, runs, rest, closed, ctxs⟩ := soleSync_leads (op := 0x0A) (g := opFenceAr) takes (leads_opFenceAr hp h0 h7 out w)
    exact ⟨t, runs, rest, closed, ctxSet_reads ctxs⟩
  · intro k c w out
    refine ⟨fun y clause _ alive waits => ?_, fun j e d job peers op barrier coll finished => ?_, fun n hn free => ?_⟩
    · exact soleSync_leads takes (leads_opBar takes hp out w clause alive waits)
    · obtain ⟨_, op⟩ := eval_of_gives op
      exact soleSync_leads takes (leads_opCjwait_finished hp out w job peers op barrier coll finished)
    · subst hn
      exact soleSync_leads takes (leads_opDmawait_free takes hp out w free)

end

section
/-! SUPPORT. A sentence retires (R100, R101, R119). -/

namespace Sys2Proof.Machine

open Sys2Proof

variable {s0 s t1 : State} {l k q r : Nat} {c : Ctx}

/-- Two fields lie in different registers, or in different bits of one. -/
def Beside (F : Fld) (i j : Nat) (G : Fld) (i' j' : Nat) : Prop :=
  G.addr i' j' ≠ F.addr i j ∨ F.lo + F.width ≤ G.lo ∨ G.lo + G.width ≤ F.lo

theorem fieldIn_withField_beside {F G : Fld} {i j i' j' : Nat} (w : FMap.wf resetValue s.regs = true) (h : F.lo + F.width ≤ 64)
    (ha : Beside F i j G i' j') (v : Nat) : fieldIn (withField s F v i j) G i' j' = fieldIn s G i' j' := by
  by_cases same : G.addr i' j' = F.addr i j
  · rw [fieldIn, fieldIn, withField, same, FMap.get_set w, if_pos rfl, bitsOf_withBits_apart h (ha.resolve_left (absurd same))]
  · exact fieldIn_withField_away same

/-- How far a context has come since its sentence was fetched: what is left of its quota, how many sentences its core has retired, and its own
state. -/
structure Progress (t1 : State) (l k q r : Nat) (c : Ctx) (u : State) : Prop where
  rest : u = { t1 with ctxs := u.ctxs, regs := u.regs }
  regs : FMap.wf resetValue u.regs = true
  ctxs : FMap.wf ctx0 u.ctxs = true
  quota : fieldIn u R.CORE_CTX_QUOTA_LEFT l k = q
  retired : fieldIn u R.CORE_RETIRED_COUNT l 0 = r
  ctx : FMap.get ctx0 u.ctxs (ctxKey l k) = c

/-- A field that is neither the quota nor the count. -/
def Uncounted (l k : Nat) (F : Fld) (i j : Nat) : Prop :=
  F.lo + F.width ≤ 64 ∧ Beside F i j R.CORE_CTX_QUOTA_LEFT l k ∧ Beside F i j R.CORE_RETIRED_COUNT l 0

theorem Progress.field {u : State} {F : Fld} {i j : Nat} (h : Progress t1 l k q r c u) (hF : Uncounted l k F i j) (v : Nat) :
    Progress t1 l k q r c (withField u F v i j) where
  rest := by rw [h.rest]; rfl
  regs := withField_wf h.regs v
  ctxs := h.ctxs
  quota := (fieldIn_withField_beside h.regs hF.1 hF.2.1 v).trans h.quota
  retired := (fieldIn_withField_beside h.regs hF.1 hF.2.2 v).trans h.retired
  ctx := h.ctx

theorem Progress.ofCtx {u : State} {d : Ctx} (h : Progress t1 l k q r c u) : Progress t1 l k q r d ((Eff.ctx (ctxKey l k) d).apply u) where
  rest := by rw [h.rest]; rfl
  regs := h.regs
  ctxs := FMap.set_wf _ _ h.ctxs
  quota := h.quota
  retired := h.retired
  ctx := (FMap.get_set h.ctxs _ _ _).trans (if_pos rfl)

/-- The status of a core, and its halt, are not counted. -/
theorem uncounted_status {F : Fld} (base : F.base = 0x200000) (stride : F.s1 = 0x10000) (fits : F.lo + F.width ≤ 64) : Uncounted l k F l 0 := by
  refine ⟨fits, .inl ?_, .inl ?_⟩
  all_goals
    simp only [Fld.addr, base, stride, R.CORE_CTX_QUOTA_LEFT, R.CORE_RETIRED_COUNT]
    omega

theorem uncounted_halted (hl : l < 144) (hk : k < 16) : Uncounted l k R.SEC_HALT_HALTED l 0 := by
  refine ⟨by decide, .inl ?_, .inl ?_⟩
  all_goals
    simp only [Fld.addr, R.SEC_HALT_HALTED, R.CORE_CTX_QUOTA_LEFT, R.CORE_RETIRED_COUNT]
    omega

theorem uncounted_cstate : Uncounted l k R.CORE_CTX_CSTATE l k := by
  refine ⟨by decide, .inr (.inr (by decide)), .inl ?_⟩
  simp only [Fld.addr, R.CORE_CTX_CSTATE, R.CORE_RETIRED_COUNT]
  omega

theorem Progress.status {u : State} {F : Fld} (h : Progress t1 l k q r c u) (v : Nat) (base : F.base = 0x200000) (stride : F.s1 = 0x10000)
    (fits : F.lo + F.width ≤ 64) : Progress t1 l k q r c (withField u F v l) := h.field (uncounted_status base stride fits) v

/-- The count of a core's retired sentences goes up. -/
theorem Progress.retire {u : State} (h : Progress t1 l k q r c u) :
    Progress t1 l k q ((r + 1) % 2 ^ R.CORE_RETIRED_COUNT.width) c (withField u R.CORE_RETIRED_COUNT (fieldIn u R.CORE_RETIRED_COUNT l 0 + 1) l) where
  rest := by rw [h.rest]; rfl
  regs := withField_wf h.regs _
  ctxs := h.ctxs
  quota := by
    refine (fieldIn_withField_away ?_).trans h.quota
    simp only [Fld.addr, R.CORE_CTX_QUOTA_LEFT, R.CORE_RETIRED_COUNT]
    omega
  retired := by rw [fieldIn_withField_same h.regs (by decide), h.retired]
  ctx := h.ctx

/-- A sentence takes one from the quota. -/
theorem Progress.spend {u : State} (h : Progress t1 l k q r c u) : Progress t1 l k ((q - 1) % 2 ^ R.CORE_CTX_QUOTA_LEFT.width) r c
    (withField u R.CORE_CTX_QUOTA_LEFT (fieldIn u R.CORE_CTX_QUOTA_LEFT l k - 1) l k) where
  rest := by rw [h.rest]; rfl
  regs := withField_wf h.regs _
  ctxs := h.ctxs
  quota := by rw [fieldIn_withField_same h.regs (by decide), h.quota]
  retired := by
    refine (fieldIn_withField_away ?_).trans h.retired
    simp only [Fld.addr, R.CORE_CTX_QUOTA_LEFT, R.CORE_RETIRED_COUNT]
    omega
  ctx := h.ctx

section
variable {g : Good s0} (h : Progress t1 l k q r c g.val)
include h

/-- A core may stop at a boundary; that changes its status only. -/
theorem leads_holdHere : Leads (holdHere l k) g fun _ u => Progress t1 l k q r c u := by
  refine leads_bind_read (eval_getCtx _ _ _) ?_
  split
  · refine leads_bind_read (eval_getF _ _ _ _) (leads_bind_read (a := jobOf g.val _) rfl ?_)
    split
    · exact leads_setF (h.status _ rfl rfl (by decide))
    · exact leads_pure h
  · exact leads_pure h

theorem leads_haltHere (hl : l < 144) (hk : k < 16) : Leads (haltHere l) g fun _ u => Progress t1 l k q r c u := by
  refine leads_bind_st ?_
  split
  · refine leads_bind_setF fun u hu => leads_setF ?_
    rw [hu]
    exact (h.field (uncounted_halted hl hk) _).status _ rfl rfl (by decide)
  · exact leads_pure h

/-- A sentence with no slot present runs through. -/
theorem leads_runSlots_absent {fuel : Nat} {x : Sentence} (hx : c.sentence = some x) (left : x.slot + fuel = 9) (first : 1 ≤ x.slot) (last : x.slot ≤ 8)
    (absent : ∀ n, 1 ≤ n → n ≤ 7 → bitN x.raw.toNat (12 + n) = false) :
    Leads (runSlots l k fuel) g fun b u => b = true ∧ Progress t1 l k q r { c with sentence := some { x with slot := 8 } } u := by
  induction fuel generalizing g x c with
  | zero => omega
  | succ fuel ih =>
    refine leads_bind_read (eval_getCtx _ _ _) ?_
    rw [h.ctx, hx]
    dsimp only
    by_cases done : 8 ≤ x.slot
    · rw [if_pos done]
      have same : ({ c with sentence := some { x with slot := 8 } } : Ctx) = c := by
        rw [show (8 : Nat) = x.slot by omega, ← hx]
      exact leads_pure ⟨rfl, by rw [same]; exact h⟩
    · rw [if_neg done, absent x.slot first (by omega), if_neg Bool.false_ne_true]
      refine leads_bind (Q := fun _ u => Progress t1 l k q r { c with sentence := some { x with slot := x.slot + 1 } } u) (leads_modCtx ?_) fun _ u hu =>
        (ih hu rfl (by dsimp only; omega) (by dsimp only; omega) (by dsimp only; omega) absent).mono fun _ _ e => e
      rw [h.ctx, hx]
      exact h.ofCtx

/-- A context whose sentence has retired. -/
def retiredCtx (x : Sentence) (c : Ctx) : Ctx :=
  { c with sentence := none, wait := .none, saddr := if bitN x.raw.toNat 4 then x.addr else x.next, ended := bitN x.raw.toNat 4 }

/-- A sentence all of whose slots have taken effect retires. -/
theorem leads_finishSentence {x : Sentence} (hl : l < 144) (hk : k < 16) (counted : x.lone = false) (unproved : x.proof = false) :
    Leads (finishSentence l k x) g fun _ u => Progress t1 l k q ((r + 1) % 2 ^ R.CORE_RETIRED_COUNT.width) (retiredCtx x c) u := by
  refine leads_bind_read (eval_getCtx _ _ _) ?_
  rw [h.ctx, counted, unproved]
  refine leads_bind_eff fun u1 e1 => ?_
  have h1 : Progress t1 l k q r (retiredCtx x c) u1.val := by
    rw [e1]
    exact h.ofCtx
  refine leads_when (Q := Progress t1 l k q r (retiredCtx x c)) (fun _ => leads_setF (h1.field uncounted_cstate _)) (fun _ => h1) fun u2 h2 => ?_
  refine leads_bind_st (leads_bind_setF fun u3 e3 => ?_)
  refine leads_bind_setF fun u4 e4 => leads_bind (Q := fun _ u => Progress t1 l k q ((r + 1) % 2 ^ R.CORE_RETIRED_COUNT.width) (retiredCtx x c) u)
    ⟨_, _, eval_countWrap _ _ _ _, ?_⟩ fun _ u5 h5 =>
    leads_bind (leads_holdHere h5) fun _ u6 h6 => leads_haltHere h6 hl hk
  have h4 : Progress t1 l k q r (retiredCtx x c) u4.val := by
    rw [e4, e3]
    exact (h2.status _ rfl rfl (by decide)).status _ rfl rfl (by decide)
  exact h4.retire

/-- A sentence with no slot present and no part in proof-reading retires as soon as it goes. -/
theorem leads_advanceSentence_absent {x : Sentence} (hl : l < 144) (hk : k < 16) (hx : c.sentence = some x) (first : x.slot = 1)
    (absent : ∀ n, 1 ≤ n → n ≤ 7 → bitN x.raw.toNat (12 + n) = false) (counted : x.lone = false) (unproved : x.proof = false) :
    Leads (advanceSentence l k) g fun _ u => Progress t1 l k q ((r + 1) % 2 ^ R.CORE_RETIRED_COUNT.width) (retiredCtx x c) u := by
  refine leads_bind_setF fun u1 e1 => leads_bind_setF fun u2 e2 => ?_
  have h2 : Progress t1 l k q r c u2.val := by
    rw [e2, e1]
    exact (h.status _ rfl rfl (by decide)).status _ rfl rfl (by decide)
  refine leads_bind (leads_runSlots_absent h2 hx (by omega) (by omega) (by omega) absent) fun _ u3 h3 => ?_
  obtain ⟨rfl, h3⟩ := h3
  refine leads_bind_read (eval_getCtx _ _ _) ?_
  rw [h3.ctx]
  exact leads_finishSentence h3 hl hk counted unproved

end

/-- A core that works is one of the module's. -/
theorem worksIn_lt (h : worksIn s l = true) : l < 144 := by
  simp only [worksIn, boundIn, Bool.and_eq_true, decide_eq_true_eq] at h
  exact h.1.1.1

theorem bitN_toNat (x : BitVec 512) (i : Nat) : bitN x.toNat i = x.getLsbD i := by
  rw [bitN, BitVec.getLsbD, Nat.testBit_eq_decide_div_mod_eq]
  rfl

/-- A sentence without the bit of proof-reading is not selected. -/
theorem eval_selectProof_ineligible {raw : BitVec 512} (h : bitN raw.toNat 2 = false) (g : Good s0) :
    eval (selectProof l k raw) g = (.ok false, g) := by
  rw [selectProof, eval_bind_ok (eval_st _), eligibleIn, h]
  rfl

/-- What has been evaluated goes on from where it leads. -/
theorem leads_bind_eval {α β : Type} {m : M s0 α} {f : α → M s0 β} {Q : β → State → Prop} {g u : Good s0} {a : α} (e : eval m g = (.ok a, u))
    (k : Leads (f a) u Q) : Leads (m >>= f) g Q := by
  obtain ⟨b, v, e', h⟩ := k
  exact ⟨b, v, (eval_bind_ok e).trans e', h⟩

theorem eval_modCore (l : Nat) (h : CoreSt → CoreSt) (g : Good s0) : eval (modCore l h) g =
    (.ok (), ⟨(Eff.core l (h (FMap.get core0 g.val.cores l))).apply g.val, g.property.upd _⟩) := rfl

/-- What issuing a sentence that has been fetched leads to. -/
theorem leads_issueNext_absent {raw : BitVec 512} (hl : l < 144) (hk : k < 16) (quota : 0 < fieldIn s R.CORE_CTX_QUOTA_LEFT l k)
    (stays : (FMap.get ctx0 s.ctxs (ctxKey l k)).yielded = false) (runs : haltedIn s l = false) (fetches : gives s (do
      modCore l (fun c => { c with stepping := false })
      modCtx l k (fun c => { c with yielded := false })
      setF R.CORE_STATUS_RUN 1 l
      fetchSentence l k) = (.ok (some raw), t1))
    (h : Progress t1 l k q r c t1) (absent : ∀ n, 1 ≤ n → n ≤ 7 → bitN raw.toNat (12 + n) = false) (ineligible : bitN raw.toNat 2 = false) :
    Leads (issueNext l k) ⟨s, .refl⟩ fun _ u => Progress t1 l k ((q - 1) % 2 ^ R.CORE_CTX_QUOTA_LEFT.width) ((r + 1) % 2 ^ R.CORE_RETIRED_COUNT.width)
      { c with sentence := none, wait := .none, saddr := if bitN raw.toNat 4 then c.saddr else c.saddr + BitVec.ofNat 48 (sentenceSize raw),
               ended := bitN raw.toNat 4, issued := c.issued + 1 } u := by
  have due : ¬ (fieldIn s R.CORE_CTX_QUOTA_LEFT l k = 0 ∨ (FMap.get ctx0 s.ctxs (ctxKey l k)).yielded = true) := by
    rw [stays]
    simp only [Bool.false_eq_true, or_false]
    omega
  rw [issueNext]
  refine leads_bind_st ?_
  dsimp only
  rw [if_neg due]
  obtain ⟨reached, e⟩ := eval_of_gives fetches
  rw [eval_bind_ok (eval_modCore _ _ _), eval_bind_ok (eval_modCtx _ _ _), eval_bind_ok (eval_setF _ _ _ _ _)] at e
  refine leads_bind_eval (eval_modCore _ _ _) (leads_bind_eval (eval_modCtx _ _ _) ?_)
  rw [if_pos (by rw [runs]; rfl)]
  refine leads_bind_eval (eval_setF _ _ _ _ _) (leads_bind_eval e ?_)
  refine leads_bind_read (eval_getCtx _ _ _) (leads_bind_read (eval_selectProof_ineligible ineligible _) (leads_bind_read (eval_getF _ _ _ _) ?_))
  refine leads_bind_setF fun u1 e1 => ?_
  have h1 := h.spend
  rw [← e1] at h1
  refine leads_bind (Q := fun _ v => Progress t1 l k _ r _ v) (leads_modCtx h1.ofCtx) fun _ u2 h2 => ?_
  rw [h1.ctx, h.ctx] at h2
  exact leads_advanceSentence_absent h2 hl hk rfl rfl absent rfl rfl

end Sys2Proof.Machine
end

section
/-! OBLIGATION O25. -/

open Sys2Proof Sys2Proof.Machine

/-- Settles O25: what its context has come to is followed from the fetch on, through the quota, the seven slots that are not present, and the sentence's end;
a halt or a hold at the boundary shows in the core's status only. -/
theorem sentenceRetires : Obligations.SentenceRetires := by
  unfold Obligations.SentenceRetires
  intro s t1 l raw works _ w k c fresh stays power runnable due runs quota fetches ctxs kept absent ineligible w1
  have hl := worksIn_lt works
  have start : Progress t1 l k (fieldIn s R.CORE_CTX_QUOTA_LEFT l k) (fieldIn t1 R.CORE_RETIRED_COUNT l 0) { c with yielded := false } t1 :=
    ⟨rfl, w1, ctxs ▸ FMap.set_wf _ _ w, kept, rfl, by rw [ctxs]; exact (FMap.get_set w _ _ _).trans (if_pos rfl)⟩
  have issues := leads_issueNext_absent hl (fieldIn_lt s R.CORE_STATUS_SLOT l 0) quota stays runs fetches start
    (fun n low high => (bitN_toNat raw _).trans (absent n low high)) ((bitN_toNat raw 2).trans ineligible)
  obtain ⟨t, next, h⟩ := leads_next (m := issueSentence l) (leads_bind_st (by
    dsimp only
    rw [if_pos works, show (FMap.get ctx0 s.ctxs (ctxKey l (fieldIn s R.CORE_STATUS_SLOT l 0))).sentence = none from fresh]
    dsimp only
    rw [if_pos (by rw [power, runnable, due, runs]; simp)]
    exact issues))
  have spent : (fieldIn s R.CORE_CTX_QUOTA_LEFT l k - 1) % 2 ^ R.CORE_CTX_QUOTA_LEFT.width = fieldIn s R.CORE_CTX_QUOTA_LEFT l k - 1 := by
    have := fieldIn_lt s R.CORE_CTX_QUOTA_LEFT l k
    exact Nat.mod_eq_of_lt (by omega)
  have ctx := h.ctx
  simp only [bitN_toNat] at ctx
  refine ⟨t, next, h.rest, ?_, ?_, ?_, h.quota.trans spent, h.retired⟩
  all_goals rw [show FMap.get ctx0 t.ctxs (here s l) = _ from ctx]
  rfl

end

section
/-! SUPPORT. Transfers of the DMA channels (R106, R124). -/

namespace Sys2Proof.Machine

open Sys2Proof

variable {s s0 : State} {l ch : Nat} {f : AddrF}

/-- The channel that a DMA slot starts. -/
def startedDma (s : State) (l : Nat) (f : AddrF) : Dma :=
  { state := 1, slot := fieldIn s R.CORE_STATUS_SLOT l 0, number := (FMap.get core0 s.cores l).transfers + 1
    src := (aOf s l f.ad.toNat).toNat, dst := (aOf s l (f.reg.toNat % 32)).toNat, len := f.offset.toNat
    kind := dmaKind s (aOf s l (f.reg.toNat % 32)).toNat, issue := (FMap.get ctx0 s.ctxs (here s l)).issued }

/-- What the context remembers of it: no wait, and the last transfer of the channel. -/
def noted (s : State) (l : Nat) (f : AddrF) : Ctx :=
  let c := FMap.get ctx0 s.ctxs (here s l)
  { c with wait := .none, lastDma := c.lastDma.filter (fun x => x.1 != f.scope.toNat) ++ [(f.scope.toNat, (FMap.get core0 s.cores l).transfers + 1)] }

theorem noted_ne (s : State) (l : Nat) (f : AddrF) : noted s l f ≠ ctx0 (here s l) := fun e =>
  List.append_ne_nil_of_right_ne_nil _ (List.cons_ne_nil _ _) (congrArg Ctx.lastDma e)

/-- A slot that stands in no sentence has no operation word. -/
theorem eval_opWord_sole {a : At} {g : Good s0} {c : Ctx} (ctx : FMap.get ctx0 g.val.ctxs (ctxKey a.l a.k) = c) (none : c.sentence = none) :
    eval (opWord a) g = (.ok 0xFFFFFFFFFFFFFFFF, g) := by
  rw [opWord, eval_bind_ok (eval_getCtx _ _ _), ctx, none]
  rfl

/-- DMA on a free channel starts its transfer. -/
theorem leads_opDma_free (takes : takesSlot s l = true) (hp : holds s l f.pred f.pneg = true) (low : 8 ≤ f.offset.toInt)
    (words : f.offset.toNat % 8 = 0) (src : (aOf s l f.ad.toNat).toNat < 2 ^ 62) (dst : (aOf s l (f.reg.toNat % 32)).toNat < 2 ^ 62)
    (free : (FMap.get dma0 s.dmas (l * 8 + f.scope.toNat)).state = 0) : Leads (opDma (soleAt s l 3) f) ⟨s, .refl⟩ fun _ t =>
      t = { s with dmas := t.dmas, cores := t.cores, ctxs := t.ctxs } ∧
        t.dmas = FMap.set dma0 s.dmas (l * 8 + f.scope.toNat) (startedDma s l f) ∧
        t.cores = FMap.set core0 s.cores l { FMap.get core0 s.cores l with transfers := (FMap.get core0 s.cores l).transfers + 1 } := by
  have length : dmaLength f = true := by
    rw [dmaLength, words, decide_eq_true low]
    rfl
  have near {a : Nat} (h : a < 2 ^ 62) : eval (need (decide (a < 2 ^ 62)) (.trap Trap.addr 0 a)) (⟨s, .refl⟩ : Good s) = (.ok (), ⟨s, .refl⟩) := by
    rw [decide_eq_true h, eval_need_true]
  refine leads_whenTaken length hp (leads_bind_read (eval_rdA _) (leads_bind_read (eval_rdA _) ?_))
  refine leads_bind_read (near src) (leads_bind_read (near dst) (leads_bind_read (a := FMap.get dma0 s.dmas (l * 8 + f.scope.toNat)) rfl ?_))
  rw [if_neg (not_not.2 free)]
  refine leads_bind_read (eval_getCore _ _) (leads_bind_eval (eval_modCore _ _ _) (leads_bind_eval (eval_modCtx _ _ _) ?_))
  refine leads_bind_st (leads_bind_read (eval_opWord_sole (c := noted s l f) ?_ (takesSlot_sentence takes))
    (leads_bind_read (eval_getCtx _ _ _) (leads_eff ?_)))
  · exact FMap.get_set_self (noted_ne s l f)
  · have issued : FMap.get ctx0 (FMap.set ctx0 s.ctxs (here s l) (noted s l f)) (here s l) = noted s l f := FMap.get_set_self (noted_ne s l f)
    refine ⟨rfl, congrArg (FMap.set dma0 s.dmas _) ?_, rfl⟩
    exact congrArg (fun c : Ctx => { startedDma s l f with issue := c.issued }) issued

/-! The end of a transfer. -/

/-- No change takes the channels out of canonical form. -/
theorem apply_dmas_wf {t : State} {e : Eff} (w : FMap.wf dma0 t.dmas = true) : FMap.wf dma0 (e.apply t).dmas = true := by
  cases e
  case dma => exact FMap.set_wf _ _ w
  case powerOn => rfl
  all_goals exact w

/-- What sending leaves, as a whole. -/
theorem ReachBy.sending_rest {t : State} (h : ReachBy sending s t) : t = { s with lanes := t.lanes, regs := t.regs, out := t.out, fresh := t.fresh } := by
  refine h.keeps (Q := fun t => t = { s with lanes := t.lanes, regs := t.regs, out := t.out, fresh := t.fresh }) (fun e u p q => ?_) rfl
  cases e
  case lane | reg | out | fresh | clearRegs => rw [q]; rfl
  all_goals exact absurd p (by simp [sending, onlyParts])

/-- A transfer whose pieces have been sent and whose writes have all been performed ends: its channel is free, or halted where it has failed. -/
theorem exec_transferComplete {d e : Dma} {Q : State → Prop} (hl : l < 144) (hc : ch < 8) (busy : FMap.get dma0 s.dmas (l * 8 + ch) = d)
    (state : d.state = 1) (kind : d.kind = 0)
    (sends : d.sent = false → Leads (dmaPieces l ch (d.len / 8 + 4)) ⟨s, .refl⟩ fun _ u => FMap.get dma0 u.dmas (l * 8 + ch) = e ∧ Q u)
    (already : d.sent = true → d = e ∧ Q s) (done : e.state = 1 ∧ e.sent = true ∧ e.outstanding = 0 ∧ e.kind = 0) :
    ∃ t u, exec (.dmaTransferComplete l ch) s = .next t ∧ Q u ∧
      ReachBy sending ((Eff.dma (l * 8 + ch) { e with state := if e.failed.isSome then 2 else 0 }).apply u) t := by
  obtain ⟨state', sent, performed, kind'⟩ := done
  suffices h : ∃ t, execDmaTransferComplete l ch s = .next t ∧ ∃ u, Q u ∧
      ReachBy sending ((Eff.dma (l * 8 + ch) { e with state := if e.failed.isSome then 2 else 0 }).apply u) t by
    obtain ⟨t, runs, u, q, r⟩ := h
    exact ⟨t, u, runs, q, r⟩
  refine leads_next (leads_bind_read (a := d) (by rw [← busy]; rfl) ?_)
  rw [if_pos ⟨hl, hc, state⟩, attWrong, if_pos (by rw [kind]; decide)]
  refine leads_when (Q := fun u => FMap.get dma0 u.dmas (l * 8 + ch) = e ∧ Q u) (fun left => sends (by simpa using left)) (fun none => ?_) fun u hu => ?_
  · obtain ⟨same, q⟩ := already (by simpa using none)
    exact ⟨busy.trans same, q⟩
  · obtain ⟨channel, q⟩ := hu
    refine leads_bind_read (a := e) (by rw [← channel]; rfl) (leads_bind_st ?_)
    rw [if_pos ⟨state', sent, performed, by rw [kind']; rfl⟩]
    refine leads_bind_eff fun v hv => (leads_of_ends ends_pumpAll v).mono fun _ t r => ⟨u.val, q, ?_⟩
    rw [← hv]
    exact r

/-- What has run to its end has done so in both its parts. -/
theorem eval_ok_of_bind {α β : Type} {m : M s0 α} {k : α → M s0 β} {g h : Good s0} {b : β} (e : eval (m >>= k) g = (.ok b, h)) :
    ∃ a u, eval m g = (.ok a, u) ∧ eval (k a) u = (.ok b, h) := by
  rw [eval_bind] at e
  split at e
  · exact ⟨_, _, by assumption, e⟩
  · cases e

/-- Where a meaning leads is a state that is reached. -/
theorem Leads.reached {α : Type} {m : M s0 α} {g : Good s0} {Q : α → State → Prop} (h : Leads m g Q) : Leads m g fun a t => Q a t ∧ Reach s0 t := by
  obtain ⟨a, u, e, q⟩ := h
  exact ⟨a, u, e, q, u.property⟩

section
variable {d : Dma} {bs : List Byte} {g1 g2 : Good s} (busy : FMap.get dma0 s.dmas (l * 8 + ch) = d) (start : d.pos = 0) (bytes : blockTransfer d = false)
  (piece : pieceOf d = d.len) (own : d.src / 2 ^ 48 = chipIn s)
  (reads : eval (readPiece l ch (d.src % 2 ^ 48) d.len) ⟨s, .refl⟩ = (.ok (bs, [], none), g1))
  (stores : eval (dmaStore l ch d.dst bs) g1 = (.ok (), g2)) (still : FMap.get dma0 g2.val.dmas (l * 8 + ch) = d)
include busy start bytes piece own reads stores still

/-- The one piece of a transfer within this module's memory: its bytes are read, and written. -/
theorem leads_dmaPiece_whole : Leads (dmaPiece l ch) ⟨s, .refl⟩ fun b u => b = true ∧
    u = (Eff.dma (l * 8 + ch) { d with pos := d.len }).apply g2.val := by
  have src : d.src + d.pos = d.src := by omega
  have dst : d.dst + d.pos = d.dst := by omega
  refine leads_bind_read (a := d) (by rw [← busy]; rfl) ?_
  rw [bytes, piece, src, dst]
  refine leads_bind_read (a := false) rfl ?_
  rw [if_pos (by decide)]
  refine leads_bind_read (eval_localOffset own) (leads_bind_eval (eval_attempt_ok reads) (leads_bind_eval (u := g1) rfl (leads_bind_eval stores ?_)))
  refine leads_bind_read (a := d) (by rw [← still]; rfl) (leads_bind_eff fun u hu => leads_pure ⟨rfl, ?_⟩)
  rw [hu, start, Nat.zero_add]

theorem leads_dmaPieces_whole {n : Nat} (state : d.state = 1) (fails : d.failed = none) (filled : 0 < d.len) :
    Leads (dmaPieces l ch (n + 2)) ⟨s, .refl⟩ fun _ u => FMap.get dma0 u.dmas (l * 8 + ch) = { d with pos := d.len, sent := true } ∧
      u = { g2.val with dmas := u.dmas } := by
  have listed (e : Dma) (m : FMap Dma) (h : e.state = 1) : FMap.get dma0 (FMap.set dma0 m (l * 8 + ch) e) (l * 8 + ch) = e :=
    FMap.get_set_self fun eq => by rw [eq, dma0] at h; cases h
  refine leads_bind_read (a := d) (by rw [← busy]; rfl) ?_
  rw [if_pos ⟨by omega, by rw [fails]; rfl⟩]
  refine leads_bind (leads_dmaPiece_whole busy start bytes piece own reads stores still) fun b u hu => ?_
  obtain ⟨rfl, hu⟩ := hu
  rw [if_pos rfl]
  have moved : FMap.get dma0 u.val.dmas (l * 8 + ch) = { d with pos := d.len } := by
    rw [hu]
    exact listed _ _ state
  refine leads_bind_read (a := { d with pos := d.len }) (by rw [← moved]; rfl) ?_
  rw [if_neg (by simp)]
  refine leads_eff ⟨listed _ _ state, ?_⟩
  rw [hu]
  rfl

end

end Sys2Proof.Machine
end

section
/-! OBLIGATION O15. -/

open Sys2Proof Sys2Proof.Machine

/-- Settles O15: a start writes its channel and what the core and the context note of it; a transfer's end writes its channel, after its pieces, and then
the lanes only send. -/
theorem dmaTransfers : Obligations.DmaTransfers := by
  unfold Obligations.DmaTransfers
  refine ⟨fun s l f takes hp low words src dst free => ?_, fun s l ch hl hc w => ?_⟩
  · exact soleSlot_leads (op := fun a => opDma a f) takes (.inl rfl) (leads_opDma_free takes hp low words src dst free)
  · intro d state kind done
    refine ⟨fun sent => ?_, fun unsent fails start long bytes piece src _ _ _ t2 moves still => ?_⟩
    · obtain ⟨t, u, runs, rfl, r⟩ := exec_transferComplete (Q := fun u => u = s) hl hc rfl state kind
        (fun left => absurd (sent.symm.trans left) (by decide)) (fun _ => ⟨rfl, rfl⟩) ⟨state, sent, done, kind⟩
      have rest := r.sending_rest
      refine ⟨t, runs, ?_, by rw [rest]; rfl⟩
      rw [rest]
      rfl
    · obtain ⟨reached, e⟩ := eval_of_gives moves
      obtain ⟨⟨bs, ev, bad⟩, g1, reads, e⟩ := eval_ok_of_bind e
      obtain ⟨_, g2, stores, e⟩ := eval_ok_of_bind e
      cases e
      have pieces := (leads_dmaPieces_whole rfl start bytes piece src reads stores still (n := d.len / 8 + 2) state fails
        (Nat.lt_of_lt_of_le (by decide) long)).reached
      obtain ⟨t, u, runs, ⟨rest, known⟩, r⟩ := exec_transferComplete (e := { d with pos := d.len, sent := true })
        (Q := fun u => u = { t2 with dmas := u.dmas } ∧ Reach s u) hl hc rfl state kind (fun _ => pieces.mono fun _ _ h => ⟨h.1.1, h.1.2, h.2⟩)
        (fun sent => absurd (sent.symm.trans unsent) (by decide)) ⟨state, rfl, done, kind⟩
      refine ⟨t, runs, r.sending_spad.trans ?_, r.sending_gddr.trans ?_, ?_⟩
      · rw [rest]
        rfl
      · rw [rest]
        rfl
      · rw [r.sending_rest]
        have w' : FMap.wf dma0 u.dmas = true := known.keeps (P := fun t => FMap.wf dma0 t.dmas = true) (fun _ _ => apply_dmas_wf) w
        refine congrArg Dma.state ((FMap.get_set w' _ _ _).trans (if_pos rfl)) |>.trans ?_
        show (if d.failed.isSome then 2 else 0) = 0
        rw [fails]
        rfl

end

section
/-! SUPPORT. Atomics within the module (R106, R309, R310): they touch no context and no request. -/

namespace Sys2Proof.Machine

open Sys2Proof

variable {s s0 : State} {α : Type} {l k : Nat}

/-- What keeps off contexts and requests. -/
abbrev offAhead : Eff → Prop := sparing [.ctxs, .reqs] []

theorem offAhead_of_storing {m : M s0 α} (h : Ends storing m) : Within offAhead m :=
  within_of_ends (ends_mono h (sparing_mono (by decide) (by decide)))
theorem offAhead_of_padding {m : M s0 α} (h : Ends padding m) : Within offAhead m :=
  within_of_ends (ends_mono h (sparing_mono (by decide) (by decide)))

theorem within_portWait {P : Eff → Prop} (o n : Nat) (reads : Bool) : Within P (portWait o n reads : M s0 Unit) :=
  within_bind within_st fun _ => within_need _ _

/-- An atomic on memory writes memory and records only. -/
theorem stored_gdAtomic (hk : k < 32) (block off : Nat) (f : Word → Option Word) :
    Within storing (gdAtomic k block off f : M s0 (Option Word × List Rec)) := by
  refine within_bind (within_getF _ _ _) fun _ => within_ite (within_pure _) (within_bind (within_of_ends (stores_gdRead hk _ _)) ?_)
  rintro ⟨_ | data, evs⟩
  · exact within_bind (within_of_ends (stores_gdStorePoison _)) fun _ => within_pure _
  · dsimp only
    split
    · exact within_pure _
    · exact within_bind (within_of_ends (stores_gdStore hk _ _)) fun _ => within_pure _

theorem stored_gmAtomic (o : Nat) (f : Word → Option Word) : Within storing (gmAtomic o f : M s0 (Nat × Word × List Rec)) := by
  refine within_bind (fun _ => .refl) fun blocks => ?_
  split
  · exact within_pure _
  · rename_i place
    have hk := gddrAt_lt place
    refine within_bind within_st fun s => ?_
    split
    · refine within_bind (stored_gdAtomic hk _ _ _) ?_
      rintro ⟨_ | old, ev⟩ <;> exact within_pure _
    · refine within_bind (within_of_ends (stores_cxRead hk _ _)) fun _ => within_ite (within_pure _) ?_
      dsimp only
      split
      · exact within_pure _
      · exact within_bind (within_of_ends (stores_cxWrite hk _ _ _)) fun _ => within_pure _

theorem offAhead_gmAtomic (o : Nat) (f : Word → Option Word) : Within offAhead (gmAtomic o f : M s0 (Nat × Word × List Rec)) :=
  within_mono (sparing_mono (by decide) (by decide)) (stored_gmAtomic o f)

theorem pads_spAtomic (hl : l < 144) (a : Nat) (f : Word → Option Word) : Ends padding (spAtomic l a f : M s0 (Option Word × List Rec)) := by
  refine ends_bind (pads_gbFlushLine hl _) fun _ => ends_bind (padding_of_banking (banks_spReadWord hl _ _)) ?_
  rintro ⟨_ | old, evs⟩
  · exact ends_bind (padding_of_banking (banks_spPoisonWord _ _)) fun _ => ends_bind (pads_gbUpdate l _ _) fun _ => ends_pure _
  · dsimp only
    split
    · exact ends_pure _
    · exact ends_bind (padding_of_banking (banks_spStoreWord hl _ _)) fun _ => ends_bind (pads_gbUpdate l _ _) fun _ => ends_pure _

/-- The scratchpads of the window are those of the cores. -/
theorem windowOf_scratchpad_lt {o m x : Nat} (h : windowOf o = .scratchpad m x) : m < 144 := by
  unfold windowOf at h
  dsimp only at h
  split_ifs at h with _ _ lt
  cases h
  exact lt

theorem offAhead_modAtomic (o : Nat) (f : Word → Option Word) : Within offAhead (modAtomic o f : M s0 (Nat × Word × List Rec)) := by
  refine within_bind ?_ fun r => within_bind within_st fun t => within_when (offAhead_of_storing (stores_setTags _ _ _)) fun _ => within_pure _
  split
  · exact within_bind (within_portWait _ _ _) fun _ => offAhead_gmAtomic _ _
  · next m x place =>
    have reach : Within offAhead (spReach m : M s0 Bool) :=
      within_bind within_st fun _ => within_ite (within_pure _) (within_ite (within_bind (within_eff rfl) fun _ => within_pure _) (within_pure _))
    refine within_bind reach fun _ => within_ite (within_bind (offAhead_of_padding (pads_spAtomic (windowOf_scratchpad_lt place) _ _)) ?_) (within_pure _)
    rintro ⟨_ | old, ev⟩ <;> exact within_pure _
  · refine within_bind within_st fun u => ?_
    have discards (x : Nat × Word × List Rec) : Within offAhead (do countSat R.KV_CNT1_DISCARDED; return x : M s0 (Nat × Word × List Rec)) :=
      within_bind (within_countSat_clear rfl) fun _ => within_pure _
    split
    · exact discards _
    · split
      · exact within_throw _
      · exact discards _
      · refine within_bind (within_portWait _ _ _) fun _ => within_ite (offAhead_gmAtomic _ _) ?_
        exact within_bind (offAhead_gmAtomic _ _) fun _ => within_when (within_countSat_clear rfl) fun _ => within_pure _
  · exact within_pure _
  · exact within_pure _

theorem within_spServed {P : Eff → Prop} {m : Nat} (h : ∀ v, P (.spctl m v)) (group : Nat) : Within P (spServed m group : M s0 Unit) :=
  within_bind within_st fun _ => within_bind (within_need _ _) fun _ => within_bind (within_getSp _) fun _ =>
    within_ite (within_setSp (h _)) (within_pure _)

theorem offAhead_servedAt (o group : Nat) : Within offAhead (servedAt o group : M s0 Unit) := by
  unfold servedAt
  split
  · exact within_spServed (fun _ => rfl) _
  · exact within_pure _

theorem offAhead_cacheDrop (l o : Nat) : Within offAhead (cacheDrop l o : M s0 Unit) := by
  refine within_bind within_st fun _ => ?_
  split
  · exact within_pure _
  · exact within_eff rfl

theorem offAhead_testTags (a : At) (scope : Nat) (tags : List RelTag) : Within offAhead (testTags a scope tags : M s0 Unit) := by
  refine within_bind (within_of_ends (ends_tagAt _ _)) fun r => ?_
  split
  · exact within_pure _
  · exact within_ite (within_countSat_clear rfl) (within_pure _)

theorem offAhead_localAtomic (a : At) (o op scope : Nat) (x y : Word) : Within offAhead (localAtomic a o op scope x y : M s0 (Nat × Word)) :=
  within_bind within_st fun _ => within_bind (offAhead_cacheDrop _ _) fun _ => within_bind (offAhead_servedAt _ _) fun _ =>
    within_bind (offAhead_modAtomic _ _) fun _ => within_bind (offAhead_of_storing (stores_slotRecs _ _)) fun _ =>
      within_when (offAhead_testTags _ _ _) fun _ => within_pure _

end Sys2Proof.Machine
end

section
/-! SUPPORT. The atomics of the address slot (R106, R309, R310). -/

namespace Sys2Proof.Machine

open Sys2Proof

variable {s s0 : State} {l k n : Nat} {f : AddrF}

theorem min_unsigned (x y : Word) : (if y.ult x then y else x) = BitVec.ofNat 64 (min x.toNat y.toNat) := by
  rw [BitVec.ult, min_def]
  by_cases h : x.toNat ≤ y.toNat
  · simp [h, not_lt.2 h]
  · simp [h, not_le.1 h]

theorem max_unsigned (x y : Word) : (if x.ult y then y else x) = BitVec.ofNat 64 (max x.toNat y.toNat) := by
  rw [BitVec.ult, max_def]
  by_cases h : x.toNat < y.toNat
  · simp [h, h.le]
  · by_cases e : x.toNat = y.toNat
    · simp [BitVec.eq_of_toNat_eq e]
    · simp [h, show ¬ x.toNat ≤ y.toNat by omega]

/-- A context with no word read ahead, and none asked for. -/
structure Unread (l k : Nat) (t : State) : Prop where
  early : (FMap.get ctx0 t.ctxs (ctxKey l k)).early = none
  asked : t.reqs.any (fun r => r.purpose == .early l k) = false

theorem unread_of_nothingAhead (h : nothingAhead s l = true) : Unread l (fieldIn s R.CORE_STATUS_SLOT l 0) s := by
  rw [nothingAhead, Bool.and_eq_true, Bool.not_eq_true'] at h
  exact ⟨Option.isNone_iff_eq_none.1 h.1, h.2⟩

theorem Unread.within {t : State} (h : Unread l k s) (r : ReachBy offAhead s t) : Unread l k t := by
  have reqs : t.reqs = s.reqs := r.same State.reqs fun _ _ p => apply_reqs (sparing_part p (p := .reqs) (by decide) (by decide))
  exact ⟨by rw [r.same_ctxs (by decide)]; exact h.early, by rw [reqs]; exact h.asked⟩

theorem Unread.eval_dropEarlyAt {a : At} {g : Good s0} (h : Unread a.l a.k g.val) (ea n : Nat) : eval (dropEarlyAt a ea n) g = (.ok (), g) := by
  have hit : (g.val.reqs.any fun r => r.purpose == .early a.l a.k && meetsWord g.val ea n (r.chip.toNat * 2 ^ 48 + r.addr)) = false := by
    rw [List.any_eq_false]
    intro r hr both
    exact List.any_eq_false.1 h.asked r hr (Bool.and_eq_true_iff.1 both).1
  rw [dropEarlyAt, eval_bind_ok (eval_st _)]
  dsimp only
  rw [h.early, hit]
  rfl

theorem Unread.eval_dropEarly {g : Good s0} (h : Unread l k g.val) : eval (dropEarly l k) g = (.ok (), g) := by
  rw [dropEarly, eval_bind_ok (eval_getCtx _ _ _), h.early]
  dsimp only [Option.isSome]
  rw [if_neg Bool.false_ne_true]
  rw [eval_bind_ok (eval_st _), h.asked]
  rfl

theorem eval_checkAccess {ea : Nat} (aligned : ea % 8 = 0)
    (own : ∀ x, ownAddrIn s l ea = some x → spanAllowedIn s l (fieldIn s R.CORE_STATUS_SLOT l 0) x 8 = true) :
    eval (checkAccess (soleAt s l n) ea 8 true) ⟨s, .refl⟩ = (.ok (), ⟨s, .refl⟩) := by
  rw [checkAccess, eval_bind, eval_need, if_pos (by rw [aligned]; rfl)]
  dsimp only
  rw [eval_bind_ok (eval_st _)]
  split
  · next x place =>
    exact (eval_need _ _ _).trans (if_pos (own x place))
  · rfl

theorem eval_rdS_at {g : Good s} (same : g.val.sregs = s.sregs) (r : BitVec 6) : eval (rdS (soleAt s l n) r) g = (.ok (sOf s l r.toNat), g) := by
  show (Except.ok (if r.toNat = 0 then 0 else FMap.get zeroWord g.val.sregs (ctxKey l (fieldIn s R.CORE_STATUS_SLOT l 0) * 64 + r.toNat)), g) = _
  rw [same]
  rfl

/-- An atomic slot whose predicate holds, at an aligned word of this module that its context may access, and no release is out that its acquire waits for. -/
structure OnWord (s : State) (l : Nat) (f : AddrF) : Prop where
  takes : takesSlot s l = true
  pred : holds s l f.pred f.pneg = true
  legal : f.scope ≠ 7
  near : eaIn s l f < 2 ^ 62
  aligned : eaIn s l f % 8 = 0
  chip : eaIn s l f / 2 ^ 48 = chipIn s
  own : ∀ x, ownAddrIn s l (eaIn s l f) = some x → spanAllowedIn s l (fieldIn s R.CORE_STATUS_SLOT l 0) x 8 = true
  out : f.scope ≠ 0 → storesOutIn s l (fieldIn s R.CORE_STATUS_SLOT l 0) true = false

/-- The course of an atomic at an address of this module: what was read ahead of the word is dropped, the word's old value is got and its new one left,
an acquire drops what is cached, and the old value goes to s[REG]. -/
theorem leads_opAtomic {op : Nat} {old : Word} {P Q T : State → Prop} (h : OnWord s l f) (pair : op = 2 → f.reg.toNat % 2 = 0)
    (drops : Leads (dropEarlyAt (soleAt s l 3) (eaIn s l f) 8) ⟨s, .refl⟩ fun _ u => P u ∧ u.sregs = s.sregs ∧ u.regs = s.regs)
    (works : ∀ u : Good s, P u.val → Leads (localAtomic (soleAt s l 3) (eaIn s l f % 2 ^ 48) op f.scope.toNat (sOf s l f.reg.toNat)
      (sOf s l (f.reg + 1).toNat)) u fun r t => r = (0, old) ∧ Q t)
    (acquires : f.scope ≠ 0 → ∀ u : Good s, Q u.val → Leads (acquireCache (soleAt s l 3) f.scope.toNat) u fun _ t => T t)
    (relaxed : f.scope = 0 → ∀ u, Q u → T u) :
    Leads (opAtomic op (soleAt s l 3) f) ⟨s, .refl⟩ fun _ t => ∃ u, T u ∧ t = withS (movedOn s l f u) (here s l) f.reg.toNat old := by
  have encoding : (scopeOk f.scope && (op != 2 || f.reg.toNat % 2 == 0)) = true := by
    rw [Bool.and_eq_true, scopeOk, bne_iff_ne]
    refine ⟨h.legal, ?_⟩
    by_cases cas : op = 2
    · simp [cas, pair cas]
    · simp [cas]
  refine leads_whenTaken encoding h.pred (leads_bind_read (eval_eaOf h.near) (leads_bind_read (eval_checkAccess h.aligned h.own) ?_))
  refine leads_when (Q := fun t => t = s) (fun acq => ?_) (fun _ => rfl) fun u hu => ?_
  · exact leads_of_eval (eval_acquireWait (h.out acq)) rfl
  obtain rfl : u = ⟨s, .refl⟩ := Subtype.ext hu
  refine leads_bind drops fun _ u1 h1 => ?_
  obtain ⟨p, sregs, regs⟩ := h1
  refine leads_bind_read (eval_rdS_at sregs _) (leads_bind_read (eval_rdS_at sregs _) ?_)
  refine leads_bind_read (eval_localOffset (by rw [h.chip, chipIn, chipIn, fieldIn, fieldIn, regs])) ?_
  dsimp only
  refine leads_bind (works u1 p) fun r u2 h2 => ?_
  obtain ⟨rfl, q⟩ := h2
  refine leads_bind_read (a := ()) rfl ?_
  refine leads_when (Q := T) (fun acq => acquires acq u2 q) (fun none => relaxed (not_not.1 none) _ q) fun u3 t3 => ?_
  exact leads_bind_eval (eval_setAfter u3) (leads_of_eval (eval_wrS _ _ _) ⟨u3.val, t3, rfl⟩)

/-- An atomic of a context that has read nothing ahead. -/
theorem soleAtomic_given {op code : Nat} {old : Word} {t : State}
    (h : OnWord s l f) (pair : op = 2 → f.reg.toNat % 2 = 0) (ahead : nothingAhead s l = true)
    (works : gives s (localAtomic (soleAt s l 3) (eaIn s l f % 2 ^ 48) op f.scope.toNat (sOf s l f.reg.toNat) (sOf s l ((f.reg + 1).toNat))) =
      (.ok (0, old), t)) :
    soleAddr code (opAtomic op) l f s = .next (withS (movedOn s l f
      (if 2 ≤ f.scope.toNat then { t with cache := t.cache.filter (fun c => c.core != l) } else t)) (here s l) f.reg.toNat old) := by
  obtain ⟨reached, e⟩ := eval_of_gives works
  have start := unread_of_nothingAhead ahead
  have still : Unread l (fieldIn s R.CORE_STATUS_SLOT l 0) t := by
    refine start.within ?_
    have r := offAhead_localAtomic (soleAt s l 3) (eaIn s l f % 2 ^ 48) op f.scope.toNat (sOf s l f.reg.toNat) (sOf s l ((f.reg + 1).toNat)) ⟨s, .refl⟩
    rw [e] at r
    exact r
  obtain ⟨_, v, e', u, rfl, rest⟩ := leads_opAtomic (P := fun u => u = s) (Q := fun u => u = t)
    (T := fun u => u = if 2 ≤ f.scope.toNat then { t with cache := t.cache.filter (fun c => c.core != l) } else t) h pair
    (leads_of_eval (start.eval_dropEarlyAt _ _) ⟨rfl, rfl, rfl⟩)
    (fun u hu => by
      obtain rfl : u = ⟨s, .refl⟩ := Subtype.ext hu
      exact leads_of_eval e ⟨rfl, rfl⟩)
    (fun _ u hu => by
      refine leads_bind_read (Unread.eval_dropEarly (hu ▸ still)) ?_
      split
      · exact leads_bind_st (leads_eff (by rw [hu]; rfl))
      · exact leads_pure hu)
    (fun none u hu => by rw [hu, none]; rfl)
  rw [← rest]
  exact soleAddr_ok (g := opAtomic op) h.takes e'

end Sys2Proof.Machine
end

section
/-! SUPPORT. A word of a scratchpad at its banks (R269 to R271), and an atomic on it (R310). -/

namespace Sys2Proof.Machine

open Sys2Proof

variable {s s0 t u : State} {l m w x : Nat} {v old new : Word} {c : Byte}

/-- What an access tends beside the banks: what is read and asked for ahead, the read cache, who waits at the banks, release tags. -/
abbrev tending : Eff → Prop := onlyParts [.ctxs, .reqs, .cache, .spctls, .relTags]

/-- The same with the banks. -/
abbrev storingWord : Eff → Prop := onlyParts [.ctxs, .reqs, .cache, .spctls, .relTags, .spad]

theorem tends_dropEarlyAt (a : At) (ea n : Nat) : Ends tending (dropEarlyAt a ea n : M s0 Unit) :=
  ends_bind ends_st fun _ => ends_when (ends_eff (by simp [onlyParts])) fun _ => ends_ite (ends_eff (by simp [onlyParts])) (ends_pure _)

theorem tends_acquireCache (a : At) (scope : Nat) : Ends tending (acquireCache a scope : M s0 Unit) :=
  ends_bind (ends_bind (ends_getCtx _ _) fun _ => ends_when (ends_eff (by simp [onlyParts])) fun _ => ends_bind ends_st fun _ =>
    ends_ite (ends_eff (by simp [onlyParts])) (ends_pure _)) fun _ =>
      ends_ite (ends_bind ends_st fun _ => ends_eff (by simp [onlyParts])) (ends_pure _)

theorem tends_cacheDrop (l o : Nat) : Ends tending (cacheDrop l o : M s0 Unit) := by
  refine ends_bind ends_st fun _ => ?_
  split
  · exact ends_pure _
  · exact ends_eff (by simp [onlyParts])

theorem tends_setTags (o n : Nat) (tag : Option RelTag) : Ends tending (setTags o n tag : M s0 Unit) := by
  refine ends_bind ends_st fun _ => ends_ite (ends_pure _) (ends_bind (ends_loop fun w _ _ => ends_bind ends_st fun t => ?_) fun _ => ends_pure _)
  split
  · exact ends_bind (ends_eff (by simp [onlyParts])) fun _ => ends_pure _
  · exact ends_pure _

/-- What a word at the banks reads as. -/
def wordAt (s : State) (l w : Nat) : WordOut :=
  let raw := readCells s.spad (spKey l w) 9
  decodeWord (activationIn s l (w * 8)) (BitVec.ofNat 64 (leNat (raw.take 8))) (raw.getD 8 0)

theorem wordAt_congr (spad : t.spad = s.spad) (stream : t.stream = s.stream) : wordAt t l w = wordAt s l w := by
  simp only [wordAt, activationIn, regionsIn, clauseOfIn, spad, stream]

/-- A word without error reads as it is, and nothing changes. -/
theorem eval_spReadWord_good {g : Good s0} (h : wordAt g.val l w = .good v) : eval (spReadWord l w) g = (.ok (some v, []), g) := by
  have read : eval (getSp l) g = (.ok (FMap.get spctl0 g.val.spctls l), g) := rfl
  rw [spReadWord, eval_bind_ok (eval_st _), eval_bind_ok read]
  dsimp only
  rw [show decodeWord _ _ _ = WordOut.good v from h]
  rfl

theorem gives_spReadWord_good (h : wordAt s l w = .good v) : (gives s (spReadWord l w)).1 = .ok (some v, []) := by
  rw [gives_eq (eval_spReadWord_good (g := ⟨s, .refl⟩) h)]

theorem wordAt_of_reads {g h : Good s0} (e : eval (spReadWord l w) g = (.ok (some v, []), h)) : wordAt g.val l w = .good v := by
  have read : eval (getSp l) g = (.ok (FMap.get spctl0 g.val.spctls l), g) := rfl
  cases found : wordAt g.val l w with
  | good y =>
    rw [eval_spReadWord_good found] at e
    cases e
    rfl
  | fixed y syn =>
    rw [spReadWord, eval_bind_ok (eval_st _), eval_bind_ok read] at e
    dsimp only at e
    rw [show decodeWord _ _ _ = WordOut.fixed y syn from found] at e
    cases e
  | bad syn =>
    rw [spReadWord, eval_bind_ok (eval_st _), eval_bind_ok read] at e
    dsimp only at e
    rw [show decodeWord _ _ _ = WordOut.bad syn from found] at e
    cases h : activationIn g.val l (w * 8)
    all_goals
      rw [h] at e
      cases e

/-! Storing it. -/

theorem FMap.keep_eq_filter {β : Type} (p : Nat → Bool) (m : FMap β) : m.filter (fun x => p x.1) = FMap.keep p m := by
  induction m with
  | nil => rfl
  | cons x m ih => rw [List.filter_cons, FMap.keep, ih]

theorem readCells_eq (m : FMap Byte) (lo n : Nat) : readCells m lo n = (List.range n).map (fun i => FMap.get zeroByte m (lo + i)) := by
  refine List.map_congr_left fun i hi => ?_
  have := List.mem_range.1 hi
  rw [FMap.keep_eq_filter (fun a => decide (lo ≤ a) && decide (a < lo + n)), FMap.get_keep_of_kept m (by simp; omega)]

/-- Where the nine cells of a word lie. -/
theorem spKey_div {i : Nat} (hi : i < 9) : (spKey l w + i) / 9 = l * 2 ^ 21 + w := by
  rw [spKey]
  omega

/-- The cells a word is stored in: its bytes, then its check bits. -/
def cellsOf (v : Word) (c : Byte) : List Byte := leBytes 8 v.toNat ++ [c]

/-- What storing a word leaves. -/
structure Stored (l w : Nat) (v : Word) (c : Byte) (s t : State) : Prop where
  rest : t = { s with spad := t.spad }
  cells : ∀ i < 9, FMap.get zeroByte t.spad (spKey l w + i) = (cellsOf v c).getD i 0
  others : ∀ a, a / 9 ≠ l * 2 ^ 21 + w → FMap.get zeroByte t.spad a = FMap.get zeroByte s.spad a

theorem leads_spPutRaw {g : Good s0} (wf : FMap.wf zeroByte g.val.spad = true) :
    Leads (spPutRaw l w v c) g fun _ t => Stored l w v c g.val t := by
  have length : (leBytes 8 v.toNat).length = 8 := by simp [leBytes]
  refine leads_bind (leads_loop (I := fun t => t = { g.val with spad := t.spad } ∧ FMap.wf zeroByte t.spad = true ∧
      ∀ a, a / 9 ≠ l * 2 ^ 21 + w → FMap.get zeroByte t.spad a = FMap.get zeroByte g.val.spad a)
    (Q := fun p t => FMap.get zeroByte t.spad (spKey l w + p.2) = p.1) (fun p hp u i => ?_) ⟨rfl, wf, fun _ _ => rfl⟩) fun _ u hu => leads_eff ?_
  · obtain ⟨rest, wf', others⟩ := i
    have place := List.mem_zipIdx' hp
    refine leads_bind_eff fun t ht => leads_pure ⟨rfl, ⟨?_, ?_, fun a ha => ?_⟩, ?_, fun b hb known => ?_⟩
    all_goals rw [ht]
    · rw [rest]
      rfl
    · exact FMap.set_wf _ _ wf'
    · refine (FMap.get_set_other _ fun eq => ha ?_).trans (others a ha)
      rw [eq, spKey_div (by omega)]
    · exact (FMap.get_set wf' _ _ _).trans (if_pos rfl)
    · refine (FMap.get_set wf' _ _ _).trans ?_
      split
      · next same =>
        have place' := List.mem_zipIdx' hb
        have index : b.2 = p.2 := by omega
        rw [place.2, place'.2]
        simp only [index]
      · exact known
  · obtain ⟨⟨rest, wf', others⟩, bytes⟩ := hu
    refine ⟨by rw [rest]; rfl, fun i hi => ?_, fun a ha => (FMap.get_set_other _ fun eq => ha ?_).trans (others a ha)⟩
    · by_cases last : i = 8
      · subst last
        refine ((FMap.get_set wf' _ _ _).trans (if_pos rfl)).trans ?_
        simp [cellsOf, leBytes]
      · have inside : i < (leBytes 8 v.toNat).length := by omega
        refine (FMap.get_set_other _ (by omega)).trans ((bytes ((leBytes 8 v.toNat)[i], i) ?_).trans ?_)
        · exact List.mk_mem_zipIdx_iff_getElem?.2 (List.getElem?_eq_getElem inside)
        · rw [cellsOf, List.getD_append _ _ _ _ inside, List.getD_eq_getElem _ _ inside]
    · rw [eq, spKey_div (by decide)]

/-- A word stored with its check bits reads back. -/
theorem Stored.word (h : Stored l w v (checkFor (activationIn s l (w * 8)) v) s t) : wordAt t l w = .good v := by
  have raw : readCells t.spad (spKey l w) 9 = cellsOf v (checkFor (activationIn s l (w * 8)) v) := by
    rw [readCells_eq]
    refine List.ext_getElem (by simp [cellsOf, leBytes]) fun i hi _ => ?_
    rw [List.getElem_map, List.getElem_range, h.cells i (by simpa using hi)]
    exact (List.getElem_eq_getD 0).symm
  have act : activationIn t l (w * 8) = activationIn s l (w * 8) := by rw [h.rest]; rfl
  rw [wordAt, raw, act]
  have bytes : (cellsOf v (checkFor (activationIn s l (w * 8)) v)).take 8 = leBytes 8 v.toNat := List.take_left' (by simp [leBytes])
  have check : (cellsOf v (checkFor (activationIn s l (w * 8)) v)).getD 8 0 = checkFor (activationIn s l (w * 8)) v := by simp [cellsOf, leBytes]
  rw [bytes, check, ofNat_leNat_leBytes, decodeWord, checkFor]
  split <;> simp

/-! An atomic on it. -/

/-- Changes beside the banks and of one word, as which it then reads. -/
structure Worded (l w : Nat) (v : Word) (s t : State) : Prop where
  kept : ReachBy storingWord s t
  word : wordAt t l w = .good v
  others : ∀ a, a / 9 ≠ l * 2 ^ 21 + w → FMap.get zeroByte t.spad a = FMap.get zeroByte s.spad a

/-- What it leaves, as a whole. -/
theorem ReachBy.tending_rest (r : ReachBy tending s t) :
    t = { s with ctxs := t.ctxs, reqs := t.reqs, cache := t.cache, spctls := t.spctls, relTags := t.relTags } := by
  refine r.keeps (Q := fun t => t = { s with ctxs := t.ctxs, reqs := t.reqs, cache := t.cache, spctls := t.spctls, relTags := t.relTags })
    (fun e u p q => ?_) rfl
  cases e
  case ctx | reqs | cache | spctl | relTag => rw [q]; rfl
  all_goals exact absurd p (by simp [onlyParts])

theorem ReachBy.storingWord_rest (r : ReachBy storingWord s t) :
    t = { s with ctxs := t.ctxs, reqs := t.reqs, cache := t.cache, spctls := t.spctls, relTags := t.relTags, spad := t.spad } := by
  refine r.keeps (Q := fun t =>
    t = { s with ctxs := t.ctxs, reqs := t.reqs, cache := t.cache, spctls := t.spctls, relTags := t.relTags, spad := t.spad }) (fun e u p q => ?_) rfl
  cases e
  case ctx | reqs | cache | spctl | relTag | spad | clearSpad => rw [q]; rfl
  all_goals exact absurd p (by simp [onlyParts])

theorem ReachBy.tending_spad (r : ReachBy tending s t) : t.spad = s.spad := by rw [r.tending_rest]
theorem ReachBy.tending_stream (r : ReachBy tending s t) : t.stream = s.stream := by rw [r.tending_rest]
theorem ReachBy.tending_regs (r : ReachBy tending s t) : t.regs = s.regs := by rw [r.tending_rest]

theorem ReachBy.tending_word (r : ReachBy tending s t) : wordAt t l w = wordAt s l w := wordAt_congr r.tending_spad r.tending_stream

theorem tending_storing {s t : State} (r : ReachBy tending s t) : ReachBy storingWord s t := r.mono (onlyParts_mono (by simp))

theorem Worded.tends (h : Worded l w v s t) (r : ReachBy tending t u) : Worded l w v s u :=
  ⟨h.kept.trans (tending_storing r), r.tending_word.trans h.word, fun a ha => by rw [r.tending_spad, h.others a ha]⟩

theorem Worded.after (h : Worded l w v t u) (r : ReachBy tending s t) : Worded l w v s u :=
  ⟨(tending_storing r).trans h.kept, h.word, fun a ha => by rw [h.others a ha, r.tending_spad]⟩

theorem stores_spPutRaw : Ends storingWord (spPutRaw l w v c : M s0 Unit) :=
  ends_bind (ends_each fun _ _ => ends_eff (by simp [onlyParts])) fun _ => ends_eff (by simp [onlyParts])

/-- A word stored with no injection armed. -/
theorem leads_spStoreWord {g : Good s0} (wf : FMap.wf zeroByte g.val.spad = true) (unarmed : fieldIn g.val R.SP_FLIPC_ARMED l 0 = 0) :
    Leads (spStoreWord l w v) g fun _ t => Worded l w v g.val t := by
  refine leads_bind_st (leads_bind_read (eval_isF _ _ _ _) (leads_bind_read (eval_isF _ _ _ _) (leads_bind_read (eval_getF _ _ _ _) ?_)))
  refine leads_bind (Q := fun _ t => t = (Eff.spctl l { FMap.get spctl0 g.val.spctls l with
    writeBack := (FMap.get spctl0 g.val.spctls l).writeBack.filter (fun x => x.1 != w)
    injected := (FMap.get spctl0 g.val.spctls l).injected.filter (· != w) }).apply g.val) ⟨_, _, rfl, rfl⟩ fun _ u hu => ?_
  have touched : ReachBy tending g.val u.val := by
    rw [hu]
    exact ReachBy.refl.upd (by simp [onlyParts])
  rw [unarmed, if_neg (by simp)]
  refine ((leads_spPutRaw (by rw [touched.tending_spad]; exact wf)).and (leads_of_ends stores_spPutRaw u)).mono fun _ t ht => ?_
  obtain ⟨stored, r⟩ := ht
  have act : activationIn g.val l (w * 8) = activationIn u.val l (w * 8) := by
    simp only [activationIn, regionsIn, clauseOfIn, touched.tending_stream]
  rw [act] at stored
  exact (Worded.mk r stored.word stored.others).after touched

section
variable {g : Good s0} (away : (FMap.get core0 g.val.cores m).gather.any (fun e => e.line == x / 1024) = false)
include away

theorem eval_gbFlushLine_away : eval (gbFlushLine m (x / 1024)) g = (.ok (), g) := by
  have none : (FMap.get core0 g.val.cores m).gather.find? (fun e => e.line == x / 1024) = none := by
    rw [List.find?_eq_none]
    exact fun e he => List.any_eq_false.1 away e he
  rw [gbFlushLine, eval_bind_ok (eval_getCore _ _), none]
  rfl

theorem eval_gbUpdate_away (y : Option Word) : eval (gbUpdate m (x / 8) y) g = (.ok (), g) := by
  unfold gbUpdate
  rw [eval_bind_ok (eval_getCore _ _), Nat.div_div_eq_div_mul, away]
  rfl

/-- An atomic on a word that reads without error and that no gather entry holds. -/
theorem leads_spAtomic {f : Word → Option Word} (wf : FMap.wf zeroByte g.val.spad = true) (unarmed : fieldIn g.val R.SP_FLIPC_ARMED m 0 = 0)
    (reads : wordAt g.val m (x / 8) = .good old) :
    Leads (spAtomic m x f) g fun r t => r = (some old, []) ∧ Worded m (x / 8) ((f old).getD old) g.val t := by
  refine leads_bind_read (eval_gbFlushLine_away away) (leads_bind_read (eval_spReadWord_good reads) ?_)
  dsimp only
  cases f old with
  | none => exact leads_pure ⟨rfl, .refl, reads, fun _ _ => rfl⟩
  | some new =>
    refine leads_bind (leads_spStoreWord wf unarmed) fun _ u hu => leads_bind_read (eval_gbUpdate_away ?_ _) (leads_pure ⟨rfl, hu⟩)
    have cores : u.val.cores = g.val.cores := by rw [hu.kept.storingWord_rest]
    rw [cores]
    exact away

end

/-- What an atomic on a word of a scratchpad needs: the scratchpad is reached, no injection is armed, and the word reads without error. -/
structure Sound (m x : Nat) (old : Word) (s : State) : Prop where
  bound : boundIn s m = true
  served : s.rst.fenced.contains (fieldIn s R.CORE_STATUS_PCORE m 0) = false
  unarmed : fieldIn s R.SP_FLIPC_ARMED m 0 = 0
  away : (FMap.get core0 s.cores m).gather.any (fun e => e.line == x / 1024) = false
  wf : FMap.wf zeroByte s.spad = true
  reads : wordAt s m (x / 8) = .good old

theorem Sound.tends (h : Sound m x old s) (r : ReachBy tending s t) : Sound m x old t := by
  have rst : t.rst = s.rst := by rw [r.tending_rest]
  have cores : t.cores = s.cores := by rw [r.tending_rest]
  have field (F : Fld) (i j : Nat) : fieldIn t F i j = fieldIn s F i j := by rw [fieldIn, fieldIn, r.tending_regs]
  exact ⟨by simp only [boundIn, field]; exact h.bound, by rw [rst, field]; exact h.served, by rw [field]; exact h.unarmed, by rw [cores]; exact h.away,
    by rw [r.tending_spad]; exact h.wf, by rw [r.tending_word]; exact h.reads⟩

theorem leads_modAtomic_scratchpad {g : Good s0} {o : Nat} {f : Word → Option Word} (place : windowOf o = .scratchpad m x) (h : Sound m x old g.val) :
    Leads (modAtomic o f) g fun r t => r = (Status.ok, old, []) ∧ Worded m (x / 8) ((f old).getD old) g.val t := by
  have reach : eval (spReach m) g = (.ok true, g) := by
    rw [spReach, eval_bind_ok (eval_st _), h.bound, h.served]
    rfl
  rw [modAtomic, place]
  refine leads_bind (Q := fun r t => r = (Status.ok, old, []) ∧ Worded m (x / 8) ((f old).getD old) g.val t) ?_ fun r u hu => leads_bind_st ?_
  · refine leads_bind_read reach ?_
    rw [if_pos rfl]
    refine leads_bind (leads_spAtomic h.away h.wf h.unarmed h.reads) fun r u hu => ?_
    obtain ⟨rfl, w⟩ := hu
    exact leads_pure ⟨rfl, w⟩
  · obtain ⟨rfl, w⟩ := hu
    exact leads_when (Q := fun t => Worded m (x / 8) ((f old).getD old) g.val t)
      (fun _ => (leads_of_ends (tends_setTags _ _ _) u).mono fun _ _ r => w.tends r) (fun _ => w) fun _ w => leads_pure ⟨rfl, w⟩

/-- An atomic of a core on a word of a scratchpad of this module, with no tags kept. -/
theorem leads_localAtomic_scratchpad {g : Good s0} {o op scope : Nat} {a : At} {y z : Word} (place : windowOf o = .scratchpad m x) (h : Sound m x old g.val)
    (closed : fieldIn g.val R.DEV_MOOD_DEBUG 0 0 = 0) (turn : spTurnIn s0 m (if a.l = m then 1 else 6) = true) :
    Leads (localAtomic a o op scope y z) g fun r t => r = (0, old) ∧ Worded m (x / 8) ((atomicFn op y z old).getD old) g.val t := by
  have group : groupOf (.core a.l) o = if a.l = m then 1 else 6 := by rw [groupOf, place]
  refine leads_bind_st (leads_bind (leads_of_ends (tends_cacheDrop _ _) g) fun _ u1 r1 => ?_)
  have served : Leads (servedAt o (groupOf (.core a.l) o)) u1 fun _ u => ReachBy tending u1.val u := by
    rw [servedAt, place]
    exact (leads_spServed (fun _ => by simp [onlyParts]) (by rw [group]; exact turn)).mono fun _ _ q => q.2
  refine leads_bind served fun _ u2 r2 => ?_
  have before := r1.trans r2
  refine leads_bind (leads_modAtomic_scratchpad place (h.tends before)) fun r u3 h3 => ?_
  obtain ⟨rfl, w⟩ := h3
  have worded := w.after before
  refine leads_bind_read (a := ()) rfl (leads_when (Q := fun t => Worded m (x / 8) ((atomicFn op y z old).getD old) g.val t) (fun _ => ?_) (fun _ => worded)
    fun _ w => leads_pure ⟨rfl, w⟩)
  have closed' : fieldIn u3.val R.DEV_MOOD_DEBUG 0 0 = 0 := by
    rw [worded.kept.storingWord_rest]
    exact closed
  refine (leads_testTags u3).mono fun _ t ht => ?_
  obtain ⟨rest, regs⟩ := ht
  rw [rest, regs closed']
  exact worded

theorem withS_keeps {β : Type} (p : State → β) (h : ∀ t r, p { t with sregs := r } = p t) (key r : Nat) : p (withS t key r v) = p t := by
  unfold withS
  split
  · rfl
  · exact h _ _

theorem withS_sregs_congr (h : t.sregs = u.sregs) (key r : Nat) : (withS t key r v).sregs = (withS u key r v).sregs := by
  unfold withS
  split
  · exact h
  · exact congrArg (FMap.set zeroWord · _ _) h

theorem movedOn_keeps {β : Type} (p : State → β) (h : ∀ t r, p { t with aregs := r } = p t) (f : AddrF) : p (movedOn s l f t) = p t := by
  unfold movedOn
  split
  · exact h _ _
  · rfl

theorem movedOn_aregs_congr (h : t.aregs = u.aregs) (f : AddrF) : (movedOn s l f t).aregs = (movedOn s l f u).aregs := by
  unfold movedOn
  split
  · exact congrArg (FMap.set zeroWord · _ _) h
  · exact h

/-- What an atomic on a word of a scratchpad leaves: the old value in s[REG], the new one in the word, and all else as it was. -/
theorem soleAtomic_scratchpad {f : AddrF} {op code : Nat} {new : Word} (on : OnWord s l f) (pair : op = 2 → f.reg.toNat % 2 = 0)
    (place : windowOf (eaIn s l f % 2 ^ 48) = .scratchpad m x)
    (h : Sound m x old s) (closed : fieldIn s R.DEV_MOOD_DEBUG 0 0 = 0) (turn : spTurnIn s m (if l = m then 1 else 6) = true)
    (value : (atomicFn op (sOf s l f.reg.toNat) (sOf s l (f.reg + 1).toNat) old).getD old = new) :
    ∃ t, soleAddr code (opAtomic op) l f s = .next t ∧
      t.sregs = (withS s (here s l) f.reg.toNat old).sregs ∧ t.aregs = (movedOn s l f s).aregs ∧ t.pregs = s.pregs ∧ t.vregs = s.vregs ∧
      t.regs = s.regs ∧ t.gddr = s.gddr ∧ (gives t (spReadWord m (x / 8))).1 = .ok (some new, []) ∧
      ∀ a, a / 9 ≠ m * 2 ^ 21 + x / 8 → FMap.get zeroByte t.spad a = FMap.get zeroByte s.spad a := by
  subst value
  have works {u : Good s} (r : ReachBy tending s u.val) := leads_localAtomic_scratchpad (op := op) (scope := f.scope.toNat) (a := soleAt s l 3)
    (y := sOf s l f.reg.toNat) (z := sOf s l (f.reg + 1).toNat) place (h.tends r) (by rw [fieldIn, r.tending_regs]; exact closed) turn
  obtain ⟨_, t, e, u, w, rest⟩ := leads_opAtomic (P := ReachBy tending s) (Q := Worded m (x / 8) _ s) (T := Worded m (x / 8) _ s) on pair
    ((leads_of_ends (tends_dropEarlyAt _ _ _) _).mono fun _ u r => ⟨r, by rw [r.tending_rest], r.tending_regs⟩)
    (fun u r => (works r).mono fun _ _ q => ⟨q.1, q.2.after r⟩)
    (fun _ u w => (leads_of_ends (tends_acquireCache _ _) u).mono fun _ _ r => w.tends r) (fun _ _ w => w)
  refine ⟨t.val, soleAddr_ok (g := opAtomic op) on.takes e, ?_⟩
  have leaves := w.kept.storingWord_rest
  have stays {β : Type} (p : State → β) (hs : ∀ t r, p { t with sregs := r } = p t) (ha : ∀ t r, p { t with aregs := r } = p t) : p t.val = p u := by
    rw [rest]
    exact (withS_keeps p hs _ _).trans (movedOn_keeps p ha f)
  have word : wordAt t.val m (x / 8) = .good _ := (wordAt_congr (stays State.spad (fun _ _ => rfl) fun _ _ => rfl)
    (stays State.stream (fun _ _ => rfl) fun _ _ => rfl)).trans w.word
  refine ⟨?_, ?_, ?_, ?_, ?_, ?_, gives_spReadWord_good word, fun a ha => ?_⟩
  · rw [rest]
    exact withS_sregs_congr ((movedOn_keeps State.sregs (fun _ _ => rfl) f).trans (by rw [leaves])) _ _
  · rw [rest]
    exact (withS_keeps State.aregs (fun _ _ => rfl) _ _).trans (movedOn_aregs_congr (by rw [leaves]) f)
  · exact (stays State.pregs (fun _ _ => rfl) fun _ _ => rfl).trans (by rw [leaves])
  · exact (stays State.vregs (fun _ _ => rfl) fun _ _ => rfl).trans (by rw [leaves])
  · exact (stays State.regs (fun _ _ => rfl) fun _ _ => rfl).trans (by rw [leaves])
  · exact (stays State.gddr (fun _ _ => rfl) fun _ _ => rfl).trans (by rw [leaves])
  · rw [stays State.spad (fun _ _ => rfl) fun _ _ => rfl]
    exact w.others a ha

end Sys2Proof.Machine
end

section
/-! OBLIGATION O14. -/

open Sys2Proof Sys2Proof.Machine

/-- Settles O14: an atomic is its address, the word's two values, and the write of its register; where nothing is read ahead an acquire changes the read cache
only; and at the banks of a scratchpad an atomic is a read without error and a store of one word, which reads back. -/
theorem atomicResult : Obligations.AtomicResult := by
  unfold Obligations.AtomicResult
  refine ⟨fun s t l f old takes hp legal hx aligned chip own out ahead => ?_,
    fun s l m x f old takes hp legal hx aligned chip own out place turn bound closed served unarmed away wf _ reads => ?_⟩
  all_goals have on : OnWord s l f := ⟨takes, hp, legal, hx, aligned, chip, own, out⟩
  · have given {op code : Nat} (pair : op = 2 → f.reg.toNat % 2 = 0) := soleAtomic_given (op := op) (code := code) (old := old) (t := t) on pair ahead
    exact ⟨⟨given (by simp), rfl⟩, ⟨given (by simp), rfl⟩, fun even => ⟨given fun _ => even, rfl⟩,
      ⟨given (by simp), congrArg some (min_signed _ _)⟩, ⟨given (by simp), congrArg some (max_signed _ _)⟩,
      ⟨given (by simp), congrArg some (min_unsigned _ _)⟩, ⟨given (by simp), congrArg some (max_unsigned _ _)⟩⟩
  · obtain ⟨_, e⟩ := eval_of_gives reads
    have sound : Sound m x old s := ⟨bound, served, unarmed, away, wf, wordAt_of_reads e⟩
    have leaves {op code : Nat} {new : Word} (pair : op = 2 → f.reg.toNat % 2 = 0)
        (value : (atomicFn op (sOf s l f.reg.toNat) (sOf s l (f.reg + 1).toNat) old).getD old = new) :=
      soleAtomic_scratchpad (code := code) on pair place sound closed turn value
    refine ⟨leaves (by simp) rfl, leaves (by simp) rfl, fun even => leaves (fun _ => even) ?_, leaves (by simp) (min_signed _ _),
      leaves (by simp) (max_signed _ _), leaves (by simp) (min_unsigned _ _), leaves (by simp) (max_unsigned _ _)⟩
    show (if old = _ then some _ else none : Option Word).getD old = _
    split <;> rfl

end

section
/-! SUPPORT. Saving and loading contexts and regions (R121 to R123, R190): the registers of cores and of the array, the contexts and the stream stay. -/

namespace Sys2Proof.Machine

open Sys2Proof

variable {s0 : State} {α : Type} {l : Nat}

/-- The register blocks of the cores, and of their arrays. -/
abbrev coreBlocks : List Nat := [0x02, 0x03, 0x04, 0x05, 0x06, 0x07, 0x08, 0x09, 0x0A, 0x0D]

/-- What merging flags keeps off. -/
abbrev merging : Eff → Prop := sparing [.ctxs, .stream, .sregs, .aregs, .pregs, .vregs, .accs] coreBlocks

/-- What moving contexts and regions in and out keeps off. -/
abbrev moving : Eff → Prop := sparing [.ctxs, .stream] coreBlocks

theorem moving_of_merging {m : M s0 α} (h : Within merging m) : Within moving m := within_mono (sparing_mono (by decide) (by decide)) h
theorem merging_of_storing {m : M s0 α} (h : Within storing m) : Within merging m := within_mono (sparing_mono (by decide) (by decide)) h
theorem moving_of_storing {m : M s0 α} (h : Ends storing m) : Within moving m := moving_of_merging (merging_of_storing (within_of_ends h))
theorem moving_of_padding {m : M s0 α} (h : Ends padding m) : Within moving m :=
  within_mono (sparing_mono (by decide) (by decide)) (within_of_ends h)

/-! Flags (R190). -/

theorem merging_ctxFaultD (l k : Nat) : Within merging (ctxFaultD l k : M s0 Unit) := by
  refine within_bind (within_getCtx _ _) fun c => ?_
  split
  · exact within_bind (within_bind (within_getJob _) fun _ => within_ite (within_eff rfl) (within_pure _)) fun _ => within_modJob fun _ => rfl
  · exact within_pure _

theorem merging_mergeFlags (l k : Nat) : Within merging (mergeFlags l k : M s0 Unit) := by
  refine within_bind (within_getCtx _ _) fun c => within_bind within_st fun t => ?_
  split
  · exact within_pure _
  split
  · exact within_pure _
  dsimp only
  refine within_bind (within_forIn fun u _ => ?_) fun _ => within_pure _
  have done : Within merging (do eff (.flagUpd u.1 {}); pure (ForInStep.yield PUnit.unit) : M s0 (ForInStep PUnit)) :=
    within_bind (within_eff rfl) fun _ => within_pure _
  refine within_bind (within_portWait _ _ _) fun _ => within_bind (merging_of_storing (stored_gmAtomic _ _)) fun _ => ?_
  refine within_bind (merging_of_storing (within_of_ends (stores_setTags _ _ _))) fun _ => ?_
  refine within_bind (merging_of_storing (within_of_ends (stores_recordAll _))) fun _ => within_ite ?_ done
  refine within_bind (within_getF _ _ _) fun _ => within_bind (fun _ => .refl) fun _ => ?_
  exact within_bind (merging_of_storing (within_of_ends (stores_record _))) fun _ => within_bind (merging_ctxFaultD _ _) fun _ => done

/-! Images in memory. -/

theorem moving_rdGddr (o n : Nat) (job : Option Nat) : Within moving (rdGddr o n job : M s0 (Nat × List Byte)) :=
  within_bind (within_portWait _ _ _) fun _ => within_bind (moving_of_storing (stores_gmRead _ _)) fun _ =>
    within_bind (moving_of_storing (stores_recordAll _)) fun _ => within_pure _

theorem moving_recordAll (evs : List Rec) : Within moving (recordAll evs : M s0 Unit) := moving_of_storing (stores_recordAll _)

theorem moving_saveBytes (job : Option Nat) (o : Nat) (bs : List Byte) : Within moving (saveBytes job o bs : M s0 Unit) :=
  within_bind (moving_of_storing (stores_wrGddr _ _ _)) fun _ => within_pure _

theorem moving_loadBytes (job bad : Option Nat) (o n : Nat) : Within moving (loadBytes job bad o n : M s0 (Option Nat × List Byte)) :=
  within_bind (within_forIn fun _ _ => within_bind (moving_rdGddr _ _ _) fun _ => within_ite (within_pure _) (within_pure _)) fun _ => within_pure _

theorem moving_freeBytes (n : Nat) : Within moving (freeBytes n : M s0 (List Byte)) :=
  within_bind (within_forIn fun _ _ => within_bind (within_freeWord rfl) fun _ => within_pure _) fun _ => within_pure _

theorem moving_poisonAt (o : Nat) : Within moving (poisonAt o : M s0 Unit) := by
  refine within_bind (within_portWait _ _ _) fun _ => within_bind within_st fun _ => ?_
  split
  · exact moving_of_storing (stores_gdStorePoison _)
  · exact within_pure _

/-! Regions and the gather buffer. -/

section
variable (hl : l < 144)
include hl

theorem pads_gbFlushAll : Ends padding (gbFlushAll l : M s0 Unit) :=
  ends_bind (ends_getCore _) fun _ => ends_bind (ends_each fun _ _ => pads_gbFlushLine hl _) fun _ => ends_pure _

theorem pads_spRead (a n : Nat) : Ends padding (spRead l a n : M s0 (Option (List Byte) × List Rec)) := by
  refine ends_bind (ends_each fun _ _ => pads_gbFlushLine hl _) fun _ =>
    ends_bind (ends_loop fun i _ x => ends_bind (padding_of_banking (banks_spReadWord hl _ _)) ?_) fun _ => ends_pure _
  rintro ⟨_ | v, ev⟩ <;> exact ends_pure _

theorem banks_gbFill (line : Nat) : Ends banking (gbFill l line : M s0 (GatherEntry × List Rec)) := by
  refine ends_bind (ends_loop fun i _ x => ends_bind (banks_spReadWord hl _ _) ?_) fun _ => ends_pure _
  rintro ⟨_ | v, ev⟩ <;> exact ends_pure _

theorem moving_saveRegion (k : Nat) (r : Region) : Within moving (saveRegion l k r : M s0 Unit) := by
  refine within_bind within_st fun _ => within_bind (within_getCtx _ _) fun _ => within_bind (within_spServed (fun _ => rfl) _) fun _ => ?_
  refine within_bind (within_forIn fun i _ => within_bind (moving_of_padding (pads_spRead hl _ _)) ?_) fun _ => within_modCore fun _ => rfl
  rintro ⟨_ | d, evs⟩
  · exact within_bind (moving_recordAll _) fun _ => within_bind (moving_poisonAt _) fun _ => within_pure _
  · exact within_bind (moving_recordAll _) fun _ => within_bind (moving_saveBytes _ _ _) fun _ => within_pure _

omit hl in
theorem moving_clearSpTags (l w n : Nat) : Within moving (clearSpTags l w n : M s0 Unit) :=
  within_bind within_st fun _ => within_bind (within_forIn fun _ _ => within_ite (within_bind (within_eff rfl) fun _ => within_pure _) (within_pure _))
    fun _ => within_pure _

theorem moving_loadRegion (k : Nat) (r : Region) : Within moving (loadRegion l k r : M s0 (Option Nat)) := by
  refine within_bind (within_getCore _) fun c => within_bind (within_getCtx _ _) fun _ => within_bind (within_spServed (fun _ => rfl) _) fun _ => ?_
  refine within_bind (moving_clearSpTags _ _ _) fun _ => ?_
  dsimp only
  split
  · refine within_bind (within_forIn fun i bad => within_bind (moving_rdGddr _ _ _) fun _ => within_ite ?_ ?_) fun _ =>
      within_bind (within_modCore fun _ => rfl) fun _ => within_pure _
    · have poison {σ : Type} (b : σ) : Within moving (do
          for w in List.range 32 do
            spPoisonWord l (r.base * 8192 + 32 * i + w)
          pure (ForInStep.yield b) : M s0 (ForInStep σ)) :=
        within_bind (within_each fun _ => moving_of_padding (padding_of_banking (banks_spPoisonWord _ _))) fun _ => within_pure _
      exact within_ite (poison _) (poison _)
    · exact within_bind (moving_of_padding (pads_spWrite hl _ _)) fun _ => within_pure _
  · exact within_bind (within_each fun _ => moving_of_padding (padding_of_banking (banks_spStoreWord hl _ _))) fun _ =>
      within_bind (within_modCore fun _ => rfl) fun _ => within_pure _

end

end Sys2Proof.Machine
end

section
/-! SUPPORT. What stands of a core while it switches from one context to another (R120, R121). -/

namespace Sys2Proof.Machine

open Sys2Proof

variable {s s0 t u : State} {α β : Type} {l k n slot w e : Nat} {P Q : Ctx → Prop}

/-- What is watched of a core while it leaves a context: its running slot, its count of switches, the blocks of its array that are enabled, and what
holds of the context. -/
structure Stands (s : State) (l k slot w e : Nat) (P : Ctx → Prop) (t : State) : Prop where
  regs : FMap.wf resetValue t.regs = true
  ctxs : FMap.wf ctx0 t.ctxs = true
  stream : t.stream = s.stream
  slot : fieldIn t R.CORE_STATUS_SLOT l 0 = slot
  switches : fieldIn t R.CORE_SWITCHES_SWITCHES l 0 = w
  enabled : fieldIn t R.MX_STAT_ENABLED l 0 = e
  ctx : P (FMap.get ctx0 t.ctxs (ctxKey l k))

/-- A field that is none of those watched. -/
def Aside (l : Nat) (F : Fld) (i j : Nat) : Prop :=
  F.lo + F.width ≤ 64 ∧ Beside F i j R.CORE_STATUS_SLOT l 0 ∧ Beside F i j R.CORE_SWITCHES_SWITCHES l 0 ∧ Beside F i j R.MX_STAT_ENABLED l 0

/-- A register that holds none of them. -/
def Elsewhere (l off : Nat) : Prop :=
  R.CORE_STATUS_SLOT.addr l 0 ≠ off ∧ R.CORE_SWITCHES_SWITCHES.addr l 0 ≠ off ∧ R.MX_STAT_ENABLED.addr l 0 ≠ off

theorem Aside.of_elsewhere {F : Fld} {i j : Nat} (fits : F.lo + F.width ≤ 64) (h : Elsewhere l (F.addr i j)) : Aside l F i j :=
  ⟨fits, .inl h.1, .inl h.2.1, .inl h.2.2⟩

theorem Stands.moving (hl : l < 144) (h : Stands s l k slot w e P t) (r : ReachBy moving t u) : Stands s l k slot w e P u where
  regs := r.sparing_wf h.regs
  ctxs := by rw [r.same_ctxs (by decide)]; exact h.ctxs
  stream := (r.same_stream (by decide)).trans h.stream
  slot := (r.same_field (List.mem_append_left [0x0D] (coreBlock (k := 0) hl rfl (by decide) (by decide)))).trans h.slot
  switches := (r.same_field (List.mem_append_left [0x0D] (coreBlock (k := 0) hl rfl (by decide) (by decide)))).trans h.switches
  enabled := by
    refine (r.same_field ?_).trans h.enabled
    have place : R.MX_STAT_ENABLED.addr l 0 / 2 ^ 20 = 0x0D := by
      simp only [Fld.addr, R.MX_STAT_ENABLED]
      omega
    rw [place]
    decide
  ctx := by rw [r.same_ctxs (by decide)]; exact h.ctx

theorem Stands.field {F : Fld} {i j : Nat} (h : Stands s l k slot w e P t) (hF : Aside l F i j) (v : Nat) :
    Stands s l k slot w e P (withField t F v i j) :=
  { h with
    regs := withField_wf h.regs v
    slot := (fieldIn_withField_beside h.regs hF.1 hF.2.1 v).trans h.slot
    switches := (fieldIn_withField_beside h.regs hF.1 hF.2.2.1 v).trans h.switches
    enabled := (fieldIn_withField_beside h.regs hF.1 hF.2.2.2 v).trans h.enabled }

theorem Stands.reg {off : Nat} (h : Stands s l k slot w e P t) (ho : Elsewhere l off) (v : Word) : Stands s l k slot w e P ((Eff.reg off v).apply t) := by
  have kept {F : Fld} (ne : F.addr l 0 ≠ off) : fieldIn ((Eff.reg off v).apply t) F l 0 = fieldIn t F l 0 := by
    rw [fieldIn, apply_reg_regs, FMap.get_set_other _ ne]
    rfl
  exact { h with
    regs := FMap.set_wf _ _ h.regs
    slot := (kept ho.1).trans h.slot
    switches := (kept ho.2.1).trans h.switches
    enabled := (kept ho.2.2).trans h.enabled }

/-- A context is set: another one, or that which is left. -/
theorem Stands.other {key : Nat} (h : Stands s l k slot w e P t) (ne : ctxKey l k ≠ key) (c : Ctx) :
    Stands s l k slot w e P ((Eff.ctx key c).apply t) :=
  { h with
    ctxs := FMap.set_wf _ _ h.ctxs
    ctx := by rw [apply_ctx_ctxs, FMap.get_set_other _ ne]; exact h.ctx }

theorem Stands.own {c : Ctx} (h : Stands s l k slot w e P t) (q : Q c) : Stands s l k slot w e Q ((Eff.ctx (ctxKey l k) c).apply t) :=
  { h with
    ctxs := FMap.set_wf _ _ h.ctxs
    ctx := by rw [apply_ctx_ctxs, FMap.get_set h.ctxs, if_pos rfl]; exact q }

/-- The fields watched, set. -/
theorem Stands.setSlot (h : Stands s l k slot w e P t) (hn : n < 16) : Stands s l k n w e P (withField t R.CORE_STATUS_SLOT n l) :=
  { h with
    regs := withField_wf h.regs _
    slot := (fieldIn_withField_same h.regs (by decide) _).trans (Nat.mod_eq_of_lt hn)
    switches := (fieldIn_withField_away (fldAddr_ne (F := R.CORE_SWITCHES_SWITCHES) (G := R.CORE_STATUS_SLOT) rfl (by decide))).trans h.switches
    enabled := (fieldIn_withField_away (by simp only [Fld.addr, R.MX_STAT_ENABLED, R.CORE_STATUS_SLOT]; omega)).trans h.enabled }

theorem Stands.disable (h : Stands s l k slot w e P t) : Stands s l k slot w 0 P (withField t R.MX_STAT_ENABLED 0 l) :=
  { h with
    regs := withField_wf h.regs _
    slot := (fieldIn_withField_away (by simp only [Fld.addr, R.MX_STAT_ENABLED, R.CORE_STATUS_SLOT]; omega)).trans h.slot
    switches := (fieldIn_withField_away (by simp only [Fld.addr, R.MX_STAT_ENABLED, R.CORE_SWITCHES_SWITCHES]; omega)).trans h.switches
    enabled := fieldIn_withField_same h.regs (by decide) 0 }

theorem Stands.count (h : Stands s l k slot w e P t) : Stands s l k slot ((w + 1) % 2 ^ R.CORE_SWITCHES_SWITCHES.width) e P
    (withField t R.CORE_SWITCHES_SWITCHES (fieldIn t R.CORE_SWITCHES_SWITCHES l 0 + 1) l) :=
  { h with
    regs := withField_wf h.regs _
    slot := (fieldIn_withField_away (fldAddr_ne (F := R.CORE_STATUS_SLOT) (G := R.CORE_SWITCHES_SWITCHES) rfl (by decide))).trans h.slot
    switches := by rw [fieldIn_withField_same h.regs (by decide), h.switches]
    enabled := (fieldIn_withField_away (by simp only [Fld.addr, R.MX_STAT_ENABLED, R.CORE_SWITCHES_SWITCHES]; omega)).trans h.enabled }

/-! Fields and registers that are not watched. -/

theorem aside_status {F : Fld} (base : F.base = 0x200000) (stride : F.s1 = 0x10000) (fits : F.lo + F.width ≤ 64)
    (bits : F.lo + F.width ≤ 2 ∨ 6 ≤ F.lo) : Aside l F l 0 := by
  refine ⟨fits, .inr bits, .inl ?_, .inl ?_⟩
  all_goals
    simp only [Fld.addr, base, stride, R.CORE_SWITCHES_SWITCHES, R.MX_STAT_ENABLED]
    omega

theorem aside_array {F : Fld} (base : F.base = 0xD01008) (stride : F.s1 = 0x10) (fits : F.lo + F.width ≤ 64) (bits : 5 ≤ F.lo) : Aside l F l 0 := by
  refine ⟨fits, .inl ?_, .inl ?_, .inr (.inr bits)⟩
  all_goals
    simp only [Fld.addr, base, stride, R.CORE_STATUS_SLOT, R.CORE_SWITCHES_SWITCHES]
    omega

theorem elsewhere_context {F : Fld} (hn : n < 16) (base : F.base = 0x200040) (stride : F.s1 = 0x10000) (step : F.s2 = 8) : Elsewhere l (F.addr l n) := by
  refine ⟨?_, ?_, ?_⟩
  all_goals
    simp only [Fld.addr, base, stride, step, R.CORE_STATUS_SLOT, R.CORE_SWITCHES_SWITCHES, R.MX_STAT_ENABLED]
    omega

theorem elsewhere_trap {F : Fld} (low : 0x200010 ≤ F.base) (high : F.base ≤ 0x200020) (stride : F.s1 = 0x10000) : Elsewhere l (F.addr l 0) := by
  refine ⟨?_, ?_, ?_⟩
  all_goals
    simp only [Fld.addr, stride, R.CORE_STATUS_SLOT, R.CORE_SWITCHES_SWITCHES, R.MX_STAT_ENABLED]
    omega

section
variable (hl : l < 144) (hk : k < 16) (hn : n < 16) (ne : n ≠ k)

theorem stays_setF {F : Fld} {v i j : Nat} (hF : Aside l F i j) : Stays (Stands s l k slot w e P) (setF F v i j : M s0 Unit) := fun _ h => h.field hF v

theorem stays_wrReg {off : Nat} {v : Word} (ho : Elsewhere l off) : Stays (Stands s l k slot w e P) (wrReg off v : M s0 Unit) := fun _ h => h.reg ho v

include hl in
theorem stays_moving {m : M s0 α} (h : Within moving m) : Stays (Stands s l k slot w e P) m := stays_of_within h fun _ _ r i => i.moving hl r

include hk hn ne in
theorem stays_setCtx_other (m : Nat) (c : Ctx) : Stays (Stands s l k slot w e P) (setCtx m n c : M s0 Unit) :=
  fun _ h => h.other (by simp only [ctxKey]; omega) c

include hk hn ne in
theorem stays_modCtx_other (m : Nat) (f : Ctx → Ctx) : Stays (Stands s l k slot w e P) (modCtx m n f : M s0 Unit) :=
  fun _ h => h.other (by simp only [ctxKey]; omega) _

include hk hn ne

theorem stays_stopWaiters : Stays (Stands s l k slot w e P) (stopWaiters l n : M s0 Unit) := by
  have read {m : Nat} : Stays (Stands s l k slot w e P) (getCtx m n : M s0 Ctx) := fun _ h => h
  refine stays_bind_st fun t _ => ?_
  split
  · exact stays_pure _
  refine stays_bind (stays_loop fun m _ _ => stays_bind read fun x => ?_) fun _ => stays_pure _
  split
  · exact stays_bind (stays_setCtx_other hk hn ne _ _) fun _ => stays_pure _
  · exact stays_bind (stays_setCtx_other hk hn ne _ _) fun _ => stays_pure _
  · exact stays_pure _

include hl

/-- A trap of the context that comes in. -/
theorem stays_takeTrap (place cause status detail op : Nat) : Stays (Stands s l k slot w e P) (takeTrap l n place cause status detail op : M s0 Unit) := by
  have read {F : Fld} {i j : Nat} : Stays (Stands s l k slot w e P) (getF F i j : M s0 Nat) := fun _ h => h
  have last (c : Ctx) (r : Nat → Rec) : Stays (Stands s l k slot w e P) (do
      record (r (← pcoreOf l))
      match c.job with
      | some i => if trapClass cause status = 1 then ctxFaultD l n else jobFaultH i 9
      | none => pure ()
      stopWaiters l n : M s0 Unit) := by
    refine stays_bind read fun _ => stays_bind (stays_moving hl (moving_of_storing (stores_record _))) fun _ => ?_
    split
    · exact stays_ite (stays_bind (stays_moving hl (moving_of_merging (merging_ctxFaultD _ _))) fun _ => stays_stopWaiters hk hn ne)
        (stays_bind (stays_moving hl (within_bind (within_getJob _) fun _ => within_ite (within_eff rfl) (within_pure _))) fun _ => stays_stopWaiters hk hn ne)
    · exact stays_stopWaiters hk hn ne
  refine stays_bind (fun _ h => h) fun c => stays_bind_st fun t _ => stays_bind read fun _ => ?_
  refine stays_ite (stays_bind (stays_setF (.of_elsewhere (by decide) (elsewhere_trap (by decide) (by decide) rfl))) fun _ => ?_)
    (stays_bind read fun _ => stays_bind (stays_wrReg (elsewhere_trap (by decide) (by decide) rfl)) fun _ =>
      stays_bind (stays_wrReg (elsewhere_trap (by decide) (by decide) rfl)) fun _ =>
        stays_bind (stays_wrReg (elsewhere_trap (by decide) (by decide) rfl)) fun _ => ?_)
  all_goals
    refine stays_bind (stays_setF (.of_elsewhere (by decide) (elsewhere_context hn rfl rfl rfl))) fun _ => ?_
    refine stays_bind (stays_setCtx_other hk hn ne _ _) fun _ => stays_bind read fun _ => stays_ite ?_ (last c _)
    refine stays_bind (stays_setF (aside_status rfl rfl (by decide) (by decide))) fun _ => ?_
    refine stays_bind (stays_setF (aside_status rfl rfl (by decide) (by decide))) fun _ => ?_
    exact stays_bind (stays_setF (aside_status rfl rfl (by decide) (by decide))) fun _ => last c _

end

end Sys2Proof.Machine
end

section
/-! SUPPORT. A switch from one context to another, step by step (R121). -/

namespace Sys2Proof.Machine

open Sys2Proof

variable {s s0 t : State} {α β : Type} {l k n slot w e : Nat} {P : Ctx → Prop} {m : M s0 α} {f : α → M s0 β} {g : Good s0} {Q Q' : State → Prop}

/-- Where a meaning runs to its end, a statement holds of the state it leaves. -/
def Yields (m : M s0 α) (g : Good s0) (Q : State → Prop) : Prop := ∀ a u, eval m g = (.ok a, u) → Q u.val

theorem yields_bind (h : Yields m g Q') (k : ∀ a u, Q' u.val → Yields (f a) u Q) : Yields (m >>= f) g Q := fun b v e => by
  obtain ⟨a, u, e1, e2⟩ := eval_ok_of_bind e
  exact k a u (h a u e1) b v e2

theorem yields_bind_st {f : State → M s0 β} (h : Yields (f g.val) g Q) : Yields (st >>= f) g Q := h

theorem Lands.yields (h : Lands m g Q) : Yields m g Q := fun a u e => by
  rw [Lands, e] at h
  exact h

theorem Stays.yields {I : State → Prop} (h : Stays I m) (i : I g.val) : Yields m g I := (h g i).yields

theorem Yields.of_gives {m : M s α} {a : α} (h : Yields m ⟨s, .refl⟩ Q) (e : gives s m = (.ok a, t)) : Q t := by
  obtain ⟨_, e⟩ := eval_of_gives e
  exact h _ _ e

/-- What is done for a context that has been saved, and where its image begins. -/
abbrev SavedAt (base : Nat) (c : Ctx) : Prop := c.saved = true ∧ c.savedAt = base

/-- Where a slice begins is the stream's to say. -/
theorem sliceIn_congr (h : t.stream = s.stream) : sliceIn t l k = sliceIn s l k := by
  simp only [sliceIn, quotaRecIn, clauseOfIn, rankIn, privateIn, regionsIn, h]

section
variable (hl : l < 144)
include hl

/-- An image is written to its slice, and the context remembers where. -/
theorem yields_saveImage (h : Stands s l k slot w e P g.val) : Yields (saveImage l k) g (Stands s l k slot w e (SavedAt (sliceIn s l k))) := by
  have here {α : Type} {m : M s0 α} {u : Good s0} (hm : Within moving m) (i : Stands s l k slot w e P u.val) :
      Yields m u (Stands s l k slot w e P) := (stays_moving hl hm).yields i
  have write {v : Option Nat} {o : Nat} {bs : List Byte} : Within moving (saveBytes v o bs : M s0 Unit) := moving_saveBytes _ _ _
  have base : sliceIn g.val l k = sliceIn s l k := sliceIn_congr h.stream
  rw [← base]
  refine yields_bind_st (yields_bind (here (within_getCtx _ _) h) fun c _ h => ?_)
  refine yields_bind (here (within_forIn fun r _ => within_bind (fun _ => .refl) fun _ => within_pure _) h) fun _ _ h => ?_
  refine yields_bind (here (within_forIn fun r _ => within_bind (fun _ => .refl) fun _ => within_pure _) h) fun _ _ h => ?_
  refine yields_bind (here (within_forIn fun r _ => within_bind (fun _ => .refl) fun _ => within_pure _) h) fun _ _ h => yields_bind (here write h) fun _ _ h => ?_
  refine yields_bind (here within_st h) fun _ _ h => yields_bind (here (moving_freeBytes _) h) fun _ _ h => yields_bind (here write h) fun _ _ h => ?_
  refine yields_bind (here (within_forIn fun bank _ => within_bind (within_forIn fun r _ => within_bind (fun _ => .refl) fun _ => within_pure _)
    fun _ => within_pure _) h) fun _ _ h => yields_bind (here write h) fun _ _ h => ?_
  refine yields_bind (here (moving_freeBytes _) h) fun _ _ h => yields_bind (here write h) fun _ _ h => ?_
  refine yields_bind (here (within_getCore _) h) fun _ _ h => yields_bind (here write h) fun _ _ h => ?_
  refine yields_bind (here (within_forIn fun r _ => within_bind (fun _ => .refl) fun _ => within_bind write fun _ => within_pure _) h) fun _ _ h => ?_
  refine yields_bind (here (within_forIn fun bank _ => within_bind (within_forIn fun r _ => within_bind (fun _ => .refl) fun _ => within_bind write fun _ =>
    within_bind (fun _ => .refl) fun _ => within_ite (within_bind write fun _ => within_pure _) (within_pure _)) fun _ => within_pure _) h) fun _ _ h => ?_
  refine yields_bind (here (within_forIn fun t _ => within_bind (fun _ => .refl) fun _ => within_bind (fun _ => .refl) fun _ =>
    within_bind write fun _ => within_pure _) h) fun _ u h => ?_
  exact Lands.yields (show Lands _ u _ from h.own ⟨rfl, rfl⟩)

variable (hk : k < 16) (hn : n < 16) (ne : n ≠ k)
include hk hn ne

omit hl in
theorem stays_restoreControl (d : List Byte) : Stays (Stands s l k slot w e P) (restoreControl l n d : M s0 Unit) :=
  stays_bind (stays_modCtx_other hk hn ne _ _) fun _ => stays_bind (stays_setF (.of_elsewhere (by decide) (elsewhere_context hn rfl rfl rfl))) fun _ =>
    stays_setF (.of_elsewhere (by decide) (elsewhere_context hn rfl rfl rfl))

/-- The image of the context that comes in is read. -/
theorem stays_loadImage : Stays (Stands s l k slot w e P) (loadImage l n : M s0 (List Nat × Option Nat)) := by
  have here {α : Type} {m : M s0 α} (hm : Within moving m) : Stays (Stands s l k slot w e P) m := stays_moving hl hm
  have read {v bad : Option Nat} {o n : Nat} : Within moving (loadBytes v bad o n : M s0 (Option Nat × List Byte)) := moving_loadBytes _ _ _ _
  refine stays_bind (here (within_getCtx _ _)) fun _ => stays_bind (here (within_getCtx _ _)) fun _ => stays_bind (here read) fun x1 => ?_
  refine stays_bind (here (within_each fun r => within_ite (within_pure _) (within_eff rfl))) fun _ => ?_
  refine stays_bind (here (within_each fun r => within_eff rfl)) fun _ => ?_
  refine stays_bind (here (within_each fun r => within_ite (within_pure _) (within_eff rfl))) fun _ => stays_bind (here read) fun xc => ?_
  refine stays_bind (stays_restoreControl hk hn ne _) fun _ => stays_bind (here read) fun x2 => stays_bind (here read) fun xg => ?_
  refine stays_bind (here (within_forIn fun r _ => within_bind read fun _ =>
    within_bind (within_bind (within_each fun _ => within_eff rfl) fun _ => within_pure _) fun _ => within_pure _)) fun _ => ?_
  have row {bank r : Nat} {v : List (BitVec 32)} {β : Type} (b : β) : Within moving (do wrRow l n bank r v; pure (ForInStep.yield b) : M s0 (ForInStep β)) :=
    within_bind (within_bind (within_each fun _ => within_eff rfl) fun _ => within_pure _) fun _ => within_pure _
  refine stays_bind (here (within_forIn fun bank _ => within_bind (within_forIn fun r _ => within_bind (fun _ => .refl) fun _ => within_bind (within_eff rfl)
    fun _ => within_bind read fun _ => within_ite (within_bind read fun _ => row _) (row _)) fun _ => within_pure _)) fun _ => ?_
  refine stays_bind (here (within_forIn fun t _ => within_bind read fun _ => within_bind (within_bind (within_each fun _ => within_eff rfl) fun _ =>
    within_pure _) fun _ => within_bind (within_eff rfl) fun _ => within_pure _)) fun _ => stays_pure _

/-- The context that comes in becomes the running one. -/
theorem lands_bringIn (h : Stands s l k slot w e P g.val) : Lands (bringIn l n) g (Stands s l k n w e P) := by
  have status {F : Fld} {v : Nat} (base : F.base = 0x200000) (stride : F.s1 = 0x10000) (fits : F.lo + F.width ≤ 64)
      (bits : F.lo + F.width ≤ 2 ∨ 6 ≤ F.lo) : Stays (Stands s l k n w e P) (setF F v l : M s0 Unit) := stays_setF (aside_status base stride fits bits)
  have array {F : Fld} {v : Nat} (base : F.base = 0xD01008) (stride : F.s1 = 0x10) (fits : F.lo + F.width ≤ 64) (bits : 5 ≤ F.lo) :
      Stays (Stands s l k n w e P) (setF F v l : M s0 Unit) := stays_setF (aside_array base stride fits bits)
  have context {F : Fld} {v : Nat} (fits : F.lo + F.width ≤ 64) (base : F.base = 0x200040) (stride : F.s1 = 0x10000) (step : F.s2 = 8) :
      Stays (Stands s l k n w e P) (setF F v l n : M s0 Unit) := stays_setF (.of_elsewhere fits (elsewhere_context hn base stride step))
  have quota : Stays (Stands s l k n w e P) (coreQuota l n : M s0 Nat) := by
    refine stays_moving hl (within_bind (within_getCore _) fun _ => ?_)
    split
    · exact within_bind within_st fun _ => within_pure _
    · exact within_bind within_st fun _ => within_bind (within_modCore fun _ => rfl) fun _ => within_bind within_st fun _ => within_pure _
  refine lands_bind_st (lands_bind (show Lands _ _ _ from h.setSlot hn) fun _ u h => ?_)
  refine (?_ : Stays (Stands s l k n w e P) _) u h
  refine stays_bind (status rfl rfl (by decide) (by decide)) fun _ => stays_bind (status rfl rfl (by decide) (by decide)) fun _ => ?_
  refine stays_bind (status rfl rfl (by decide) (by decide)) fun _ => ?_
  split
  on_goal 1 =>
    refine stays_bind (status rfl rfl (by decide) (by decide)) fun _ => stays_bind (array rfl rfl (by decide) (by decide)) fun _ => ?_
  all_goals
    refine stays_bind quota fun _ => stays_bind (context (by decide) rfl rfl rfl) fun _ => stays_bind (fun _ h => h) fun c => ?_
    refine stays_bind (array rfl rfl (by decide) (by decide)) fun _ => stays_bind (array rfl rfl (by decide) (by decide)) fun _ => ?_
    refine stays_when (context (by decide) rfl rfl rfl) fun _ => stays_when (context (by decide) rfl rfl rfl) fun _ => ?_
    exact stays_setCtx_other hk hn ne _ _

/-- The end of a switch: the regions and the gather buffer are filled, the context runs, and the switch is counted. -/
theorem yields_switchEnd {mine : List Region} {lines : List Nat} {failed : Option Nat} (h : Stands s l k slot w e P g.val) :
    Yields (switchEnd l n true mine lines failed) g (Stands s l k n ((w + 1) % 2 ^ R.CORE_SWITCHES_SWITCHES.width) e P) := by
  have here {α : Type} {m : M s0 α} (hm : Within moving m) : Stays (Stands s l k slot w e P) m := stays_moving hl hm
  have gather (v : List GatherEntry) : Within moving (setGather l v : M s0 Unit) := moving_of_padding (pads_setGather l v)
  refine yields_bind (Stays.yields (here (within_forIn fun r bad => within_bind (within_getCore _) fun _ => within_ite ?_ (within_pure _))) h) fun bad _ h => ?_
  · exact within_bind (moving_loadRegion hl _ _) fun _ => within_ite (within_pure _) (within_pure _)
  refine yields_bind ((here (gather _)).yields h) fun _ _ h => ?_
  refine yields_bind (Stays.yields (here (within_forIn fun line _ => within_bind (moving_of_padding (padding_of_banking (banks_gbFill hl _))) fun _ =>
    within_bind (within_getCtx _ _) fun _ => within_bind (moving_recordAll _) fun _ => within_bind (within_getCore _) fun _ =>
      within_bind (gather _) fun _ => within_pure _)) h) fun _ u h => ?_
  refine yields_bind (lands_bringIn hl hk hn ne h).yields fun _ u h => ?_
  refine yields_bind (Q' := Stands s l k n ((w + 1) % 2 ^ R.CORE_SWITCHES_SWITCHES.width) e P) (Lands.yields (show Lands _ _ _ from h.count)) fun _ u h => ?_
  refine Stays.yields ?_ h
  split
  · exact stays_bind (fun _ h => h) fun _ => stays_takeTrap hl hk hn ne _ _ _ _ _
  · exact stays_pure _

/-- What is done for the context that comes in. -/
theorem yields_switchIn (h : Stands s l k slot w e P g.val) :
    Yields (switchIn l n true) g (Stands s l k n ((w + 1) % 2 ^ R.CORE_SWITCHES_SWITCHES.width) e P) := by
  have here {α : Type} {m : M s0 α} (hm : Within moving m) : Stays (Stands s l k slot w e P) m := stays_moving hl hm
  refine yields_bind ((here (within_modCore fun _ => rfl)).yields h) fun _ _ h => yields_bind_st (yields_bind ((here (within_getCore _)).yields h) fun _ _ h => ?_)
  refine yields_bind (Stays.yields (here (within_forIn fun q _ => within_ite (within_bind within_st fun _ => ?_) (within_pure _))) h) fun _ _ h => ?_
  · split
    · exact within_ite (within_bind (moving_saveRegion hl _ _) fun _ => within_pure _) (within_pure _)
    · exact within_pure _
  refine yields_bind ((here (within_getCtx _ _)).yields h) fun c _ h => ?_
  split
  · exact yields_bind ((stays_loadImage hl hk hn ne).yields h) fun _ _ h => yields_switchEnd hl hk hn ne h
  · exact yields_switchEnd hl hk hn ne h

/-- A switch leaves the outgoing context saved in its slice, the array ramped down, and the incoming one running. -/
theorem yields_switchTo (h : Stands s l k slot w e P g.val) : Yields (switchTo l (some k) n) g
    (Stands s l k n ((w + 1) % 2 ^ R.CORE_SWITCHES_SWITCHES.width) 0 (SavedAt (sliceIn s l k))) := by
  rw [switchTo_some]
  refine yields_bind ((stays_moving hl (moving_of_merging (merging_mergeFlags _ _))).yields h) fun _ _ h => ?_
  refine yields_bind ((stays_moving hl (moving_of_padding (pads_gbFlushAll hl))).yields h) fun _ _ h => ?_
  refine yields_bind (Q' := Stands s l k slot w 0 P) (Lands.yields (show Lands _ _ _ from h.disable)) fun _ _ h => ?_
  refine yields_bind ((stays_setF (aside_array rfl rfl (by decide) (by decide))).yields h) fun _ _ h => ?_
  refine yields_bind ((stays_moving hl (within_modCore fun _ => rfl)).yields h) fun _ _ h => ?_
  refine yields_bind (yields_saveImage hl h) fun _ u h => yields_bind (Q' := Stands s l k slot w 0 (SavedAt (sliceIn s l k)))
    (Lands.yields (show Lands _ _ _ from h.own ?_)) fun _ _ h => yields_switchIn hl hk hn ne h
  exact h.ctx

end

end Sys2Proof.Machine
end

section
/-! SUPPORT. The end of a context's part of a tense (R100, R124, R128, R190). -/

namespace Sys2Proof.Machine

open Sys2Proof

variable {s t : State} {l k n : Nat}

/-- Another context to switch to is one of the sixteen, and not the running one. -/
theorem otherIn_some (h : otherIn s l k = some n) : n < 16 ∧ n ≠ k := by
  rw [otherIn, Option.filter_eq_some_iff] at h
  obtain ⟨next, other⟩ := h
  obtain ⟨i, -, rfl⟩ := List.mem_map.1 (List.mem_of_find?_eq_some next)
  exact ⟨Nat.mod_lt _ (by decide), bne_iff_ne.1 other⟩

/-- CONTEXT_SWITCH at a boundary where a switch is due switches. -/
theorem exec_contextSwitch {g : Good s} (works : worksIn s l = true) (boundary : (FMap.get ctx0 s.ctxs (here s l)).sentence = none)
    (due : switchDueIn s l (fieldIn s R.CORE_STATUS_SLOT l 0) = true) (quiet : attRunsIn s l (fieldIn s R.CORE_STATUS_SLOT l 0) = false)
    (runs : haltedIn s l = false) (other : otherIn s l (fieldIn s R.CORE_STATUS_SLOT l 0) = some n)
    (e : eval (switchTo l (some (fieldIn s R.CORE_STATUS_SLOT l 0)) n) ⟨s, .refl⟩ = (.ok (), g)) : exec (.contextSwitch l) s = .next g.val := by
  refine congrArg Host.Outcome.next (run_of_ok (u := ()) ?_)
  dsimp only
  rw [if_pos ⟨works, Option.isNone_iff_eq_none.2 boundary, due, by simp [quiet], .inl (by simp [runs])⟩, other]
  exact e

/-- A context's part is done: it reads finished and no more at its end, and registers and accumulators are as they were. -/
structure PartDone (l k : Nat) (s t : State) : Prop where
  regs : FMap.wf resetValue t.regs = true
  finished : fieldIn t R.CORE_CTX_CSTATE l k = 2
  ended : (FMap.get ctx0 t.ctxs (ctxKey l k)).ended = false
  slot : fieldIn t R.CORE_STATUS_SLOT l 0 = fieldIn s R.CORE_STATUS_SLOT l 0
  sregs : t.sregs = s.sregs
  aregs : t.aregs = s.aregs
  vregs : t.vregs = s.vregs
  accs : t.accs = s.accs

theorem PartDone.status {F : Fld} (h : PartDone l k s t) (base : F.base = 0x200000) (stride : F.s1 = 0x10000) (flat : F.s2 = 0) (fits : F.lo + F.width ≤ 64)
    (bits : F.lo + F.width ≤ 2 ∨ 6 ≤ F.lo) (v : Nat) : PartDone l k s (withField t F v l) :=
  { h with
    regs := withField_wf h.regs v
    finished := by
      refine (fieldIn_withField_away ?_).trans h.finished
      simp only [Fld.addr, base, stride, flat, R.CORE_CTX_CSTATE]
      omega
    slot := (fieldIn_withField_beside h.regs fits (.inr bits) v).trans h.slot }

theorem partDone_of_merged {u : State} (hl : l < 144) (regs : FMap.wf resetValue s.regs = true) (ctxs : FMap.wf ctx0 s.ctxs = true)
    (r : ReachBy merging s u) (d : Ctx) (ended : d.ended = false) :
    PartDone l k s ((Eff.ctx (ctxKey l k) d).apply (withField u R.CORE_CTX_CSTATE 2 l k)) where
  regs := withField_wf (r.sparing_wf regs) _
  finished := fieldIn_withField_same (r.sparing_wf regs) (by decide) 2
  ended := by
    have w : FMap.wf ctx0 u.ctxs = true := by rw [r.same_ctxs (by decide)]; exact ctxs
    exact (congrArg Ctx.ended ((FMap.get_set w _ d _).trans (if_pos rfl))).trans ended
  slot := by
    refine (fieldIn_withField_away ?_).trans (r.same_field (List.mem_append_left [0x0D] (coreBlock (k := 0) hl rfl (by decide) (by decide))))
    simp only [Fld.addr, R.CORE_STATUS_SLOT, R.CORE_CTX_CSTATE]
    omega
  sregs := r.same_sregs (by decide)
  aregs := r.same_aregs (by decide)
  vregs := r.same_vregs (by decide)
  accs := r.same State.accs fun _ _ p => apply_accs (sparing_part p (p := .accs) (by decide) (by decide))

/-- What CONTEXT_DONE leaves of a context at its end none of whose channels has halted. -/
theorem exec_contextDone {u : Good s} (hl : l < 144) (regs : FMap.wf resetValue s.regs = true) (ctxs : FMap.wf ctx0 s.ctxs = true)
    (found : (List.range 16).find? (fun k => (FMap.get ctx0 s.ctxs (ctxKey l k)).ended && channelsDoneIn s l k) = some k)
    (sound : haltedChannelIn s l k = none) (merges : eval (mergeFlags l k) ⟨s, .refl⟩ = (.ok (), u)) :
    ∃ t, exec (.contextDone l) s = .next t ∧ PartDone l k s t ∧
      (fieldIn s R.CORE_STATUS_SLOT l 0 = k → otherIn t l k = none → haltedIn s l = false → fieldIn t R.CORE_STATUS_RUN l 0 = 0) := by
  have merged : ReachBy merging s u.val := by
    have r := merging_mergeFlags l k (⟨s, .refl⟩ : Good s)
    rw [merges] at r
    exact r
  refine leads_next ?_
  rw [found]
  dsimp only
  rw [sound]
  refine leads_bind_eval merges (leads_bind_setF fun u1 e1 => leads_bind (leads_modCtx (Q := fun _ t => PartDone l k s t) ?_) fun _ u2 h2 => ?_)
  · rw [e1]
    exact partDone_of_merged hl regs ctxs merged _ rfl
  refine leads_bind_read (eval_getF _ _ _ _) (leads_when (Q := PartDone l k s) (fun _ => leads_setF ?_) (fun _ => h2) fun u3 h3 => ?_)
  · exact h2.status rfl rfl rfl (by decide) (by decide) 0
  refine leads_bind_read (eval_getF _ _ _ _) (leads_bind_st ?_)
  by_cases idle : fieldIn u3.val R.CORE_STATUS_SLOT l 0 = k ∧ (otherIn u3.val l k).isNone = true
  · rw [if_pos idle]
    by_cases halted : haltedIn s l = true
    · rw [if_neg (by simp [halted])]
      exact leads_pure ⟨h3, fun _ _ going => absurd (going.symm.trans halted) (by decide)⟩
    · rw [if_pos (by simpa using halted)]
      refine leads_setF ⟨h3.status rfl rfl rfl (by decide) (by decide) 0, fun _ _ _ => ?_⟩
      exact fieldIn_withField_same h3.regs (by decide) 0
  · rw [if_neg idle]
    exact leads_pure ⟨h3, fun runs none _ => absurd ⟨h3.slot.trans runs, Option.isNone_iff_eq_none.2 none⟩ idle⟩

end Sys2Proof.Machine
end

section
/-! OBLIGATION O26. -/

open Sys2Proof Sys2Proof.Machine

/-- Settles O26: what is watched of the core is followed through the switch, from the outgoing context's flags to the incoming one's first trap; and the end of
a context's part sets its state, and its core's status, after merging its flags. -/
theorem contextsSwitchAndEnd : Obligations.ContextsSwitchAndEnd := by
  unfold Obligations.ContextsSwitchAndEnd
  refine ⟨fun s l n works regs ctxs => ?_, fun s l k hl regs ctxs found sound merges => ?_⟩
  · intro k boundary due quiet runs other t switches
    obtain ⟨hn, ne⟩ := otherIn_some other
    have start : Stands s l k k (fieldIn s R.CORE_SWITCHES_SWITCHES l 0) (fieldIn s R.MX_STAT_ENABLED l 0) (fun _ => True) s :=
      ⟨regs, ctxs, rfl, rfl, rfl, rfl, trivial⟩
    have h := (yields_switchTo (worksIn_lt works) (fieldIn_lt s R.CORE_STATUS_SLOT l 0) hn ne (g := ⟨s, .refl⟩) start).of_gives switches
    refine ⟨?_, h.slot, h.ctx.1, h.ctx.2, h.enabled, h.switches⟩
    obtain ⟨_, e⟩ := eval_of_gives switches
    exact exec_contextSwitch works boundary due quiet runs other e
  · obtain ⟨u, e⟩ : ∃ u, eval (mergeFlags l k) (⟨s, .refl⟩ : Good s) = (.ok (), u) := ⟨_, Prod.ext merges rfl⟩
    obtain ⟨t, next, done, idle⟩ := exec_contextDone hl regs ctxs found sound e
    exact ⟨t, next, done.finished, done.ended, idle, done.sregs, done.aregs, done.vregs, done.accs⟩

end
